-- ==== Sys2Proof/Word.lean ====
section
/-! DEFINITION. The word types of the machine and their plainest arithmetic (R6, R9). -/

namespace Sys2Proof

/-- One byte of memory. -/
abbrev Byte := BitVec 8

/-- A 32-bit word: a lane of a v register, an s register, a k mask, an instruction word. -/
abbrev Word := BitVec 32

/-- A 64-bit word: a register pair, a packet word, a class binding entry. -/
abbrev DWord := BitVec 64

/-- A program counter, 56 bits wide (R30). -/
abbrev Pc := BitVec 56

/-- One value for each of the 32 lanes of a group (R9). -/
abbrev Lanes := Vector Word 32

/-- The value `n` in every lane. -/
def Lanes.all (x : Word) : Lanes := Vector.ofFn fun _ => x

/-- Lane `l` of a lane vector. -/
def Lanes.get (x : Lanes) (l : Fin 32) : Word := x[l.val]'l.isLt

/-- The lane vector whose lane `l` is `f l`. -/
def Lanes.mk (f : Fin 32 → Word) : Lanes := Vector.ofFn f

/-- Bit `l` of a lane mask. -/
def maskBit (m : Word) (l : Fin 32) : Bool := m.getLsbD l.val

/-- The lanes of a group in ascending order. -/
def laneList : List (Fin 32) := List.ofFn (n := 32) id

/-- The mask whose bit `l` is `p l`. -/
def maskOf (p : Fin 32 → Bool) : Word :=
  laneList.foldl (fun m l => if p l then m ||| BitVec.ofNat 32 (2 ^ l.val) else m) 0#32

end Sys2Proof
end

