-- ==== Sys2Proof/Syntax.lean ====
section
/-! DEFINITION. The steps of the package: every row of the table of operations and events, the
encoded instructions with their decoded fields and the events of the device with what each names. -/

namespace Sys2Proof

/-- The form of an instruction, fixed by LEN (R30). -/
inductive Form where
  | b  -- base, 4 bytes
  | e  -- extended, 12 bytes
  | l  -- base and literal, 12 bytes
  | x  -- extended and literal, 20 bytes
  deriving DecidableEq, Repr

/-- The fields of the instruction words (R33 to R35). Fields that the form does not hold are zero. -/
structure Fields where
  /-- LEN -/
  form : Form
  /-- U: the scalar form -/
  u : Bool := false
  /-- B6: source B of a base form, EXT6 of forms E and X -/
  b6 : BitVec 6 := 0
  /-- source A -/
  a : BitVec 8 := 0
  /-- destination D -/
  d : BitVec 8 := 0
  /-- CS: C names an s register -/
  cs : Bool := false
  /-- BS: B names an s register, or an immediate -/
  bs : Bool := false
  /-- MOD3 -/
  mod3 : BitVec 3 := 0
  /-- FE: trap-if-empty bits for A, B and C -/
  fe : BitVec 3 := 0
  /-- SUB -/
  sub : BitVec 4 := 0
  /-- CLS -/
  cls : BitVec 4 := 0
  /-- source C -/
  c : BitVec 8 := 0
  /-- source B of forms E and X -/
  b : BitVec 8 := 0
  /-- word 2 -/
  w2 : Word := 0
  /-- the 64-bit literal of forms L and X -/
  lit : DWord := 0
  deriving DecidableEq, Repr

/-- A group, named by its launch, its block index, its number in the block (R7), and the run of its gang (R282; 1
without verify runs). -/
structure GRef where
  launch : Nat
  block : Nat
  group : Nat
  run : Nat := 1
  deriving DecidableEq, Repr

/-- A round of a communicator slot in one launch (R319). -/
structure RoundRef where
  launch : Nat
  comm : Nat
  slot : Nat
  tag : BitVec 16
  deriving DecidableEq, Repr

/-- What the packages of a communicator tell each other about a round (R166, R319, R320): a contribution has opened it, the root group
on package `pkg` collects it, a duplicate contribution was dropped, it has ended. -/
inductive RoundNotice where
  | opened
  | collect (pkg : Nat)
  | dup
  | ended
  deriving DecidableEq, Repr

/-- What arrives at a node of a communicator (R320, R321). -/
inductive NodeInput where
  /-- the contribution of the node's own position, accepted by a router of this package -/
  | own
  /-- the result of a child node of this package -/
  | child (node : Nat)
  /-- the contribution of the node's own position, from another package -/
  | remoteOwn (ident : DWord) (words : Lanes)
  /-- the result of a node of another package: rounded words, or the FX80 elements of an EXACT class with their special
  bits SP, SN, SQ; the flags of its steps, the positions it holds, and whether a duplicate or an input was dropped below it -/
  | remoteChild (node : Nat) (ident : DWord) (words : Lanes) (exact : List (BitVec 80 × BitVec 3)) (flags : BitVec 5)
      (posns : DWord) (dup aborted : Bool)
  /-- an input dropped in a drain round, or from a dead package: a child's, or the own one -/
  | dropped (child : Option Nat)
  /-- what another package tells about the round -/
  | notice (ident : DWord) (n : RoundNotice)
  deriving DecidableEq, Repr

/-- A packet as the queue processor read it from a ring (R289): its bytes, header included, and the
ring offset of its first byte. -/
structure Packet where
  bytes : List Byte
  pos : Nat
  /-- the SEQ the queue processor counts for it -/
  seq : Word
  deriving DecidableEq, Repr

/-- Why a gang is killed by an event of its own (R335, R336). -/
structure KillWhy where
  code : Nat
  source : Nat
  split : Nat := 0xFF
  addr : DWord := 0
  expect : Word := 0
  actual : Word := 0
  pc : Pc := 0
  /-- the block named in the record's header, if one (R336) -/
  block : Option Nat := none
  deriving DecidableEq, Repr

/-- Where an uncorrectable error of a core's state strikes (R326). -/
inductive PoolError where
  | scratch (launch run block offset : Nat)
  | vreg (g : GRef) (reg : BitVec 8) (word : Fin 16)
  | tile (launch run block tile word : Nat)
  | groupState (g : GRef)
  deriving DecidableEq, Repr

/-- A sector of device memory: one that frames hold, or one of the memory behind the stacks of a block (R213). -/
inductive SectorAt where
  | mem (sector : Nat)
  | stack (launch run block sector : Nat)
  deriving DecidableEq, Repr

/-- Where an uncorrectable error of a cache or a service structure strikes (R326). -/
inductive CacheError where
  | l1 (cluster core sector : Nat)
  /-- the instruction byte cache or the decoded-operation cache -/
  | icache (cluster : Nat)
  | l2Clean (x : SectorAt)
  | l2Dirty (x : SectorAt)
  | staging (launch block index : Nat)
  /-- the atomic service program and its reply slots on a die: the requests whose entries were lost, by group, operation and piece -/
  | atomicService (die : Nat) (lost : List (GRef × Nat × Nat))
  deriving DecidableEq, Repr

/-- Where an error was corrected (R326, R327): it is written back in place, and counted. -/
inductive CorrectedAt where
  | stack (n : Nat)
  | die (n : Nat)
  | pool (core : Nat)
  deriving DecidableEq, Repr

/-- What an access request from a peer or host asks for (R309). -/
inductive InKind where
  | load
  | store
  | atomic (op : BitVec 4) (typ : BitVec 3)
  | reduction (op : BitVec 4) (typ : BitVec 3)
  deriving DecidableEq, Repr

/-- What an access request names: a frame and a page offset (R309), or a virtual address (R232). -/
inductive InTarget where
  | frame (pframe off : Nat)
  | virt (va : BitVec 56)
  deriving DecidableEq, Repr

/-- An inbound access request (R232, R309). -/
structure Inbound where
  peer : Nat
  asid : BitVec 16
  target : InTarget
  kind : InKind
  /-- bytes read, or the length of the data -/
  size : Nat
  data : List Byte := []
  /-- the data carries a poison mark (R328) -/
  mark : Bool := false
  /-- the stook epoch at which it was injected (R313) -/
  epoch : BitVec 32 := 0
  deriving DecidableEq, Repr

/-- The answer to an outbound request (R309, R310). -/
inductive Reply where
  | done (data : List Byte)
  | nack (code : Nat)
  deriving DecidableEq, Repr

/-- An inbound scale-out transfer (R323). -/
structure ScoutInbound where
  rkey : DWord
  addr : DWord
  write : Bool
  size : Nat
  data : List Byte
  /-- the data carries a poison mark (R328) -/
  mark : Bool := false
  deriving DecidableEq, Repr

/-- A link-state update (R313): the ports and packages that it names, and whether this package declares them dead itself. -/
structure LinkUpdate where
  epoch : Word
  fenced : List Nat
  deadPackages : List Nat
  own : Bool := false
  deriving DecidableEq, Repr

/-- A firmware image offered to the flash (R340, R341). -/
structure FlashImage where
  number : Nat
  version : Nat
  rsaOk : Bool
  slhOk : Bool
  /-- T_REMOTE of its configuration in units of 50 µs (R312) -/
  tRemote : Nat := 10
  deriving DecidableEq, Repr, Inhabited

/-- What the stages of power-up find (R339). -/
structure PowerUpOutcome where
  failedStack : Option Nat      -- stage 1 or 2
  failedStage : Nat             -- 1 or 2 for a failed stack, 4 or 6 when that stage fails, else 0
  trained : List (Nat × Nat × Nat)  -- ports that reached ACTIVE, partner, partner's port
  position : Nat                -- the position learnt in training (R308)
  deriving DecidableEq, Repr

/-- A key slot of the scale-out engine (R323). -/
structure ScoutKey where
  slot : Nat
  rkey : DWord
  asid : BitVec 16
  base : Nat
  size : Nat
  rd : Bool
  wr : Bool
  deriving DecidableEq, Repr, Inhabited

/-- The requests of SPDM messages: the request codes that the part supports and its vendor-defined messages (R341, R343, R344, R347). -/
inductive SpdmRequest where
  | getVersion | getCapabilities | negotiateAlgorithms | getCertificate | keyExchange | finish | endSession
  | getEncapsulatedRequest | deliverEncapsulatedResponse
  | deviceReport | usageReport | setOwner | clusterPower | fabricIslandPower | powerLimit
  | recoveryCause | recoveryImage | reset | scaleOutKey
  /-- any other -/
  | other
  deriving DecidableEq, Repr, Inhabited

/-- The algorithms that a request may name (R343). -/
inductive SpdmAlg where
  | sha384 | secp384r1 | aes256gcm | rsassa3072
  /-- any other -/
  | other (n : Nat)
  deriving DecidableEq, Repr, Inhabited

/-- A management message as it stands in the receive buffer (R343, R344, R347): the source, the transfer, whether
it came in the secured session, the body, and the request with the arguments that it names. -/
structure Mgmt where
  src : Nat := 0
  xfer : Word := 0
  secured : Bool := false
  payload : List Byte := []
  request : SpdmRequest := .other
  /-- the algorithms that NEGOTIATE_ALGORITHMS offers -/
  offer : List SpdmAlg := []
  /-- the certificate slot of GET_CERTIFICATE and KEY_EXCHANGE -/
  slot : Nat := 0
  /-- KEY_EXCHANGE asks for mutual authentication -/
  mutualAuth : Bool := false
  /-- FINISH carries a valid HMAC -/
  authentic : Bool := false
  /-- the root hash of the chain that DELIVER_ENCAPSULATED_RESPONSE proves, or that SET_OWNER names -/
  root : BitVec 384 := 0
  /-- the nonce of a report request -/
  nonce : BitVec 256 := 0
  /-- the cluster of CLUSTER_POWER, the island of FABRIC_ISLAND_POWER -/
  index : Nat := 0
  on : Bool := false
  watts : Nat := 0
  image : FlashImage := { number := 0, version := 0, rsaOk := false, slhOk := false }
  /-- the key of a scale-out key message -/
  key : ScoutKey := default
  deriving DecidableEq, Repr, Inhabited

/-- The message asks for no more than the part supports (R343): a request of the list, the four algorithms, slot 0. -/
def Mgmt.supported (m : Mgmt) : Bool :=
  match m.request with
  | .other => false
  | .negotiateAlgorithms => [SpdmAlg.sha384, .secp384r1, .aes256gcm, .rsassa3072].all m.offer.contains
  | .getCertificate | .keyExchange => decide (m.slot = 0)
  | _ => true

/-- What the message asks for; anything more than the part supports is `other` (R343). -/
def Mgmt.asks (m : Mgmt) : SpdmRequest := if m.supported then m.request else .other

/-- Why an encoding is not legal (R49). -/
inductive Reason where
  | form | ubit | rsvd | subc | modc | extc | kind | lith | immp
  deriving DecidableEq, Repr

/-- The reason code of R49. -/
def Reason.code : Reason → Nat
  | .form => 1 | .ubit => 2 | .rsvd => 3 | .subc => 4 | .modc => 5 | .extc => 6 | .kind => 7
  | .lith => 8 | .immp => 9

/-- The steps of the package, one constructor for each row of the table. -/
inductive Instr where
  /-- BRA (R75). -/
  | bra (f : Fields)
  /-- BRC (R77). -/
  | brc (f : Fields)
  /-- BRX (R75). -/
  | brx (f : Fields)
  /-- CALL (R75). -/
  | call (f : Fields)
  /-- CALLX (R75). -/
  | callx (f : Fields)
  /-- RET (R75). -/
  | ret (f : Fields)
  /-- JSET (R79). -/
  | jset (f : Fields)
  /-- JARV (R80). -/
  | jarv (f : Fields)
  /-- JQRY (R81). -/
  | jqry (f : Fields)
  /-- SPLQ (R82). -/
  | splq (f : Fields)
  /-- TRAP (R95). -/
  | trap (f : Fields)
  /-- TRET (R96). -/
  | tret (f : Fields)
  /-- TRET_NEXT (R96). -/
  | tretNext (f : Fields)
  /-- SIGCHK (R97). -/
  | sigchk (f : Fields)
  /-- SIGRD (R97). -/
  | sigrd (f : Fields)
  /-- KAND (R89). -/
  | kand (f : Fields)
  /-- KOR (R89). -/
  | kor (f : Fields)
  /-- KXOR (R89). -/
  | kxor (f : Fields)
  /-- KANDN (R89). -/
  | kandn (f : Fields)
  /-- KNOT (R89). -/
  | knot (f : Fields)
  /-- KMOV (R89). -/
  | kmov (f : Fields)
  /-- KPOPC (R89). -/
  | kpopc (f : Fields)
  /-- KFFS (R89). -/
  | kffs (f : Fields)
  /-- KVOTE (R89). -/
  | kvote (f : Fields)
  /-- KTOV (R89). -/
  | ktov (f : Fields)
  /-- IADD (R102). -/
  | iadd (f : Fields)
  /-- IADD_EXT (R102). -/
  | iaddExt (f : Fields)
  /-- ISUB (R102). -/
  | isub (f : Fields)
  /-- ISUB_EXT (R102). -/
  | isubExt (f : Fields)
  /-- IADD3 (R102). -/
  | iadd3 (f : Fields)
  /-- IMUL (R102). -/
  | imul (f : Fields)
  /-- IMUL_EXT (R102). -/
  | imulExt (f : Fields)
  /-- IMULH (R102). -/
  | imulh (f : Fields)
  /-- IMULH_EXT (R102). -/
  | imulhExt (f : Fields)
  /-- IMAD (R102). -/
  | imad (f : Fields)
  /-- IMIN (R102). -/
  | imin (f : Fields)
  /-- IMIN_EXT (R102). -/
  | iminExt (f : Fields)
  /-- IMAX (R102). -/
  | imax (f : Fields)
  /-- IMAX_EXT (R102). -/
  | imaxExt (f : Fields)
  /-- AND (R102). -/
  | and (f : Fields)
  /-- AND_EXT (R102). -/
  | andExt (f : Fields)
  /-- OR (R102). -/
  | or (f : Fields)
  /-- OR_EXT (R102). -/
  | orExt (f : Fields)
  /-- XOR (R102). -/
  | xor (f : Fields)
  /-- XOR_EXT (R102). -/
  | xorExt (f : Fields)
  /-- ANDN (R102). -/
  | andn (f : Fields)
  /-- ANDN_EXT (R102). -/
  | andnExt (f : Fields)
  /-- SHL (R104). -/
  | shl (f : Fields)
  /-- SHL_EXT (R104). -/
  | shlExt (f : Fields)
  /-- SHR (R104). -/
  | shr (f : Fields)
  /-- SHR_EXT (R104). -/
  | shrExt (f : Fields)
  /-- SAR (R104). -/
  | sar (f : Fields)
  /-- SAR_EXT (R104). -/
  | sarExt (f : Fields)
  /-- ROTL (R104). -/
  | rotl (f : Fields)
  /-- ROTL_EXT (R104). -/
  | rotlExt (f : Fields)
  /-- BFX (R105). -/
  | bfx (f : Fields)
  /-- BFI (R105). -/
  | bfi (f : Fields)
  /-- NOT (R102). -/
  | not (f : Fields)
  /-- NOT_EXT (R102). -/
  | notExt (f : Fields)
  /-- IABS (R103). -/
  | iabs (f : Fields)
  /-- INEG (R103). -/
  | ineg (f : Fields)
  /-- POPC (R103). -/
  | popc (f : Fields)
  /-- CLZ (R103). -/
  | clz (f : Fields)
  /-- CTZ (R103). -/
  | ctz (f : Fields)
  /-- BREV (R103). -/
  | brev (f : Fields)
  /-- ICMP (R106). -/
  | icmp (f : Fields)
  /-- ISEL (R106). -/
  | isel (f : Fields)
  /-- MOV (R107). -/
  | mov (f : Fields)
  /-- MOV_EXT (R107). -/
  | movExt (f : Fields)
  /-- MOVI (R107). -/
  | movi (f : Fields)
  /-- MOVL (R107). -/
  | movl (f : Fields)
  /-- LEA (R108). -/
  | lea (f : Fields)
  /-- SHFL (R111). -/
  | shfl (f : Fields)
  /-- BCAST (R111). -/
  | bcast (f : Fields)
  /-- IRED (R112). -/
  | ired (f : Fields)
  /-- IPSUM (R112). -/
  | ipsum (f : Fields)
  /-- BMIX (R109). -/
  | bmix (f : Fields)
  /-- FADD (R117). -/
  | fadd (f : Fields)
  /-- FADD_EXT (R117). -/
  | faddExt (f : Fields)
  /-- FSUB (R117). -/
  | fsub (f : Fields)
  /-- FSUB_EXT (R117). -/
  | fsubExt (f : Fields)
  /-- FMUL (R117). -/
  | fmul (f : Fields)
  /-- FMUL_EXT (R117). -/
  | fmulExt (f : Fields)
  /-- FFMA (R117). -/
  | ffma (f : Fields)
  /-- FMIN (R118). -/
  | fmin (f : Fields)
  /-- FMIN_EXT (R118). -/
  | fminExt (f : Fields)
  /-- FMAX (R118). -/
  | fmax (f : Fields)
  /-- FMAX_EXT (R118). -/
  | fmaxExt (f : Fields)
  /-- FCMP (R119). -/
  | fcmp (f : Fields)
  /-- FRCP (R120). -/
  | frcp (f : Fields)
  /-- FRCP_EXT (R120). -/
  | frcpExt (f : Fields)
  /-- FRSQ (R120). -/
  | frsq (f : Fields)
  /-- FRSQ_EXT (R120). -/
  | frsqExt (f : Fields)
  /-- FSQRT (R120). -/
  | fsqrt (f : Fields)
  /-- FSQRT_EXT (R120). -/
  | fsqrtExt (f : Fields)
  /-- FEXP2 (R120). -/
  | fexp2 (f : Fields)
  /-- FEXP2_EXT (R120). -/
  | fexp2Ext (f : Fields)
  /-- FLOG2 (R120). -/
  | flog2 (f : Fields)
  /-- FLOG2_EXT (R120). -/
  | flog2Ext (f : Fields)
  /-- FSINP (R120). -/
  | fsinp (f : Fields)
  /-- FSINP_EXT (R120). -/
  | fsinpExt (f : Fields)
  /-- FCOSP (R120). -/
  | fcosp (f : Fields)
  /-- FCOSP_EXT (R120). -/
  | fcospExt (f : Fields)
  /-- FRINT (R121). -/
  | frint (f : Fields)
  /-- FRINT_EXT (R121). -/
  | frintExt (f : Fields)
  /-- FCLASS (R122). -/
  | fclass (f : Fields)
  /-- FCLASS_EXT (R122). -/
  | fclassExt (f : Fields)
  /-- FCVT (R123). -/
  | fcvt (f : Fields)
  /-- FPACK (R124). -/
  | fpack (f : Fields)
  /-- FUNPK (R124). -/
  | funpk (f : Fields)
  /-- CADD (R129). -/
  | cadd (f : Fields)
  /-- CSUB (R129). -/
  | csub (f : Fields)
  /-- CMUL (R129). -/
  | cmul (f : Fields)
  /-- CFMA (R129). -/
  | cfma (f : Fields)
  /-- CMIN (R129). -/
  | cmin (f : Fields)
  /-- CMAX (R129). -/
  | cmax (f : Fields)
  /-- CCVT (R130). -/
  | ccvt (f : Fields)
  /-- CRED (R131). -/
  | cred (f : Fields)
  /-- CQNT (R132). -/
  | cqnt (f : Fields)
  /-- CDQ (R133). -/
  | cdq (f : Fields)
  /-- CCHK (R134). -/
  | cchk (f : Fields)
  /-- CLEA (R135). -/
  | clea (f : Fields)
  /-- LD (R140). -/
  | ld (f : Fields)
  /-- LOAD_SECTOR_ARRIVAL (R140). -/
  | loadSectorArrival (g : GRef) (op sector : Nat)
  /-- ST (R141). -/
  | st (f : Fields)
  /-- CLD (R143). -/
  | cld (f : Fields)
  /-- CST (R143). -/
  | cst (f : Fields)
  /-- ATOM (R146). -/
  | atom (f : Fields)
  /-- RED (R147). -/
  | red (f : Fields)
  /-- FENCE (R149). -/
  | fence (f : Fields)
  /-- FENCE_EXT (R149). -/
  | fenceExt (f : Fields)
  /-- CPASYNC (R151). -/
  | cpasync (f : Fields)
  /-- COPY_PIECE_WRITTEN (R163). -/
  | copyPieceWritten (g : GRef) (op piece : Nat)
  /-- COPY_RETIRE (R151). -/
  | copyRetire (g : GRef)
  /-- GATHER (R152). -/
  | gather (f : Fields)
  /-- GATHER_RETIRE (R152). -/
  | gatherRetire (g : GRef)
  /-- PREF (R154). -/
  | pref (f : Fields)
  /-- WAITCNT (R153). -/
  | waitcnt (f : Fields)
  /-- CNTRD (R153). -/
  | cntrd (f : Fields)
  /-- REMOTE_STORE_FAILURE (R150). -/
  | remoteStoreFailure (g : GRef) (op : Nat) (nack : Nat)
  /-- BAR (R159). -/
  | bar (f : Fields)
  /-- BARARV (R159). -/
  | bararv (f : Fields)
  /-- BARWT (R159). -/
  | barwt (f : Fields)
  /-- TBINIT (R163). -/
  | tbinit (f : Fields)
  /-- TBEXP (R163). -/
  | tbexp (f : Fields)
  /-- TBARV (R163). -/
  | tbarv (f : Fields)
  /-- TBWAIT (R163). -/
  | tbwait (f : Fields)
  /-- CRPUT (R165). -/
  | crput (f : Fields)
  /-- CONTRIBUTION_ACCEPTED (R165). -/
  | contributionAccepted (g : GRef)
  /-- CRGET (R166). -/
  | crget (f : Fields)
  /-- CRGET_RETIRE (R166). -/
  | crgetRetire (g : GRef)
  /-- NODE_INPUT_ARRIVAL (R320). -/
  | nodeInputArrival (r : RoundRef) (node : Nat) (input : NodeInput)
  /-- ROUTER_TIMEOUT (R320). -/
  | routerTimeout (r : RoundRef)
  /-- ROUND_CLOSE (R320). -/
  | roundClose (r : RoundRef) (node : Nat)
  /-- RNGC (R168). -/
  | rngc (f : Fields)
  /-- SRSEED (R169). -/
  | srseed (f : Fields)
  /-- CAPRD (R172). -/
  | caprd (f : Fields)
  /-- MFS (R170). -/
  | mfs (f : Fields)
  /-- MTS (R170). -/
  | mts (f : Fields)
  /-- MTS_EXEC (R76). -/
  | mtsExec (f : Fields)
  /-- LAUNCH (R173). -/
  | launch (f : Fields)
  /-- MBEG (R182). -/
  | mbeg (f : Fields)
  /-- MEND (R182). -/
  | mend (f : Fields)
  /-- MMA (R180). -/
  | mma (f : Fields)
  /-- MMA_UNFOLD (R184). -/
  | mmaUnfold (f : Fields)
  /-- MATRIX_RETIRE (R177). -/
  | matrixRetire (g : GRef)
  /-- MUNF (R183). -/
  | munf (f : Fields)
  /-- MZERO (R185). -/
  | mzero (f : Fields)
  /-- MDRN (R186). -/
  | mdrn (f : Fields)
  /-- MDRN_SCRATCH (R186). -/
  | mdrnScratch (f : Fields)
  /-- MLDA (R187). -/
  | mlda (f : Fields)
  /-- MQNT (R188). -/
  | mqnt (f : Fields)
  /-- MSTAT (R189). -/
  | mstat (f : Fields)
  /-- SPLIT_SWAP (R78). -/
  | splitSwap (g : GRef)
  /-- JOIN_WATCHDOG_RELEASE (R86). -/
  | joinWatchdogRelease (g : GRef) (slot : Fin 8)
  /-- JOIN_WATCHDOG_TRAP (R87). -/
  | joinWatchdogTrap (g : GRef) (slot : Fin 8)
  /-- GROUP_PROMOTE (R268). -/
  | groupPromote (g : GRef)
  /-- QP_PASS (R291). -/
  | qpPass (pass : Nat)
  /-- WIDX_WRITE (R288). -/
  | widxWrite (q : Nat) (widx : DWord)
  /-- ANSWER_RESUME (R301). -/
  | answerResume (q : Nat) (ticket : Word)
  /-- ANSWER_SKIP (R301). -/
  | answerSkip (q : Nat) (ticket : Word)
  /-- ANSWER_ABORT (R301). -/
  | answerAbort (q : Nat) (ticket : Word)
  /-- PKT_NOP (R294). -/
  | pktNop (q : Nat) (p : Packet)
  /-- TIMESTAMP (R294). -/
  | timestamp (q : Nat) (p : Packet)
  /-- SIGNAL_WRITE (R294). -/
  | signalWrite (q : Nat) (p : Packet)
  /-- SIGNAL_WAIT (R294). -/
  | signalWait (q : Nat) (p : Packet)
  /-- SIGNAL_WAIT_TIMEOUT (R294). -/
  | signalWaitTimeout (q : Nat) (p : Packet)
  /-- LAUNCH_IMAGE (R298). -/
  | launchImage (q : Nat) (p : Packet)
  /-- LAUNCH_COMPLETE (R294). -/
  | launchComplete (launch : Nat)
  /-- COPY (R294). -/
  | copy (q : Nat) (p : Packet)
  /-- BIND (R254). -/
  | bind (q : Nat) (p : Packet)
  /-- SCOUT (R322). -/
  | scout (q : Nat) (p : Packet)
  /-- SCOUT_TRANSPORT_TIMEOUT (R323). -/
  | scoutTransportTimeout (transfer : Nat)
  /-- SCOUT_INBOUND (R323). -/
  | scoutInbound (x : ScoutInbound)
  /-- CONFIG_QUEUE (R294). -/
  | configQueue (q : Nat) (p : Packet)
  /-- CONFIG_TENANT (R294). -/
  | configTenant (q : Nat) (p : Packet)
  /-- CONFIG_ASID (R294). -/
  | configAsid (q : Nat) (p : Packet)
  /-- CONFIG_MAP (R294). -/
  | configMap (q : Nat) (p : Packet)
  /-- CONFIG_UNMAP (R294). -/
  | configUnmap (q : Nat) (p : Packet)
  /-- CONFIG_POOL_GIVE (R294). -/
  | configPoolGive (q : Nat) (p : Packet)
  /-- CONFIG_POOL_TAKE (R294). -/
  | configPoolTake (q : Nat) (p : Packet)
  /-- CONFIG_EVICT (R294). -/
  | configEvict (q : Nat) (p : Packet)
  /-- CONFIG_RETIRE_REQUEST (R233). -/
  | configRetireRequest (q : Nat) (p : Packet)
  /-- CONFIG_RETIRE_INTERVAL (R238). -/
  | configRetireInterval (q : Nat) (p : Packet)
  /-- CONFIG_RETIRE_DROP (R235). -/
  | configRetireDrop (q : Nat) (p : Packet)
  /-- CONFIG_PORT_REINSTATE (R307). -/
  | configPortReinstate (q : Nat) (p : Packet)
  /-- CONFIG_PORT_DISABLE (R294). -/
  | configPortDisable (q : Nat) (p : Packet)
  /-- CONFIG_PORT_ENABLE (R294). -/
  | configPortEnable (q : Nat) (p : Packet)
  /-- CONFIG_SCOUT_LOCAL (R323). -/
  | configScoutLocal (q : Nat) (p : Packet)
  /-- CONFIG_SCOUT_KEY (R323). -/
  | configScoutKey (q : Nat) (p : Packet)
  /-- CONFIG_SCOUT_TIMEOUT (R323). -/
  | configScoutTimeout (q : Nat) (p : Packet)
  /-- BATCH_GRANT (R264). -/
  | batchGrant (launch die : Nat)
  /-- GANG_PLACE (R265). -/
  | gangPlace (launch gang : Nat)
  /-- GANG_COMPLETE (R264). -/
  | gangComplete (launch gang : Nat)
  /-- HEARTBEAT_MISS (R266). -/
  | heartbeatMiss (die : Nat)
  /-- RECALL (R273). -/
  | recall (tenant : Nat)
  /-- GRID_BARRIER_PREEMPT (R161). -/
  | gridBarrierPreempt (launch gang : Nat)
  /-- GANG_RESUME (R298). -/
  | gangResume (launch gang : Nat)
  /-- WALL_TIME_EXPIRY (R337). -/
  | wallTimeExpiry (launch : Nat)
  /-- TICKET_ADVANCE (R279). -/
  | ticketAdvance (launch : Nat)
  /-- VERIFY_VERDICT (R283). -/
  | verifyVerdict (launch gang : Nat)
  /-- GANG_KILL (R330). -/
  | gangKill (launch gang : Nat) (why : KillWhy)
  /-- GANG_REPLAY (R331). -/
  | gangReplay (launch gang : Nat)
  /-- POOL_WORD_ERROR (R326). -/
  | poolWordError (e : PoolError)
  /-- HBM_SECTOR_ERROR (R327). -/
  | hbmSectorError (x : SectorAt)
  /-- HBM_SCRUB (R327). -/
  | hbmScrub (stack : Nat)
  /-- ANNOUNCE (R233). -/
  | announce (stack : Nat)
  /-- STACK_DEATH (R242). -/
  | stackDeath (stack : Nat)
  /-- SECOND_STACK_DEATH (R243). -/
  | secondStackDeath (stack : Nat)
  /-- INBOUND_ACCESS (R309). -/
  | inboundAccess (x : Inbound)
  /-- REMOTE_REPLY (R309). -/
  | remoteReply (req : Nat) (r : Reply)
  /-- T_REMOTE_EXPIRY (R312). -/
  | tRemoteExpiry (req : Nat)
  /-- PORT_FENCE (R307). -/
  | portFence (port : Nat)
  /-- PORT_TRAIN_RETRY (R307). -/
  | portTrainRetry (port : Nat)
  /-- LINK_STATE_UPDATE (R313). -/
  | linkStateUpdate (u : LinkUpdate)
  /-- POWER_LIMIT_EXCEEDED (R348). -/
  | powerLimitExceeded (duty : Nat)
  /-- ILLEGAL_OPCODE (R48). -/
  | illegalOpcode (ws : List Word)
  /-- ILLEGAL_FORM (R41). -/
  | illegalForm (ws : List Word) (reason : Reason)
  /-- STORE_PERFORMED (R139). -/
  | storePerformed (g : GRef) (op piece : Nat)
  /-- PACKET_COMPLETION (R290). -/
  | packetCompletion (q : Nat) (id : Nat)
  /-- PORT_TRAINING_COMPLETE (R307). -/
  | portTrainingComplete (port partner pport : Nat)
  /-- UNCORRECTABLE_ERROR (R326). -/
  | uncorrectableError (e : CacheError)
  /-- FYDB_STEP (R98). -/
  | fydbStep (g : GRef) (all : Bool)
  /-- FYDB_CONTINUE (R98). -/
  | fydbContinue (g : GRef)
  /-- NOP (R75). -/
  | nop
  /-- EXIT (R83). -/
  | exit
  /-- YIELD (R84). -/
  | yield
  /-- BKPT (R95). -/
  | bkpt
  /-- CODESYNC (R156). -/
  | codesync
  /-- PERIOD_START (R272). -/
  | periodStart
  /-- VACATE_BATCH (R234). -/
  | vacateBatch
  /-- SWEEP_REGION (R238). -/
  | sweepRegion
  /-- DRAIN_ROUND_END (R313). -/
  | drainRoundEnd
  /-- POWER_UP (R339). -/
  | powerUp
  /-- GET_VERSION (R343). -/
  | getVersion
  /-- GET_CAPABILITIES (R343). -/
  | getCapabilities
  /-- NEGOTIATE_ALGORITHMS (R343). -/
  | negotiateAlgorithms
  /-- GET_CERTIFICATE (R343). -/
  | getCertificate
  /-- KEY_EXCHANGE (R344). -/
  | keyExchange
  /-- FINISH (R344). -/
  | finish
  /-- END_SESSION (R343). -/
  | endSession
  /-- GET_ENCAPSULATED_REQUEST (R344). -/
  | getEncapsulatedRequest
  /-- DELIVER_ENCAPSULATED_RESPONSE (R344). -/
  | deliverEncapsulatedResponse
  /-- DEVICE_REPORT (R343). -/
  | deviceReport
  /-- USAGE_REPORT (R345). -/
  | usageReport
  /-- SET_OWNER (R344). -/
  | setOwner
  /-- CLUSTER_POWER (R347). -/
  | clusterPower
  /-- FABRIC_ISLAND_POWER (R347). -/
  | fabricIslandPower
  /-- POWER_LIMIT (R347). -/
  | powerLimit
  /-- RECOVERY_IMAGE (R341). -/
  | recoveryImage
  /-- RESET (R341). -/
  | reset
  /-- UNSUPPORTED_REQUEST (R343). -/
  | unsupportedRequest
  deriving DecidableEq, Repr

end Sys2Proof
end

