-- ==== Sys2Proof/Config.lean ====
section
/-! DEFINITION. What a part fixes (R2 to R4) and the free values: constants without a body, for
what the manual leaves open. -/

namespace Sys2Proof

/-- The three parts of the generation (R1). -/
inductive Part where
  | p4180 | p4160 | p4140
  deriving DecidableEq, Repr

/-- What the two attestation key pairs are derived from, and so stand for (R342): the device secret and the image hash. -/
structure AttestKey where
  secret : List Byte
  image : BitVec 384
  deriving DecidableEq, Repr, Inhabited

namespace Config

/-- `$cap0` of each part (R4). -/
def cap0 : Part → Word
  | .p4180 => 0x010140C0#32
  | .p4160 => 0x01024040#32
  | .p4140 => 0x01032000#32

/-- `$cap1` of each part (R4). -/
def cap1 : Part → Word
  | .p4180 => 0x0C904000#32
  | .p4160 => 0x0C604000#32
  | .p4140 => 0x06482000#32

/-- Compute dies (R2). -/
def dies : Part → Nat
  | .p4180 => 4 | .p4160 => 4 | .p4140 => 2

/-- Clusters of four cores each (R2). -/
def clusters : Part → Nat
  | .p4180 => 64 | .p4160 => 64 | .p4140 => 32

/-- Clusters on one die: 16 on every part (R2, R314). -/
def clustersPerDie : Nat := 16

/-- HBM5 stacks fitted (R2). -/
def stackCount : Part → Nat
  | .p4180 => 12 | .p4160 => 12 | .p4140 => 6

/-- Stook fabric ports enabled (R2). -/
def ports : Part → Nat
  | .p4180 => 144 | .p4160 => 96 | .p4140 => 72

/-- The scale-out engine is present (R2, R3). -/
def hasScout : Part → Bool
  | .p4180 => true | .p4160 => false | .p4140 => false

/-- The convolution-unfolding unit is present (R2, R3). -/
def hasUnfold : Part → Bool
  | .p4180 => true | .p4160 => true | .p4140 => false

/-- Frames of device memory that the part starts with (R2, R227). -/
def frames : Part → Nat
  | .p4180 => 0x1200000 | .p4160 => 0x1200000 | .p4140 => 0x0900000

/-- Frames of one stack: 96 GiB (R233). -/
def stackFrames : Nat := 1572864

/-- Largest package power in watts (R2, R347). -/
def maxPower : Part → Nat
  | .p4180 => 2800 | .p4160 => 2500 | .p4140 => 1400

/-- Frames of the three firmware tables (R222). -/
def tableFrames : Part → Nat
  | .p4180 => 6672 | .p4160 => 6672 | .p4140 => 4368

/-- FREE VALUE (R222): frames that firmware image number `n` and its save areas hold beyond the tables. The bound leaves every part
frames of its own (log 6). -/
opaque firmwareExtraFrames : Nat → BitVec 23

/-- The count of firmware-held frames of a part that runs an image (R222): at least the frames of the tables. -/
def firmwareFrames (p : Part) (image : Nat) : Nat := tableFrames p + (firmwareExtraFrames image).toNat

/-- FREE VALUE (R16): the supervisor trap vector, which the firmware sets. -/
opaque stvec : Pc

/-- FREE VALUE: a choice the manual leaves open, drawn fresh for each number. -/
opaque freeBool : Nat → Bool

/-- FREE VALUE: a byte the manual leaves open, drawn fresh for each number. -/
opaque freeByte : Nat → Byte

/-- FREE VALUE: a word the manual leaves open, drawn fresh for each number. -/
opaque freeWord : Nat → Word

/-- FREE VALUE (R213): what byte `off` of the stacks of a block held when its launch began; a launch, a run and a block each
have memory of their own. -/
opaque stackByte (launch run block off : Nat) : Byte

/-- FREE VALUE (R213, R336): the physical address of byte `off` of the stacks of a block. -/
opaque stackAddr (launch run block off : Nat) : DWord

/-- FREE VALUE (R336): the physical address of a 64-bit word of a core's pool: word `n` of v registers (0), of the scratchpad (1) or of
tile storage (2) of a launch's run and block or, for registers, group. -/
opaque poolAddr (part launch run owner n : Nat) : DWord

/-- FREE VALUE (R282): the CODE of the KIND 7 record of a launch whose spill area filled. -/
opaque spillFullCode : BitVec 16

/-- FREE VALUE (R256): the firmware binder version. -/
opaque binderVersion : Word

/-- FREE VALUE (R343): the SHA-384 hash of the firmware image that was accepted as number `n`. -/
opaque firmwareHash : Nat → BitVec 384

/-- FREE VALUE (R342): the fused device secret. -/
opaque deviceSecret : List Byte

/-- FREE VALUE (R342, R343): the RSA-3072 signature over bytes, under a derived key. -/
opaque rsaSign : AttestKey → List Byte → BitVec 3072

/-- FREE VALUE (R342, R343): the SLH-DSA signature over bytes, under a derived key. -/
opaque slhSign : AttestKey → List Byte → BitVec 129792

/-- FREE VALUE (R343, R344): an SPDM answer whose bytes the manual leaves to SPDM 1.3, of a kind, to a request, signed where SPDM has
it signed, with the key that the package has. -/
opaque spdmBody : Option AttestKey → Nat → List Byte → List Byte

/-- FREE VALUE (R341): the message that gives the recovery cause, of a stage and a failed stack. -/
opaque recoveryBody : Nat → Option Nat → List Byte

/-- FREE VALUE (R343, R344): what SPDM 1.3 makes of the bytes of a message. -/
opaque spdmParse : List Byte → Mgmt

/-- FREE VALUE (R344): what DSP0277 and SPDM 1.3 make of the bytes of a secured message, drawn fresh for each number. -/
opaque spdmOpen : Nat → List Byte → Mgmt

/-- FREE VALUE (R343): what stands before a report in a VENDOR_DEFINED_RESPONSE. -/
opaque vendorHead : List Byte

/-- FREE VALUE (R344): a message as a DSP0277 secured message, drawn fresh for each number. -/
opaque sealed : Nat → List Byte → List Byte

/-- FREE VALUE (R343): the field of a device report that names the retired stacks. -/
opaque retiredField : List Nat → DWord

end Config
end Sys2Proof
end

