-- ==== Sys2Proof/Decode.lean ====
section
/-! DEFINITION. The decoder (R30 to R49) and, after it, the encoder. The decoder is total on words:
a reserved OP gives `illegalOpcode`, an OP in a form, U value or field pattern that the opcode map does
not allow gives `illegalForm` with the lowest reason code, and too few words give a named error. -/

namespace Sys2Proof

/-! ## Form and codes -/

/-- LEN of a form (R30). -/
def Form.len : Form → BitVec 2
  | .b => 0 | .e => 1 | .l => 2 | .x => 3

/-- The form that LEN fixes (R30). -/
def Form.ofLen (n : BitVec 2) : Form :=
  if n = 0 then .b else if n = 1 then .e else if n = 2 then .l else .x

/-- Words of a form (R30). -/
def Form.words : Form → Nat
  | .b => 1 | .e => 3 | .l => 3 | .x => 5

/-- Length in bytes (R30). -/
def Form.bytes (fm : Form) : Nat := 4 * fm.words

/-- An integer type (R42): its width and whether it is signed. -/
structure IntType where
  width : Nat
  signed : Bool
  deriving DecidableEq, Repr

/-- The type that MOD3 names (R42). -/
def IntType.ofCode (c : BitVec 3) : IntType :=
  match c.toNat with
  | 0 => ⟨32, true⟩ | 1 => ⟨8, true⟩ | 2 => ⟨16, true⟩ | 3 => ⟨64, true⟩
  | 4 => ⟨8, false⟩ | 5 => ⟨16, false⟩ | 6 => ⟨32, false⟩ | _ => ⟨64, false⟩

/-- The type takes register pairs (R42). -/
def IntType.wide (t : IntType) : Bool := t.width == 64

/-- A scope (R43). -/
inductive Scope where
  | grp | blk | gang | dev | sys
  deriving DecidableEq, Repr

/-- The scope of MOD3 codes 0 to 4; the reserved codes never reach an instruction (R41). -/
def Scope.ofCode (c : BitVec 3) : Scope :=
  match c.toNat with
  | 0 => .grp | 1 => .blk | 2 => .gang | 3 => .dev | _ => .sys

/-- `.gang` or wider. -/
def Scope.wide : Scope → Bool
  | .grp => false | .blk => false | _ => true

/-- A barrier level (R44). -/
inductive Level where
  | grp | blk | gang | grid
  deriving DecidableEq, Repr

/-- The level of MOD3 codes 0 to 3 (R44). -/
def Level.ofCode (c : BitVec 3) : Level :=
  match c.toNat with
  | 0 => .grp | 1 => .blk | 2 => .gang | _ => .grid

/-! ## The instruction words (R33 to R35) -/

/-- One bit as a Bool. -/
def bitOf (w : Word) (i : Nat) : Bool := w.getLsbD i

/-- OP of a base word (R33). -/
def opOf (w0 : Word) : BitVec 7 := w0.extractLsb' 2 7

/-- The form of a base word (R30). -/
def formOf (w0 : Word) : Form := Form.ofLen (w0.extractLsb' 0 2)

/-- The fields of the words of an instruction; words that the form lacks are read as zero. -/
def fieldsOf (w0 w1 w2 : Word) (lit : DWord) : Fields :=
  { form := formOf w0
    u := bitOf w0 31
    b6 := w0.extractLsb' 25 6
    a := w0.extractLsb' 17 8
    d := w0.extractLsb' 9 8
    cs := bitOf w1 31
    bs := bitOf w1 30
    mod3 := w1.extractLsb' 27 3
    fe := w1.extractLsb' 24 3
    sub := w1.extractLsb' 20 4
    cls := w1.extractLsb' 16 4
    c := w1.extractLsb' 8 8
    b := w1.extractLsb' 0 8
    w2 := w2
    lit := lit }

/-- The literal: low word first (R30). -/
def litOf (lo hi : Word) : DWord := hi ++ lo

/-- The fields of an instruction that begins at the head of a word list; `none` when words lack. -/
def parseWords : List Word → Option (BitVec 7 × Fields)
  | [] => none
  | w0 :: rest =>
    match formOf w0, rest with
    | .b, _ => some (opOf w0, fieldsOf w0 0 0 0)
    | .e, w1 :: w2 :: _ => some (opOf w0, fieldsOf w0 w1 w2 0)
    | .l, lo :: hi :: _ => some (opOf w0, fieldsOf w0 0 0 (litOf lo hi))
    | .x, w1 :: w2 :: lo :: hi :: _ => some (opOf w0, fieldsOf w0 w1 w2 (litOf lo hi))
    | _, _ => none

/-! ## The opcode map (R47) with the operand roles of the instruction chapters -/

/-- What an operand position names (R37). -/
inductive Kind where
  | none               -- unused: the field is zero
  | free               -- a number, or a field whose meaning depends on the class; not checked here
  | r (n : Nat)        -- `n` registers, v when U = 0 and s when U = 1
  | v (n : Nat)        -- `n` v registers
  | s (n : Nat)        -- `n` s registers
  | vs (n : Nat)       -- `n` registers, v or s by BS or CS
  | k                  -- mask register
  | ks                 -- mask register when U = 0, s register when U = 1
  | j                  -- join slot
  | tile               -- accumulator tile
  | cnt                -- counter code
  | off                -- per-lane offset of an address, 0xFF for none
  | quadOrUnf          -- A of MMA: an s quad, or 0xFF for the unfolding unit
  deriving DecidableEq, Repr

/-- Values of U that the map allows (R41). -/
inductive UKind where
  | zero | either | one
  deriving DecidableEq, Repr

/-- A row of the opcode map, for the fields of one instruction. -/
structure Row where
  forms : List Form
  u : UKind := .zero
  /-- SUB holds an allocated code -/
  subOk : Bool := true
  /-- MOD3 holds an allocated code -/
  modOk : Bool := true
  /-- EXT6 holds an allocated code -/
  extOk : Bool := true
  /-- CLS names a class -/
  cls : Bool := false
  /-- SUB names a class -/
  subCls : Bool := false
  d : Kind := .none
  a : Kind := .none
  b : Kind := .none
  c : Kind := .none
  /-- D is read as well as written, or is a source -/
  dSrc : Bool := false
  /-- A is a destination, not a source -/
  aDst : Bool := false
  /-- B may be an immediate in word 2 of form E -/
  immE : Bool := false
  /-- the immediate is a 64-bit operand -/
  wide : Bool := false
  /-- the instruction assigns word 2 a meaning of its own -/
  ownW2 : Bool := false
  /-- the reserved bits of an owned word 2 are zero -/
  w2Ok : Bool := true
  deriving DecidableEq, Repr

/-- SUB or MOD3 is at most `n`. -/
def codeLe {w : Nat} (x : BitVec w) (n : Nat) : Bool := x.toNat ≤ n

/-- A format in SUB (R45): FP32, BF16 pairs or FP16 pairs, with `.ftz` in SUB[3]. -/
def fmtOk (sub : BitVec 4) : Bool := (sub.extractLsb' 0 2).toNat ≤ 2 && !sub.getLsbD 2

/-- A branch distance is a multiple of 4 (R74). -/
def distOk (w2 : Word) : Bool := (w2.extractLsb' 0 2) = 0

/-- Registers that a type takes: one, or a pair (R42). -/
def typeRegs (f : Fields) : Nat := if (IntType.ofCode f.mod3).wide then 2 else 1

/-- Registers of a load or store size (R136). -/
def sizeRegs (sub : BitVec 4) : Nat := if sub = 5 then 2 else if sub = 6 then 4 else 1

/-- Registers of an ATOM or RED operand of the type in EXT6 (R136). -/
def extRegs (f : Fields) : Nat := if f.b6 = 3 ∨ f.b6 = 7 then 2 else 1

/-- EXT6 codes of ATOM and RED (R136). -/
def extTypeOk (f : Fields) : Bool :=
  if f.sub = 8 then f.b6 = 0 else f.b6 = 0 ∨ f.b6 = 3 ∨ f.b6 = 6 ∨ f.b6 = 7

/-- MOD3 is unallocated. -/
def noMod (f : Fields) : Bool := f.mod3 = 0

/-- SUB is unallocated. -/
def noSub (f : Fields) : Bool := f.sub = 0

/-- Two sources and a type: IADD and its like (R99). -/
def rowAlu2 (f : Fields) : Row :=
  { forms := [.b, .e, .l, .x], u := .either, subOk := noSub f, d := .r (typeRegs f), a := .r (typeRegs f),
    b := .vs (typeRegs f), immE := true, wide := (IntType.ofCode f.mod3).wide }

/-- A shift: the amount is one 32-bit register or immediate (R104). -/
def rowShift (f : Fields) : Row := { rowAlu2 f with b := .vs 1, wide := false }

/-- Three sources and a type (R99). -/
def rowAlu3 (f : Fields) : Row := { rowAlu2 f with forms := [.e, .x], c := .vs (typeRegs f) }

/-- A bit field: position and length are 32-bit registers (R105). -/
def rowField (f : Fields) (ins : Bool) : Row :=
  { rowAlu2 f with forms := [.e, .x], b := .vs 1, c := .vs 1, wide := false, dSrc := ins }

/-- Floating, two sources (R113). -/
def rowFp2 (f : Fields) : Row :=
  { forms := [.b, .e], u := .either, subOk := fmtOk f.sub, modOk := codeLe f.mod3 3, d := .r 1, a := .r 1,
    b := .vs 1, immE := true }

/-- Floating, one source (R113). -/
def rowFp1 (f : Fields) : Row :=
  { forms := [.b, .e], u := .either, subOk := fmtOk f.sub, modOk := noMod f, d := .r 1, a := .r 1 }

/-- Class arithmetic, two sources (R125). -/
def rowCls2 (f : Fields) : Row :=
  { forms := [.e], u := .either, subOk := noSub f, modOk := noMod f, cls := true, d := .r 1, a := .r 1,
    b := .vs 1, immE := true }

/-- A memory instruction with an address operand (R136). -/
def rowMem (f : Fields) : Row :=
  { forms := [.e, .x], u := .either, modOk := codeLe f.mod3 4, a := .off, b := .s 2, ownW2 := true, wide := true }

/-- The opcode map (R47): the row of an OP, none when OP is reserved. -/
def rowOf (op : BitVec 7) (f : Fields) : Option Row :=
  match op.toNat with
  -- control, splits, masks and traps (R73)
  | 0x00 => some { forms := [.b] }
  | 0x01 => some { forms := [.e], subOk := noSub f, modOk := noMod f, ownW2 := true, w2Ok := distOk f.w2 }
  | 0x02 => some { forms := [.e], subOk := noSub f, modOk := noMod f, a := .k, ownW2 := true, w2Ok := distOk f.w2 }
  | 0x03 => some { forms := [.b], a := .s 2 }
  | 0x04 => some { forms := [.e], subOk := noSub f, modOk := noMod f, d := .s 2, ownW2 := true, w2Ok := distOk f.w2 }
  | 0x05 => some { forms := [.b], d := .s 2, a := .s 2 }
  | 0x06 => some { forms := [.b], a := .s 2 }
  | 0x07 => some { forms := [.b] }
  | 0x08 => some { forms := [.e], subOk := noSub f, modOk := noMod f, d := .j, a := .k, ownW2 := true,
                   w2Ok := distOk f.w2 }
  | 0x09 => some { forms := [.b], d := .j }
  | 0x0A => some { forms := [.b], d := .s 1, a := .j }
  | 0x0B => some { forms := [.e], subOk := noSub f, modOk := noMod f, d := .s 1, ownW2 := true }
  | 0x0C => some { forms := [.b] }
  | 0x0D => some { forms := [.e], subOk := noSub f, modOk := noMod f, ownW2 := true }
  | 0x0E => some { forms := [.b, .e], subOk := codeLe f.sub 1, modOk := noMod f }
  | 0x0F => some { forms := [.b] }
  | 0x10 => some { forms := [.e], subOk := noSub f, modOk := noMod f, ownW2 := true }
  | 0x11 => some { forms := [.b], d := .s 1 }
  | 0x12 => some { forms := [.e], subOk := codeLe f.sub 5, modOk := noMod f, d := .k, a := .k,
                   b := if f.sub.toNat = 4 ∨ f.sub.toNat = 5 then .none else .k }
  | 0x13 => some { forms := [.e], subOk := codeLe f.sub 3, modOk := noMod f,
                   d := if f.sub.toNat ≤ 1 then .s 1 else if f.sub = 2 then .k else .v 1,
                   a := if f.sub = 2 then .v 1 else .k }
  -- integer, logic, address and lane movement (R99)
  | 0x14 => some (rowAlu2 f) | 0x15 => some (rowAlu2 f) | 0x16 => some (rowAlu3 f)
  | 0x17 => some (rowAlu2 f) | 0x18 => some (rowAlu2 f) | 0x19 => some (rowAlu3 f)
  | 0x1A => some (rowAlu2 f) | 0x1B => some (rowAlu2 f) | 0x1C => some (rowAlu2 f)
  | 0x1D => some (rowAlu2 f) | 0x1E => some (rowAlu2 f) | 0x1F => some (rowAlu2 f)
  | 0x20 => some (rowShift f) | 0x21 => some (rowShift f) | 0x22 => some (rowShift f) | 0x23 => some (rowShift f)
  | 0x24 => some (rowField f false) | 0x25 => some (rowField f true)
  | 0x26 => some { forms := [.b, .e], u := .either, subOk := noSub f, d := .r (typeRegs f), a := .r (typeRegs f) }
  | 0x27 => some { forms := [.e], u := .either, subOk := codeLe f.sub 5, a := .r (typeRegs f),
                   d := if f.sub.toNat = 2 ∨ f.sub.toNat = 3 ∨ f.sub.toNat = 4 then .r 1 else .r (typeRegs f) }
  | 0x28 => some { rowAlu2 f with forms := [.e, .x], subOk := codeLe f.sub 5, d := .ks }
  | 0x29 => some { forms := [.e], u := .either, subOk := noSub f, modOk := noMod f, d := .r 1, a := .r 1, b := .vs 1,
                   c := if f.u then .s 1 else .k, immE := true }
  | 0x2A => some (if f.form = .e ∧ f.u = false ∧ f.bs = true then
                    { forms := [.b, .e], u := .either, subOk := noSub f, modOk := noMod f, d := .r 1, b := .s 1,
                      immE := true }
                  else { forms := [.b, .e], u := .either, subOk := noSub f, modOk := noMod f, d := .r 1, a := .r 1 })
  | 0x2B => some { forms := [.e], u := .either, subOk := noSub f, modOk := noMod f, d := .r 1, ownW2 := true }
  | 0x2C => some { forms := [.l], u := .either, d := .r 2, wide := true }
  | 0x2D => some { forms := [.e, .x], u := .either, subOk := noSub f, modOk := noMod f, d := .r 2, a := .off, b := .s 2,
                   ownW2 := true, wide := true }
  | 0x2E => some { forms := [.e], subOk := codeLe f.sub 3, modOk := noMod f, d := .v 1, a := .v 1, b := .vs 1,
                   immE := true }
  | 0x2F => some { forms := [.e], subOk := noSub f, modOk := noMod f, d := .v 1, a := .v 1, b := .s 1, immE := true }
  | 0x30 => some { forms := [.e], subOk := codeLe f.sub 5, d := .s (typeRegs f), a := .v (typeRegs f) }
  | 0x31 => some { forms := [.e], subOk := codeLe f.sub 1, d := .v (typeRegs f), a := .v (typeRegs f) }
  | 0x32 => some { forms := [.e, .x], u := .either, subOk := noSub f, modOk := noMod f, d := .r 1, a := .r 1,
                   b := .vs 1, ownW2 := true }
  -- fixed-format floating point (R113)
  | 0x34 => some (rowFp2 f) | 0x35 => some (rowFp2 f) | 0x36 => some (rowFp2 f)
  | 0x37 => some { rowFp2 f with forms := [.e], c := .vs 1 }
  | 0x38 => some (rowFp2 f) | 0x39 => some (rowFp2 f)
  | 0x3A => some { rowFp2 f with forms := [.e], d := .ks, modOk := true,
                                 subOk := fmtOk f.sub && (f.sub.extractLsb' 0 2) = 0 }
  | 0x3B => some (rowFp1 f) | 0x3C => some (rowFp1 f) | 0x3D => some (rowFp1 f) | 0x3E => some (rowFp1 f)
  | 0x3F => some (rowFp1 f) | 0x40 => some (rowFp1 f) | 0x41 => some (rowFp1 f)
  | 0x42 => some { rowFp1 f with modOk := codeLe f.mod3 3 }
  | 0x43 => some (rowFp1 f)
  | 0x44 => some { forms := [.e], u := .either, modOk := codeLe f.mod3 3, d := .r 1, a := .r 1 }
  | 0x45 => some { forms := [.e], u := .either, subOk := f.sub = 1 ∨ f.sub = 2, modOk := codeLe f.mod3 3, d := .r 1,
                   a := .r 1, b := .vs 1, immE := true }
  | 0x46 => some { forms := [.e], u := .either, subOk := f.sub = 1 ∨ f.sub = 2, modOk := noMod f, d := .r 2, a := .r 1 }
  -- class-typed arithmetic (R125)
  | 0x48 => some (rowCls2 f) | 0x49 => some (rowCls2 f) | 0x4A => some (rowCls2 f)
  | 0x4B => some { rowCls2 f with c := .vs 1 }
  | 0x4C => some (rowCls2 f) | 0x4D => some (rowCls2 f)
  | 0x4E => some { forms := [.e], u := .either, modOk := noMod f, cls := true, subCls := true, d := .r 1, a := .r 1 }
  | 0x4F => some { forms := [.e], subOk := codeLe f.sub 2, modOk := noMod f, cls := true, d := .s 1, a := .v 1 }
  | 0x50 => some { forms := [.e], subOk := noSub f, modOk := noMod f, cls := true, d := .s 1, a := .v 1, b := .s 1 }
  | 0x51 => some { forms := [.e], subOk := noSub f, modOk := noMod f, cls := true, d := .v 1, a := .s 1, b := .s 1 }
  | 0x52 => some { forms := [.e], u := .either, subOk := noSub f, modOk := noMod f, cls := true, d := .ks, a := .r 1 }
  | 0x53 => some { forms := [.e], u := .either, subOk := noSub f, modOk := noMod f, cls := true, d := .r 2, a := .off,
                   b := .s 2, ownW2 := true }
  -- memory and asynchronous engines (R136)
  | 0x58 => some { rowMem f with subOk := codeLe f.sub 6, d := .r (sizeRegs f.sub) }
  | 0x59 => some { rowMem f with subOk := f.sub = 0 ∨ f.sub = 2 ∨ f.sub = 4 ∨ f.sub = 5 ∨ f.sub = 6,
                                 c := .vs (sizeRegs f.sub) }
  | 0x5A => some { rowMem f with subOk := noSub f, cls := true, d := .r 1, c := .free }
  | 0x5B => some { rowMem f with subOk := noSub f, cls := true, d := .free, c := .vs 1 }
  | 0x5C => some { rowMem f with subOk := codeLe f.sub 8, extOk := extTypeOk f, d := .r (extRegs f),
                                 c := .vs (if f.sub = 7 then 2 * extRegs f else extRegs f) }
  | 0x5D => some { rowMem f with subOk := codeLe f.sub 5 ∨ f.sub = 8, extOk := extTypeOk f, c := .vs (extRegs f) }
  | 0x5E => some { forms := [.b, .e], subOk := codeLe f.sub 2, modOk := codeLe f.mod3 4 }
  | 0x5F => some { forms := [.e], u := .one, subOk := codeLe f.sub 1, modOk := noMod f, d := .s 1, a := .s 2, b := .s 2,
                   c := if f.sub = 0 then .none else .s 2, ownW2 := true }
  | 0x60 => some { forms := [.e], subOk := noSub f, modOk := noMod f, a := .v 1, b := .s 2, c := .s 2, ownW2 := true }
  | 0x61 => some { rowMem f with subOk := codeLe f.sub 1, modOk := noMod f }
  | 0x62 => some { forms := [.b] }
  | 0x63 => some { forms := [.b], d := .free, a := .cnt }
  | 0x64 => some { forms := [.b], d := .s 1, a := .cnt }
  -- synchronisation, collectives, system (R157)
  | 0x68 => some { forms := [.e], subOk := noSub f, modOk := codeLe f.mod3 3, ownW2 := true }
  | 0x69 => some { forms := [.e], subOk := noSub f, modOk := codeLe f.mod3 3, ownW2 := true }
  | 0x6A => some { forms := [.e], subOk := noSub f, modOk := codeLe f.mod3 3, ownW2 := true }
  | 0x6B => some { forms := [.e], u := .either, subOk := codeLe f.sub 3, modOk := noMod f,
                   d := if f.sub = 2 ∨ 3 < f.sub.toNat then .s 1 else .none, a := .s 2, b := if 3 ≤ f.sub.toNat then .s 1 else .none,
                   ownW2 := codeLe f.sub 1 ∨ 3 < f.sub.toNat }
  | 0x6C => some { forms := [.e], subOk := noSub f, modOk := noMod f, cls := true, a := .v 1, b := .s 1, ownW2 := true }
  | 0x6D => some { forms := [.e], subOk := noSub f, modOk := noMod f, cls := true, d := .v 1, a := .s 4, aDst := true,
                   b := .s 1, ownW2 := true }
  | 0x6E => some { forms := [.e], u := .one, subOk := noSub f, modOk := noMod f, d := .s 1, a := .s 2, b := .s 1 }
  -- the matrix engine (R175)
  | 0x70 => some { forms := [.e], subOk := codeLe f.sub 1, modOk := noMod f, a := .tile }
  | 0x71 => some { forms := [.e], modOk := noMod f, cls := true, subCls := true, d := .tile, a := .quadOrUnf, b := .s 4,
                   ownW2 := true }
  | 0x72 => some { forms := [.e], subOk := noSub f, modOk := noMod f, a := .s 4, b := .s 2 }
  | 0x73 => some { forms := [.b], a := .tile }
  | 0x74 => some { forms := [.e], subOk := noSub f, modOk := noMod f, cls := true, d := .free, a := .tile,
                   b := if f.d = 0xFF then .s 2 else .none, ownW2 := true }
  | 0x75 => some { forms := [.e], subOk := noSub f, modOk := noMod f, cls := true, d := .tile, b := .s 2, c := .s 1,
                   ownW2 := true }
  | 0x76 => some { forms := [.e], subOk := noSub f, modOk := noMod f, cls := true, d := .s 4, dSrc := true, b := .s 2,
                   ownW2 := true }
  | 0x77 => some { forms := [.b], d := .s 1, a := .tile }
  | 0x78 => some { forms := [.e], u := .either, subOk := noSub f, modOk := noMod f, d := .free, ownW2 := true,
                   w2Ok := f.w2.extractLsb' 12 20 = 0 }
  | 0x79 => some { forms := [.e], u := .either, subOk := noSub f, modOk := noMod f, a := .r 1, ownW2 := true,
                   w2Ok := f.w2.extractLsb' 12 20 = 0 }
  | 0x7A => some { forms := [.e], u := .either, subOk := noSub f, modOk := noMod f, d := .r 1, a := .r 1, b := .s 2,
                   ownW2 := true }
  | 0x7B => some { forms := [.e], u := .either, subOk := codeLe f.sub 1, modOk := noMod f,
                   d := if f.sub = 0 then .none else .r 1, a := if f.sub = 1 then .none else .s 2, ownW2 := true }
  | _ => none

/-! ## The checks of R48 step 4, in the order of their reason codes -/

/-- B = 0xFF with BS = 1: the pattern of an immediate (R38). -/
def immPattern (f : Fields) : Bool := f.b = 0xFF && f.bs

/-- The field is unused and zero, or used. -/
def unusedOk (kd : Kind) (x : BitVec 8) : Bool := kd ≠ .none || x = 0

/-- BS or CS agrees with the kind of its position (R37). -/
def sideOk (kd : Kind) (u side : Bool) : Bool :=
  match kd with
  | .s _ => side
  | .vs _ => !u || side
  | .r _ => side = u
  | .free => true
  | _ => !side

/-- The position may carry an FE bit (R40). -/
def feKind (kd : Kind) (x : BitVec 8) : Bool :=
  match kd with
  | .r _ => true | .v _ => true | .s _ => true | .vs _ => true
  | .off => x ≠ 0xFF | .quadOrUnf => x ≠ 0xFF
  | _ => false

/-- C of CLD carries an FE bit when it names an s register (R40). -/
def feC (kd : Kind) (f : Fields) : Bool := if kd = .free then f.cs else feKind kd f.c

/-- Every set FE bit stands at a v or s source (R40). -/
def feOk (r : Row) (f : Fields) : Bool :=
  (!f.fe.getLsbD 0 || (feKind r.a f.a && !r.aDst)) &&
  (!f.fe.getLsbD 1 || (feKind r.b f.b && !immPattern f)) &&
  (!f.fe.getLsbD 2 || feC r.c f)

/-- A literal used as a 32-bit operand: its high bits are zero or copies of bit 31 (R38). -/
def litFits (lit : DWord) : Bool :=
  let hi : Word := lit.extractLsb' 32 32
  hi = 0 || (hi = 0xFFFFFFFF && lit.getLsbD 31)

/-- The form holds a literal. -/
def Form.hasLit : Form → Bool
  | .l => true | .x => true | _ => false

/-- The form holds word 1 and word 2. -/
def Form.hasExt : Form → Bool
  | .e => true | .x => true | _ => false

/-- Reason FORM. -/
def chkForm (r : Row) (f : Fields) : Bool := r.forms.contains f.form
/-- Reason UBIT (R41). -/
def chkU (r : Row) (f : Fields) : Bool :=
  match r.u with
  | .zero => !f.u | .either => true | .one => f.u
/-- Reason RSVD: unused fields, B6 of a form without a B6 operand, word 2, and the low bits of a branch distance. -/
def chkRsvd (r : Row) (f : Fields) : Bool :=
  unusedOk r.d f.d && unusedOk r.a f.a &&
  (match f.form with
   | .b => r.b ≠ .none || f.b6 = 0
   | .l => f.b6 = 0
   | _ => unusedOk r.b f.b && unusedOk r.c f.c &&
          (r.ownW2 || f.w2 = 0 || (f.form = .e && immPattern f && r.immE)) && r.w2Ok)
/-- Reason EXTC. -/
def chkExt (r : Row) (f : Fields) (atomic : Bool) : Bool :=
  !f.form.hasExt || ((if atomic then r.extOk else f.b6 = 0) && (r.cls || f.cls = 0))
/-- Reason KIND. -/
def chkKind (r : Row) (f : Fields) : Bool :=
  !f.form.hasExt ||
  ((immPattern f && (r.b ≠ .none && r.b ≠ .k) || sideOk r.b f.u f.bs) && sideOk r.c f.u f.cs && feOk r f)
/-- Reason LITH. -/
def chkLit (r : Row) (f : Fields) : Bool := !f.form.hasLit || r.wide || litFits f.lit
/-- Reason IMMP. -/
def chkImm (r : Row) (f : Fields) : Bool :=
  match f.form with
  | .e => !immPattern f || r.immE
  | .x => immPattern f
  | _ => true

/-- The first failing check of R48 step 4, none when the encoding is legal. -/
def formCheck (r : Row) (f : Fields) (atomic : Bool) : Option Reason :=
  if !chkForm r f then some .form
  else if !chkU r f then some .ubit
  else if !chkRsvd r f then some .rsvd
  else if !r.subOk then some .subc
  else if !r.modOk then some .modc
  else if !chkExt r f atomic then some .extc
  else if !chkKind r f then some .kind
  else if !chkLit r f then some .lith
  else if !chkImm r f then some .immp
  else none

/-- OP 0x5C and 0x5D, whose EXT6 holds a type (R47). -/
def isAtomicOp (op : BitVec 7) : Bool := op = 0x5C || op = 0x5D

/-- The instruction of an OP with legal fields. -/
def classify (op : BitVec 7) (f : Fields) : Option Instr :=
  match op.toNat with
  | 0x00 => some (.nop)
  | 0x01 => some (.bra f)
  | 0x02 => some (.brc f)
  | 0x03 => some (.brx f)
  | 0x04 => some (.call f)
  | 0x05 => some (.callx f)
  | 0x06 => some (.ret f)
  | 0x07 => some (.exit)
  | 0x08 => some (.jset f)
  | 0x09 => some (.jarv f)
  | 0x0A => some (.jqry f)
  | 0x0B => some (.splq f)
  | 0x0C => some (.yield)
  | 0x0D => some (.trap f)
  | 0x0E => some (if f.sub = 0 then .tret f else .tretNext f)
  | 0x0F => some (.bkpt)
  | 0x10 => some (.sigchk f)
  | 0x11 => some (.sigrd f)
  | 0x12 => some (if f.sub = 0 then .kand f else if f.sub = 1 then .kor f else if f.sub = 2 then .kxor f else if f.sub = 3 then .kandn f else if f.sub = 4 then .knot f else .kmov f)
  | 0x13 => some (if f.sub = 0 then .kpopc f else if f.sub = 1 then .kffs f else if f.sub = 2 then .kvote f else .ktov f)
  | 0x14 => some (if f.form = .b then .iadd f else .iaddExt f)
  | 0x15 => some (if f.form = .b then .isub f else .isubExt f)
  | 0x16 => some (.iadd3 f)
  | 0x17 => some (if f.form = .b then .imul f else .imulExt f)
  | 0x18 => some (if f.form = .b then .imulh f else .imulhExt f)
  | 0x19 => some (.imad f)
  | 0x1A => some (if f.form = .b then .imin f else .iminExt f)
  | 0x1B => some (if f.form = .b then .imax f else .imaxExt f)
  | 0x1C => some (if f.form = .b then .and f else .andExt f)
  | 0x1D => some (if f.form = .b then .or f else .orExt f)
  | 0x1E => some (if f.form = .b then .xor f else .xorExt f)
  | 0x1F => some (if f.form = .b then .andn f else .andnExt f)
  | 0x20 => some (if f.form = .b then .shl f else .shlExt f)
  | 0x21 => some (if f.form = .b then .shr f else .shrExt f)
  | 0x22 => some (if f.form = .b then .sar f else .sarExt f)
  | 0x23 => some (if f.form = .b then .rotl f else .rotlExt f)
  | 0x24 => some (.bfx f)
  | 0x25 => some (.bfi f)
  | 0x26 => some (if f.form = .b then .not f else .notExt f)
  | 0x27 => some (if f.sub = 0 then .iabs f else if f.sub = 1 then .ineg f else if f.sub = 2 then .popc f else if f.sub = 3 then .clz f else if f.sub = 4 then .ctz f else .brev f)
  | 0x28 => some (.icmp f)
  | 0x29 => some (.isel f)
  | 0x2A => some (if f.form = .b then .mov f else .movExt f)
  | 0x2B => some (.movi f)
  | 0x2C => some (.movl f)
  | 0x2D => some (.lea f)
  | 0x2E => some (.shfl f)
  | 0x2F => some (.bcast f)
  | 0x30 => some (.ired f)
  | 0x31 => some (.ipsum f)
  | 0x32 => some (.bmix f)
  | 0x34 => some (if f.form = .b then .fadd f else .faddExt f)
  | 0x35 => some (if f.form = .b then .fsub f else .fsubExt f)
  | 0x36 => some (if f.form = .b then .fmul f else .fmulExt f)
  | 0x37 => some (.ffma f)
  | 0x38 => some (if f.form = .b then .fmin f else .fminExt f)
  | 0x39 => some (if f.form = .b then .fmax f else .fmaxExt f)
  | 0x3A => some (.fcmp f)
  | 0x3B => some (if f.form = .b then .frcp f else .frcpExt f)
  | 0x3C => some (if f.form = .b then .frsq f else .frsqExt f)
  | 0x3D => some (if f.form = .b then .fsqrt f else .fsqrtExt f)
  | 0x3E => some (if f.form = .b then .fexp2 f else .fexp2Ext f)
  | 0x3F => some (if f.form = .b then .flog2 f else .flog2Ext f)
  | 0x40 => some (if f.form = .b then .fsinp f else .fsinpExt f)
  | 0x41 => some (if f.form = .b then .fcosp f else .fcospExt f)
  | 0x42 => some (if f.form = .b then .frint f else .frintExt f)
  | 0x43 => some (if f.form = .b then .fclass f else .fclassExt f)
  | 0x44 => some (.fcvt f)
  | 0x45 => some (.fpack f)
  | 0x46 => some (.funpk f)
  | 0x48 => some (.cadd f)
  | 0x49 => some (.csub f)
  | 0x4A => some (.cmul f)
  | 0x4B => some (.cfma f)
  | 0x4C => some (.cmin f)
  | 0x4D => some (.cmax f)
  | 0x4E => some (.ccvt f)
  | 0x4F => some (.cred f)
  | 0x50 => some (.cqnt f)
  | 0x51 => some (.cdq f)
  | 0x52 => some (.cchk f)
  | 0x53 => some (.clea f)
  | 0x58 => some (.ld f)
  | 0x59 => some (.st f)
  | 0x5A => some (.cld f)
  | 0x5B => some (.cst f)
  | 0x5C => some (.atom f)
  | 0x5D => some (.red f)
  | 0x5E => some (if f.form = .b then .fence f else .fenceExt f)
  | 0x5F => some (.cpasync f)
  | 0x60 => some (.gather f)
  | 0x61 => some (.pref f)
  | 0x62 => some (.codesync)
  | 0x63 => some (.waitcnt f)
  | 0x64 => some (.cntrd f)
  | 0x68 => some (.bar f)
  | 0x69 => some (.bararv f)
  | 0x6A => some (.barwt f)
  | 0x6B => some (if f.sub = 0 then .tbinit f else if f.sub = 1 then .tbexp f else if f.sub = 2 then .tbarv f else .tbwait f)
  | 0x6C => some (.crput f)
  | 0x6D => some (.crget f)
  | 0x6E => some (.launch f)
  | 0x70 => some (if f.sub = 0 then .mbeg f else .mend f)
  | 0x71 => some (if f.a = 0xFF then .mmaUnfold f else .mma f)
  | 0x72 => some (.munf f)
  | 0x73 => some (.mzero f)
  | 0x74 => some (if f.d = 0xFF then .mdrnScratch f else .mdrn f)
  | 0x75 => some (.mlda f)
  | 0x76 => some (.mqnt f)
  | 0x77 => some (.mstat f)
  | 0x78 => some (.mfs f)
  | 0x79 => some (if f.w2 = 0x10 then .mtsExec f else .mts f)
  | 0x7A => some (.rngc f)
  | 0x7B => some (if f.sub = 0 then .srseed f else .caprd f)
  | _ => none

/-- The words that an instruction of this head occupies, as far as they are there. -/
def ownWords (ws : List Word) : List Word :=
  match ws with
  | [] => []
  | w0 :: _ => ws.take (formOf w0).words

/-- The instruction at the head of a word list; `none` only when words are missing. -/
def decode (ws : List Word) : Option Instr :=
  match parseWords ws with
  | none => none
  | some (op, f) =>
    match rowOf op f with
    | none => some (.illegalOpcode (ownWords ws))
    | some r =>
      match formCheck r f (isAtomicOp op) with
      | some reason => some (.illegalForm (ownWords ws) reason)
      | none => classify op f

/-- Four bytes as a little-endian word (R30). -/
def wordOfBytes (b0 b1 b2 b3 : Byte) : Word := b3 ++ b2 ++ b1 ++ b0

/-- Little-endian words of a byte list; bytes beyond the last whole word are not read. -/
def wordsOfBytes : List Byte → List Word
  | b0 :: b1 :: b2 :: b3 :: rest => wordOfBytes b0 b1 b2 b3 :: wordsOfBytes rest
  | _ => []

/-- Why bytes do not decode. -/
inductive DecodeError where
  | truncated  -- fewer bytes than LEN names
  deriving DecidableEq, Repr

/-- The instruction at the head of a byte list, with the bytes that follow it. -/
def decodeBytes (bs : List Byte) : Except DecodeError (Instr × List Byte) :=
  match wordsOfBytes bs with
  | [] => .error .truncated
  | w0 :: rest =>
    match decode (w0 :: rest) with
    | none => .error .truncated
    | some i => .ok (i, bs.drop (formOf w0).bytes)

/-- Words `0` to `n - 1` of an instruction whose bits are numbered from the first word. -/
def wordsOfNat : Nat → Nat → List Word
  | 0, _ => []
  | n + 1, w => BitVec.ofNat 32 w :: wordsOfNat n (w / 2 ^ 32)

/-- The bytes of a word, lowest address first (R30). -/
def bytesOfWord (w : Word) : List Byte :=
  [w.extractLsb' 0 8, w.extractLsb' 8 8, w.extractLsb' 16 8, w.extractLsb' 24 8]

/-- The twenty bytes that the decoder is given for an instruction of `nbits` bits. -/
def tableBytes (nbits w : Nat) : List Byte :=
  (wordsOfNat 5 (w % 2 ^ nbits)).flatMap bytesOfWord

/-- The instruction that the decoder reads from an instruction whose bits are `w`. -/
def decodeTableWord (nbits w : Nat) : Option Instr :=
  match decodeBytes (tableBytes nbits w) with
  | .ok (i, _) => some i
  | .error _ => none

/-! ## The encoder -/

/-- OP and fields of an encoded instruction; none for an event of the device. -/
def Instr.parts : Instr → Option (BitVec 7 × Fields)
  | .nop => some (0x00#7, { form := .b })
  | .bra f => some (0x01#7, f)
  | .brc f => some (0x02#7, f)
  | .brx f => some (0x03#7, f)
  | .call f => some (0x04#7, f)
  | .callx f => some (0x05#7, f)
  | .ret f => some (0x06#7, f)
  | .exit => some (0x07#7, { form := .b })
  | .jset f => some (0x08#7, f)
  | .jarv f => some (0x09#7, f)
  | .jqry f => some (0x0A#7, f)
  | .splq f => some (0x0B#7, f)
  | .yield => some (0x0C#7, { form := .b })
  | .trap f => some (0x0D#7, f)
  | .tret f => some (0x0E#7, f)
  | .tretNext f => some (0x0E#7, f)
  | .bkpt => some (0x0F#7, { form := .b })
  | .sigchk f => some (0x10#7, f)
  | .sigrd f => some (0x11#7, f)
  | .kand f => some (0x12#7, f)
  | .kor f => some (0x12#7, f)
  | .kxor f => some (0x12#7, f)
  | .kandn f => some (0x12#7, f)
  | .knot f => some (0x12#7, f)
  | .kmov f => some (0x12#7, f)
  | .kpopc f => some (0x13#7, f)
  | .kffs f => some (0x13#7, f)
  | .kvote f => some (0x13#7, f)
  | .ktov f => some (0x13#7, f)
  | .iadd f => some (0x14#7, f)
  | .iaddExt f => some (0x14#7, f)
  | .isub f => some (0x15#7, f)
  | .isubExt f => some (0x15#7, f)
  | .iadd3 f => some (0x16#7, f)
  | .imul f => some (0x17#7, f)
  | .imulExt f => some (0x17#7, f)
  | .imulh f => some (0x18#7, f)
  | .imulhExt f => some (0x18#7, f)
  | .imad f => some (0x19#7, f)
  | .imin f => some (0x1A#7, f)
  | .iminExt f => some (0x1A#7, f)
  | .imax f => some (0x1B#7, f)
  | .imaxExt f => some (0x1B#7, f)
  | .and f => some (0x1C#7, f)
  | .andExt f => some (0x1C#7, f)
  | .or f => some (0x1D#7, f)
  | .orExt f => some (0x1D#7, f)
  | .xor f => some (0x1E#7, f)
  | .xorExt f => some (0x1E#7, f)
  | .andn f => some (0x1F#7, f)
  | .andnExt f => some (0x1F#7, f)
  | .shl f => some (0x20#7, f)
  | .shlExt f => some (0x20#7, f)
  | .shr f => some (0x21#7, f)
  | .shrExt f => some (0x21#7, f)
  | .sar f => some (0x22#7, f)
  | .sarExt f => some (0x22#7, f)
  | .rotl f => some (0x23#7, f)
  | .rotlExt f => some (0x23#7, f)
  | .bfx f => some (0x24#7, f)
  | .bfi f => some (0x25#7, f)
  | .not f => some (0x26#7, f)
  | .notExt f => some (0x26#7, f)
  | .iabs f => some (0x27#7, f)
  | .ineg f => some (0x27#7, f)
  | .popc f => some (0x27#7, f)
  | .clz f => some (0x27#7, f)
  | .ctz f => some (0x27#7, f)
  | .brev f => some (0x27#7, f)
  | .icmp f => some (0x28#7, f)
  | .isel f => some (0x29#7, f)
  | .mov f => some (0x2A#7, f)
  | .movExt f => some (0x2A#7, f)
  | .movi f => some (0x2B#7, f)
  | .movl f => some (0x2C#7, f)
  | .lea f => some (0x2D#7, f)
  | .shfl f => some (0x2E#7, f)
  | .bcast f => some (0x2F#7, f)
  | .ired f => some (0x30#7, f)
  | .ipsum f => some (0x31#7, f)
  | .bmix f => some (0x32#7, f)
  | .fadd f => some (0x34#7, f)
  | .faddExt f => some (0x34#7, f)
  | .fsub f => some (0x35#7, f)
  | .fsubExt f => some (0x35#7, f)
  | .fmul f => some (0x36#7, f)
  | .fmulExt f => some (0x36#7, f)
  | .ffma f => some (0x37#7, f)
  | .fmin f => some (0x38#7, f)
  | .fminExt f => some (0x38#7, f)
  | .fmax f => some (0x39#7, f)
  | .fmaxExt f => some (0x39#7, f)
  | .fcmp f => some (0x3A#7, f)
  | .frcp f => some (0x3B#7, f)
  | .frcpExt f => some (0x3B#7, f)
  | .frsq f => some (0x3C#7, f)
  | .frsqExt f => some (0x3C#7, f)
  | .fsqrt f => some (0x3D#7, f)
  | .fsqrtExt f => some (0x3D#7, f)
  | .fexp2 f => some (0x3E#7, f)
  | .fexp2Ext f => some (0x3E#7, f)
  | .flog2 f => some (0x3F#7, f)
  | .flog2Ext f => some (0x3F#7, f)
  | .fsinp f => some (0x40#7, f)
  | .fsinpExt f => some (0x40#7, f)
  | .fcosp f => some (0x41#7, f)
  | .fcospExt f => some (0x41#7, f)
  | .frint f => some (0x42#7, f)
  | .frintExt f => some (0x42#7, f)
  | .fclass f => some (0x43#7, f)
  | .fclassExt f => some (0x43#7, f)
  | .fcvt f => some (0x44#7, f)
  | .fpack f => some (0x45#7, f)
  | .funpk f => some (0x46#7, f)
  | .cadd f => some (0x48#7, f)
  | .csub f => some (0x49#7, f)
  | .cmul f => some (0x4A#7, f)
  | .cfma f => some (0x4B#7, f)
  | .cmin f => some (0x4C#7, f)
  | .cmax f => some (0x4D#7, f)
  | .ccvt f => some (0x4E#7, f)
  | .cred f => some (0x4F#7, f)
  | .cqnt f => some (0x50#7, f)
  | .cdq f => some (0x51#7, f)
  | .cchk f => some (0x52#7, f)
  | .clea f => some (0x53#7, f)
  | .ld f => some (0x58#7, f)
  | .st f => some (0x59#7, f)
  | .cld f => some (0x5A#7, f)
  | .cst f => some (0x5B#7, f)
  | .atom f => some (0x5C#7, f)
  | .red f => some (0x5D#7, f)
  | .fence f => some (0x5E#7, f)
  | .fenceExt f => some (0x5E#7, f)
  | .cpasync f => some (0x5F#7, f)
  | .gather f => some (0x60#7, f)
  | .pref f => some (0x61#7, f)
  | .codesync => some (0x62#7, { form := .b })
  | .waitcnt f => some (0x63#7, f)
  | .cntrd f => some (0x64#7, f)
  | .bar f => some (0x68#7, f)
  | .bararv f => some (0x69#7, f)
  | .barwt f => some (0x6A#7, f)
  | .tbinit f => some (0x6B#7, f)
  | .tbexp f => some (0x6B#7, f)
  | .tbarv f => some (0x6B#7, f)
  | .tbwait f => some (0x6B#7, f)
  | .crput f => some (0x6C#7, f)
  | .crget f => some (0x6D#7, f)
  | .launch f => some (0x6E#7, f)
  | .mbeg f => some (0x70#7, f)
  | .mend f => some (0x70#7, f)
  | .mmaUnfold f => some (0x71#7, f)
  | .mma f => some (0x71#7, f)
  | .munf f => some (0x72#7, f)
  | .mzero f => some (0x73#7, f)
  | .mdrnScratch f => some (0x74#7, f)
  | .mdrn f => some (0x74#7, f)
  | .mlda f => some (0x75#7, f)
  | .mqnt f => some (0x76#7, f)
  | .mstat f => some (0x77#7, f)
  | .mfs f => some (0x78#7, f)
  | .mtsExec f => some (0x79#7, f)
  | .mts f => some (0x79#7, f)
  | .rngc f => some (0x7A#7, f)
  | .srseed f => some (0x7B#7, f)
  | .caprd f => some (0x7B#7, f)
  | _ => none

/-- The base word (R33). -/
def word0 (op : BitVec 7) (f : Fields) : Word :=
  BitVec.ofBool f.u ++ f.b6 ++ f.a ++ f.d ++ op ++ f.form.len

/-- Word 1 (R34). -/
def word1 (f : Fields) : Word :=
  BitVec.ofBool f.cs ++ BitVec.ofBool f.bs ++ f.mod3 ++ f.fe ++ f.sub ++ f.cls ++ f.c ++ f.b

/-- The words of an OP with fields, in order (R30). -/
def encodeFields (op : BitVec 7) (f : Fields) : List Word :=
  let lo : Word := f.lit.extractLsb' 0 32
  let hi : Word := f.lit.extractLsb' 32 32
  match f.form with
  | .b => [word0 op f]
  | .e => [word0 op f, word1 f, f.w2]
  | .l => [word0 op f, lo, hi]
  | .x => [word0 op f, word1 f, f.w2, lo, hi]

/-- The words of an encoded instruction; an illegal encoding keeps its own words; an event has none. -/
def encode (i : Instr) : List Word :=
  match i with
  | .illegalOpcode ws => ws
  | .illegalForm ws _ => ws
  | i => match i.parts with
         | some (op, f) => encodeFields op f
         | none => []

/-- Length in bytes of an instruction as fetched: LEN fixes it (R30, R31). An event has none. -/
def Instr.size : Instr → Nat
  | .illegalOpcode ws => 4 * ws.length
  | .illegalForm ws _ => 4 * ws.length
  | i => match i.parts with
         | some (_, f) => f.form.bytes
         | none => 0

/-- The 21 bits that a completed instruction folds into SIG (R333). -/
def Instr.foldBits (i : Instr) : Option (BitVec 24) :=
  match i.parts with
  | none => none
  | some (op, f) =>
    let short := f.form = .b ∨ f.form = .l
    let sub : BitVec 4 := if short then 0 else f.sub
    let mod3 : BitVec 3 := if short then 0 else f.mod3
    let cls : BitVec 4 := if short then 0 else f.cls
    some ((0 : BitVec 3) ++ cls ++ mod3 ++ sub ++ BitVec.ofBool f.u ++ f.form.len ++ op)

end Sys2Proof
end

