-- ==== Sys2Proof/Machine/State.lean ====
section
/-! DEFINITION. The state of the package as plain data, and the state right after reset. -/

namespace Sys2Proof.Machine

/-! ## Memory -/

/-- A memory: (address, byte) pairs, addresses strictly rising, no entry equal to zero, which is what an unlisted
address reads as (log 2). -/
abbrev Memory := List Host.Cell

/-! ## The group (R7 to R24) -/

/-- The states of a v or s register (R10, R297). -/
inductive RegSt where
  | full | empty | nack | timeout
  deriving DecidableEq, Repr

/-- STATE of a split entry (R12). -/
inductive SplitSt where
  | ready | waiting | dormant | halted
  deriving DecidableEq, Repr

/-- A split entry (R12) with its PARK mask (R76), its wait count (R85), and whether its BAR has arrived and waits
(the two halves of R159). -/
structure Split where
  v : Bool := false
  st : SplitSt := .ready
  jslot : BitVec 3 := 0
  inh : Bool := false
  fpf : BitVec 5 := 0
  pc : Pc := 0
  mask : Word := 0
  sig : Word := 0xFFFFFFFF
  clsf : Word := 0
  park : Word := 0
  wait : Nat := 0
  half : Bool := false
  /-- the instruction at `pc` was found waiting (MODEL'S OWN, log 3) -/
  stall : Bool := false
  deriving DecidableEq, Repr

/-- A join slot (R14). -/
structure Join where
  rejoin : Word := 0
  arrived : Word := 0
  pc : Pc := 0
  armed : Bool := false
  deriving DecidableEq, Repr

/-- The trap registers `$xpc` to `$xval3` (R16, R91). -/
structure TrapRegs where
  pc : Pc := 0
  cause : Word := 0
  mask : Word := 0
  val : Vector Lanes 4 := Vector.ofFn fun _ => Lanes.all 0
  deriving DecidableEq, Repr

/-- The supervisor save area of a group whose split runs the page-fault handler (R19, R228): the split, the handler's k15, the
trap registers that the fault wrote (the supervisor's view: the user's stand in the group, log 16), and whether the fault was
handed to the runtime (R230). -/
structure SupSave where
  split : BitVec 3
  k15 : Word
  fault : TrapRegs
  handed : Bool := false
  deriving DecidableEq, Repr

/-- The register files of a group (R9, R10), and the poisoned 64-bit words of its v registers (R326). -/
structure RegFile where
  v : Vector Lanes 256 := Vector.ofFn fun _ => Lanes.all 0
  s : Vector Word 64 := Vector.ofFn fun _ => 0
  k : Vector Word 16 := Vector.ofFn fun i => if i = 0 then 0xFFFFFFFF else 0
  vst : Vector RegSt 256 := Vector.ofFn fun _ => .full
  sst : Vector RegSt 64 := Vector.ofFn fun _ => .full
  vpoison : List (Nat × Nat) := []
  deriving DecidableEq, Repr

/-- A general register. -/
inductive Reg where
  | v (n : BitVec 8)
  | s (n : BitVec 8)
  deriving DecidableEq, Repr

/-- One lane's part of an access (R137): the lane, the location number of its lowest byte and its width in bytes.
Location numbers: a 56-bit generic address stands for itself; byte `o` of lane `L`'s stack is `2^60 + L * 2^48 + o`. -/
structure LaneReq where
  lane : Fin 32
  loc : Nat
  width : Nat
  deriving DecidableEq, Repr

/-- The split that an outstanding operation belongs to: by its entry, or by the overflow slot in which it waits (R15, R197). -/
inductive Owner where
  | entry (n : BitVec 3)
  | slot (i : Nat)
  deriving DecidableEq, Repr

/-- What a pending memory operation does (R140 to R147). -/
inductive OpKind where
  | load (sub : BitVec 4)
  | cload (cls : BitVec 4) (srs : Word)
  /-- a plane block of a class (R144), with the address of the scale byte -/
  | cplane (cls : BitVec 4) (srs : Word) (scale : DWord)
  | store
  | atomic (op : BitVec 4) (typ : BitVec 6)
  deriving DecidableEq, Repr

/-- A memory operation with pieces still to be performed (R141, R194, R216). -/
structure MemOp where
  id : Nat
  split : Owner
  pc : Pc
  kind : OpKind
  acc : Nat                              -- access kind of R138
  scope : Scope
  lanes : List LaneReq
  dst : List Reg := []
  data : List (Nat × Byte) := []         -- store bytes by location
  args : List (Nat × DWord × DWord) := []  -- atomic operands by lane: b, or compare and value
  left : List Nat                        -- sectors (location / 32) still to be performed
  got : List (Nat × Byte) := []          -- bytes that have arrived
  old : List (Nat × DWord) := []         -- old values of an atomic by lane
  done : Word := 0                       -- lanes whose destination has been written
  nacked : Word := 0                     -- lanes refused by a NACK
  timed : Word := 0                      -- lanes that timed out
  bad : List Nat := []                   -- sectors whose piece failed
  nackCode : Nat := 0
  hold : Bool := false                   -- the split waits for it (R145)
  gate : Bool := false                   -- performed before the split's next instruction (R177)
  /-- the operation whose instruction it shares, where one instruction makes two (R144) -/
  first : Option Nat := none
  /-- sectors whose pieces an instance of a scope sees and that are not yet performed at their home (R139, R195), their place in
  the order of such pieces, and the scope: `.blk` or `.gang` -/
  near : List Nat := []
  nearAt : Nat := 0
  nearSc : Scope := .blk
  /-- staged writes that its launch had made when it issued (R278, R282) -/
  order : Nat := 0
  deriving DecidableEq, Repr

/-- An asynchronous copy (R151). Pieces are numbered by destination sector. -/
structure CopyOp where
  id : Nat
  split : Owner
  pc : Pc
  src : Nat
  dst : Nat
  count : Nat
  token : BitVec 8
  dab : Option Nat := none
  left : List Nat
  sent : List Nat := []                  -- pieces sent to a peer and not yet acknowledged
  waitSrc : List Nat := []               -- source sectors awaited from a peer
  got : List (Nat × Byte) := []          -- source bytes from a peer
  marked : List Nat := []                -- locations of `orig` that carried a mark at issue (R328)
  orig : List (Nat × Byte) := []         -- source bytes at issue, where the ranges overlap
  tag : Nat := 0                         -- round tag and place in the order of staged writes at issue (R278)
  order : Nat := 0
  fail : RegSt := .full
  words : List Word := []                -- the instruction's words
  deriving DecidableEq, Repr

/-- A gather (R152): active lanes with source locations. -/
structure GatherOp where
  id : Nat
  split : Owner
  pc : Pc
  rows : Nat
  dst : Nat
  srcs : List (Fin 32 × Nat)
  waitSrc : List Nat := []
  got : List (Nat × Byte) := []
  marked : List Nat := []                -- locations of `got` that carried a mark when they were read (R328)
  left : List Nat := []                  -- destination sectors still to be written
  failed : List (Fin 32 × Nat) := []     -- lanes with the location that failed
  nackCode : Nat := 0
  timed : Bool := false                  -- a read timed out
  base : Nat := 0                        -- the address in s[B]
  words : List Word := []                -- the instruction's words
  deriving DecidableEq, Repr

/-- The captured operands of the unfolding unit (R183). -/
structure Unfold where
  valid : Bool := false
  planes : DWord := 0
  scales : DWord := 0
  desc : List Word := []
  deriving DecidableEq, Repr

/-- An `MMA` in the engine (R180, R184). -/
structure MmaOp where
  pc : Pc
  split : BitVec 3
  tile : BitVec 3
  ca : BitVec 4
  cb : BitVec 4
  /-- plane and scale bases of a stored A; none for a virtual one -/
  a : Option (DWord × DWord)
  u : Unfold
  bp : DWord
  bs : DWord
  m : Nat
  k0 : Nat
  /-- operand bytes that the engine read at issue, and those of them that were marked -/
  got : List (Nat × Byte) := []
  marks : List Nat := []
  /-- k-steps applied -/
  steps : Nat := 0
  /-- EPOCH of the tile at issue (R182) -/
  epoch : Nat := 0
  words : List Word := []
  deriving DecidableEq, Repr

/-- An `MLDA` in the engine (R187). -/
structure MldOp where
  pc : Pc
  split : BitVec 3
  tile : BitVec 3
  cn : BitVec 4
  ck : BitVec 4
  addr : DWord
  count : Word
  got : List (Nat × Byte) := []
  marks : List Nat := []
  epoch : Nat := 0
  words : List Word := []
  deriving DecidableEq, Repr

/-- A matrix operation in the engine (R177, R180, R185, R187). -/
inductive MatOp where
  | mma (o : MmaOp)
  | zero (tile : BitVec 3) (epoch : Nat)
  | load (o : MldOp)
  deriving DecidableEq, Repr

/-- An outstanding collective (R165, R166), with exec at issue and the instruction's words. `res` is the vector and the status of
a round that has ended. -/
inductive CollOp where
  | put (comm slot : Nat) (tag : BitVec 16) (pos : Nat) (data : Lanes) (exec : Word) (words : List Word)
  | get (comm slot : Nat) (tag : BitVec 16) (exec : Word) (d : BitVec 8) (sA : BitVec 8) (res : Option (Lanes × List Word))
      (words : List Word)
  deriving DecidableEq, Repr

/-- A held failure of a remote store, reduction or gather (R150). -/
structure HeldFail where
  id : Nat
  split : Owner
  /-- the failed lanes, each with its lowest failing location -/
  lanes : List (Fin 32 × Nat)
  acc : Nat
  nack : Nat
  deriving DecidableEq, Repr

/-- The arrival masks of the barriers a group belongs to (R158). -/
structure Arrivals where
  grp : Vector Word 4 := Vector.ofFn fun _ => 0
  blk : Vector Word 16 := Vector.ofFn fun _ => 0
  gang : Vector Word 8 := Vector.ofFn fun _ => 0
  grid : Vector Word 4 := Vector.ofFn fun _ => 0
  deriving DecidableEq, Repr

/-- The group-scoped system registers (R13, R16). -/
structure GroupRegs where
  live : Word := 0xFFFFFFFF
  jwd : Word := 0x01000000
  lostrc : Word := 0
  fpctl : Word := 0
  srstate : Word := 1
  utvec : Pc := 0
  deriving DecidableEq, Repr

/-- The issue state of a group (R84, R88, R267, R268, R278). -/
structure IssueSt where
  age : Nat := 0
  rr : Nat := 0
  readyFor : Nat := 0
  /-- port A issued for the group in this cycle -/
  issued : Bool := false
  promoted : Bool := false
  /-- the group gives up its next port A opportunity (R84) -/
  yielded : Bool := false
  /-- splits placed last in the round-robin order by YIELD -/
  last : List (BitVec 3) := []
  /-- barrier and data-arrival rounds whose waits the group completed (R278) -/
  roundTag : Nat := 0
  /-- barriers (level code, number) whose last round ended and has no completed wait of the group yet -/
  due : List (Nat × Nat) := []
  /-- data-arrival objects, by location, with the PHASE at which the group last completed a wait -/
  tbSeen : List (Nat × Nat) := []
  deriving DecidableEq, Repr

/-- Bytes that a split of a group overwrote, by location: another split of the group may still read them, since nothing orders
the two before a join (R197). -/
structure Shadow where
  writer : Owner
  old : List (Nat × Byte)
  seen : List Owner := []
  /-- how far an order through another agent has come: 0 none, 1 the writer has released since, 2 then another agent acquired,
  3 then another agent released -/
  phase : Nat := 0
  deriving DecidableEq, Repr

/-- Asynchronous operations of a group (R24, R140). -/
structure Pending where
  nextId : Nat := 0
  mem : List MemOp := []
  cp : List CopyOp := []
  ga : List GatherOp := []
  mx : List MatOp := []
  co : List CollOp := []
  held : List HeldFail := []
  deriving DecidableEq, Repr

/-- What fydb makes a group do (R98). -/
inductive Fydb where
  | off                            -- no session
  | attached                       -- a session is attached and the group runs
  | stopped                        -- the session holds the group
  | stepping (left : List (BitVec 3))  -- one instruction each, in split order
  deriving DecidableEq, Repr

/-- A group (R7). -/
structure Group where
  resident : Bool := false
  ended : Bool := false
  launch : Nat := 0
  run : Nat := 1
  block : Nat := 0
  index : Nat := 0
  cluster : Nat := 0
  /-- the running split, `$split`[2:0] -/
  running : BitVec 3 := 0
  regs : RegFile := {}
  splits : Vector Split 8 := Vector.ofFn fun i =>
    if i = 0 then { v := true, mask := 0xFFFFFFFF } else {}
  ovf : Nat := 0
  /-- true wait counts of the overflow entries, slot 0 first (R15) -/
  ovfWait : List Nat := []
  joins : Vector Join 8 := Vector.ofFn fun _ => {}
  ctl : GroupRegs := {}
  trap : TrapRegs := {}
  sup : Option SupSave := none
  /-- the ticket of the record that the parked group awaits (R230) -/
  parked : Option Word := none
  fydb : Fydb := .off
  /-- the focus split of the debugger's session; none where it is the lowest-numbered ready one (R98) -/
  fydbFocus : Option (BitVec 3) := none
  arr : Arrivals := {}
  unfold : Unfold := {}
  pend : Pending := {}
  shadow : List Shadow := []
  iss : IssueSt := {}
  deriving DecidableEq, Repr

/-! ## The block (R7, R11, R211 to R213) -/

/-- A tile element: FX80 value and the special bits (R11). -/
structure Elem where
  v : BitVec 80 := 0
  sp : Bool := false
  sn : Bool := false
  sq : Bool := false
  deriving DecidableEq, Repr

/-- An accumulator tile (R11), with the poisoned 64-bit words of its storage (R326). -/
structure Tile where
  el : Vector (Vector Elem 64) 64 := Vector.ofFn fun _ => Vector.ofFn fun _ => {}
  steps : Word := 0
  guard : Bool := false
  chain : Bool := false
  /-- MBEG and MEND of the tile so far: orders what was issued before and after them (R182) -/
  epoch : Nat := 0
  poison : List Nat := []
  deriving DecidableEq, Repr

/-- The memory behind the per-lane stacks of a block (R213): the launch that it was reserved for, what was written to it, and its
poisoned sectors (R328). Byte `o` of lane `L` of group `g` stands at `(32 * g + L) * 2^20 + o`. -/
structure StackMem where
  origin : Nat := 0
  bytes : Memory := []
  poison : List Nat := []
  deriving DecidableEq, Repr

/-- A block on a core: scratchpad allocation, poisoned pool words, tiles, per-lane stacks. -/
structure Block where
  launch : Nat
  run : Nat := 1
  index : Nat
  scratch : Memory := []
  poison : List Nat := []
  tiles : Vector Tile 8 := Vector.ofFn fun _ => {}
  stack : StackMem := { origin := launch }
  deriving DecidableEq, Repr

/-! ## The launch (R263 to R284, R295) -/

/-- A range of the ownership map (R276): 1 INPUT, 2 PRIVATE, 3 SHARED-ACCUMULATE. -/
structure OwnRange where
  base : Nat
  size : Nat
  stride : Nat
  kind : Nat
  deriving DecidableEq, Repr

/-- The header of a launch image (R295). -/
structure Image where
  flags : BitVec 16 := 0
  bindid : Word := 0
  codever : Word := 0
  entry : Pc := 0
  griddim : Word := 1
  blockdim : Word := 0x0101
  part : Word := 0x00000101
  nv : Nat := 256
  stack : Nat := 0
  wall : Nat := 0
  utvec : Pc := 0
  srseed : Word := 0
  nextidx : Nat := 0
  spill : DWord := 0
  spillsize : DWord := 0
  nrec : Nat := 0
  own : List OwnRange := []
  deriving DecidableEq, Repr

/-- Where a gang of a launch stands (R264, R265, R283, R331). -/
inductive GangSt where
  | waiting        -- to be granted again (replay, resume)
  | granted        -- in a batch of its die
  | placed         -- resident
  | preempted      -- saved in the image
  | ended          -- every group ended
  | complete       -- logged complete
  | unresolved     -- UNRESOLVED (R284)
  deriving DecidableEq, Repr

/-- What a block record has no place for, of a group: outstanding remote accesses, held failures, the issue state, and
poisoned words of v registers. -/
structure SavedGroup where
  ref : GRef
  pend : Pending
  iss : IssueSt
  vpoison : List (Nat × Nat)
  deriving DecidableEq, Repr

/-- What a block record has no place for, of a block: poisoned words of its scratchpad and of its tiles, and their epochs. -/
structure SavedBlock where
  index : Nat
  poison : List Nat
  tiles : List (List Nat × Nat)
  deriving DecidableEq, Repr

/-- A gang run of a launch. -/
structure Gang where
  index : Nat
  run : Nat := 1
  st : GangSt
  die : Nat := 0
  cluster : Nat := 0
  /-- the gang was placed at some time -/
  placedOnce : Bool := false
  attempts : Nat := 1
  /-- a write was released by streaming or a returning atomic (R280) -/
  released : Bool := false
  /-- the block records that the launch was last resumed from (R332), as bytes -/
  record : List (List Byte) := []
  /-- pre-empted while waiting at a grid barrier (R161) -/
  gridWait : Bool := false
  saved : List SavedGroup := []
  savedBlocks : List SavedBlock := []
  /-- per-lane stacks of its blocks, while the gang is not resident (R213) -/
  stks : List (Nat × StackMem) := []
  /-- sectors that a verify run staged, for R284 -/
  sectors : List Nat := []
  digest : DWord := 0
  placeOrder : Nat := 0
  deriving DecidableEq, Repr

/-- A staged write (R278). -/
structure Staged where
  block : Nat
  run : Nat
  group : Nat
  core : Nat
  tag : Nat
  order : Nat
  sector : Nat                      -- virtual address / 32
  bytes : List (Nat × Byte)         -- (virtual address, byte)
  op : Option (BitVec 4 × BitVec 6) := none  -- a reduction's SUB and type; none for a store
  args : List (Nat × Nat × DWord) := []      -- reduction operands: lane, virtual address, b
  spilled : Bool := false
  mark : Bool := false                       -- data that carries a poison mark (R328)
  deriving DecidableEq, Repr

/-- A node of a communicator (R317). -/
structure CommNode where
  pkg : Nat
  cluster : Nat
  parent : Nat
  ch : List Nat
  own : Option Nat
  deriving DecidableEq, Repr

/-- A registered communicator (R316). -/
structure Comm where
  index : Nat
  cls : BitVec 4
  root : Nat
  rootPos : Nat
  tmo : Nat
  ident : DWord
  /-- positions: block, group, package, node -/
  pos : List (Nat × Nat × Nat × Nat)
  nodes : List CommNode
  deriving DecidableEq, Repr

/-- A partial result: the words of a rounded vector, or exact elements with special bits (R321), the flags of the
steps that made it in the places of FLG (R166), and the positions it holds. -/
structure Partial where
  words : Lanes
  exact : List Elem := []
  flags : BitVec 5 := 0
  posns : DWord := 0
  deriving DecidableEq, Repr

/-- An input of a node (R320). -/
inductive NodeIn where
  | awaited
  | here (p : Partial)
  | missing
  deriving DecidableEq, Repr

/-- What a node holds of a round: its inputs, whether the close has reached it, its result once it has sent it. -/
structure NodeSt where
  own : NodeIn := .awaited
  ch : List NodeIn := []
  closed : Bool := false
  result : Option Partial := none
  deriving DecidableEq, Repr

/-- A round of a slot (R319, R320). -/
structure Round where
  tag : BitVec 16
  /-- a contribution has opened it at the nodes -/
  opened : Bool := false
  nodes : List NodeSt
  dup : Bool := false
  aborted : Bool := false
  /-- the root has sent the close -/
  closing : Bool := false
  /-- a `CRGET` of the round has issued, at a cycle -/
  collect : Bool := false
  started : Nat := 0
  /-- the package whose root group collects it, when that is not this one -/
  collector : Option Nat := none
  deriving DecidableEq, Repr

/-- A communicator slot of a launch (R319). -/
structure Slot where
  comm : Nat
  slot : Nat
  remembered : Option (BitVec 16) := none
  rounds : List Round := []
  /-- contributions accepted and not yet at their node: tag, position, vector -/
  flight : List (BitVec 16 × Nat × Lanes) := []
  deriving DecidableEq, Repr

/-- DETAIL of a kill record (R336). -/
structure KillDetail where
  gang : Word := 0xFFFFFFFF
  attempt : Nat := 0
  fate : Nat := 0
  source : Nat := 0
  split : Nat := 0
  addr : DWord := 0
  expect : Word := 0
  actual : Word := 0
  deriving DecidableEq, Repr

/-- A running launch (R263, R295). -/
structure Launch where
  id : Nat
  /-- what it was before it was resumed from an image: the launches whose `CODESYNC` and whose image are its own -/
  past : List Nat := []
  queue : Nat := 0
  seq : Word := 0
  tenant : Nat := 0
  asid : BitVec 16 := 0
  img : Image := {}
  imageAddr : DWord := 0
  save : DWord := 0
  saveSize : DWord := 0
  resp : DWord := 0
  cbind : Vector DWord 16 := Vector.ofFn fun i => if i = 0 then 0x800000003F800000 else 0
  comms : List Comm := []
  slots : List Slot := []
  next : Nat := 0
  ticket : Nat := 0
  gangs : List Gang := []
  staged : List Staged := []
  orders : Nat := 0
  replayed : Bool := false
  gridRounds : Nat := 0
  /-- cycles that count toward the wall-time limit (R273) -/
  wallUsed : Nat := 0
  /-- code and DETAIL of the KIND 7 record of a launch that is ending -/
  ending : Option (Nat × KillDetail) := none
  /-- the launch ended: it waits for LAUNCH_COMPLETE -/
  aborted : Bool := false
  deriving DecidableEq, Repr

/-! ## Translation and retirement (R221 to R244) -/

/-- An entry of the inverted page table or of the remote-entry array (R223). -/
structure IptEntry where
  vpn : Nat := 0
  asid : BitVec 16 := 0
  vspan : BitVec 8 := 0
  vfirst : Word := 0
  valid : Bool := false
  code : Bool := false
  sm : Bool := false
  wr : Bool := false
  rem : Bool := false
  peer : Nat := 0
  pframe : Nat := 0
  next : Nat := 0x3FFFFFF
  deriving DecidableEq, Repr

/-- A TLB entry of a core (R226). -/
structure TlbEntry where
  core : Nat
  idx : Nat
  asid : BitVec 16
  vpn : Nat
  entry : IptEntry
  phase : Word
  deriving DecidableEq, Repr

/-- A demand-zero range (R229). -/
structure ZeroRange where
  asid : BitVec 16
  index : Nat
  base : Nat
  size : Nat
  wr : Bool
  deriving DecidableEq, Repr

/-- The code versions of an ASID (R218 to R220): the newest, whether it is open, and the versions held. -/
structure CodeVers where
  asid : BitVec 16
  newest : Word
  isOpen : Bool
  held : List Word
  deriving DecidableEq, Repr

/-- A store into a self-modifiable code page, by physical sector: the bytes before and after it by address, and the launches whose
groups see it in every fetch (R155, R156). It stands for what the instruction byte caches and the decoded-operation caches may
still hold (R217). -/
structure CodeStore where
  sector : Nat
  old : List (Nat × Byte)
  new : List (Nat × Byte)
  synced : List Nat := []
  /-- cores that ran a group of a launch at its `CODESYNC`: they hold no older bytes (R217) -/
  cores : List Nat := []
  deriving DecidableEq, Repr

/-- A sector copy of a core's L1 (R214). -/
structure CacheLine where
  core : Nat
  sector : Nat
  bytes : List Byte
  deriving DecidableEq, Repr

/-- The states of the retirement controller between its steps (R233): ANNOUNCE and CLOSE last one cycle each. -/
inductive RetSt where
  | idle | vacate | sweep
  deriving DecidableEq, Repr

/-- The retirement controller (R233 to R243). A retired stack is described by its number and the capacities, in
frames, before and after its retirement: together they are the stack map. -/
structure Retire where
  st : RetSt := .idle
  stack : Nat := 0
  oldCap : Nat := 0
  watermark : Nat := 0
  waiting : Bool := false
  drops : List Nat := []              -- dropped frames
  interval : Nat := 20                -- log2 of the sweep interval
  nextSweep : Nat := 0                -- no region starts before this cycle (R238)
  dead : List Nat := []               -- stacks that stopped answering
  queued : List Nat := []             -- stacks that wait for Close
  swept : Bool := false               -- the whole map has been switched at once (R242)
  history : List (Nat × Nat × Nat) := []
  deriving DecidableEq, Repr

/-- The granules lost with a stack that stopped answering (R242, R243): those of some regions that a map, given by its
retirements, holds on the stack; the sectors written whole since; and the region from which on stores are refused, until
the stack's own retirement has swept it. -/
structure Lost where
  stack : Nat
  history : List (Nat × Nat × Nat)
  fromRegion : Nat
  /-- only regions below; none for all -/
  below : Option Nat := none
  cleared : List Nat := []
  /-- sectors of lane stacks written anew: origin, run and block of the stacks, and the sector there -/
  clearedStacks : List (Nat × Nat × Nat × Nat) := []
  refuseFrom : Option Nat := none
  deriving DecidableEq, Repr

/-- Device memory and its maps. -/
structure Mem where
  bytes : Memory := []                     -- by physical address
  poison : List Nat := []                  -- sectors, physical address / 32
  ipt : List (Nat × IptEntry) := []        -- by entry number; remote entries at 0x2000000 + i
  anchors : List (Nat × Nat) := []         -- anchors that differ from the empty chain
  tlb : List TlbEntry := []
  l1 : List CacheLine := []
  code : List CodeStore := []
  lost : List Lost := []
  pool : List Nat := []                    -- the free-frame pool
  zero : List ZeroRange := []
  vers : List CodeVers := []
  capacity : Nat := 0x1200000
  phase : Word := 0
  ret : Retire := {}
  deriving DecidableEq, Repr

/-! ## Queues and records (R285 to R301) -/

/-- The descriptor of a queue (R285). -/
structure QDesc where
  base : DWord := 0
  rlog : Nat := 12
  tenant : Nat := 0
  asid : BitVec 16 := 0
  exq : Nat := 0xFFFF
  enabled : Bool := false
  devlaunch : Bool := false
  exc : Bool := false
  deriving DecidableEq, Repr

/-- A copy of the queue processor (R294): COPY, or the page of EVICT. -/
structure PkCopy where
  src : Nat
  dst : Nat
  count : Nat
  /-- bytes moved -/
  off : Nat := 0
  /-- EVICT: the ASID and address of the page that is copied out -/
  evict : Option (BitVec 16 × Nat) := none
  /-- source bytes that came from a peer, by virtual address; source sectors asked for -/
  got : List (Nat × Byte) := []
  asked : List Nat := []
  /-- overlapping ranges: pieces from the last to the first, and what the copy overwrote, by virtual address -/
  down : Bool := false
  orig : List (Nat × Byte) := []
  /-- those overwritten bytes whose sector carried a poison mark -/
  origMarks : List Nat := []
  deriving DecidableEq, Repr

/-- A packet that has begun and not completed (R290). -/
structure Running where
  seq : Word
  resp : DWord := 0
  opcode : Nat
  /-- ring offset of the packet -/
  pos : Nat := 0
  /-- outbound requests that must be answered -/
  waits : List Nat := []
  status : Nat := 0
  detail : Nat := 0
  copy : Option PkCopy := none
  /-- the launch, the scale-out transfer or the binding that the packet waits for -/
  launch : Option Nat := none
  /-- tells the packet from others that carried its SEQ before the queue was enabled anew (MODEL'S OWN) -/
  id : Nat := 0
  /-- the queue has been enabled anew since: DONESEQ no longer counts the packet -/
  stale : Bool := false
  deriving DecidableEq, Repr

/-- What the queue processor holds of a queue. -/
structure Queue where
  num : Nat
  desc : QDesc := {}
  ridx : Nat := 0
  expect : Word := 0
  doneSeq : Word := 0xFFFFFFFF
  /-- sequence numbers completed out of order -/
  doneSet : List Word := []
  running : List Running := []
  /-- packets begun so far -/
  begun : Nat := 0
  /-- a packet parsed and not begun: the head (R290) -/
  held : Option Packet := none
  heldSince : Nat := 0
  stopped : Bool := false
  /-- bytes that SKIP passes over for the record that awaits an answer; 0 where it acts as RESUME (R301) -/
  skip : Nat := 0
  /-- bytes that peers have answered the held packet with, by virtual address; sectors asked for; a NACK -/
  got : List (Nat × Byte) := []
  asked : List Nat := []
  failed : Option Nat := none
  deriving DecidableEq, Repr

/-- A record that awaits an answer (R299, R301). -/
structure Awaited where
  ticket : Word
  queue : Nat
  kind : Nat
  code : Nat
  group : Option GRef := none
  launch : Nat := 0
  gang : Nat := 0
  /-- the split and the instruction of a page fault -/
  split : Nat := 0xFF
  pc : Pc := 0
  deriving DecidableEq, Repr

/-- A record that waits for room or for a mapping in its exception queue (R288, R299). -/
structure WaitingRec where
  exq : Nat
  src : Nat
  bytes : List Byte
  deriving DecidableEq, Repr

/-- A binding (R254 to R257). -/
structure Binding where
  id : Word
  asid : BitVec 16
  bound : Bool
  entries : Vector DWord 16
  deriving DecidableEq, Repr

/-- Tenancy (R270 to R275). -/
structure Tenant where
  slot : Nat
  weight : Nat := 0
  nextWeight : Nat := 0
  /-- core-cycles times 94 charged in this period -/
  used : Nat := 0
  repay : Nat := 0
  credit : Nat := 0
  units : DWord := 0
  hbm : DWord := 0
  fabric : DWord := 0
  /-- the tenant's blocks were resident since its counters were last reported: HBM bytes may have moved (log 27) -/
  ran : Bool := false
  deriving DecidableEq, Repr

/-- A debt record (R272). -/
structure Debt where
  borrower : Nat
  lender : Nat
  amount : Nat
  deriving DecidableEq, Repr

/-- A compute die (R263 to R266). -/
structure Die where
  alive : Bool := true
  /-- heartbeats missed in a row, and the exchange of the latest -/
  missed : Nat := 0
  lastMiss : Nat := 0
  /-- the base logic has reported the die failed (R266) -/
  failed : Bool := false
  /-- the issued-range log: launch, die, first block, last block -/
  grants : List (Nat × Nat × Nat × Nat) := []
  /-- logged complete: launch, gang -/
  completes : List (Nat × Nat) := []
  deriving DecidableEq, Repr

/-! ## Fabric, scale-out, power, attestation -/

/-- STATE of a port (R306). -/
inductive PortSt where
  | down | train | active | fenced | disabled
  deriving DecidableEq, Repr

/-- A port (R306). -/
structure Port where
  st : PortSt := .down
  partner : Nat := 0
  pport : Nat := 0
  epoch : Word := 0
  retries : Word := 0
  /-- the cycle in which it last began to train, or gave up (R307) -/
  tried : Nat := 0
  deriving DecidableEq, Repr

/-- Who waits for the answer to an outbound request (R309). -/
inductive ReqOwner where
  | mem (g : GRef) (op sector : Nat)
  | copyRead (g : GRef) (op sector : Nat)
  | copyWrite (g : GRef) (op piece : Nat)
  | gatherRead (g : GRef) (op sector : Nat)
  /-- a read for the packet at the head of a queue: the sector -/
  | fetch (q : Nat) (sector : Nat)
  /-- a write of a packet -/
  | packet (q : Nat) (id : Nat)
  /-- a read of a packet's copy: the sector -/
  | packetRead (q : Nat) (id : Nat) (sector : Nat)
  /-- a released staged write of a launch -/
  | launch (launch : Nat)
  | nobody
  deriving DecidableEq, Repr

/-- An outbound request (R309): the peer, the frame and offset there, the bytes of a write. -/
structure OutReq where
  id : Nat
  owner : ReqOwner
  asid : BitVec 16
  queue : Nat
  peer : Nat
  pframe : Nat
  off : Nat
  va : DWord
  acc : Nat
  size : Nat := 32
  data : List (Nat × Byte) := []       -- (offset in the sector, byte)
  mark : Bool := false                 -- data that carries a poison mark (R328)
  args : List (Nat × Nat × DWord × DWord) := []  -- an atomic's lanes: lane, offset, operands
  op : BitVec 4 := 0
  typ : BitVec 6 := 0
  epoch : Word := 0
  sent : Nat := 0
  deriving DecidableEq, Repr

/-- What a packet of a round carries between packages (R314, R320, R321; log 127): a contribution of a position, a node's result, the
close on its way to a node, a notice. -/
inductive CollPacket where
  | contribution (pos : Nat) (words : List Byte)
  | result (node : Nat) (bytes : List Byte) (flags : BitVec 5) (posns : DWord) (dup aborted : Bool)
  | close (node : Nat)
  | notice (n : RoundNotice)
  deriving DecidableEq, Repr

/-- What a message carries: a fragment of a management message (R344), or a packet of a round under the communicator's IDENT (R321). -/
inductive OutBody where
  | mgmt (bytes : List Byte)
  | coll (ident : DWord) (slot : Nat) (tag : BitVec 16) (p : CollPacket)
  deriving DecidableEq, Repr

/-- A message that left the package: its receiver, the epoch at which it was injected (R313), and what it carries. -/
structure OutMsg where
  peer : Nat
  epoch : Word
  body : OutBody
  deriving DecidableEq, Repr

/-- An answer to an inbound request, and the epoch at which it left (R309, R313). -/
structure OutReply where
  peer : Nat
  epoch : Word
  reply : Reply
  deriving DecidableEq, Repr

/-- The fabric (R305 to R313). -/
structure Fabric where
  ports : List Port := []
  changes : Word := 0
  epoch : Word := 0
  /-- the drain round in progress, and the cycle in which the update came (R313) -/
  drain : Nat := 0
  drainAt : Nat := 0
  position : Nat := 0
  nextReq : Nat := 0
  reqs : List OutReq := []
  /-- T_REMOTE in units of 50 us (R312) -/
  tRemote : Nat := 10
  /-- messages sent out (collectives and management) -/
  sent : List OutMsg := []
  /-- link-state updates that this package flooded (R313) -/
  updates : List LinkUpdate := []
  /-- answers to inbound requests (R309, R310) -/
  replies : List OutReply := []
  /-- packages declared dead (R313) -/
  dead : List Nat := []
  deriving DecidableEq, Repr

/-- A scale-out transfer (R322): its packet, its remote end, and the cycle in which its last byte was sent. -/
structure Transfer where
  id : Nat
  queue : Nat
  packet : Nat
  write : Bool
  bytes : Nat
  remote : List Byte
  udp : Nat
  rkey : DWord
  raddr : DWord
  started : Nat
  deriving DecidableEq, Repr

/-- Bytes that the scale-out engine sent to a remote end (R322). -/
structure ScoutMsg where
  remote : List Byte
  udp : Nat
  rkey : DWord
  addr : Nat
  bytes : List Byte
  mark : Bool
  deriving DecidableEq, Repr

/-- The scale-out engine (R322, R323). -/
structure Scout where
  locals : List (Nat × Nat × List Byte) := []   -- port, UDP port, IPv6 address
  keys : List ScoutKey := []
  timeout : Nat := 100
  nextId : Nat := 0
  transfers : List Transfer := []
  sent : List ScoutMsg := []
  /-- answers to inbound transfers (R323) -/
  replies : List Reply := []
  deriving DecidableEq, Repr

/-- A power island (R346, R347). -/
inductive Island where
  | on | idle | off
  /-- a cluster asked to go OFF that still holds a gang -/
  | goingOff
  deriving DecidableEq, Repr

/-- What the firmware reports to the runtime at stage 5 (R222, R286, R306, R339): the count of firmware-held frames, the frames of
the two queues, and the physical address of the port status table. -/
structure BootReport where
  held : Nat
  owner : Nat
  records : Nat
  ports : Nat
  deriving DecidableEq, Repr

/-- Power-up and power (R339 to R348). -/
structure Power where
  /-- stages of power-up that have ended; 6 when the package runs -/
  stage : Nat := 0
  /-- the stage and the stack of a failure; the part is in recovery -/
  recovery : Option (Nat × Option Nat) := none
  islands : Vector Island 128 := Vector.ofFn fun _ => .on
  /-- the power limit in watts -/
  limit : Nat := 2800
  duty : Nat := 16
  /-- the image that runs, the flash image, the anti-rollback fuse -/
  running : FlashImage := { number := 0, version := 0, rsaOk := true, slhOk := true }
  flash : FlashImage := { number := 0, version := 0, rsaOk := true, slhOk := true }
  fuse : Nat := 0
  /-- what the boot logic meets at the next power-up -/
  outcome : PowerUpOutcome := { failedStack := none, failedStage := 0, trained := [], position := 0 }
  /-- the report of stage 5 -/
  report : Option BootReport := none
  /-- the attestation keys of stage 6 -/
  key : Option AttestKey := none
  deriving DecidableEq, Repr

/-- The fragments of a message that have come so far (R344): who sends it, its transfer, its number of fragments and its bytes. -/
structure MsgPart where
  src : Nat
  xfer : Word
  secured : Bool
  next : Nat
  bytes : List Byte
  deriving DecidableEq, Repr

/-- The SPDM responder (R343, R344). -/
structure Spdm where
  /-- 0 nothing, 1 version, 2 capabilities, 3 algorithms -/
  negotiated : Nat := 0
  /-- a session stands in its handshake: the encapsulated requests done (0, 1, 2) -/
  handshake : Option Nat := none
  session : Bool := false
  /-- the root hash that the requester's chain proved -/
  peerRoot : BitVec 384 := 0
  /-- the owner-root fuses; none while blank -/
  ownerRoot : Option (BitVec 384) := none
  inbox : Mgmt := {}
  /-- messages of which fragments have come and others not -/
  parts : List MsgPart := []
  /-- report requests that wait for stage 6: the usage report, or the device report -/
  waiting : List (Bool × Mgmt) := []
  /-- answers sent: receiver, XFER, secured, the SPDM message -/
  out : List (Nat × Word × Bool × List Byte) := []
  deriving DecidableEq, Repr

/-- Error counters of the firmware (R327). -/
structure ErrCounts where
  hbmCorrected : List (Nat × Nat) := []
  dieCorrected : List (Nat × Nat) := []
  poolCorrected : List (Nat × Nat) := []
  hbm : List (Nat × Nat) := []
  die : List (Nat × Nat) := []
  pool : List (Nat × Nat) := []
  deriving DecidableEq, Repr

/-! ## The package -/

/-- What the outside world and the schedule do next (MODEL'S OWN, log 3). -/
inductive Agenda where
  | event (i : Instr)
  /-- the group's split issues next (R268) -/
  | choose (g : GRef) (split : BitVec 3)
  /-- cycles pass in which nothing issues -/
  | elapse (n : Nat)
  /-- a whole management message arrives and is answered -/
  | deliver (m : Mgmt)
  /-- a management message arrives: one fragment, behind its header (R344) -/
  | fragment (bytes : List Byte)
  /-- an error is corrected (R326, R327) -/
  | corrected (x : CorrectedAt)
  /-- the base logic of a die reports it failed (R266) -/
  | dieFails (die : Nat)
  /-- what the boot logic will meet at the next power-up -/
  | boot (o : PowerUpOutcome)
  /-- the package loses power and comes up again -/
  | powerCycle
  /-- up to `n` of the events that can happen by default happen -/
  | settle (n : Nat)
  /-- a pass of the queue processor over queues: the heads of a class are served next, and the queues that held one as the pass began
  are parsed as soon as it has left (R291) -/
  | serve (queues late : List Nat) (cls : Nat)
  deriving DecidableEq, Repr

/-- An issue that the ports chose at the start of the cycle (R88): a split, whether it is the lower-numbered or the
higher-numbered one of its group's two. -/
structure IssueSlot where
  ref : GRef
  split : BitVec 3
  first : Bool := false
  second : Bool := false
  deriving DecidableEq, Repr

/-- Where the cycle stands (MODEL'S OWN, log 14): a step performs one issue of the cycle, the instructions of a pair in split
order. -/
structure Turn where
  /-- the issues that are still to be performed in this cycle -/
  slots : List IssueSlot := []
  /-- the running split has been chosen and has not issued -/
  live : Bool := false
  /-- it is the second of its group's pair -/
  second : Bool := false
  /-- the pair's first instruction raises a cause (R51) -/
  trapped : Bool := false
  /-- the v registers before the pair's first instruction (R110) -/
  before : Option (Vector Lanes 256) := none
  /-- the group-scoped registers before the pair's first instruction (R171) -/
  ctl : Option (GroupRegs × TrapRegs) := none
  deriving DecidableEq, Repr

/-- What the package keeps of an image that it saved: the ASID and the address, the code version that the image holds (R219), the
launch that it is of and what that was before, the image's block records, by which a copy of it is known, the stacks of its blocks
(R213), and what its records have no place for. -/
structure SavedStacks where
  asid : BitVec 16
  image : Nat
  codever : Word := 0
  ids : List Nat := []
  records : List (List Byte) := []
  stks : List (Nat × StackMem)
  groups : List SavedGroup := []
  blocks : List SavedBlock := []
  deriving DecidableEq, Repr

/-- The state of the package. -/
structure State where
  part : Part := .p4180
  cycle : DWord := 0
  cur : Group := {}
  others : List Group := []
  blocks : List Block := []
  launches : List Launch := []
  nextLaunch : Nat := 1
  laneStacks : List SavedStacks := []
  mem : Mem := {}
  queues : List Queue := []
  awaited : List Awaited := []
  waitingRecs : List WaitingRec := []
  nextTicket : Word := 1
  bindings : List Binding := []
  nextBind : Word := 1
  tenants : List Tenant := []
  debts : List Debt := []
  /-- periods that have begun (R270) -/
  period : Nat := 0
  dies : List Die := []
  leader : Nat := 0
  /-- groups created or resumed by each core so far (R267) -/
  ages : List (Nat × Nat) := []
  /-- gangs placed so far -/
  places : Nat := 0
  turn : Turn := {}
  fabric : Fabric := {}
  scout : Scout := {}
  power : Power := {}
  spdm : Spdm := {}
  errs : ErrCounts := {}
  agenda : List Agenda := []
  /-- `$stvec` after a supervisor write; none while it holds the firmware's value `Config.stvec` (R16) -/
  stvec : Option Pc := none
  /-- numbers the free values drawn (MODEL'S OWN, log 12) -/
  fresh : Nat := 0
  deriving DecidableEq, Repr

/-- Why a step stops the machine. -/
inductive Fault where
  /-- Raised by HEARTBEAT_MISS when the last live compute die is lost: the manual names no leader then (R266). Safe. -/
  | noLiveDie
  deriving DecidableEq, Repr

/-- Why the model gives a step no meaning. -/
inductive Refusal where
  /-- Raised by an arm of `exec` whose instruction has no meaning yet. Safe. -/
  | notModelled (mnemonic : String)
  deriving DecidableEq, Repr

/-- Ports of a part before power-up: enabled ones DOWN, the rest DISABLED (R306). -/
def initialPorts (p : Part) : List Port :=
  (List.range 256).map fun i => if i < Config.ports p then {} else { st := .disabled }

/-- The state before power-up: stage 0 of R339, nothing resident, memory with nothing listed. -/
def State.reset : State :=
  { fabric := { ports := initialPorts .p4180 }
    dies := List.replicate (Config.dies .p4180) {}
    mem := { capacity := Config.frames .p4180 } }

end Sys2Proof.Machine
end

