-- ==== Sys2Proof/Machine/Mem.lean ====
section
/-! DEFINITION. Operations over the canonical memory list, byte order, and sorted lists of numbers. -/

namespace Sys2Proof.Machine

/-! ## Bytes and numbers, little-endian (R137) -/

/-- The number that bytes hold, lowest address first. -/
def leNat : List Byte → Nat
  | [] => 0
  | b :: bs => b.toNat + 256 * leNat bs

/-- The low `n` bytes of a number, lowest address first. -/
def leBytes : Nat → Nat → List Byte
  | 0, _ => []
  | n + 1, x => BitVec.ofNat 8 x :: leBytes n (x / 256)

/-! ## Memory -/

/-- What an unlisted address reads as (log 2). -/
def unlisted : Byte := 0

/-- One byte. The laws of reads and writes hold of every list, canonical or not. -/
def Memory.read : Memory → Nat → Byte
  | [], _ => unlisted
  | (k, b) :: m, a => if k = a then b else Memory.read m a

/-- Addresses strictly rise; any byte may be listed: the form of stacks, which hold what nothing has written as a free value
(R213). -/
abbrev Memory.rises (m : Memory) : Prop := m.Pairwise fun x y => x.1 < y.1

/-- Removes an address from a memory. -/
def Memory.erase : Memory → Nat → Memory
  | [], _ => []
  | (k, b) :: m, a => if k = a then Memory.erase m a else (k, b) :: Memory.erase m a

/-- Lists a byte, whatever its value. -/
def Memory.put : Memory → Nat → Byte → Memory
  | [], a, x => [(a, x)]
  | (k, b) :: m, a, x =>
    if k = a then (a, x) :: m else if a < k then (a, x) :: (k, b) :: m else (k, b) :: Memory.put m a x

/-- Writes one byte and keeps the canonical form. -/
def Memory.write (m : Memory) (a : Nat) (x : Byte) : Memory :=
  if x = unlisted then m.erase a else m.put a x

/-- Every address of the list is above `a`, and the rest rises. -/
def Memory.risesFrom : Nat → Memory → Bool
  | _, [] => true
  | a, (k, b) :: m => decide (a < k) && decide (b ≠ unlisted) && Memory.risesFrom k m

/-- The canonical form: addresses strictly rising, no entry equal to what an unlisted address reads as. -/
def Memory.wf : Memory → Bool
  | [] => true
  | (k, b) :: m => decide (b ≠ unlisted) && Memory.risesFrom k m

/-- `n` bytes from `a` upward. -/
def Memory.readN (m : Memory) (a n : Nat) : List Byte := (List.range n).map fun i => m.read (a + i)

/-- Writes bytes from `a` upward. -/
def Memory.writeN (m : Memory) (a : Nat) : List Byte → Memory
  | [] => m
  | b :: bs => (m.write a b).writeN (a + 1) bs

/-- Lists bytes, whatever their values. -/
def Memory.putList (m : Memory) (l : List (Nat × Byte)) : Memory := l.foldl (fun m p => m.put p.1 p.2) m

/-- Writes listed bytes and keeps the canonical form. -/
def Memory.writeList (m : Memory) (l : List (Nat × Byte)) : Memory := l.foldl (fun m p => m.write p.1 p.2) m

/-! ## Byte lists by location -/

/-- The byte that a list gives a location, the latest listed first. -/
def byteAt (l : List (Nat × Byte)) (a : Nat) : Option Byte := (l.find? fun p => p.1 = a).map (·.2)

/-- Sorted insertion without repeats. -/
def setAdd : List Nat → Nat → List Nat
  | [], a => [a]
  | k :: l, a => if k = a then k :: l else if a < k then a :: k :: l else k :: setAdd l a

/-- Removal. -/
def setDel (l : List Nat) (a : Nat) : List Nat := l.filter (· ≠ a)

/-- Insertion of many. -/
def setAddAll (l xs : List Nat) : List Nat := xs.foldl setAdd l

/-- The numbers from `lo` to `hi - 1`. -/
def span (lo hi : Nat) : List Nat := (List.range (hi - lo)).map (lo + ·)

/-- Sectors of 32 bytes that `n` bytes from `a` touch. -/
def sectorsOf (a n : Nat) : List Nat := if n = 0 then [] else span (a / 32) ((a + n - 1) / 32 + 1)

/-! ## Association lists -/

/-- The value of a key. -/
def assoc {α : Type} (l : List (Nat × α)) (k : Nat) : Option α := (l.find? fun p => p.1 = k).map (·.2)

/-- Puts an element in the place of the first that a test accepts, at the end when there is none. -/
def putWhere {α : Type} (p : α → Bool) (x : α) : List α → List α
  | [] => [x]
  | y :: l => if p y then x :: l else y :: putWhere p x l

/-- Sets the value of a key. -/
def assocSet {α : Type} (l : List (Nat × α)) (k : Nat) (x : α) : List (Nat × α) := putWhere (fun p => p.1 = k) (k, x) l

/-- Removes a key. -/
def assocDel {α : Type} (l : List (Nat × α)) (k : Nat) : List (Nat × α) := l.filter (fun p => p.1 ≠ k)

/-- Replaces the first element that a test accepts. -/
def replaceFirst {α : Type} (p : α → Bool) (f : α → α) : List α → List α
  | [] => []
  | x :: l => if p x then f x :: l else x :: replaceFirst p f l

/-- Adds one to a counter of a list. -/
def bump (l : List (Nat × Nat)) (k : Nat) : List (Nat × Nat) := assocSet l k ((assoc l k).getD 0 + 1)

end Sys2Proof.Machine
end

