-- ==== Sys2Proof/Machine/Look.lean ====
section
/-! DEFINITION. Named access to groups, splits, blocks, launches and registers. Every read or write of a register goes
through the operations of this file (R9, R10, R12, R16). -/

namespace Sys2Proof.Machine

/-! ## Groups -/

/-- The name of a group. -/
def Group.ref (g : Group) : GRef := ⟨g.launch, g.block, g.index, g.run⟩

/-- The group is the resident one that the name means. -/
def Group.isRef (g : Group) (r : GRef) : Bool := g.resident && decide (g.ref = r)

/-- A resident group by name. -/
def State.group? (s : State) (r : GRef) : Option Group :=
  if s.cur.isRef r then some s.cur else s.others.find? (·.isRef r)

/-- Applies a change to the group of a name. -/
def State.onGroup (s : State) (r : GRef) (f : Group → Group) : State :=
  if s.cur.isRef r then { s with cur := f s.cur }
  else { s with others := replaceFirst (·.isRef r) f s.others }

/-- Every resident group, the running one first. -/
def State.groups (s : State) : List Group := (if s.cur.resident then [s.cur] else []) ++ s.others.filter (·.resident)

/-- Applies a change to every resident group that a test accepts. -/
def State.mapGroups (s : State) (p : Group → Bool) (f : Group → Group) : State :=
  let h := fun g : Group => if g.resident && p g then f g else g
  { s with cur := h s.cur, others := s.others.map h }

/-- Takes the group of a name as the running group. -/
def State.focus (s : State) (r : GRef) : State :=
  if s.cur.isRef r then s
  else match s.others.find? (·.isRef r) with
    | none => s
    | some g => { s with cur := g, others := (if s.cur.resident then [s.cur] else []) ++ s.others.filter (fun h => !h.isRef r) }

/-- Removes the groups that a test accepts. The running slot becomes empty when its group goes. -/
def State.dropGroups (s : State) (p : Group → Bool) : State :=
  { s with cur := if s.cur.resident && p s.cur then {} else s.cur
           others := s.others.filter fun g => !(g.resident && p g) }

/-! ## Splits -/

/-- Entry `n`. -/
def Group.entry (g : Group) (n : BitVec 3) : Split := g.splits[n.toNat]'n.isLt

/-- Changes entry `n`. -/
def Group.setEntry (g : Group) (n : BitVec 3) (e : Split) : Group :=
  { g with splits := g.splits.set n.toNat e n.isLt }

/-- The running split's entry. -/
def Group.sp (g : Group) : Split := g.entry g.running

/-- SPLIT of a record about an operation of a split: its number, 0xFF while it stands in the overflow area (R336). -/
def Owner.num : Owner → Nat
  | .entry n => n.toNat
  | .slot _ => 0xFF

/-- Changes the running split's entry. -/
def Group.setSp (g : Group) (e : Split) : Group := g.setEntry g.running e

/-- `$exec` of the running split. -/
def Group.exec (g : Group) : Word := g.sp.mask

/-- The split numbers. -/
def splitNums : List (BitVec 3) := (List.range 8).map (BitVec.ofNat 3)

/-- The numbers of the valid entries, ascending. -/
def Group.validNums (g : Group) : List (BitVec 3) := splitNums.filter fun n => (g.entry n).v

/-- The lowest free number, if one is free. -/
def Group.freeNum (g : Group) : Option (BitVec 3) := splitNums.find? fun n => !(g.entry n).v

/-- The split that runs a user handler freezes the others (R19). -/
def Group.handler (g : Group) : Option (BitVec 3) := splitNums.find? fun n => (g.entry n).v && (g.entry n).inh

/-- A split in supervisor mode (R21). -/
def Group.isSup (g : Group) (n : BitVec 3) : Bool := g.sup.any fun sv => decide (sv.split = n)

/-- No user handler of another split freezes the split; one that the page-fault handler serves goes on (R19, log 16). -/
def Group.unfrozen (g : Group) (n : BitVec 3) : Bool :=
  match g.handler with
  | some h => decide (h = n) || g.isSup n
  | none => true

/-- A join slot. -/
def Group.join (g : Group) (j : BitVec 3) : Join := g.joins[j.toNat]'j.isLt

/-- Changes a join slot. -/
def Group.setJoin (g : Group) (j : BitVec 3) (x : Join) : Group :=
  { g with joins := g.joins.set j.toNat x j.isLt }

/-- The running split is in supervisor mode (R21). -/
def Group.supervisor (g : Group) : Bool :=
  match g.sup with
  | some sv => decide (sv.split = g.running)
  | none => false

/-! ## Registers -/

/-- v register `n` (R9). -/
def RegFile.getV (r : RegFile) (n : BitVec 8) : Lanes := r.v[n.toNat]'n.isLt

/-- Number of an s register, in range. -/
def sIdx (n : BitVec 8) : Nat := n.toNat % 64

theorem sIdx_lt (n : BitVec 8) : sIdx n < 64 := Nat.mod_lt _ (by decide)

/-- s register `n` (R9). -/
def RegFile.getS (r : RegFile) (n : BitVec 8) : Word := r.s[sIdx n]'(sIdx_lt n)

/-- Number of a k register, in range. -/
def kIdx (n : BitVec 8) : Nat := n.toNat % 16

theorem kIdx_lt (n : BitVec 8) : kIdx n < 16 := Nat.mod_lt _ (by decide)

/-- k register `n`; k0 reads all ones (R9). -/
def RegFile.getK (r : RegFile) (n : BitVec 8) : Word := if kIdx n = 0 then 0xFFFFFFFF else r.k[kIdx n]'(kIdx_lt n)

/-- Writes k register `n`; a write to k0 is discarded (R9). -/
def RegFile.setK (r : RegFile) (n : BitVec 8) (x : Word) : RegFile :=
  if kIdx n = 0 then r else { r with k := r.k.set (kIdx n) x (kIdx_lt n) }

/-- The words of a v register whose poison mark a write of the lanes of `m` clears: both lanes of the word (R328). -/
def coveredWords (m : Word) : List Nat := (List.range 16).filter fun w => m.getLsbD (2 * w) && m.getLsbD (2 * w + 1)

/-- Writes the lanes of `m` of a v register; the other lanes keep their values. The state is not changed. -/
def RegFile.putV (r : RegFile) (n : BitVec 8) (m : Word) (x : Lanes) : RegFile :=
  { r with v := r.v.set n.toNat (Lanes.mk fun l => if maskBit m l then x.get l else (r.getV n).get l) n.isLt
           vpoison := r.vpoison.filter fun p => !(decide (p.1 = n.toNat) && (coveredWords m).contains p.2) }

/-- The state of a register (R10). -/
def RegFile.stOf (r : RegFile) : Reg → RegSt
  | .v n => r.vst[n.toNat]'n.isLt
  | .s n => r.sst[sIdx n]'(sIdx_lt n)

/-- Sets the state of a register. -/
def RegFile.setSt (r : RegFile) (x : RegSt) : Reg → RegFile
  | .v n => { r with vst := r.vst.set n.toNat x n.isLt }
  | .s n => { r with sst := r.sst.set (sIdx n) x (sIdx_lt n) }

/-- An instruction's write of the lanes of `m` of a v register leaves it FULL (R10). -/
def RegFile.writeV (r : RegFile) (n : BitVec 8) (m : Word) (x : Lanes) : RegFile := (r.putV n m x).setSt .full (.v n)

/-- Writes an s register without a change of state. -/
def RegFile.putS (r : RegFile) (n : BitVec 8) (x : Word) : RegFile := { r with s := r.s.set (sIdx n) x (sIdx_lt n) }

/-- An instruction's write of an s register leaves it FULL (R10). -/
def RegFile.writeS (r : RegFile) (n : BitVec 8) (x : Word) : RegFile := (r.putS n x).setSt .full (.s n)

/-- An s pair: the even register holds bits [31:0] (R9). -/
def RegFile.getPair (r : RegFile) (n : BitVec 8) : DWord := r.getS (n + 1) ++ r.getS n

/-- Writes an s pair. -/
def RegFile.writePair (r : RegFile) (n : BitVec 8) (x : DWord) : RegFile :=
  (r.writeS n (x.extractLsb' 0 32)).writeS (n + 1) (x.extractLsb' 32 32)

/-- Lane `l` of a v pair. -/
def RegFile.vPair (r : RegFile) (n : BitVec 8) (l : Fin 32) : DWord := (r.getV (n + 1)).get l ++ (r.getV n).get l

/-- The register is a destination of an outstanding producer of the group (R10). -/
def Group.producing (g : Group) (x : Reg) : Bool :=
  g.pend.mem.any (fun o => o.dst.contains x) ||
  g.pend.cp.any (fun c => decide (Reg.s c.token = x)) ||
  g.pend.co.any (fun c => match c with
    | .put .. => false
    | .get _ _ _ _ d sA _ _ => decide (Reg.v d = x) || (List.range 4).any fun i => decide (Reg.s (sA + BitVec.ofNat 8 i) = x))

/-- Applies a change to the registers of the running group. -/
def State.onRegs (s : State) (f : RegFile → RegFile) : State := { s with cur := { s.cur with regs := f s.cur.regs } }

/-- Applies a change to the entry of the running split. -/
def State.onSp (s : State) (f : Split → Split) : State := { s with cur := s.cur.setSp (f s.cur.sp) }

/-- Applies a change to the group-scoped registers of the running group. -/
def State.onCtl (s : State) (f : GroupRegs → GroupRegs) : State := { s with cur := { s.cur with ctl := f s.cur.ctl } }

/-- `$srstate` given zero stores 1 (R16). -/
def storeSr (x : Word) : Word := if x = 0 then 1 else x

/-! ## Launches and blocks -/

/-- A launch by number. -/
def State.launch? (s : State) (id : Nat) : Option Launch := s.launches.find? (·.id = id)

/-- The launch of a number; an empty one when there is none. -/
def State.lch (s : State) (id : Nat) : Launch := (s.launch? id).getD { id := id }

/-- Applies a change to a launch. -/
def State.onLaunch (s : State) (id : Nat) (f : Launch → Launch) : State :=
  { s with launches := replaceFirst (·.id = id) f s.launches }

/-- Blocks per gang, B (R8, R16). -/
def Image.bdim (i : Image) : Nat := max 1 (i.blockdim.extractLsb' 8 5).toNat

/-- Groups per block, G (R8, R16). -/
def Image.gdim (i : Image) : Nat := max 1 (i.blockdim.extractLsb' 0 6).toNat

/-- Scratchpad bytes of a block (R209, R212). -/
def Image.scratchSize (i : Image) : Nat := (i.part.extractLsb' 8 7).toNat * 16384

/-- Na: tiles of a block (R209). -/
def Image.na (i : Image) : Nat := (i.part.extractLsb' 16 5).toNat / 3

/-- Partition units of a block (R208, R209). -/
def Image.units (i : Image) : Nat :=
  (i.part.extractLsb' 0 7).toNat + (i.part.extractLsb' 8 7).toNat + (i.part.extractLsb' 16 5).toNat

/-- The launch is deterministic, replayable, verified, resumed (R295). -/
def Image.det (i : Image) : Bool := i.flags.getLsbD 0
def Image.replay (i : Image) : Bool := i.flags.getLsbD 1
def Image.verify (i : Image) : Bool := i.det && i.flags.getLsbD 2
def Image.resumed (i : Image) : Bool := i.flags.getLsbD 3

/-- Gangs of the grid (R8). -/
def Image.gangs (i : Image) : Nat := (i.griddim.toNat + i.bdim - 1) / i.bdim

/-- The blocks of a gang: the last gang may be smaller (R8). -/
def Image.gangBlocks (i : Image) (gang : Nat) : List Nat := span (gang * i.bdim) (min ((gang + 1) * i.bdim) i.griddim.toNat)

/-- The launch of a group. -/
def State.lchOf (s : State) (g : Group) : Launch := s.lch g.launch

/-- Gang index and position in the gang of a block (R8). -/
def Launch.gangOf (l : Launch) (block : Nat) : Nat := block / l.img.bdim
def Launch.posOf (l : Launch) (block : Nat) : Nat := block % l.img.bdim

/-- The core of a block: position mod 4 of its cluster (R211), numbered over the package. -/
def State.coreOf (s : State) (g : Group) : Nat := 4 * g.cluster + (s.lchOf g).posOf g.block % 4

/-- A block. -/
def State.block? (s : State) (launch run index : Nat) : Option Block :=
  s.blocks.find? fun b => b.launch = launch ∧ b.run = run ∧ b.index = index

/-- The block of a group; an empty one when there is none. -/
def State.blockOf (s : State) (g : Group) : Block :=
  (s.block? g.launch g.run g.block).getD { launch := g.launch, run := g.run, index := g.block }

/-- Applies a change to a block. -/
def State.onBlock (s : State) (launch run index : Nat) (f : Block → Block) : State :=
  { s with blocks := replaceFirst (fun b => b.launch = launch ∧ b.run = run ∧ b.index = index) f s.blocks }

/-- The gang run of a group. -/
def Launch.gang? (l : Launch) (gang run : Nat) : Option Gang := l.gangs.find? fun k => k.index = gang ∧ k.run = run

/-- Applies a change to a gang run. -/
def Launch.onGang (l : Launch) (gang run : Nat) (f : Gang → Gang) : Launch :=
  { l with gangs := replaceFirst (fun k => k.index = gang ∧ k.run = run) f l.gangs }

/-- A queue by number. -/
def State.queue? (s : State) (q : Nat) : Option Queue := s.queues.find? (·.num = q)

/-- The queue of a number; a disabled one when the firmware holds none. -/
def State.queueOf (s : State) (q : Nat) : Queue := (s.queue? q).getD { num := q }

/-- Applies a change to a queue. -/
def State.onQueue (s : State) (q : Nat) (f : Queue → Queue) : State :=
  match s.queue? q with
  | some _ => { s with queues := replaceFirst (·.num = q) f s.queues }
  | none => { s with queues := s.queues ++ [f { num := q }] }

/-- A die is alive. -/
def State.dieAlive (s : State) (d : Nat) : Bool :=
  match s.dies[d]? with
  | some x => x.alive
  | none => false

/-- The die of a cluster (R314). -/
def dieOfCluster (c : Nat) : Nat := c / Config.clustersPerDie

/-- Appends to the agenda's front: what the step must do next. -/
def State.pushAgenda (s : State) (l : List Agenda) : State := { s with agenda := l ++ s.agenda }

/-- Draws a free choice (log 12). -/
def State.drawBool (s : State) : Bool × State := (Config.freeBool s.fresh, { s with fresh := s.fresh + 1 })

/-- Draws a free 16-bit number: a CODE that the manual does not state. -/
def State.drawCode (s : State) : Nat × State := ((Config.freeWord s.fresh).toNat % 65536, { s with fresh := s.fresh + 1 })

/-- The count of firmware-held frames (R222): the part and the image that runs fix it. -/
def State.heldFrames (s : State) : Nat := Config.firmwareFrames s.part s.power.running.number

end Sys2Proof.Machine
end

