-- ==== Sys2Proof/Machine/Xlate.lean ====
section
/-! DEFINITION. Device memory: the inverted page table (R223 to R226), the stack map (R221, R237), poison marks
(R328, R239, R243), and reads and writes by physical address. -/

namespace Sys2Proof.Machine

/-! ## The inverted page table -/

/-- The end of a chain (R223). -/
def chainEnd : Nat := 0x3FFFFFF

/-- The first entry number of the remote-entry array (R223). -/
def remoteBase : Nat := 0x2000000

/-- The anchor of a page (R224). -/
def anchorIndex (asid : BitVec 16) (vpn : Nat) : Nat :=
  let x := Nat.xor vpn (asid.toNat * 2 ^ 24)
  (x * 0x9E3779B97F4A7C15 % 2 ^ 64) / 2 ^ 39

/-- Entry `i` (R223). -/
def Mem.entry (m : Mem) (i : Nat) : IptEntry := (assoc m.ipt i).getD {}

/-- HEAD of an anchor (R224). -/
def Mem.head (m : Mem) (a : Nat) : Nat := (assoc m.anchors a).getD chainEnd

/-- The entry serves a code version (R225). -/
def inSpan (e : IptEntry) (ver : Word) : Bool :=
  let d := (ver - e.vfirst).toNat
  (e.vspan.toNat < 0xFF && d ≤ e.vspan.toNat) || (e.vspan.toNat = 0xFF && d < 2 ^ 31)

/-- The entry serves a page for a version (R225). -/
def IptEntry.serves (e : IptEntry) (asid : BitVec 16) (vpn : Nat) (ver : Word) : Bool :=
  e.valid && decide (e.asid = asid) && decide (e.vpn = vpn) && (!e.code || inSpan e ver)

/-- A walk along a chain (R225). -/
def Mem.walkFrom (m : Mem) (asid : BitVec 16) (vpn : Nat) (ver : Word) : Nat → Nat → Option (Nat × IptEntry)
  | 0, _ => none
  | n + 1, i =>
    if i = chainEnd then none
    else if (m.entry i).serves asid vpn ver then some (i, m.entry i)
    else m.walkFrom asid vpn ver n (m.entry i).next

/-- A walk for a page (R225). -/
def Mem.walk (m : Mem) (asid : BitVec 16) (vpn : Nat) (ver : Word) : Option (Nat × IptEntry) :=
  m.walkFrom asid vpn ver (m.ipt.length + 1) (m.head (anchorIndex asid vpn))

/-- Writes an entry and links it at the head of its chain (R225). -/
def Mem.link (m : Mem) (i : Nat) (e : IptEntry) : Mem :=
  let a := anchorIndex e.asid e.vpn
  { m with ipt := assocSet m.ipt i { e with valid := true, next := m.head a }, anchors := assocSet m.anchors a i }

/-- Changes NEXT of the entry of a chain that points to `i`. -/
def Mem.unlinkFrom (m : Mem) (i : Nat) : Nat → Nat → Mem
  | 0, _ => m
  | n + 1, p =>
    if p = chainEnd then m
    else if (m.entry p).next = i then
      { m with ipt := assocSet m.ipt p { m.entry p with next := (m.entry i).next } }
    else m.unlinkFrom i n (m.entry p).next

/-- No core holds a copy of a frame's sectors, data or code, any longer. -/
def Mem.dropFrame (m : Mem) (f : Nat) : Mem :=
  { m with l1 := m.l1.filter fun c => c.sector / 2048 ≠ f, code := m.code.filter fun c => c.sector / 2048 ≠ f }

/-- Links an entry that a vacate move copies from entry `i`: at the head of the chain (R234), but where its span is open and an entry
of a later version of the page stands ahead of it, next to the old one, so that the later version keeps its own (log 160). -/
def Mem.linkMoved (m : Mem) (i f : Nat) : Mem :=
  let e := m.entry i
  let later := m.ipt.any fun p => p.1 ≠ i && p.2.valid && decide (p.2.asid = e.asid) && decide (p.2.vpn = e.vpn) && p.2.code &&
    inSpan e p.2.vfirst
  if e.code && decide (e.vspan = 0xFF) && later then
    { m with ipt := assocSet (assocSet m.ipt f { e with next := e.next }) i { e with next := f } }
  else m.link f e

/-- Clears V of an entry and unlinks it; its TLB copies are invalidated, and no core holds bytes of the page any longer (R217,
R225, R226). -/
def Mem.unlink (m : Mem) (i : Nat) : Mem :=
  let e := m.entry i
  let a := anchorIndex e.asid e.vpn
  let m1 := if m.head a = i then { m with anchors := if e.next = chainEnd then assocDel m.anchors a else assocSet m.anchors a e.next }
            else m.unlinkFrom i (m.ipt.length + 1) (m.head a)
  ({ m1 with ipt := assocDel m1.ipt i, tlb := m1.tlb.filter (·.idx ≠ i) }).dropFrame i

/-- A TLB hit that may be used as it stands (R226). A copy whose span is open is used only where a walk for the version gives its
entry too: a later version may have a page of its own (R218, log 160). -/
def Mem.tlbHit (m : Mem) (core : Nat) (asid : BitVec 16) (vpn : Nat) (ver : Word) : Option (Nat × IptEntry) :=
  (m.tlb.find? fun t => t.core = core ∧ t.entry.serves asid vpn ver ∧
    (t.phase = m.phase ∨ t.entry.rem ∨ t.idx < m.capacity) ∧
    (t.entry.code ∧ t.entry.vspan = 0xFF → (m.walk asid vpn ver).map (·.1) = some t.idx)).map fun t => (t.idx, t.entry)

/-- The translation of a page for a core: a usable TLB hit, or a walk (R225, R226). -/
def Mem.translate (m : Mem) (core : Nat) (asid : BitVec 16) (vpn : Nat) (ver : Word) : Option (Nat × IptEntry) :=
  match m.tlbHit core asid vpn ver with
  | some r => some r
  | none => m.walk asid vpn ver

/-- A walk fills the core's TLB (R226). -/
def Mem.fillTlb (m : Mem) (core : Nat) (asid : BitVec 16) (vpn : Nat) (ver : Word) : Mem :=
  match m.tlbHit core asid vpn ver with
  | some _ => m
  | none =>
    match m.walk asid vpn ver with
    | none => m
    | some (i, e) =>
      { m with tlb := ⟨core, i, asid, vpn, e, m.phase⟩ :: m.tlb.filter fun t => ¬ (t.core = core ∧ t.idx = i) }

/-! ## Frames -/

/-- An access to the frame raises CAPACITY (R239, R241): the frame is dropped, or it lies at or above `$capacity`
and no retirement is moving it. -/
def Mem.beyond (m : Mem) (frame : Nat) : Bool :=
  m.ret.drops.contains frame || (decide (m.capacity ≤ frame) && !(m.ret.st = .vacate && decide (frame < m.ret.oldCap)))

/-- A physical access by the firmware or the queue processor to the frame ends with CAPACITY (R239). -/
def Mem.beyondPhys (m : Mem) (frame : Nat) : Bool := m.ret.drops.contains frame || decide (m.capacity ≤ frame)

/-- The frame is mapped by a valid entry. -/
def Mem.mapped (m : Mem) (frame : Nat) : Bool := (m.entry frame).valid

/-- Doomed frames still in use and not dropped (R235, R236). -/
def Mem.doomed (m : Mem) : List Nat :=
  (m.ipt.filter fun p => p.2.valid && !p.2.rem && decide (m.capacity ≤ p.1) && !m.ret.drops.contains p.1).map (·.1)

/-- The frames that the pool must keep for the vacate stage (R236). -/
def Mem.reserve (m : Mem) : Nat := if m.ret.st = .vacate then m.doomed.length else 0

/-- Takes the lowest frame of the pool. -/
def Mem.takeFrame (m : Mem) : Option (Nat × Mem) :=
  match m.pool with
  | [] => none
  | f :: fs => some (f, { m with pool := fs })

/-- Returns a frame to the pool, when it lies below `$capacity` (R231). -/
def Mem.giveFrame (m : Mem) (f : Nat) : Mem := if f < m.capacity then { m with pool := setAdd m.pool f } else m

/-! ## The stack map -/

/-- Granules below `g` that the initial map holds on stack `d` (R221). -/
def initialCount (s0 d g : Nat) : Nat := (g + s0 - 1 - d) / s0

/-- The stack that holds granule `g` after retirements, the latest first, each a stack with the capacities in frames
before and after it, and the row there, of 512 bytes each: `D_k` takes the place of `F_k` (R221, R237). -/
def granuleAt (s0 : Nat) : List (Nat × Nat × Nat) → Nat → Nat × Nat
  | [], g => (g % s0, g / s0)
  | (d, _, newCap) :: [], g =>
    -- the first retirement: `g` is `D_k` with `k = g / s0`, and `F_k` lies `k mod (s0 - 1)` places into its row
    if g % s0 = d ∧ g < newCap * 128 then
      let j := (g / s0) % (s0 - 1)
      (if j < d then j else j + 1, newCap * 128 / s0 + g / s0 / (s0 - 1))
    else (g % s0, g / s0)
  | (d, oldCap, newCap) :: h, g =>
    if (granuleAt s0 h g).1 = d ∧ g < newCap * 128 then
      let k := ((List.range g).filter fun x => (granuleAt s0 h x).1 = d).length
      let fs := (span (newCap * 128) (oldCap * 128)).filter fun x => (granuleAt s0 h x).1 ≠ d
      match fs[k]? with
      | some f => granuleAt s0 h f
      | none => granuleAt s0 h g
    else granuleAt s0 h g

/-- The stack that holds granule `g`. -/
def stackOf (s0 : Nat) (h : List (Nat × Nat × Nat)) (g : Nat) : Nat := (granuleAt s0 h g).1

/-- The map in force at a granule (R238): the new map for regions below the watermark of a sweep. -/
def Mem.mapAt (m : Mem) (g : Nat) : List (Nat × Nat × Nat) :=
  if (m.ret.st = .sweep ∧ g / 32768 < m.ret.watermark) ∨ (m.ret.swept ∧ m.ret.st ≠ .idle) then
    (m.ret.stack, m.ret.oldCap, m.capacity) :: m.ret.history
  else m.ret.history

/-- The stack of a granule under the map in force. -/
def Mem.stackAt (m : Mem) (s0 g : Nat) : Nat := stackOf s0 (m.mapAt g) g

/-- Where a physical address stands: the stack, and the byte address on it (R221, R237). -/
def Mem.stackPlace (m : Mem) (s0 pa : Nat) : Nat × Nat :=
  let x := granuleAt s0 (m.mapAt (pa / 512)) (pa / 512)
  (x.1, x.2 * 512 + pa % 512)

/-! ## Poison marks (R327, R328) -/

/-- The granule is held on the lost stack (R242, R243). -/
def Lost.covers (s0 : Nat) (l : Lost) (g : Nat) : Bool :=
  decide (l.fromRegion ≤ g / 32768) && (l.below.all fun n => g / 32768 < n) && decide (stackOf s0 l.history g = l.stack)

/-- The sector is among the lost ones (R242, R243). -/
def Lost.holds (s0 : Nat) (l : Lost) (sector : Nat) : Bool := l.covers s0 (sector / 16) && !l.cleared.contains sector

/-- Stores to the sector are not performed (R243). -/
def Lost.refuses (s0 : Nat) (l : Lost) (sector : Nat) : Bool :=
  (l.refuseFrom.any fun n => n ≤ sector / 524288) && l.covers s0 (sector / 16)

/-- The sector carries a poison mark. -/
def Mem.marked (m : Mem) (s0 sector : Nat) : Bool :=
  m.poison.contains sector || m.lost.any (fun l => l.holds s0 sector)

/-- Stores to the sector are not performed (R243): its stack is dead and has not been swept. -/
def Mem.refuses (m : Mem) (s0 sector : Nat) : Bool := m.lost.any fun l => l.refuses s0 sector

/-- Marks a sector. -/
def Mem.mark (m : Mem) (sector : Nat) : Mem := { m with poison := setAdd m.poison sector }

/-- Clears the mark of a sector. -/
def Mem.unmark (m : Mem) (s0 sector : Nat) : Mem :=
  { m with poison := setDel m.poison sector
           lost := m.lost.map fun l => if l.holds s0 sector then { l with cleared := setAdd l.cleared sector } else l }

/-- Stacks of the part. -/
def State.s0 (s : State) : Nat := Config.stackCount s.part

/-- The die whose L2 is the home of a sector: that to which its stack is attached, stacks 3d to 3d + 2 to die d, and the
lowest-numbered live die in the place of a dead one (R215, R337). -/
def State.homeDie (s : State) (sector : Nat) : Nat :=
  let d := s.mem.stackAt s.s0 (sector / 16) / 3
  if s.dieAlive d then d else ((List.range s.dies.length).find? s.dieAlive).getD d

/-- The sector at a physical address is marked. -/
def State.marked (s : State) (sector : Nat) : Bool := s.mem.marked s.s0 sector

/-! ## Physical accesses -/

/-- The listed bytes cover a whole sector. -/
def coversSector (sector : Nat) (l : List (Nat × Byte)) : Bool :=
  (List.range 32).all fun i => l.any fun p => p.1 = sector * 32 + i

/-- A store's bytes, by physical address, go into a core's L1 copy of their sector; the others stay (R198, R214). -/
def Mem.updateL1 (m : Mem) (core sector : Nat) (l : List (Nat × Byte)) : Mem :=
  { m with l1 := m.l1.map fun c => if c.core = core ∧ c.sector = sector then
      { c with bytes := (c.bytes.zip (span (sector * 32) (sector * 32 + 32))).map fun p => (byteAt l p.2).getD p.1 } else c }

/-- A write into a self-modifiable code page is remembered until the launches that fetch there have executed `CODESYNC` (R155). -/
def Mem.logCode (m : Mem) (sector : Nat) (l : List (Nat × Byte)) : Mem :=
  let e := m.entry (sector / 2048)
  if e.valid && e.code && e.sm then
    { m with code := m.code ++ [{ sector := sector, old := l.map fun p => (p.1, m.bytes.read p.1), new := l }] }
  else m

/-- Performs one piece: the listed bytes, by physical address, all in one sector (R141). A piece that covers the
sector clears its mark, `mark` sets it (data that carries a mark, R328), and a dead stack takes no piece (R243). -/
def State.putPiece (s : State) (sector : Nat) (l : List (Nat × Byte)) (mark : Bool := false) : State :=
  if s.mem.refuses s.s0 sector then s
  else
    let m := { s.mem.logCode sector l with bytes := s.mem.bytes.writeList l }
    { s with mem := if mark then m.mark sector else if coversSector sector l then m.unmark s.s0 sector else m }

/-- Writes bytes by physical address, sector by sector. -/
def State.putBytes (s : State) (l : List (Nat × Byte)) : State :=
  ((l.map fun p => p.1 / 32).foldl setAdd []).foldl (fun s sec => s.putPiece sec (l.filter fun p => p.1 / 32 = sec)) s

/-- The frame of a physical address. -/
def frameOf (pa : Nat) : Nat := pa / 65536

/-- Sectors of a frame. -/
def frameSectors (f : Nat) : List Nat := span (f * 2048) ((f + 1) * 2048)

/-- Zeroes a frame, its marks included (R229); sectors of a dead stack keep theirs, and what a map not yet in force holds there is
lost when that comes (R243). -/
def State.zeroFrame (s : State) (f : Nat) : State :=
  { s with mem := { s.mem.dropFrame f with
      bytes := s.mem.bytes.filter fun p => frameOf p.1 ≠ f
      poison := s.mem.poison.filter fun sec => sec / 2048 ≠ f
      lost := s.mem.lost.map fun l => { l with
        cleared := setAddAll l.cleared ((frameSectors f).filter fun x => l.covers s.s0 (x / 16) && !s.mem.refuses s.s0 x) } } }

/-- Copies a frame onto another, poison marks included (R219, R234). -/
def State.copyFrame (s : State) (src dst : Nat) : State :=
  let s1 := s.zeroFrame dst
  let bytes := (s.mem.bytes.filter fun p => frameOf p.1 = src).map fun p => (p.1 - src * 65536 + dst * 65536, p.2)
  let marks := if s.mem.poison.isEmpty && s.mem.lost.isEmpty then []
    else (frameSectors src).filter s.marked
  { s1 with mem := { s1.mem with bytes := s1.mem.bytes.writeList bytes
                                 poison := setAddAll s1.mem.poison (marks.map fun sec => sec - src * 2048 + dst * 2048) } }

end Sys2Proof.Machine
end

