-- ==== Sys2Proof/Machine/Access.lean ====
section
/-! DEFINITION. Windows and locations (R22, R137, R211 to R213), the access check (R138), and the performance of one
piece of an access (R141, R142, R198). -/

namespace Sys2Proof.Machine

/-! ## Windows -/

/-- Where a byte of a group's access stands. -/
inductive Place where
  | scratch (block off : Nat)
  | stack (off : Nat)
  | mem (pa : Nat) (entry : IptEntry)
  | remote (entry : IptEntry) (off : Nat)
  | absent
  deriving DecidableEq, Repr

/-- Bits [55:48] of an address. -/
def window (loc : Nat) : Nat := loc / 2 ^ 48

/-- The location of byte `o` of a lane's stack. -/
def stackLoc (lane : Fin 32) (off : Nat) : Nat := 2 ^ 60 + lane.val * 2 ^ 48 + off

/-- The location that an address names for a lane (R22, R137). -/
def locOf (lane : Fin 32) (addr : DWord) : Nat :=
  let a := addr.toNat % 2 ^ 56
  if window a = 0xFD then stackLoc lane (a % 2 ^ 48) else a

/-- The address bits [55:0] of a location. -/
def addrOfLoc (loc : Nat) : Nat := if 2 ^ 60 ≤ loc then 0xFD * 2 ^ 48 + loc % 2 ^ 48 else loc

/-- Allocations of the gang on core `k`: positions `k`, `k + 4`, … of its blocks (R211). -/
def Launch.allocs (l : Launch) (gang k : Nat) : Nat := ((l.img.gangBlocks gang).length + 3 - k) / 4

/-- The block and offset that a scratchpad address names (R211). -/
def Launch.scratchAt (l : Launch) (gang a : Nat) : Option (Nat × Nat) :=
  let k := a / 2 ^ 46 % 4
  let off := a % 2 ^ 46
  let n := off / l.img.scratchSize
  if n < l.allocs gang k then some (gang * l.img.bdim + (4 * n + k), off % l.img.scratchSize) else none

/-- The offset lies in the barrier area of an allocation (R212). -/
def Image.inBarrierArea (i : Image) (off : Nat) : Bool :=
  decide (i.scratchSize - 512 * i.gdim - 256 ≤ off) && decide (off < i.scratchSize - 512 * i.gdim)

/-- The offset lies in an overflow area (R212). -/
def Image.inOverflowArea (i : Image) (off : Nat) : Bool := decide (i.scratchSize - 512 * i.gdim ≤ off)

/-- The gang of a group. -/
def State.gangOf (s : State) (g : Group) : Nat := (s.lchOf g).gangOf g.block

/-- The translation of a virtual address for a group. -/
def State.xlate (s : State) (g : Group) (va : Nat) : Option (Nat × IptEntry) :=
  let l := s.lchOf g
  s.mem.translate (s.coreOf g) l.asid (va / 65536 % 2 ^ 40) l.img.codever

/-- Where a location of a group stands. -/
def State.placeOf (s : State) (g : Group) (loc : Nat) : Place :=
  if 2 ^ 60 ≤ loc then .stack ((32 * g.index + (loc - 2 ^ 60) / 2 ^ 48) * 2 ^ 20 + loc % 2 ^ 48)
  else if window loc = 0xFE then
    match (s.lchOf g).scratchAt (s.gangOf g) loc with
    | some (b, o) => .scratch b o
    | none => .absent
  else match s.xlate g loc with
    | none => .absent
    | some (i, e) => if e.rem then .remote e (loc % 65536) else .mem (i * 65536 + loc % 65536) e

/-! ## The access check (R138) -/

/-- The causes of R92. -/
def Cause.illegalOpcode : Nat := 0x01
def Cause.illegalForm : Nat := 0x02
def Cause.illegalOperand : Nat := 0x03
def Cause.privilege : Nat := 0x04
def Cause.unitAbsent : Nat := 0x05
def Cause.emptyRead : Nat := 0x08
def Cause.convergence : Nat := 0x09
def Cause.splitOverflow : Nat := 0x0A
def Cause.joinTimeout : Nat := 0x0B
def Cause.signature : Nat := 0x0C
def Cause.fpInvalid : Nat := 0x10
def Cause.classRange : Nat := 0x18
def Cause.classUnderflow : Nat := 0x19
def Cause.classGuard : Nat := 0x1A
def Cause.pageFault : Nat := 0x20
def Cause.accessViolation : Nat := 0x21
def Cause.capacity : Nat := 0x22
def Cause.atomicAlign : Nat := 0x23
def Cause.detViolation : Nat := 0x24
def Cause.remoteAccess : Nat := 0x28
def Cause.remoteTimeout : Nat := 0x29
def Cause.bkpt : Nat := 0x30
def Cause.step : Nat := 0x31
def Cause.userTrap : Nat := 0x32

/-- A failed check: the cause and the lowest failing byte address. -/
structure Bad where
  cause : Nat
  addr : Nat
  deriving DecidableEq, Repr

/-- Access kinds that write (R138, R223: WR). -/
def writesAcc (acc : Nat) : Bool := acc = 1 || acc = 2 || acc = 3 || acc = 5 || acc = 7

/-- Access kinds that the scratchpad window alone serves: gather destinations, barrier objects, matrix operands. -/
def scratchOnly (acc : Nat) : Bool := acc = 9 || acc = 10 || acc = 12 || acc = 13 || acc = 14

/-- Access kinds that the stack window refuses: atomics (R139), copies (R151), gather sources, launch packets, fetches. -/
def noStack (acc : Nat) : Bool := acc = 2 || acc = 3 || acc = 6 || acc = 7 || acc = 8 || acc = 15

/-- Access kinds that the global window alone serves (R32, R152). -/
def globalOnly (acc : Nat) : Bool := acc = 8 || acc = 15

/-- The first byte of `[a, a + n)` at which a test fails, among the candidates. -/
def lowest (l : List Nat) : Option Nat :=
  l.foldl (fun r x => match r with | none => some x | some y => some (min x y)) none

/-- Step 1: the window and its allocation, for `n` bytes from address `a` (below 2^56). Within the scratchpad the
reserved barrier areas fail (R212); a TB object also fails in an overflow area (R164). -/
def State.checkWindow (s : State) (g : Group) (acc a n : Nat) : Option Nat :=
  let l := s.lchOf g
  let w := window a
  if w = 0xFE then
    if globalOnly acc then some a else
    let gang := s.gangOf g
    let base := a / 2 ^ 46 * 2 ^ 46
    let off := a % 2 ^ 46
    let size := l.allocs gang (a / 2 ^ 46 % 4) * l.img.scratchSize
    let past := if off + n ≤ size then [] else [base + max off size]
    let blocks := if l.img.scratchSize = 0 then [] else span (off / l.img.scratchSize) ((off + n - 1) / l.img.scratchSize + 1)
    let reserved := blocks.filterMap fun q =>
      let lo := q * l.img.scratchSize + (l.img.scratchSize - 512 * l.img.gdim - 256)
      let hi := if acc = 10 then (q + 1) * l.img.scratchSize else q * l.img.scratchSize + (l.img.scratchSize - 512 * l.img.gdim)
      if off < hi ∧ lo < off + n ∧ lo < size then some (base + max off lo) else none
    lowest (past ++ reserved)
  else if w = 0xFD then
    if noStack acc || scratchOnly acc then some a
    else if a % 2 ^ 48 + n ≤ l.img.stack then none
    else some (0xFD * 2 ^ 48 + max (a % 2 ^ 48) l.img.stack)
  else if scratchOnly acc then some a
  else
    -- a range that leaves the global window fails at the first byte outside it
    let e := (a + n - 1) % 2 ^ 56
    if window e = 0xFE ∨ window e = 0xFD then some (window e * 2 ^ 48) else none

/-- The addresses at which `n` bytes from `a` enter each page. -/
def pageStarts (a n : Nat) : List Nat :=
  (span (a / 65536) ((a + n - 1) / 65536 + 1)).map fun p => (max a (p * 65536)) % 2 ^ 56

/-- The ownership range of an address (R276). -/
def OwnRange.holds (r : OwnRange) (grid a : Nat) : Bool :=
  decide (r.base ≤ a) && decide (a < r.base + (if r.kind = 2 then grid * r.stride else r.size))

/-- The address lies in the block's own partition (R276). -/
def OwnRange.ownPart (r : OwnRange) (block a : Nat) : Bool :=
  decide (r.base + block * r.stride ≤ a) && decide (a < r.base + block * r.stride + r.size)

/-- The ownership map allows an access of a kind to an address (R277). -/
def Launch.owns (l : Launch) (block acc a : Nat) : Bool :=
  if !l.img.det then true else
  let read := acc = 0 || acc = 4 || acc = 6 || acc = 8 || acc = 15
  if l.img.verify && acc = 2 then false else
  match l.img.own.find? (·.holds l.img.griddim.toNat a) with
  | none => read
  | some r =>
    if r.kind = 1 then read
    else if r.kind = 2 then r.ownPart block a
    else !read

/-- The first byte of a range that the ownership map refuses. Ranges are multiples of 32 bytes (R276). -/
def Launch.ownFail (l : Launch) (block acc a n : Nat) : Option Nat :=
  if !l.img.det || window a = 0xFE || window a = 0xFD then none
  else lowest ((sectorsOf a n).filterMap fun sec =>
    let x := max a (sec * 32)
    if l.owns block acc x then none else some x)

/-- The check of R138 for one lane's range of `n` bytes from address `a`. -/
def State.checkRange (s : State) (g : Group) (acc a n : Nat) : Option Bad :=
  match s.checkWindow g acc a n with
  | some x => some ⟨Cause.accessViolation, x⟩
  | none =>
    if (acc = 2 ∨ acc = 3) ∧ a / 32 ≠ (a + n - 1) / 32 then some ⟨Cause.atomicAlign, a⟩
    else if window a = 0xFE ∨ window a = 0xFD then none
    else
      let pages := (pageStarts a n).map fun x => (x, s.xlate g x)
      match pages.findSome? (fun p => match p.2 with
          | none => some (Bad.mk Cause.pageFault p.1)
          | some (i, e) => if !e.rem && s.mem.beyond i then some ⟨Cause.capacity, p.1⟩ else none) with
      | some b => some b
      | none =>
        match pages.findSome? (fun p => match p.2 with
            | none => none
            | some (_, e) =>
              if writesAcc acc && !(if e.code then e.sm else e.wr) then some (Bad.mk Cause.accessViolation p.1) else none) with
        | some b => some b
        | none => ((s.lchOf g).ownFail g.block acc a n).map fun x => ⟨Cause.detViolation, x⟩

/-- What a trap leaves in the trap registers (R93). -/
structure TrapInfo where
  cause : Nat
  lanes : Word
  val : Vector Lanes 4
  deriving DecidableEq, Repr

/-- The same four values in every lane. -/
def TrapInfo.all (cause : Nat) (lanes : Word) (x0 x1 x2 x3 : Word) : TrapInfo :=
  ⟨cause, lanes, Vector.ofFn fun i =>
    Lanes.all (if i = 0 then x0 else if i = 1 then x1 else if i = 2 then x2 else x3)⟩

/-- Low and high halves of an address in the trap registers (R138). -/
def addrLo (a : Nat) : Word := BitVec.ofNat 32 a
def addrHi (a : Nat) : Word := BitVec.ofNat 32 (a / 2 ^ 32 % 2 ^ 24)

/-- The trap of the lowest failing lane, with every lane that fails with its cause (R138). `bads` holds the failing
lanes, ascending, each with its access kind. -/
def trapOfBads (bads : List (Fin 32 × Nat × Bad)) : Option TrapInfo :=
  match bads with
  | [] => none
  | (_, _, b) :: _ =>
    let same := bads.filter fun p => p.2.2.cause = b.cause
    let at' := fun (l : Fin 32) => same.find? fun p => p.1 = l
    some ⟨b.cause, maskOf fun l => (at' l).isSome, Vector.ofFn fun i => Lanes.mk fun l =>
      match at' l with
      | none => 0
      | some (_, acc, x) =>
        if i = 0 then addrLo x.addr else if i = 1 then addrHi x.addr else if i = 2 then BitVec.ofNat 32 acc else 0⟩

/-- The check of R138 over lanes, each with an address (64-bit) and the bytes it covers. -/
def State.checkLanes (s : State) (g : Group) (acc : Nat) (lanes : List (Fin 32 × DWord × Nat)) : Option TrapInfo :=
  trapOfBads (lanes.filterMap fun p =>
    (s.checkRange g acc (p.2.1.toNat % 2 ^ 56) p.2.2).map fun b => (p.1, acc, b))

/-! ## Pieces -/

/-- A byte of a block's stacks: what was written, or what the backing memory held at the launch (R213). -/
def Block.stackAt (b : Block) (o : Nat) : Byte := (byteAt b.stack.bytes o).getD (Config.stackByte b.stack.origin b.run b.index o)

/-- A byte where a group's location stands; absent and remote bytes read 0 here. -/
def State.byteOf (s : State) (g : Group) (loc : Nat) : Byte :=
  match s.placeOf g loc with
  | .scratch b o => ((s.block? g.launch g.run b).map (·.scratch.read o)).getD 0
  | .stack o => (s.blockOf g).stackAt o
  | .mem pa _ => s.mem.bytes.read pa
  | .remote _ _ => 0
  | .absent => 0

/-- Writes bytes of a block's stacks, all in one sector: a write of the whole sector clears its mark (R213, R328). -/
def StackMem.put (m : StackMem) (l : List (Nat × Byte)) (mark : Bool) : StackMem :=
  let secs := (l.map fun p => p.1 / 32).foldl setAdd []
  let whole := secs.filter fun w => (List.range 32).all fun i => l.any fun p => p.1 = 32 * w + i
  { m with bytes := m.bytes.putList l
           poison := if mark then setAddAll m.poison secs else m.poison.filter fun w => !whole.contains w }

/-- The HBM sector behind a sector of a block's stacks (R213). -/
def Block.stackSector (b : Block) (x : Nat) : Nat := (Config.stackAddr b.stack.origin b.run b.index (x * 32)).toNat / 32

/-- The sector of a block's stacks is among the lost ones (R242, R243). -/
def Lost.holdsStack (s0 : Nat) (l : Lost) (b : Block) (x : Nat) : Bool :=
  l.covers s0 (b.stackSector x / 16) && !l.clearedStacks.contains (b.stack.origin, b.run, b.index, x)

/-- The sector of a block's stacks carries a mark (R242, R328). -/
def State.stackMarked (s : State) (b : Block) (x : Nat) : Bool :=
  b.stack.poison.contains x || s.mem.lost.any fun l => l.holdsStack s.s0 b x

/-- The sector is lost no longer. -/
def Lost.clearStack (s0 : Nat) (b : Block) (x : Nat) (l : Lost) : Lost :=
  if l.holdsStack s0 b x then { l with clearedStacks := (b.stack.origin, b.run, b.index, x) :: l.clearedStacks } else l

/-- A sector of a block's stacks was written whole. -/
def State.clearStack (s : State) (b : Block) (x : Nat) : State :=
  { s with mem := { s.mem with lost := s.mem.lost.map (Lost.clearStack s.s0 b x) } }

/-- Performs one piece of a write to a block's stacks, all in one sector; a dead stack of HBM takes none (R243). -/
def State.putStack (s : State) (b : Block) (l : List (Nat × Byte)) (mark : Bool) : State :=
  match l with
  | [] => s
  | (o, _) :: _ =>
    if s.mem.refuses s.s0 (b.stackSector (o / 32)) then s
    else
      let s1 := s.onBlock b.launch b.run b.index fun x => { x with stack := x.stack.put l mark }
      if !mark && coversSector (o / 32) l then s1.clearStack b (o / 32) else s1

/-- The unit that holds a location is marked: an HBM sector, or the pool word of the scratchpad (R328). -/
def State.markedAt (s : State) (g : Group) (loc : Nat) : Bool :=
  match s.placeOf g loc with
  | .scratch b o => ((s.block? g.launch g.run b).map fun x => x.poison.contains (o / 8)).getD false
  | .mem pa _ => s.marked (pa / 32)
  | .stack o => s.stackMarked (s.blockOf g) (o / 32)
  | _ => false

/-- The physical address of a sector. -/
def State.sectorAddr (s : State) : SectorAt → Nat
  | .mem x => x * 32
  | .stack launch run block x =>
    (Config.stackAddr (((s.block? launch run block).map (·.stack.origin)).getD launch) run block (x * 32)).toNat

/-- Marks a sector (R328). -/
def State.markSector (s : State) : SectorAt → State
  | .mem x => { s with mem := s.mem.mark x }
  | .stack launch run block x => s.onBlock launch run block fun b => { b with stack := { b.stack with poison := setAdd b.stack.poison x } }

/-- One piece of a scratchpad write: words that it covers whole lose their mark; with `mark` they gain it (R328). -/
def Block.putScratch (b : Block) (l : List (Nat × Byte)) (mark : Bool) : Block :=
  let words := (l.map fun p => p.1 / 8).foldl setAdd []
  let whole := words.filter fun w => (List.range 8).all fun i => l.any fun p => p.1 = 8 * w + i
  { b with scratch := b.scratch.writeList l
           poison := if mark then setAddAll b.poison words else b.poison.filter fun w => !whole.contains w }

/-- Performs one piece of a write of group `g`: the listed bytes, by location, all in one sector (R141). `own` tells
whether the core's own L1 copy is updated (a store) or stays until the engine's operation retires (R214). -/
def State.performWrite (s : State) (g : Group) (l : List (Nat × Byte)) (mark : Bool) (own : Bool) : State :=
  match l with
  | [] => s
  | (loc, _) :: _ =>
    match s.placeOf g loc with
    | .scratch b o => s.onBlock g.launch g.run b fun x => x.putScratch (l.map fun p => (p.1 + o - loc, p.2)) mark
    | .stack o => s.putStack (s.blockOf g) (l.map fun p => (p.1 + o - loc, p.2)) mark
    | .mem pa _ =>
      let bytes := l.map fun p => (p.1 + pa - loc, p.2)
      let s1 := s.putPiece (pa / 32) bytes mark
      if own && !s.mem.refuses s.s0 (pa / 32) then { s1 with mem := s1.mem.updateL1 (s.coreOf g) (pa / 32) bytes } else s1
    | .remote _ _ => s
    | .absent => s

/-- What stands in one instance of a scope: a group, an engine or service program of the package, or something outside it. -/
inductive Agent where
  | group (r : GRef)
  | device
  | outside
  deriving DecidableEq, Repr

/-- Two agents share a scope: they lie in one instance of it (R195). -/
def State.shares (s : State) (sc : Scope) (a b : Agent) : Bool :=
  match a, b with
  | .group x, .group y =>
    let l := s.lch x.launch
    let mine := decide (x.launch = y.launch) && decide (x.run = y.run)
    match sc with
    | .grp => decide (x = y)
    | .blk => mine && decide (x.block = y.block)
    | .gang => mine && decide (l.gangOf x.block = l.gangOf y.block)
    | .dev => true
    | .sys => true
  | .outside, _ => decide (sc = .sys)
  | _, .outside => decide (sc = .sys)
  | _, _ => decide (sc = .dev ∨ sc = .sys)

/-- The bytes of a sector as a load of a scope sees them, of `now` as they stand for its group: a narrow load of a global sector may
be satisfied by a valid L1 copy (R139, R214), a free choice; a miss or a wider load fills or refreshes the copy (R198). -/
def State.readSector (s : State) (g : Group) (sc : Scope) (sector : Nat) (now : List (Nat × Byte)) : List (Nat × Byte) × State :=
  let locs := now.map (·.1)
  match s.placeOf g (sector * 32) with
  | .mem pa _ =>
    let core := s.coreOf g
    let rest := s.mem.l1.filter fun c => ¬ (c.core = core ∧ c.sector = pa / 32)
    let filled := { s with mem := { s.mem with l1 := ⟨core, pa / 32, now.map (·.2)⟩ :: rest } }
    match s.mem.l1.find? (fun c => c.core = core ∧ c.sector = pa / 32) with
    | none => if sc.wide then (now, s) else (now, filled)
    | some c =>
      if sc.wide then (now, filled)
      else
        let (stale, s1) := s.drawBool
        if stale then (locs.zip c.bytes, s1) else (now, { filled with fresh := s.fresh + 1 })
  | _ => (now, s)

/-- The local page that an address of code names. A remote page holds no code (log 17). -/
def State.codePage (s : State) (g : Group) (a : Nat) : Option (Nat × IptEntry) :=
  match s.xlate g a with
  | some (i, e) => if e.rem then none else some (i, e)
  | none => none

end Sys2Proof.Machine
end

