-- ==== Sys2Proof/Machine/Records.lean ====
section
/-! DEFINITION. Accesses of the firmware and the queue processor by virtual address, code-version forks (R218 to R220),
queue headers (R287) and exception records (R299). -/

namespace Sys2Proof.Machine

/-! ## Code versions -/

/-- The code versions of an ASID: version 0, open, until something forks or binds. -/
def Mem.versOf (m : Mem) (asid : BitVec 16) : CodeVers :=
  (m.vers.find? (·.asid = asid)).getD { asid := asid, newest := 0, isOpen := true, held := [0] }

/-- Sets the code versions of an ASID. -/
def Mem.setVers (m : Mem) (v : CodeVers) : Mem := { m with vers := v :: m.vers.filter (·.asid ≠ v.asid) }

/-- A launch closes the newest version that it binds to (R219). -/
def Mem.closeNewest (m : Mem) (asid : BitVec 16) : Mem := m.setVers { m.versOf asid with isOpen := false }

/-- The span of an entry up to a version. Where its field cannot hold that, it is that of the held versions among them, and where those
lie too far apart, too, it stays open: the entries of later versions stand ahead of it in its chain (R223, R225, log 160). -/
def Mem.closeSpan (m : Mem) (e : IptEntry) (last : Word) : IptEntry :=
  let d := fun (x : Word) => (x - e.vfirst).toNat
  if d last ≤ 0xFE then { e with vspan := BitVec.ofNat 8 (d last) }
  else
    let held := ((m.versOf e.asid).held.map d).filter (· ≤ d last)
    let lo := held.foldl min (d last)
    let hi := held.foldl max lo
    if hi - lo ≤ 0xFE then { e with vfirst := e.vfirst + BitVec.ofNat 32 lo, vspan := BitVec.ofNat 8 (hi - lo) }
    else { e with vspan := 0xFF }

/-- Copies the code page of entry `i` into a frame of the pool that serves a version and the later ones; the entry stays with the
earlier ones (R219). None when the pool is empty (R220). -/
def State.copyPage (s : State) (i : Nat) (e : IptEntry) (ver : Word) : Option State :=
  if s.mem.pool.length ≤ s.mem.reserve then none
  else match s.mem.takeFrame with
    | none => none
    | some (f, m) =>
      let s1 := { s with mem := m }.copyFrame i f
      let m1 := { s1.mem with ipt := assocSet s1.mem.ipt i (s1.mem.closeSpan e (ver - 1)), tlb := s1.mem.tlb.filter (·.idx ≠ i) }
      some { s1 with mem := m1.link f { e with vfirst := ver, vspan := 0xFF } }

/-- A fork of the newest version for a write to the page of entry `i` (R219); none when it is refused (R220). -/
def State.forkPage (s : State) (i : Nat) (e : IptEntry) : Option State :=
  let v := s.mem.versOf e.asid
  if v.held.length ≥ 256 then none
  else (s.copyPage i e (v.newest + 1)).map fun s1 =>
    { s1 with mem := s1.mem.setVers { v with newest := v.newest + 1, isOpen := true, held := (v.newest + 1) :: v.held } }

/-- The page of entry `i` serves a held version before the newest, too. -/
def Mem.shared (m : Mem) (i : Nat) (e : IptEntry) : Bool :=
  let v := m.versOf e.asid
  v.held.any fun x => decide (x ≠ v.newest) && decide ((m.walk e.asid e.vpn x).map (·.1) = some i)

/-- Makes the newest version ready for a write to the code page of entry `i` (R219): a closed one is forked, and a page that an open
one shares with an earlier version is copied first. -/
def State.ownPage (s : State) (i : Nat) (e : IptEntry) : Option State :=
  let v := s.mem.versOf e.asid
  if !v.isOpen then s.forkPage i e
  else if s.mem.shared i e then s.copyPage i e v.newest
  else some s

/-! ## Virtual accesses of the firmware and the queue processor -/

/-- What an address of a packet names. -/
inductive VRes where
  | ok (pa : Nat) (idx : Nat) (e : IptEntry)
  | remote (e : IptEntry) (off : Nat)
  | bad (code : Nat)   -- PAGE 9, PROT 10, CAPACITY 11 (R300)
  deriving DecidableEq, Repr

/-- The translation of an address in an ASID, at the newest code version (R218, R285). -/
def State.vaddr (s : State) (asid : BitVec 16) (va : Nat) (write : Bool) : VRes :=
  match s.mem.walk asid (va / 65536 % 2 ^ 40) (s.mem.versOf asid).newest with
  | none => .bad 9
  | some (i, e) =>
    if e.rem then (if write && !e.wr then .bad 10 else .remote e (va % 65536))
    else if s.mem.beyond i then .bad 11
    else if write && !e.code && !e.wr then .bad 10
    else .ok (i * 65536 + va % 65536) i e

/-- Reads `n` bytes of local memory within one page; an error code otherwise. A marked sector ends the access with PROT
(log 20). -/
def State.vread (s : State) (asid : BitVec 16) (va n : Nat) : Except Nat (List Byte) :=
  match s.vaddr asid va false with
  | .ok pa _ _ => if (sectorsOf pa n).any s.marked then .error 10 else .ok (s.mem.bytes.readN pa n)
  | .remote _ _ => .error 9
  | .bad c => .error c

/-- Writes bytes within one page of local memory by an agent other than a group: a code page takes them in its newest
version, forked when that is closed (R219). The error code 15 is REFUSED. A write takes nothing from its sector, and a mark or a dead
stack gives it no record (DESIGN CHOICE, log 166). -/
def State.vwrite (s : State) (asid : BitVec 16) (va : Nat) (bytes : List Byte) (marks : List Nat := []) : Except Nat State :=
  let put := fun (s : State) (pa : Nat) =>
    let l := (List.range bytes.length).zip bytes |>.map fun p => (pa + p.1, p.2)
    ((l.map fun p => p.1 / 32).foldl setAdd []).foldl
      (fun s sec => s.putPiece sec (l.filter fun p => p.1 / 32 = sec) (marks.contains (sec * 32 - pa + va / 32 * 32))) s
  match s.vaddr asid va true with
  | .bad c => .error c
  | .remote _ _ => .error 9
  | .ok pa i e =>
    if e.code then
      match s.ownPage i e with
      | none => .error 15
      | some s1 =>
        match s1.vaddr asid va true with
        | .ok pa1 _ _ => .ok (put s1 pa1)
        | _ => .error 15
    else .ok (put s pa)

/-- Splits a range at page boundaries: address and bytes of each part. -/
def pageParts (a n : Nat) : List (Nat × Nat) :=
  (span (a / 65536) ((a + n - 1) / 65536 + 1)).map fun p =>
    let lo := max a (p * 65536)
    (lo, min (a + n) ((p + 1) * 65536) - lo)

/-- Reads a range of local memory page by page. -/
def State.vreadAll (s : State) (asid : BitVec 16) (a n : Nat) : Except Nat (List Byte) :=
  if n = 0 then .ok [] else
  (pageParts a n).foldl (fun r p => match r with
    | .error c => .error c
    | .ok l => match s.vread asid p.1 p.2 with
      | .error c => .error c
      | .ok b => .ok (l ++ b)) (.ok [])

/-- Writes a range of local memory page by page; the bytes written before an error stay (R294). -/
def State.vwriteAll (s : State) (asid : BitVec 16) (a : Nat) (bytes : List Byte) : State × Option Nat :=
  if bytes = [] then (s, none) else
  (pageParts a bytes.length).foldl (fun r p => match r.2 with
    | some _ => r
    | none => match r.1.vwrite asid p.1 ((bytes.drop (p.1 - a)).take p.2) with
      | .error c => (r.1, some c)
      | .ok s1 => (s1, none)) (s, none)

/-! ## Outbound requests (R309) -/

/-- Some port carries traffic (R307). -/
def Fabric.up (f : Fabric) : Bool := f.ports.any fun p => decide (p.st = .active)

/-- A packet of the epoch was injected before the last update (R313). -/
def Fabric.older (f : Fabric) (e : Word) : Bool := decide (e ≠ f.epoch) && decide ((f.epoch - e).toNat < 2 ^ 31)

/-- The drain rounds are over, and no packet of the epoch is taken any more (R313, log 165). -/
def Fabric.drained (f : Fabric) (e : Word) : Bool := decide (f.drain = 0) && f.older e

/-- Bytes sent or received over the fabric for a queue are counted for its tenant (R275). -/
def State.countFabric (s : State) (q n : Nat) : State :=
  let slot := (s.queueOf q).desc.tenant
  { s with tenants := s.tenants.map fun (t : Tenant) => if t.slot = slot then { t with fabric := t.fabric + BitVec.ofNat 64 n } else t }

/-- Bytes that a request carries: of a write, and the operands of an atomic's lanes. -/
def OutReq.bytes (r : OutReq) : Nat := r.data.length + 8 * r.args.length

/-- Sends a request over the fabric. -/
def State.sendReq (s0 : State) (r : OutReq) : Nat × State :=
  let s := s0.countFabric r.queue r.bytes
  let id := s.fabric.nextReq
  (id, { s with fabric := { s.fabric with nextReq := id + 1, reqs := s.fabric.reqs ++ [{ r with id := id, epoch := s.fabric.epoch, sent := s.cycle.toNat }] } })

/-- A write of the queue processor to a peer or host page; its bytes must lie in one sector. -/
def State.sendWrite (s : State) (owner : ReqOwner) (asid : BitVec 16) (q : Nat) (e : IptEntry) (va off : Nat) (bytes : List Byte)
    (mark : Bool := false) : Nat × State :=
  s.sendReq { id := 0, owner := owner, asid := asid, queue := q, peer := e.peer, pframe := e.pframe, off := off / 32 * 32
              va := BitVec.ofNat 64 va, acc := 1, size := bytes.length, mark := mark
              data := (List.range bytes.length).zip bytes |>.map fun p => (off % 32 + p.1, p.2) }

/-- Writes at most 8 bytes within a sector: locally, or as a request to a peer. An error is an error code. -/
def State.qpWrite (s : State) (owner : ReqOwner) (q : Nat) (asid : BitVec 16) (va : Nat) (bytes : List Byte) :
    Except Nat (State × Option Nat) :=
  match s.vaddr asid va true with
  | .remote e off => let (id, s1) := s.sendWrite owner asid q e va off bytes; .ok (s1, some id)
  | _ => match s.vwrite asid va bytes with
    | .ok s1 => .ok (s1, none)
    | .error c => .error c

/-! ## Queue headers (R287) -/

/-- Ring bytes of a queue. -/
def QDesc.ringBytes (d : QDesc) : Nat := 2 ^ d.rlog

/-- The address of ring byte `i` of the stream (R287). -/
def QDesc.ringAddr (d : QDesc) (i : Nat) : Nat := d.base.toNat + 64 + i % d.ringBytes

/-- Word `n` of a queue's header. -/
def State.headWord (s : State) (d : QDesc) (n : Nat) : Except Nat Nat :=
  (s.vread d.asid (d.base.toNat + 8 * n) 8).map leNat

/-- Writes word `n` of a queue's header. -/
def State.setHeadWord (s : State) (d : QDesc) (n : Nat) (x : Nat) : State :=
  match s.vwrite d.asid (d.base.toNat + 8 * n) (leBytes 8 x) with
  | .ok s1 => s1
  | .error _ => s

/-- STATE of the header's word 3: 0 running, 1 stopped for an answer, 2 disabled. -/
def Queue.stateCode (q : Queue) : Nat := if !q.desc.enabled then 2 else if q.stopped then 1 else 0

/-- Writes RIDX, DONESEQ, ERR and STATE as the queue processor holds them. ERR is kept when `err` is none. -/
def State.syncHeader (s : State) (q : Nat) (err : Option Nat := none) : State :=
  let x := s.queueOf q
  let old := match s.headWord x.desc 3 with
    | .ok w => w / 16 % 16
    | .error _ => 0
  let s1 := if x.desc.exc then s else s.setHeadWord x.desc 1 x.ridx
  let s2 := s1.setHeadWord x.desc 2 (x.doneSeq.toNat * 2 ^ 32)
  s2.setHeadWord x.desc 3 ((err.getD old) % 16 * 16 + x.stateCode)

/-- The reset values of a header (R287). -/
def State.resetHeader (s : State) (d : QDesc) : State :=
  let s1 := [0, 1, 3, 4, 5, 6, 7].foldl (fun s n => s.setHeadWord d n 0) s
  s1.setHeadWord d 2 (0xFFFFFFFF * 2 ^ 32)

/-! ## Records (R299) -/

/-- A record before it is written. -/
structure Rec where
  kind : Nat
  code : Nat
  queue : Nat
  tenant : Nat := 0
  flags : Nat := 0
  seq : Word := 0
  ticket : Word := 0
  asid : BitVec 16 := 0
  place : Nat := 0xFFFF
  block : Nat := 0xFFFFFFFF
  pc : Nat := 0
  detail : List Byte := []
  deriving DecidableEq, Repr

/-- Pads or cuts a byte list to a length. -/
def fitBytes (n : Nat) (l : List Byte) : List Byte := (l ++ List.replicate n 0).take n

/-- The 64 bytes of a record (R299). -/
def Rec.bytes (r : Rec) (cycle : DWord) : List Byte :=
  leBytes 2 r.kind ++ leBytes 2 r.code ++ leBytes 2 r.queue ++ leBytes 1 r.tenant ++ leBytes 1 r.flags ++
  leBytes 4 r.seq.toNat ++ leBytes 4 r.ticket.toNat ++ leBytes 8 cycle.toNat ++ leBytes 2 r.asid.toNat ++
  leBytes 2 r.place ++ leBytes 4 r.block ++ leBytes 8 r.pc ++ fitBytes 24 r.detail

/-- The bytes of a record when it is written: `$cycle` then, and whether the source queue is stopped then (R299). -/
def State.recordNow (s : State) (src : Nat) (b : List Byte) : List Byte :=
  let flags := b.getD 7 0
  b.take 7 ++ [if (s.queueOf src).stopped then flags ||| 2 else flags] ++ (b.drop 8).take 8 ++ leBytes 8 s.cycle.toNat ++ b.drop 24

/-- Tries to append a record of a source queue to the ring of an exception queue; none when the ring is full or cannot be reached. -/
def State.appendRecord (s : State) (exq src : Nat) (record : List Byte) : Option State :=
  let d := (s.queueOf exq).desc
  let bytes := s.recordNow src record
  match s.headWord d 0, s.headWord d 1 with
  | .ok w, .ok r =>
    if d.ringBytes < w - r + 64 then none
    else match s.vwrite d.asid (d.ringAddr w) bytes with
      | .ok s1 => some (s1.setHeadWord d 0 (w + 64))
      | .error _ => none
  | _, _ => none

/-- Writes a record to the exception queue of its source queue; it waits when it finds no room or no mapping (R288,
R299). A source queue without an exception queue loses the record. -/
def State.emit (s : State) (r : Rec) : State :=
  let exq := (s.queueOf r.queue).desc.exq
  let d := (s.queueOf exq).desc
  if exq = 0xFFFF ∨ !d.enabled ∨ !d.exc then s
  else
    let bytes := r.bytes s.cycle
    if s.waitingRecs.any (·.exq = exq) then { s with waitingRecs := s.waitingRecs ++ [⟨exq, r.queue, bytes⟩] }
    else match s.appendRecord exq r.queue bytes with
      | some s1 => s1
      | none => { s with waitingRecs := s.waitingRecs ++ [⟨exq, r.queue, bytes⟩] }

/-- Writes a record that awaits an answer, with the next ticket (R299, R301). -/
def State.emitAwait (s : State) (r : Rec) (group : Option GRef) (launch gang : Nat) : Word × State :=
  let t := s.nextTicket
  let a : Awaited := { ticket := t, queue := r.queue, kind := r.kind, code := r.code, group := group, launch := launch, gang := gang
                       split := (((group.bind s.group?).bind (·.sup)).map (·.split.toNat)).getD 0xFF, pc := BitVec.ofNat 56 r.pc }
  let s1 := { s with nextTicket := if t + 1 = 0 then 1 else t + 1
                     awaited := s.awaited ++ [a] }
  (t, s1.emit { r with ticket := t, flags := r.flags ||| 1 })

/-- Writes the records that wait, in order, as far as each ring takes them. -/
def State.retryRecords (s : State) : State :=
  let start : State := { s with waitingRecs := [] }
  s.waitingRecs.foldl (fun (s : State) w => match (if s.waitingRecs.any (·.exq = w.exq) then none else s.appendRecord w.exq w.src w.bytes) with
    | some s1 => s1
    | none => { s with waitingRecs := s.waitingRecs ++ [w] }) start

/-- PLACE of a record: die, cluster, core (R299). -/
def placeCode (cluster core : Nat) : Nat := dieOfCluster cluster * 4096 + cluster * 64 + core % 4 * 16

/-- KIND 5 record: the retirement controller reports a state (R233, R235, R299). -/
def State.emitRetire (s : State) (code extra : Nat) (lost : List Byte := []) : State :=
  s.emit { kind := 5, code := code, queue := 0, tenant := (s.queueOf 0).desc.tenant
           detail := leBytes 4 s.mem.capacity ++ leBytes 4 s.mem.phase.toNat ++ leBytes 4 s.mem.ret.watermark ++ leBytes 4 extra ++ lost }

/-! ## Records of the fabric (R311) -/

/-- A KIND 4 record. Its CODE is not stated: a free value. -/
def State.fabricRec (s : State) (q : Nat) (asid : BitVec 16) (addr acc dir nack other trem : Nat) : State :=
  let (code, s1) := s.drawCode
  s1.emit { kind := 4, code := code, queue := q, tenant := (s.queueOf q).desc.tenant, asid := asid
            detail := leBytes 8 addr ++ leBytes 4 acc ++ leBytes 1 dir ++ leBytes 1 nack ++ leBytes 2 other ++ leBytes 2 trem }

/-- The initiator's record of a failed request (R311). -/
def State.initiatorRec (s : State) (r : OutReq) (nack : Nat) : State :=
  s.fabricRec r.queue r.asid r.va.toNat r.acc 1 nack r.peer s.fabric.tRemote

end Sys2Proof.Machine
end

