-- ==== Sys2Proof/Machine/Ops.lean ====
section
/-! DEFINITION. The shared operations of the split table and its overflow area (R12 to R15), gang kills (R330 to
R337), taking a trap and returning from one (R93, R96), joins (R80) and barrier rounds (R159). -/

namespace Sys2Proof.Machine

/-! ## The signature (R333) -/

/-- One step of the reflected CRC-32C (R333). -/
def crcBit (x : Word) : Word := (x >>> 1) ^^^ (if x.getLsbD 0 then 0x82F63B78#32 else 0)

/-- One byte of the CRC-32C (R333). -/
def crcByte (sig : Word) (y : Byte) : Word :=
  (List.range 8).foldl (fun x _ => crcBit x) (sig ^^^ (0 : BitVec 24) ++ y)

/-- fold(sig, f): three bytes of f, low byte first (R333). -/
def foldSig (sig : Word) (f : BitVec 24) : Word :=
  crcByte (crcByte (crcByte sig (f.extractLsb' 0 8)) (f.extractLsb' 8 8)) (f.extractLsb' 16 8)

/-- The folded bits of JARV: OP 0x09 in form B. -/
def jarvFold : BitVec 24 := 0x09

/-! ## Split entries as words (R12, R15) -/

/-- STATE as its code. -/
def SplitSt.code : SplitSt → BitVec 2
  | .ready => 0 | .waiting => 1 | .dormant => 2 | .halted => 3

/-- STATE of a code. -/
def SplitSt.ofCode (c : BitVec 2) : SplitSt :=
  if c = 0 then .ready else if c = 1 then .waiting else if c = 2 then .dormant else .halted

/-- Word 0 of an entry. -/
def Split.word0 (e : Split) : Word :=
  BitVec.ofBool e.v ++ e.st.code ++ e.jslot ++ BitVec.ofBool e.inh ++ e.fpf ++ (0 : BitVec 20)

/-- Words 0 to 5 of an entry (R12). -/
def Split.words (e : Split) : List Word :=
  [e.word0, e.pc.extractLsb' 0 32, (0 : BitVec 8) ++ e.pc.extractLsb' 32 24, e.mask, e.sig, e.clsf]

/-- The entry that six words and the PARK and WAIT words hold. -/
def Split.ofWords (w : List Word) : Split :=
  let x := fun i => w.getD i 0
  { v := (x 0).getLsbD 31, st := .ofCode ((x 0).extractLsb' 29 2), jslot := (x 0).extractLsb' 26 3
    inh := (x 0).getLsbD 25, fpf := (x 0).extractLsb' 20 5
    pc := (x 2).extractLsb' 0 24 ++ (x 1).extractLsb' 2 30 ++ (0 : BitVec 2)
    mask := x 3, sig := x 4, clsf := x 5, park := x 6, wait := (x 7).toNat }

/-- The 32 bytes of an overflow entry (R15). -/
def Split.bytes (e : Split) : List Byte :=
  (e.words ++ [e.park, BitVec.ofNat 32 e.wait]).flatMap bytesOfWord

/-- Lanes of a split: MASK or PARK (R76). -/
def Split.lanes (e : Split) : Word := e.mask ||| e.park

/-! ## The overflow area (R15) -/

/-- Offset of slot `i` of a group's overflow area in the allocation of its block (R212). -/
def State.ovfOff (s : State) (g : Group) (i : Nat) : Nat :=
  (s.lchOf g).img.scratchSize - 512 * (g.index + 1) + 32 * i

/-- Entry `i` of the overflow area, with its true wait count. -/
def State.ovfEntry (s : State) (g : Group) (i : Nat) : Split :=
  let e := Split.ofWords (wordsOfBytes ((s.blockOf g).scratch.readN (s.ovfOff g i) 32))
  if e.st = .waiting then { e with wait := g.ovfWait.getD i 0 } else e

/-- The entries of the overflow area, slot 0 first. -/
def State.ovfEntries (s : State) (g : Group) : List Split := (List.range g.ovf).map (s.ovfEntry g)

/-- Writes entry `i` of a group's overflow area. -/
def State.setOvfOf (s : State) (g : Group) (i : Nat) (e : Split) : State :=
  let o := s.ovfOff g i
  s.onBlock g.launch g.run g.block fun b =>
    b.putScratch ((List.range 32).zip e.bytes |>.map fun p => (o + p.1, p.2)) false

/-- Writes entry `i` of the running group's overflow area. -/
def State.setOvf (s : State) (i : Nat) (e : Split) : State := s.setOvfOf s.cur i e

/-- Makes the overflow area hold a list of entries; an entry that stays where it was keeps its bytes, and so do slots at the
count and above. -/
def State.setOvfs (s : State) (es : List Split) : State :=
  let stays := fun (p : Nat × Split) => decide ({ s.ovfEntry s.cur p.1 with wait := 0 } = { p.2 with wait := 0 })
  let s1 := (((List.range es.length).zip es).filter fun p => !stays p).foldl (fun s p => s.setOvf p.1 p.2) s
  { s1 with cur := { s1.cur with ovf := es.length, ovfWait := es.map (·.wait) } }

/-- The device writes the current wait counts into the WAIT fields when the group is frozen or saved (R15). -/
def State.syncWaits (s : State) : State :=
  (List.range s.cur.ovf).foldl (fun s i => s.setOvf i (s.ovfEntry s.cur i)) s

/-! ## The partition check (R13, R334) -/

/-- The first lanes that break the partition: lanes in two entries, or not matching LIVE; zero when it holds. -/
def State.partition (s : State) : Word :=
  let g := s.cur
  let all := (g.validNums.map fun n => (g.entry n).lanes) ++ (s.ovfEntries g).map (·.lanes)
  let r := all.foldl (fun (p : Word × Word) m => (p.1 ||| m, p.2 ||| (p.1 &&& m))) (0, 0)
  if r.2 ≠ 0 then r.2 else r.1 ^^^ g.ctl.live

/-! ## Kills (R330 to R337) -/

/-- Discards the outbound requests of the groups that a test names (R330 step 2). -/
def State.dropReqs (s : State) (p : GRef → Bool) : State :=
  let owned := fun (o : ReqOwner) => match o with
    | .mem g _ _ => p g | .copyRead g _ _ => p g | .copyWrite g _ _ => p g | .gatherRead g _ _ => p g
    | _ => false
  { s with fabric := { s.fabric with reqs := s.fabric.reqs.map fun r => if owned r.owner then { r with owner := .nobody } else r } }

/-- A reference names a group of a gang run. -/
def Launch.inGang (l : Launch) (gang run : Nat) (r : GRef) : Bool :=
  decide (r.launch = l.id) && decide (r.run = run) && decide (l.gangOf r.block = gang)

/-- Steps 1 to 5 of R330: the gang run leaves the machine. -/
def State.removeGang (s : State) (launch gang run : Nat) : State :=
  let l := s.lch launch
  let s1 := s.dropReqs (l.inGang gang run)
  let s2 := s1.dropGroups fun g => l.inGang gang run g.ref
  let s3 := { s2 with blocks := s2.blocks.filter fun b => ¬ (b.launch = launch ∧ b.run = run ∧ l.gangOf b.index = gang)
                      awaited := s2.awaited.filter fun a => match a.group with
                        | some r => !l.inGang gang run r
                        | none => true }
  let stks := (s.blocks.filter fun b => b.launch = launch ∧ b.run = run ∧ l.gangOf b.index = gang).map fun b => (b.index, b.stack)
  s3.onLaunch launch fun x => { (x.onGang gang run fun k => if stks.isEmpty then k else { k with stks := stks }) with staged := x.staged.filter fun e => ¬ (x.gangOf e.block = gang ∧ e.run = run) }

/-- DETAIL bytes of a kill record (R336). -/
def KillDetail.bytes (d : KillDetail) : List Byte :=
  leBytes 4 d.gang.toNat ++ leBytes 1 d.attempt ++ leBytes 1 d.fate ++ leBytes 1 d.source ++ leBytes 1 d.split ++
  leBytes 8 d.addr.toNat ++ leBytes 4 d.expect.toNat ++ leBytes 4 d.actual.toNat

/-- The KIND 2 or KIND 7 record of a launch. -/
def State.emitKill (s : State) (l : Launch) (kind code : Nat) (place block : Nat) (pc : Pc) (d : KillDetail) : State :=
  s.emit { kind := kind, code := code, queue := l.queue, tenant := l.tenant, seq := l.seq, asid := l.asid
           place := place, block := block, pc := pc.toNat, detail := d.bytes }

/-- The attempt of a gang, restarts of its verify runs counted (R331). -/
def Launch.attempt (l : Launch) (gang : Nat) : Nat :=
  (l.gangs.filter (·.index = gang)).foldl (fun n k => n + (k.attempts - 1)) 1

/-- PLACE of a gang's block: the core it last ran on, 0xFFFF for a gang that was never placed (R336). -/
def Launch.placeOf (l : Launch) (k : Gang) (block : Nat) : Nat :=
  if k.placedOnce then placeCode k.cluster (l.posOf block) else 0xFFFF

/-- A launch ends with a KIND 7 record (R331, R337): its other gangs that are not complete, those never granted among them, are
killed, each with a FATE 2 record when `each`; the runs of a gang have one record together (log 36). -/
def State.endLaunch (s : State) (launch code : Nat) (d : KillDetail) (each : Bool) (pc : Pc := 0) (block : Nat := 0xFFFFFFFF)
    (place : Nat := 0xFFFF) : State :=
  let l := s.lch launch
  let fresh := (span ((l.next + l.img.bdim - 1) / l.img.bdim) l.img.gangs).map fun i => ({ index := i, st := .waiting } : Gang)
  let live := (l.gangs.filter fun k => k.st = .granted ∨ k.st = .placed ∨ k.st = .preempted ∨ k.st = .waiting ∨ k.st = .ended) ++
    (if each then fresh else [])
  let s1 := live.foldl (fun s k =>
    let s1 := s.removeGang launch k.index k.run
    if each && decide (BitVec.ofNat 32 k.index ≠ d.gang) && decide ((live.find? (·.index = k.index)).map (·.run) = some k.run) then
      let low := k.index * l.img.bdim
      s1.emitKill l 2 code (l.placeOf k low) low 0
        { gang := BitVec.ofNat 32 k.index, attempt := l.attempt k.index, fate := 2, source := 10, split := 0xFF }
    else s1) s
  let s2 := s1.emitKill l 7 code place block pc d
  s2.onLaunch launch fun x => { x with
    gangs := x.gangs.map fun k => if k.st = .complete then k else { k with st := .complete }
    staged := [], aborted := true, ending := some (code, d) }

/-- The gang may not be replayed (R331): the KIND 7 code, of spent attempts, of a kill that is handed to the launch (R161, R280), or
the kill's own. -/
def Launch.noReplay (l : Launch) (k : Gang) (code : Nat) : Option Nat :=
  if 4 ≤ l.attempt k.index then some 0x0107
  else if 0 < l.gridRounds ∨ k.released then some 0x0108
  else if !l.img.replay ∨ l.aborted then some code
  else none

/-- Kills a gang run (R330), replays it or ends the launch (R331). Nothing of a launch that has ended is left to kill. -/
def State.killGang (s : State) (launch gang run : Nat) (w : KillWhy) : State :=
  let l := s.lch launch
  match l.gang? gang run with
  | none => s
  | some k =>
    if l.aborted then s
    else
    let low := w.block.getD (gang * l.img.bdim)
    let s1 := s.removeGang launch gang run
    let fate := if (l.noReplay k w.code).isSome then 1 else 0
    let d : KillDetail := { gang := BitVec.ofNat 32 gang, attempt := l.attempt gang, fate := fate, source := w.source
                            split := w.split, addr := w.addr, expect := w.expect, actual := w.actual }
    let place := l.placeOf k low
    let s2 := s1.emitKill l 2 w.code place low w.pc d
    match l.noReplay k w.code with
    | none => s2.onLaunch launch fun x => { (x.onGang gang run fun k => { k with st := .waiting, attempts := k.attempts + 1, digest := 0 }) with
        replayed := true }
    | some code =>
      (s2.onLaunch launch fun x => x.onGang gang run fun k => { k with st := .complete }).endLaunch launch code d true w.pc low place

/-- Kills the gang of a group. -/
def State.killGroupGang (s : State) (g : Group) (w : KillWhy) : State :=
  s.killGang g.launch (s.gangOf g) g.run { w with block := some (w.block.getD g.block) }

/-- Kills the gang of the running group for the running split. -/
def State.killCur (s : State) (code source : Nat) (actual : Word := 0) (expect : Word := 0) : State :=
  s.killGroupGang s.cur { code := code, source := source, split := s.cur.running.toNat, actual := actual, expect := expect
                          pc := s.cur.sp.pc }

/-- A marked value is consumed (R329): CODE POISON. -/
def State.killPoison (s : State) (g : Group) (source : Nat) (addr : DWord) (split : Nat) (pc : Pc) : State :=
  s.killGroupGang g { code := 0x0102, source := source, split := split, addr := addr, pc := pc }

/-- The partition check after an update: the new state when it holds, otherwise the kill (R334). -/
def State.checkPartition (old new : State) : State :=
  if new.partition = 0 then new else old.killCur Cause.signature 7 new.partition

/-! ## Traps (R93, R96) -/

/-- `$xcause` (R91). CAP is 0 at level 1 (R94). -/
def causeWord (split : BitVec 3) (sup : Bool) (cause : Nat) : Word :=
  (0 : BitVec 20) ++ split ++ BitVec.ofBool sup ++ BitVec.ofNat 8 cause

/-- A debugger session is attached to the group (R95, R98). -/
def Group.debugged (g : Group) : Bool := decide (g.fydb ≠ .off)

/-- Bits [1:0] of a program counter are zero (R12). -/
def alignPc (pc : Pc) : Pc := pc &&& ~~~3#56

/-- Takes a trap at the running split's instruction (R93). -/
def State.takeTrap (s : State) (t : TrapInfo) : State :=
  let g := s.cur
  let n := g.running
  if g.debugged && (t.cause = Cause.bkpt || t.cause = Cause.step) then
    { s with cur := { g with fydb := .stopped } }.syncWaits
  else if t.cause = Cause.pageFault then
    let regs : TrapRegs := ⟨g.sp.pc, causeWord n true t.cause, t.lanes, t.val⟩
    { s with cur := { (g.setSp { g.sp with pc := alignPc (s.stvec.getD Config.stvec) }) with
        sup := some { split := n, k15 := t.lanes, fault := regs } } }
  else if g.sp.inh then s.killCur 0x0103 0 (BitVec.ofNat 32 t.cause)
  else if g.ctl.utvec = 0 then s.killCur t.cause 0
  else
    let regs : TrapRegs := ⟨g.sp.pc, causeWord n false t.cause, t.lanes, t.val⟩
    { s with cur := { (g.setSp { g.sp with inh := true, half := false, pc := alignPc g.ctl.utvec }) with trap := regs } }.syncWaits

/-- Returns from a handler to a program counter (R96): supervisor mode ends, and the user's trap registers and k15 are seen
again; user mode clears INH. CAP := 0. -/
def State.trapReturn (s : State) (target : Pc) : State :=
  let g := s.cur
  let pc := alignPc target
  if g.supervisor then { s with cur := { (g.setSp { g.sp with pc := pc }) with sup := none } }
  else { s with cur := { (g.setSp { g.sp with pc := pc, inh := false }) with trap := { g.trap with cause := g.trap.cause &&& ~~~0x1000#32 } } }

/-- The trap registers that the running split sees: the fault's in supervisor mode, the user's otherwise (R19, R228, log 16). -/
def Group.trapView (g : Group) : TrapRegs :=
  match g.sup with
  | some sv => if sv.split = g.running then sv.fault else g.trap
  | none => g.trap

/-- Changes the trap registers that the running split sees. -/
def Group.onTrapView (g : Group) (f : TrapRegs → TrapRegs) : Group :=
  match g.sup with
  | some sv => if sv.split = g.running then { g with sup := some { sv with fault := f sv.fault } } else { g with trap := f g.trap }
  | none => { g with trap := f g.trap }

/-! ## Pop, merge (R78, R80) -/

/-- The outstanding operations follow their splits to other places. -/
def Pending.relabel (p : Pending) (f : Owner → Owner) : Pending :=
  { p with mem := p.mem.map fun o => { o with split := f o.split }
           cp := p.cp.map fun o => { o with split := f o.split }
           ga := p.ga.map fun o => { o with split := f o.split }
           held := p.held.map fun o => { o with split := f o.split } }

/-- A group's outstanding operations, and what its splits may miss of one another's writes, follow the splits. -/
def Group.relabel (g : Group) (f : Owner → Owner) : Group :=
  { g with pend := g.pend.relabel f, shadow := g.shadow.map fun x => { x with writer := f x.writer, seen := x.seen.map f } }

/-- Where the operations of the splits of a merge go: those of the members to the merged split, which are so ordered before it
(R197); the entries left in the overflow area move down. -/
def mergeOwner (table : List (BitVec 3)) (slots : List Nat) (m : Owner) (o : Owner) : Owner :=
  match o with
  | .entry n => if table.contains n then m else o
  | .slot i => if slots.contains i then m else .slot (i - (slots.filter (· < i)).length)

/-- The entry and the overflow slot change places in a swap. -/
def swapOwner (n : BitVec 3) (i : Nat) (o : Owner) : Owner :=
  if o = .entry n then .slot i else if o = .slot i then .entry n else o

/-- The entry of slot `i` moves to entry `m` in a pop. -/
def popOwner (m : BitVec 3) (i : Nat) (o : Owner) : Owner := if o = .slot i then .entry m else o

/-- Frees entry `n`: V is cleared and PARK is cleared; the other words stay (R82). -/
def Group.freeEntry (g : Group) (n : BitVec 3) : Group :=
  g.setEntry n { g.entry n with v := false, park := 0 }

/-- The current count goes into WAIT of a waiting entry that leaves the area (R15). -/
def State.leaveOvf (s : State) (i : Nat) : State :=
  let e := s.ovfEntry s.cur i
  if e.st = .waiting then s.setOvf i e else s

/-- The pop of R78: the top overflow entry moves to the lowest free number. -/
def State.pop (s : State) : State :=
  let g := s.cur
  let i := g.ovf - 1
  if g.ovf = 0 then s
  else match g.freeNum with
    | none => s
    | some m =>
      let e := s.ovfEntry g i
      let st := if e.st = .dormant then SplitSt.ready else e.st
      let s1 := s.leaveOvf i
      { s1 with cur := { (s1.cur.setEntry m { e with v := true, st := st }).relabel (popOwner m i) with
          ovf := i, ovfWait := g.ovfWait.take i } }

/-- Pops as long as entries are free. -/
def State.pops : Nat → State → State
  | 0, s => s
  | n + 1, s => if s.cur.ovf = 0 ∨ s.cur.freeNum = none then s else State.pops n s.pop

/-- A debugger's step that completes a join stops with the merged split as focus (R98). -/
def Group.stopAt (g : Group) (m : BitVec 3) : Group :=
  match g.fydb with
  | .stepping _ => { g with fydb := .stopped, fydbFocus := some m }
  | _ => g

/-- The merge of every split waiting on slot `j` (R80), without its condition. The rule gives the merged entry no INH: it is set
where it is set in a member (DESIGN CHOICE, log 143); and no JSLOT, of which it keeps the leading member's (DESIGN CHOICE, log 171). -/
def State.merge (s : State) (j : BitVec 3) : State :=
  let g := s.cur
  let inTable := g.validNums.filter fun n => (g.entry n).st = .waiting ∧ (g.entry n).jslot = j
  let ovfs := s.ovfEntries g
  let isW := fun (e : Split) => decide (e.st = .waiting ∧ e.jslot = j)
  let slots := (List.range ovfs.length).filter fun i => (ovfs[i]?).any isW
  let members := (inTable.map g.entry) ++ ovfs.filter isW
  match members with
  | [] => s
  | lead :: _ =>
    let slot := g.join j
    let merged : Split :=
      { v := true, st := .ready, jslot := lead.jslot, inh := members.any (·.inh), pc := slot.pc
        mask := members.foldl (fun x e => x ||| e.mask) 0, park := members.foldl (fun x e => x ||| e.park) 0
        fpf := members.foldl (fun x e => x ||| e.fpf) 0, clsf := members.foldl (fun x e => x ||| e.clsf) 0
        -- the JARV of the lowest-numbered member completes here (R97)
        sig := if lead.inh then lead.sig else foldSig lead.sig jarvFold }
    let m := match inTable with
      | n :: _ => some n
      | [] => g.freeNum
    let g1 := inTable.foldl (fun g n => g.freeEntry n) g
    let rest := ovfs.filter fun e => !isW e
    let s0 := slots.foldl State.leaveOvf s
    let moved := fun (g : Group) (o : Owner) => { g.relabel (mergeOwner inTable slots o) with shadow := [] }
    let g2 := { (g1.setJoin j { slot with armed := false, arrived := 0 }) with ovf := 0, ovfWait := [] }
    match m with
    | some m =>
      let s1 := { s0 with cur := (moved (g2.setEntry m merged) (.entry m)).stopAt m }
      State.pops 8 (s1.setOvfs rest)
    | none =>
      let s1 := { s0 with cur := moved g2 (.slot rest.length) }
      s1.setOvfs (rest ++ [{ merged with st := .dormant, wait := 0 }])

/-- Some split of the group waits on slot `j`, in the table or in the overflow area. -/
def State.waitsOn (s : State) (j : BitVec 3) : Bool :=
  s.cur.validNums.any (fun n => (s.cur.entry n).st = .waiting ∧ (s.cur.entry n).jslot = j) ||
  (s.ovfEntries s.cur).any fun e => e.st = .waiting ∧ e.jslot = j

/-- check_merge (R80). -/
def State.checkMerge (s : State) (j : BitVec 3) : State :=
  let x := s.cur.join j
  if x.armed && s.waitsOn j && x.arrived = (x.rejoin &&& s.cur.ctl.live) then s.merge j else s

/-- check_merge on every armed slot (R83), in ascending slot number (DESIGN CHOICE, log 169). -/
def State.checkMerges (s : State) : State := splitNums.foldl (fun s j => s.checkMerge j) s

/-! ## Barriers (R158, R159) -/

/-- ARR of a barrier. -/
def Arrivals.get (a : Arrivals) (lvl : Level) (n : Nat) : Word :=
  match lvl with
  | .grp => a.grp.toList.getD n 0
  | .blk => a.blk.toList.getD n 0
  | .gang => a.gang.toList.getD n 0
  | .grid => a.grid.toList.getD n 0

/-- Sets ARR of a barrier. -/
def Arrivals.set (a : Arrivals) (lvl : Level) (n : Nat) (x : Word) : Arrivals :=
  match lvl with
  | .grp => { a with grp := a.grp.setIfInBounds n x }
  | .blk => { a with blk := a.blk.setIfInBounds n x }
  | .gang => { a with gang := a.gang.setIfInBounds n x }
  | .grid => { a with grid := a.grid.setIfInBounds n x }

/-- Barriers of a level (R158). -/
def levelCount : Level → Nat
  | .grp => 4 | .blk => 16 | .gang => 8 | .grid => 4

/-- The scope of a level's fences (R158). -/
def levelScope : Level → Scope
  | .grp => .grp | .blk => .blk | .gang => .gang | .grid => .dev

/-- Two groups are members of one barrier of a level. -/
def State.sameUnit (s : State) (lvl : Level) (g h : Group) : Bool :=
  decide (g.launch = h.launch) && decide (g.run = h.run) &&
  match lvl with
  | .grp => decide (g.ref = h.ref)
  | .blk => decide (g.block = h.block)
  | .gang => decide (s.gangOf g = s.gangOf h)
  | .grid => true

/-- A resident group is complete at a barrier (R159). -/
def Group.complete (g : Group) (lvl : Level) (n : Nat) : Bool :=
  g.ended || (g.ctl.live &&& ~~~(g.arr.get lvl n) = 0 && g.ctl.live ≠ 0)

/-- LIVE and ARR of grid barrier `n` that the sections of a block record hold. -/
def savedArr (nv : Nat) (gdim : Nat) (n : Nat) (record : List Byte) : List (Word × Word) :=
  (List.range gdim).map fun i =>
    let at' := fun o => BitVec.ofNat 32 (leNat ((record.drop (64 + i * (9792 + 128 * nv) + o)).take 4))
    (at' 24, at' (32 + 4 * (4 + 16 + 8 + n)))

/-- A gang pre-empted at a grid barrier stays a member (R161): its saved groups are complete. -/
def savedComplete (nv : Nat) (gdim : Nat) (n : Nat) (record : List Byte) : Bool :=
  (savedArr nv gdim n record).all fun p => p.1 &&& ~~~p.2 = 0

/-- The pre-empted gangs of a run of which lanes have arrived at grid barrier `n`. -/
def Launch.savedArrived (l : Launch) (run n : Nat) : Bool :=
  l.gangs.any fun k => decide (k.run = run) && decide (k.st = .preempted) &&
    k.record.any fun r => (savedArr l.img.nv l.img.gdim n r).any fun p => p.2 ≠ 0

/-- Every member of the barrier of the running group is complete. At grid level that takes every gang of the grid. -/
def State.roundOver (s : State) (lvl : Level) (n : Nat) : Bool :=
  let g := s.cur
  let l := s.lchOf g
  ((s.groups.filter (s.sameUnit lvl g)).all fun h => h.complete lvl n) &&
  match lvl with
  | .grid => decide (l.img.griddim.toNat ≤ l.next) && (l.gangs.filter (·.run = g.run)).all fun x =>
      decide (x.st = .placed ∨ x.st = .ended ∨ x.st = .complete ∨ x.st = .unresolved) ||
        (decide (x.st = .preempted) && x.record.all (savedComplete l.img.nv l.img.gdim n))
  | _ => true

/-- A level as a number. -/
def levelCode : Level → Nat
  | .grp => 0 | .blk => 1 | .gang => 2 | .grid => 3

/-- The next completed wait of a round counts for the round tag (R278). -/
def IssueSt.endRound (i : IssueSt) (lvl : Level) (n : Nat) : IssueSt :=
  if lvl = .grp then i else { i with due := (levelCode lvl, n) :: i.due.filter (· ≠ (levelCode lvl, n)) }

/-- A round of a barrier ends for a member: ARR := 0. -/
def Group.endRound (h : Group) (lvl : Level) (n : Nat) : Group :=
  { h with arr := h.arr.set lvl n 0, iss := h.iss.endRound lvl n }

/-- check_bar (R159) on a barrier of the running group. A grid round is counted (R161). -/
def State.checkBar (s : State) (lvl : Level) (n : Nat) : State :=
  let arrived := (s.groups.filter (s.sameUnit lvl s.cur)).any (fun h => h.arr.get lvl n ≠ 0) ||
    (decide (lvl = .grid) && (s.lchOf s.cur).savedArrived s.cur.run n)
  if s.roundOver lvl n && arrived then
    let g := s.cur
    let s1 := s.mapGroups (s.sameUnit lvl g) fun h => h.endRound lvl n
    match lvl with
    | .grid => s1.onLaunch g.launch fun l =>
        let clear := fun (r : List Byte) => (List.range l.img.gdim).foldl (fun r i =>
          let o := 64 + i * (9792 + 128 * l.img.nv) + 32 + 4 * (28 + n)
          r.take o ++ leBytes 4 0 ++ r.drop (o + 4)) r
        let gangs := l.gangs.map fun k =>
          if k.st = .preempted ∧ k.run = g.run then
            { k with gridWait := false, record := k.record.map clear
                     saved := k.saved.map fun x => { x with iss := x.iss.endRound lvl n } }
          else k
        { l with gridRounds := l.gridRounds + 1, gangs := gangs }
    | _ => s1
  else s

/-- check_bar on every barrier of the running group (R159). -/
def State.checkBars (s : State) : State :=
  [Level.grp, .blk, .gang, .grid].foldl (fun s lvl => (List.range (levelCount lvl)).foldl (fun s n => s.checkBar lvl n) s) s

end Sys2Proof.Machine
end

