-- ==== Sys2Proof/Machine/Flags.lean ====
section
/-! DEFINITION. The signature register (R97, R333), the retirement of an instruction, and the flags of the running split
(R16, R17). -/

namespace Sys2Proof.Machine

/-- The instruction of the running split is folded: user mode, INH clear (R97). -/
def Group.folds (g : Group) : Bool := !g.sp.inh && !g.supervisor

/-- Folds an instruction into SIG of the running split (R333). -/
def State.foldSp (s : State) (i : Instr) : State :=
  match i.foldBits with
  | some f => if s.cur.folds then s.onSp fun e => { e with sig := foldSig e.sig f } else s
  | none => s

/-- Moves the running split to a program counter; a waiting second half of a barrier ends with its instruction. -/
def State.goto (s : State) (pc : Pc) : State := s.onSp fun e => { e with pc := pc, half := false }

/-- An instruction completes: SIG is folded, the program counter moves past it (R31, R97). -/
def State.retire (s : State) (i : Instr) : State :=
  (s.foldSp i).goto (s.cur.sp.pc + BitVec.ofNat 56 i.size)

/-- The running split's instruction waits at issue: nothing changes but the mark of the model's scheduler (log 3). -/
def State.stall (s : State) : State := s.onSp fun e => { e with stall := true }

/-- Sets bits in `$fpflags` of the running split (R116). -/
def State.orFp (s : State) (x : BitVec 5) : State := s.onSp fun e => { e with fpf := e.fpf ||| x }

/-- Sets bits in `$clsflags` of the running split: bit 2c RANGE, bit 2c + 1 UNDERFLOW (R16, R128). -/
def State.orCls (s : State) (c : BitVec 4) (range under : Bool) : State :=
  let b := (if range then 2 ^ (2 * c.toNat) else 0) + (if under then 2 ^ (2 * c.toNat + 1) else 0)
  s.onSp fun e => { e with clsf := e.clsf ||| BitVec.ofNat 32 b }

end Sys2Proof.Machine
end

