-- ==== Sys2Proof/Machine/Operands.lean ====
section
/-! DEFINITION. Operand forms (R36 to R40, R99, R100), the checks of R48 steps 5 and 6, the reading of sources and the
wait for destinations (R10, R50), and the issue of an instruction. -/

namespace Sys2Proof.Machine

/-! ## Operands -/

/-- Bits `lo` to `lo + n - 1` of a word. -/
def bitsOf (x : Word) (lo n : Nat) : Nat := x.toNat / 2 ^ lo % 2 ^ n

/-- Field B: the 6-bit field of a base form, or B of word 1 (R36). -/
def bField (f : Fields) : BitVec 8 := if f.form = .b then (0 : BitVec 2) ++ f.b6 else f.b

/-- B names an s register: BS, implied by U in a base form (R36). -/
def bScalar (f : Fields) : Bool := if f.form = .b then f.u else f.bs

/-- B is an immediate (R38). -/
def bImm (f : Fields) : Bool :=
  match f.form with
  | .b => false
  | .e => immPattern f
  | .l => true
  | .x => immPattern f

/-- The immediate: word 2 sign-extended in form E, the literal in forms L and X (R38). -/
def immOf (f : Fields) : DWord := if f.form = .e then f.w2.signExtend 64 else f.lit

/-- A 32-bit value as a raw operand. -/
def raw32 (x : Word) : DWord := (0 : Word) ++ x

/-- The raw value of a register position for a lane: one register, or a pair when `wide` (R9, R100). -/
def RegFile.raw (r : RegFile) (scalar wide : Bool) (n : BitVec 8) (l : Fin 32) : DWord :=
  if scalar then (if wide then r.getPair n else raw32 (r.getS n))
  else (if wide then r.vPair n l else raw32 ((r.getV n).get l))

/-- Source A of a lane. -/
def rawA (f : Fields) (r : RegFile) (wide : Bool) (l : Fin 32) : DWord := r.raw f.u wide f.a l

/-- Source B of a lane, or the immediate. -/
def rawB (f : Fields) (r : RegFile) (wide : Bool) (l : Fin 32) : DWord :=
  if bImm f then immOf f else r.raw (bScalar f) wide (bField f) l

/-- Source C of a lane. -/
def rawC (f : Fields) (r : RegFile) (wide : Bool) (l : Fin 32) : DWord := r.raw f.cs wide f.c l

/-- Position D as a source of a lane. -/
def rawD (f : Fields) (r : RegFile) (wide : Bool) (l : Fin 32) : DWord := r.raw f.u wide f.d l

/-- Writes a result: the lanes of exec of a v register or pair, or an s register or pair (R101). -/
def RegFile.writeRes (r : RegFile) (u wide : Bool) (n : BitVec 8) (exec : Word) (x : Fin 32 → DWord) : RegFile :=
  let lo := fun l => (x l).extractLsb' 0 32
  let hi := fun l => (x l).extractLsb' 32 32
  if u then
    let r1 := r.writeS n (lo 0)
    if wide then r1.writeS (n + 1) (hi 0) else r1
  else
    let r1 := r.writeV n exec (Lanes.mk lo)
    if wide then r1.writeV (n + 1) exec (Lanes.mk hi) else r1

/-- The address operand: base, per-lane offset and displacement (R108, R137). -/
def addrOf (f : Fields) (r : RegFile) (l : Fin 32) : DWord :=
  let base := if f.form = .x then f.lit else r.getPair f.b
  let off : DWord := if f.a = 0xFF then 0 else r.raw f.u false f.a l
  base + off + f.w2.signExtend 64

/-- The lanes that an instruction acts for: lane 0 of a U = 1 form, the lanes of exec otherwise. -/
def activeLanes (u : Bool) (exec : Word) : List (Fin 32) := if u then [0] else laneList.filter (maskBit exec)

/-! ## Step 5 and 6: register fields, classes, privilege -/

/-- A failed check of R48 step 5 or 6: the field code and the value (R49). -/
structure FieldErr where
  field : Nat
  value : Word
  deriving DecidableEq, Repr

/-- What the launch allocates: Nv, Na, the classes it declares. -/
structure Limits where
  nv : Nat
  na : Nat
  cls : BitVec 4 → Bool

/-- The limits of the running group. -/
def State.limits (s : State) : Limits :=
  let l := s.lchOf s.cur
  ⟨l.img.nv, l.img.na, fun c => (l.cbind[c.toNat]'c.isLt).getLsbD 63⟩

/-- Field values that name `n` registers below `lim`, aligned (R37). -/
def regRange (lim n : Nat) (x : BitVec 8) : Bool := x.toNat + n ≤ lim && x.toNat % n = 0

/-- The field value names something of the kind (R37). -/
def kindOk (lm : Limits) (u side : Bool) (k : Kind) (x : BitVec 8) : Bool :=
  match k with
  | .none => true
  | .free => true
  | .r n => if u then regRange 64 n x else regRange lm.nv n x
  | .v n => regRange lm.nv n x
  | .s n => regRange 64 n x
  | .vs n => if side then regRange 64 n x else regRange lm.nv n x
  | .k => x.toNat < 16
  | .ks => if u then regRange 64 1 x else x.toNat < 16
  | .j => x.toNat < 8
  | .tile => x.toNat < lm.na
  | .cnt => x.toNat ≤ 3
  | .off => x = 0xFF || (if u then regRange 64 1 x else regRange lm.nv 1 x)
  | .quadOrUnf => x = 0xFF || regRange 64 4 x

/-- The first failing register, class or counter field, in field-code order (R48). -/
def fieldErr (lm : Limits) (row : Row) (f : Fields) : Option FieldErr :=
  if !kindOk lm f.u f.u row.d f.d then some ⟨0, (0 : BitVec 24) ++ f.d⟩
  else if !kindOk lm f.u f.u row.a f.a then some ⟨1, (0 : BitVec 24) ++ f.a⟩
  else if row.b ≠ .none && !bImm f && !kindOk lm f.u (bScalar f) row.b (bField f) then some ⟨2, (0 : BitVec 24) ++ bField f⟩
  else if !kindOk lm f.u f.cs row.c f.c then some ⟨3, (0 : BitVec 24) ++ f.c⟩
  else if row.cls && !lm.cls f.cls then some ⟨4, (0 : BitVec 28) ++ f.cls⟩
  else if row.subCls && !lm.cls f.sub then some ⟨5, (0 : BitVec 28) ++ f.sub⟩
  else none

/-! ## Sources and destinations (R10) -/

/-- A register source: the register, its field code, its FE bit. -/
structure Src where
  reg : Reg
  field : Nat
  fe : Bool
  deriving DecidableEq, Repr

/-- `n` registers from a number. -/
def regsFrom (scalar : Bool) (n : Nat) (x : BitVec 8) : List Reg :=
  (List.range n).map fun i => let y := x + BitVec.ofNat 8 i; if scalar then Reg.s y else Reg.v y

/-- The registers of a position. -/
def kindRegs (u side : Bool) (k : Kind) (x : BitVec 8) : List Reg :=
  match k with
  | .r n => regsFrom u n x
  | .v n => regsFrom false n x
  | .s n => regsFrom true n x
  | .vs n => regsFrom side n x
  | .ks => if u then [.s x] else []
  | .off => if x = 0xFF then [] else regsFrom u 1 x
  | .quadOrUnf => if x = 0xFF then [] else regsFrom true 4 x
  | _ => []

/-- Register sources in field-code order, the lowest register of a position first (R10). -/
def sources (row : Row) (f : Fields) : List Src :=
  let mk := fun (field : Nat) (fe : Bool) (l : List Reg) => l.map fun r => Src.mk r field fe
  mk 0 false (if row.dSrc then kindRegs f.u f.u row.d f.d else []) ++
  mk 1 (f.fe.getLsbD 0) (if row.aDst then [] else kindRegs f.u f.u row.a f.a) ++
  mk 2 (f.fe.getLsbD 1) (if bImm f then [] else kindRegs f.u (bScalar f) row.b (bField f)) ++
  mk 3 (f.fe.getLsbD 2) (kindRegs f.u f.cs row.c f.c)

/-- Register destinations. -/
def dests (row : Row) (f : Fields) : List Reg :=
  kindRegs f.u f.u row.d f.d ++ (if row.aDst then kindRegs f.u f.u row.a f.a else [])

/-- The number of a register. -/
def Reg.num : Reg → BitVec 8
  | .v n => n
  | .s n => n

/-- What the examination of the sources finds (R10). -/
inductive SrcRes where
  | ok
  | wait
  | cause (cause : Nat) (src : Src)
  | poison (src : Src)
  deriving DecidableEq, Repr

/-- A v register holds a marked word (R326). -/
def RegFile.poisoned (r : RegFile) : Reg → Bool
  | .v n => r.vpoison.any fun p => p.1 = n.toNat
  | .s _ => false

/-- The lowest marked word of a v register. -/
def RegFile.poisonWord (r : RegFile) (n : Nat) : Nat :=
  ((List.range 16).find? fun w => r.vpoison.any fun p => p.1 = n && p.2 = w).getD 0

/-- Examines the sources in order; the first that must wait or that raises a cause decides (R10, R329). -/
def examine (g : Group) : List Src → SrcRes
  | [] => .ok
  | x :: xs =>
    match g.regs.stOf x.reg with
    | .empty => if x.fe then .cause Cause.emptyRead x
                else if g.producing x.reg then .wait else .cause Cause.emptyRead x
    | .nack => .cause Cause.remoteAccess x
    | .timeout => .cause Cause.remoteTimeout x
    | .full => if g.regs.poisoned x.reg then .poison x else examine g xs

/-! ## The issue of an instruction -/

/-- How the effect of an instruction ends. -/
inductive Res where
  | done (s : State)               -- the effect is complete: fold and advance
  | jump (s : State) (pc : Pc)     -- fold, then continue at `pc`
  | stay (s : State)               -- the whole next state
  | trap (s : State) (t : TrapInfo)  -- a cause, with the effects that stand beside it
  | wait (s : State)               -- the split waits at issue
  deriving DecidableEq, Repr

/-- The next state of an instruction whose effect ended. A page fault waits while another split of the group stands in
the page-fault handler (log 16). -/
def finish (i : Instr) : Res → State
  | .done s => s.retire i
  | .jump s pc => (s.foldSp i).goto pc
  | .stay s => s
  | .trap s t => if t.cause = Cause.pageFault ∧ s.cur.sup.isSome then s.stall else s.takeTrap t
  | .wait s => s.stall

/-- Word 0 and the second word of an instruction, as the trap registers receive them (R49). -/
def wordAt (i : Instr) (n : Nat) : Word := (encode i).getD n 0

/-- The trap of R48 step 5 or 6 (R49). -/
def fieldTrap (i : Instr) (cause : Nat) (exec : Word) (e : FieldErr) : TrapInfo :=
  .all cause exec (wordAt i 0) (wordAt i 1) (BitVec.ofNat 32 e.field) e.value

/-- An ILLEGAL_OPERAND that the execution of the running split's instruction raises (R49). -/
def State.operandTrap (s : State) (i : Instr) (field : Nat) (value : Word) : Res :=
  .trap s (fieldTrap i Cause.illegalOperand s.cur.exec ⟨field, value⟩)

/-- What the issue of an instruction checks before its effect. -/
structure Plan where
  row : Row
  f : Fields
  /-- the form has no effect under an empty mask (R50, R90) -/
  vector : Bool
  /-- checks of step 5 beyond the register fields, in order after the fields of their codes -/
  more : Limits → Option FieldErr := fun _ => none
  /-- step 6 -/
  priv : Option FieldErr := none
  /-- sources and destinations beyond the row's -/
  xsrc : List Src := []
  xdst : List Reg := []
  /-- codes of fields whose register the instruction does not read -/
  skip : List Nat := []
  /-- the reads of registers raise no cause (R154) -/
  quiet : Bool := false

/-- The lower field code decides between two failing checks; the first on a tie (R48). -/
def firstErr (a b : Option FieldErr) : Option FieldErr :=
  match a, b with
  | some x, some y => if y.field < x.field then some y else some x
  | some x, none => some x
  | none, y => y

/-- The failing check of step 5. -/
def Plan.err (p : Plan) (lm : Limits) : Option FieldErr := firstErr (fieldErr lm p.row p.f) (p.more lm)

/-- The register sources of a plan in field-code order. -/
def Plan.srcs (p : Plan) : List Src :=
  let all := (sources p.row p.f).filter (fun x => !p.skip.contains x.field) ++ p.xsrc
  (List.range 4).flatMap fun n => all.filter fun x => x.field = n

/-- The register destinations of a plan. -/
def Plan.dsts (p : Plan) : List Reg := dests p.row p.f ++ p.xdst

/-- The trap of a source read: `$xmask`, the register's number and the field code (R10). -/
def srcTrap (u : Bool) (exec : Word) (cause : Nat) (x : Src) : TrapInfo :=
  let m := if u then 1 else exec
  ⟨cause, m, Vector.ofFn fun i => Lanes.mk fun l =>
    if maskBit m l then (if i = 0 then (0 : BitVec 24) ++ x.reg.num else if i = 1 then BitVec.ofNat 32 x.field else 0) else 0⟩

/-- Steps 5 to 7 of R48 for an instruction whose words are legal. -/
def issue (i : Instr) (p : Plan) (body : State → Res) (s : State) : State :=
  let g := s.cur
  if p.vector && g.exec = 0 then s.retire i
  else match p.err s.limits with
  | some e => finish i (.trap s (fieldTrap i Cause.illegalOperand g.exec e))
  | none =>
    match p.priv with
    | some e => finish i (.trap s (fieldTrap i Cause.privilege g.exec e))
    | none =>
      match examine g p.srcs with
      | .wait => s.stall
      | .cause c x => finish i (if p.quiet then body s else .trap s (srcTrap p.f.u g.exec c x))
      | .poison x =>
        let n := x.reg.num.toNat
        s.killPoison g 2 (Config.poolAddr 0 g.launch g.run (32 * g.block + g.index) (16 * n + g.regs.poisonWord n)) g.running.toNat g.sp.pc
      | .ok => if p.dsts.any g.producing then s.stall else finish i (body s)

/-- The row of an instruction with fields; the words are legal, so there is one. -/
def rowFor (op : BitVec 7) (f : Fields) : Row := (rowOf op f).getD { forms := [] }

/-- The plan of an instruction that follows its row alone: a vector form, U = 0, has no effect under an empty mask. -/
def planOf (op : BitVec 7) (f : Fields) : Plan := { row := rowFor op f, f := f, vector := !f.u }

/-- The plan of an instruction that executes whatever `$exec` holds. -/
def planAlways (op : BitVec 7) (f : Fields) : Plan := { row := rowFor op f, f := f, vector := false }

end Sys2Proof.Machine
end

