-- ==== Sys2Proof/Machine/Int.lean ====
section
/-! DEFINITION. Integer, logic, address and lane movement instructions (R99 to R112). -/

namespace Sys2Proof.Machine

/-! ## Types (R100) -/

/-- The w bits of an operand. -/
def bitsT (t : IntType) (x : DWord) : Nat := x.toNat % 2 ^ t.width

/-- A number of w bits read by signedness. -/
def signT (t : IntType) (n : Nat) : Int := if t.signed && 2 ^ (t.width - 1) ≤ n then (n : Int) - 2 ^ t.width else n

/-- get(X, t). -/
def getT (t : IntType) (x : DWord) : Int := signT t (bitsT t x)

/-- put(y, t): modulo 2^w, extended to 32 bits when narrower. -/
def putT (t : IntType) (y : Int) : DWord :=
  let n := (y % 2 ^ t.width).toNat
  if t.width < 32 then (0 : Word) ++ BitVec.ofInt 32 (signT t n) else BitVec.ofNat 64 n

/-- put of w bits. -/
def putBits (t : IntType) (x : DWord) : DWord := putT t x.toNat

/-- The type of an instruction. -/
def typeOf (f : Fields) : IntType := IntType.ofCode f.mod3

/-- Writes the result of every active lane to D (R101). -/
def writeD (f : Fields) (s : State) (wide : Bool) (x : Fin 32 → DWord) : Res :=
  .done (s.onRegs fun r => r.writeRes f.u wide f.d s.cur.exec x)

/-- An instruction of sources A and B over a type. -/
def alu2 (i : Instr) (op : BitVec 7) (f : Fields) (g : IntType → Int → Int → Int) (s : State) : State :=
  let t := typeOf f
  issue i (planOf op f) (fun s => writeD f s t.wide fun l =>
    putT t (g t (getT t (rawA f s.cur.regs t.wide l)) (getT t (rawB f s.cur.regs t.wide l)))) s

/-- A bitwise instruction of sources A and B. -/
def bits2 (i : Instr) (op : BitVec 7) (f : Fields) (g : DWord → DWord → DWord) (s : State) : State :=
  let t := typeOf f
  issue i (planOf op f) (fun s => writeD f s t.wide fun l =>
    putBits t (g (rawA f s.cur.regs t.wide l) (rawB f s.cur.regs t.wide l))) s

/-- A bitwise instruction of source A. -/
def bits1 (i : Instr) (op : BitVec 7) (f : Fields) (g : IntType → DWord → DWord) (s : State) : State :=
  let t := typeOf f
  issue i (planOf op f) (fun s => writeD f s t.wide fun l => putBits t (g t (rawA f s.cur.regs t.wide l))) s

/-- A shift: the amount is bits [31:0] of B, unsigned (R104). -/
def shiftOp (i : Instr) (op : BitVec 7) (f : Fields) (g : IntType → Nat → Nat → Nat) (s : State) : State :=
  let t := typeOf f
  issue i (planOf op f) (fun s => writeD f s t.wide fun l =>
    putT t (g t (bitsT t (rawA f s.cur.regs t.wide l)) ((rawB f s.cur.regs false l).toNat % 2 ^ 32))) s

/-- SHL: 0 for amounts of w and more. -/
def shlT (t : IntType) (a m : Nat) : Nat := if t.width ≤ m then 0 else a * 2 ^ m
/-- SHR: zeros in. -/
def shrT (t : IntType) (a m : Nat) : Nat := if t.width ≤ m then 0 else a / 2 ^ m
/-- SAR: bit w - 1 copied in. -/
def sarT (t : IntType) (a m : Nat) : Nat :=
  let k := min m t.width
  if 2 ^ (t.width - 1) ≤ a then a / 2 ^ k + (2 ^ t.width - 2 ^ (t.width - k)) else a / 2 ^ k
/-- ROTL by m mod w. -/
def rotlT (t : IntType) (a m : Nat) : Nat :=
  let k := m % t.width
  a * 2 ^ k % 2 ^ t.width + a / 2 ^ (t.width - k)

/-- IADD (R102). -/
def execIadd (f : Fields) (s : State) : Host.Outcome State Fault Refusal :=
  .next (alu2 (.iadd f) 0x14 f (fun _ a b => a + b) s)

/-- IADD (R102). -/
def execIaddExt (f : Fields) (s : State) : Host.Outcome State Fault Refusal :=
  .next (alu2 (.iaddExt f) 0x14 f (fun _ a b => a + b) s)

/-- ISUB (R102). -/
def execIsub (f : Fields) (s : State) : Host.Outcome State Fault Refusal :=
  .next (alu2 (.isub f) 0x15 f (fun _ a b => a - b) s)

/-- ISUB (R102). -/
def execIsubExt (f : Fields) (s : State) : Host.Outcome State Fault Refusal :=
  .next (alu2 (.isubExt f) 0x15 f (fun _ a b => a - b) s)

/-- IMUL (R102). -/
def execImul (f : Fields) (s : State) : Host.Outcome State Fault Refusal :=
  .next (alu2 (.imul f) 0x17 f (fun _ a b => a * b) s)

/-- IMUL (R102). -/
def execImulExt (f : Fields) (s : State) : Host.Outcome State Fault Refusal :=
  .next (alu2 (.imulExt f) 0x17 f (fun _ a b => a * b) s)

/-- IMULH (R102): the upper w bits of the exact product. -/
def execImulh (f : Fields) (s : State) : Host.Outcome State Fault Refusal :=
  .next (alu2 (.imulh f) 0x18 f (fun t a b => (a * b) / (2 ^ t.width : Int)) s)

/-- IMULH (R102): the upper w bits of the exact product. -/
def execImulhExt (f : Fields) (s : State) : Host.Outcome State Fault Refusal :=
  .next (alu2 (.imulhExt f) 0x18 f (fun t a b => (a * b) / (2 ^ t.width : Int)) s)

/-- IMIN (R102). -/
def execImin (f : Fields) (s : State) : Host.Outcome State Fault Refusal :=
  .next (alu2 (.imin f) 0x1A f (fun _ a b => min a b) s)

/-- IMIN (R102). -/
def execIminExt (f : Fields) (s : State) : Host.Outcome State Fault Refusal :=
  .next (alu2 (.iminExt f) 0x1A f (fun _ a b => min a b) s)

/-- IMAX (R102). -/
def execImax (f : Fields) (s : State) : Host.Outcome State Fault Refusal :=
  .next (alu2 (.imax f) 0x1B f (fun _ a b => max a b) s)

/-- IMAX (R102). -/
def execImaxExt (f : Fields) (s : State) : Host.Outcome State Fault Refusal :=
  .next (alu2 (.imaxExt f) 0x1B f (fun _ a b => max a b) s)

/-- AND (R102). -/
def execAnd (f : Fields) (s : State) : Host.Outcome State Fault Refusal :=
  .next (bits2 (.and f) 0x1C f (fun a b => a &&& b) s)

/-- AND (R102). -/
def execAndExt (f : Fields) (s : State) : Host.Outcome State Fault Refusal :=
  .next (bits2 (.andExt f) 0x1C f (fun a b => a &&& b) s)

/-- OR (R102). -/
def execOr (f : Fields) (s : State) : Host.Outcome State Fault Refusal :=
  .next (bits2 (.or f) 0x1D f (fun a b => a ||| b) s)

/-- OR (R102). -/
def execOrExt (f : Fields) (s : State) : Host.Outcome State Fault Refusal :=
  .next (bits2 (.orExt f) 0x1D f (fun a b => a ||| b) s)

/-- XOR (R102). -/
def execXor (f : Fields) (s : State) : Host.Outcome State Fault Refusal :=
  .next (bits2 (.xor f) 0x1E f (fun a b => a ^^^ b) s)

/-- XOR (R102). -/
def execXorExt (f : Fields) (s : State) : Host.Outcome State Fault Refusal :=
  .next (bits2 (.xorExt f) 0x1E f (fun a b => a ^^^ b) s)

/-- ANDN (R102). -/
def execAndn (f : Fields) (s : State) : Host.Outcome State Fault Refusal :=
  .next (bits2 (.andn f) 0x1F f (fun a b => a &&& ~~~b) s)

/-- ANDN (R102). -/
def execAndnExt (f : Fields) (s : State) : Host.Outcome State Fault Refusal :=
  .next (bits2 (.andnExt f) 0x1F f (fun a b => a &&& ~~~b) s)

/-- SHL (R104). -/
def execShl (f : Fields) (s : State) : Host.Outcome State Fault Refusal :=
  .next (shiftOp (.shl f) 0x20 f shlT s)

/-- SHL (R104). -/
def execShlExt (f : Fields) (s : State) : Host.Outcome State Fault Refusal :=
  .next (shiftOp (.shlExt f) 0x20 f shlT s)

/-- SHR (R104). -/
def execShr (f : Fields) (s : State) : Host.Outcome State Fault Refusal :=
  .next (shiftOp (.shr f) 0x21 f shrT s)

/-- SHR (R104). -/
def execShrExt (f : Fields) (s : State) : Host.Outcome State Fault Refusal :=
  .next (shiftOp (.shrExt f) 0x21 f shrT s)

/-- SAR (R104). -/
def execSar (f : Fields) (s : State) : Host.Outcome State Fault Refusal :=
  .next (shiftOp (.sar f) 0x22 f sarT s)

/-- SAR (R104). -/
def execSarExt (f : Fields) (s : State) : Host.Outcome State Fault Refusal :=
  .next (shiftOp (.sarExt f) 0x22 f sarT s)

/-- ROTL (R104). -/
def execRotl (f : Fields) (s : State) : Host.Outcome State Fault Refusal :=
  .next (shiftOp (.rotl f) 0x23 f rotlT s)

/-- ROTL (R104). -/
def execRotlExt (f : Fields) (s : State) : Host.Outcome State Fault Refusal :=
  .next (shiftOp (.rotlExt f) 0x23 f rotlT s)

/-- NOT (R102). -/
def execNot (f : Fields) (s : State) : Host.Outcome State Fault Refusal :=
  .next (bits1 (.not f) 0x26 f (fun _ a => ~~~a) s)

/-- NOT (R102). -/
def execNotExt (f : Fields) (s : State) : Host.Outcome State Fault Refusal :=
  .next (bits1 (.notExt f) 0x26 f (fun _ a => ~~~a) s)

/-- IADD3 (R102). -/
def execIadd3 (f : Fields) (s : State) : Host.Outcome State Fault Refusal :=
  let t := typeOf f
  .next (issue (.iadd3 f) (planOf 0x16 f) (fun s => writeD f s t.wide fun l =>
    let r := s.cur.regs
    putT t (getT t (rawA f r t.wide l) + getT t (rawB f r t.wide l) + getT t (rawC f r t.wide l))) s)

/-- IMAD (R102). -/
def execImad (f : Fields) (s : State) : Host.Outcome State Fault Refusal :=
  let t := typeOf f
  .next (issue (.imad f) (planOf 0x19 f) (fun s => writeD f s t.wide fun l =>
    let r := s.cur.regs
    putT t (getT t (rawA f r t.wide l) * getT t (rawB f r t.wide l) + getT t (rawC f r t.wide l))) s)

/-! ## Bit fields (R105) -/

/-- m: the length of a field at position `p`, cut at bit w - 1. -/
def fieldLen (t : IntType) (p n : Nat) : Nat := if p < t.width then min n (t.width - p) else 0

/-- BFX of w bits. -/
def bfxT (t : IntType) (a p n : Nat) : Int :=
  let m := fieldLen t p n
  let x := a / 2 ^ p % 2 ^ m
  if m = 0 then 0 else if t.signed && 2 ^ (m - 1) ≤ x then (x : Int) - 2 ^ m else x

/-- BFI of w bits. -/
def bfiT (t : IntType) (d x p n : Nat) : Nat :=
  let m := fieldLen t p n
  if m = 0 then d else d - d / 2 ^ p % 2 ^ m * 2 ^ p + x % 2 ^ m * 2 ^ p

/-- BFX (R105). -/
def execBfx (f : Fields) (s : State) : Host.Outcome State Fault Refusal :=
  let t := typeOf f
  .next (issue (.bfx f) (planOf 0x24 f) (fun s => writeD f s t.wide fun l =>
    let r := s.cur.regs
    putT t (bfxT t (bitsT t (rawA f r t.wide l)) ((rawB f r false l).toNat % 256) ((rawC f r false l).toNat % 256))) s)

/-- BFI (R105). -/
def execBfi (f : Fields) (s : State) : Host.Outcome State Fault Refusal :=
  let t := typeOf f
  .next (issue (.bfi f) (planOf 0x25 f) (fun s => writeD f s t.wide fun l =>
    let r := s.cur.regs
    putT t (bfiT t (bitsT t (rawD f r t.wide l)) (bitsT t (rawA f r t.wide l))
      ((rawB f r false l).toNat % 256) ((rawC f r false l).toNat % 256))) s)

/-! ## Single sources (R103) -/

/-- An instruction of source A over a type, with a result of that type. -/
def alu1 (i : Instr) (f : Fields) (g : IntType → DWord → Int) (s : State) : State :=
  let t := typeOf f
  issue i (planOf 0x27 f) (fun s => writeD f s t.wide fun l => putT t (g t (rawA f s.cur.regs t.wide l))) s

/-- A count of source A: one 32-bit register under every type. -/
def count1 (i : Instr) (f : Fields) (g : IntType → Nat → Nat) (s : State) : State :=
  let t := typeOf f
  issue i (planOf 0x27 f) (fun s => writeD f s false fun l => BitVec.ofNat 64 (g t (bitsT t (rawA f s.cur.regs t.wide l)))) s

/-- Ones among the w bits. -/
def onesT (t : IntType) (a : Nat) : Nat := ((List.range t.width).filter a.testBit).length
/-- Zeros above the highest one. -/
def clzT (t : IntType) (a : Nat) : Nat := if a = 0 then t.width else t.width - 1 - Nat.log2 a
/-- Zeros below the lowest one. -/
def ctzT (t : IntType) (a : Nat) : Nat := ((List.range t.width).find? a.testBit).getD t.width
/-- The w bits in reverse order. -/
def brevT (t : IntType) (a : Nat) : Nat := (List.range t.width).foldl (fun y i => 2 * y + (if a.testBit i then 1 else 0)) 0

/-- IABS (R103). -/
def execIabs (f : Fields) (s : State) : Host.Outcome State Fault Refusal :=
  .next (alu1 (.iabs f) f (fun t x => ((getT t x).natAbs : Int)) s)
/-- INEG (R103). -/
def execIneg (f : Fields) (s : State) : Host.Outcome State Fault Refusal :=
  .next (alu1 (.ineg f) f (fun t x => -(getT t x)) s)
/-- POPC (R103). -/
def execPopc (f : Fields) (s : State) : Host.Outcome State Fault Refusal := .next (count1 (.popc f) f onesT s)
/-- CLZ (R103). -/
def execClz (f : Fields) (s : State) : Host.Outcome State Fault Refusal := .next (count1 (.clz f) f clzT s)
/-- CTZ (R103). -/
def execCtz (f : Fields) (s : State) : Host.Outcome State Fault Refusal := .next (count1 (.ctz f) f ctzT s)
/-- BREV (R103). -/
def execBrev (f : Fields) (s : State) : Host.Outcome State Fault Refusal :=
  .next (alu1 (.brev f) f (fun t x => (brevT t (bitsT t x) : Int)) s)

/-! ## Compare, select, moves (R106, R107) -/

/-- A condition of R46 on two integers. -/
def condInt (sub : BitVec 4) (a b : Int) : Bool :=
  match sub.toNat with
  | 0 => decide (a = b) | 1 => decide (a ≠ b) | 2 => decide (a < b) | 3 => decide (a ≤ b) | 4 => decide (b < a)
  | _ => decide (b ≤ a)

/-- Writes a comparison: a mask with zeros outside exec, or 1 or 0 in an s register (R106). -/
def writeCmp (f : Fields) (s : State) (p : Fin 32 → Bool) : State :=
  s.onRegs fun r => if f.u then r.writeS f.d (if p 0 then 1 else 0) else r.setK f.d (s.cur.exec &&& maskOf p)

/-- ICMP (R106). -/
def execIcmp (f : Fields) (s : State) : Host.Outcome State Fault Refusal :=
  let t := typeOf f
  .next (issue (.icmp f) (planOf 0x28 f) (fun s => .done (writeCmp f s fun l =>
    condInt f.sub (getT t (rawA f s.cur.regs t.wide l)) (getT t (rawB f s.cur.regs t.wide l)))) s)

/-- ISEL (R106). -/
def execIsel (f : Fields) (s : State) : Host.Outcome State Fault Refusal :=
  .next (issue (.isel f) (planOf 0x29 f) (fun s => writeD f s false fun l =>
    let r := s.cur.regs
    let p := if f.u then decide (r.getS f.c ≠ 0) else maskBit (r.getK f.c) l
    if p then rawA f r false l else rawB f r false l) s)

/-- MOV from A (R107). -/
def execMov (f : Fields) (s : State) : Host.Outcome State Fault Refusal :=
  .next (issue (.mov f) (planOf 0x2A f) (fun s => writeD f s false (rawA f s.cur.regs false)) s)

/-- MOV in form E: from A, or from an s register or an immediate in B for a vector destination (R107). -/
def execMovExt (f : Fields) (s : State) : Host.Outcome State Fault Refusal :=
  .next (issue (.movExt f) (planOf 0x2A f) (fun s => writeD f s false fun l =>
    if !f.u && f.bs then rawB f s.cur.regs false l else rawA f s.cur.regs false l) s)

/-- MOVI (R107). -/
def execMovi (f : Fields) (s : State) : Host.Outcome State Fault Refusal :=
  .next (issue (.movi f) (planOf 0x2B f) (fun s => writeD f s false fun _ => raw32 f.w2) s)

/-- MOVL (R107). -/
def execMovl (f : Fields) (s : State) : Host.Outcome State Fault Refusal :=
  .next (issue (.movl f) (planOf 0x2C f) (fun s => writeD f s true fun _ => f.lit) s)

/-- LEA (R108). -/
def execLea (f : Fields) (s : State) : Host.Outcome State Fault Refusal :=
  .next (issue (.lea f) (planOf 0x2D f) (fun s => writeD f s true (addrOf f s.cur.regs)) s)

/-! ## Byte permutation (R109) -/

/-- Code `i` of BMIX. -/
def bmixCode (w2 : Word) (i : Nat) : Nat := w2.toNat / 2 ^ (4 * i) % 16

/-- Copies of bit 7 of a byte. -/
def signByte (b : Byte) : Byte := if b.getLsbD 7 then 0xFF else 0

/-- Result bytes 0 to `n - 1`, the latest first. -/
def bmixBytes (pool : List Byte) (w2 : Word) : Nat → List Byte
  | 0 => []
  | n + 1 =>
    let done := bmixBytes pool w2 n
    let at' := fun k => pool.getD k 0
    let b : Byte := match bmixCode w2 n with
      | 8 => 0
      | 9 => 0xFF
      | 10 => signByte (at' 1)
      | 11 => signByte (at' 3)
      | 12 => signByte (at' 5)
      | 13 => signByte (at' 7)
      | 14 => match done with
        | p :: _ => signByte p
        | [] => 0
      | k => at' k
    b :: done

/-- The 32 bits of BMIX. -/
def bmix (a b w2 : Word) : Word := BitVec.ofNat 32 (leNat (bmixBytes (bytesOfWord a ++ bytesOfWord b) w2 4).reverse)

/-- Word 2 of BMIX is legal: bits [31:16] zero, no code 0xF. -/
def bmixOk (w2 : Word) : Bool := (List.range 4).all (fun i => bmixCode w2 i ≠ 15) && w2.toNat < 65536

/-- BMIX (R109). -/
def execBmix (f : Fields) (s : State) : Host.Outcome State Fault Refusal :=
  .next (issue (.bmix f) { planOf 0x32 f with more := fun _ => if bmixOk f.w2 then none else some ⟨6, f.w2⟩ } (fun s =>
    writeD f s false fun l => raw32 (bmix ((rawA f s.cur.regs false l).extractLsb' 0 32) ((rawB f s.cur.regs false l).extractLsb' 0 32) f.w2)) s)

/-! ## Lane movement (R110, R111) -/

/-- The source lane of SHFL (R111). -/
def shflSrc (sub : BitVec 4) (l : Fin 32) (b : Nat) : Fin 32 :=
  let at' := fun n : Nat => Fin.ofNat 32 n
  match sub.toNat with
  | 0 => at' b
  | 1 => if b ≤ l.val then at' (l.val - b) else l
  | 2 => if l.val + b ≤ 31 then at' (l.val + b) else l
  | _ => at' (Nat.xor l.val (b % 32))

/-- Source A of a lane as SHFL and BCAST read it: a lane of another split, of whose group another instruction issued in this cycle,
supplies the value from before that instruction (R110). -/
def neighbourA (f : Fields) (s : State) (l : Fin 32) : DWord :=
  match s.turn.before with
  | none => rawA f s.cur.regs false l
  | some v => if f.u || maskBit s.cur.sp.lanes l then rawA f s.cur.regs false l else raw32 ((v[f.a.toNat]'f.a.isLt).get l)

/-- SHFL (R111): lanes outside exec supply the value their register holds (R110). -/
def execShfl (f : Fields) (s : State) : Host.Outcome State Fault Refusal :=
  .next (issue (.shfl f) (planOf 0x2E f) (fun s => writeD f s false fun l =>
    neighbourA f s (shflSrc f.sub l ((rawB f s.cur.regs false l).toNat % 2 ^ 32))) s)

/-- BCAST (R111). -/
def execBcast (f : Fields) (s : State) : Host.Outcome State Fault Refusal :=
  .next (issue (.bcast f) (planOf 0x2F f) (fun s => writeD f s false fun l =>
    neighbourA f s (Fin.ofNat 32 (rawB f s.cur.regs false l).toNat)) s)

/-! ## Reductions (R72, R112) -/

/-- One operation of IRED on w-bit values. -/
def iredOp (sub : BitVec 4) (t : IntType) (a b : Nat) : Nat :=
  match sub.toNat with
  | 0 => (a + b) % 2 ^ t.width
  | 1 => if signT t a ≤ signT t b then a else b
  | 2 => if signT t a ≤ signT t b then b else a
  | 3 => Nat.land a b
  | 4 => Nat.lor a b
  | _ => Nat.xor a b

/-- The value of a tree of lanes: neighbours in pairs, then pairs of pairs (R72). Every operation of IRED is
associative and commutative, so the value is that of the lanes in exec taken one after another (R112). -/
def iredFold (sub : BitVec 4) (t : IntType) (xs : List Nat) : Nat :=
  match xs with
  | [] => 0
  | x :: rest => rest.foldl (iredOp sub t) x

/-- IRED (R112). -/
def execIred (f : Fields) (s : State) : Host.Outcome State Fault Refusal :=
  let t := typeOf f
  .next (issue (.ired f) (planOf 0x30 f) (fun s =>
    let xs := (laneList.filter (maskBit s.cur.exec)).map fun l => bitsT t (rawA f s.cur.regs t.wide l)
    .done (s.onRegs fun r => r.writeRes true t.wide f.d 0 fun _ => putT t (iredFold f.sub t xs : Int))) s)

/-- IPSUM (R112). -/
def execIpsum (f : Fields) (s : State) : Host.Outcome State Fault Refusal :=
  let t := typeOf f
  .next (issue (.ipsum f) (planOf 0x31 f) (fun s => writeD f s t.wide fun l =>
    let ms := laneList.filter fun m => maskBit s.cur.exec m && (if f.sub = 0 then decide (m ≤ l) else decide (m < l))
    putT t (ms.foldl (fun y m => y + getT t (rawA f s.cur.regs t.wide m)) 0)) s)

end Sys2Proof.Machine
end

