-- ==== Sys2Proof/Machine/Num.lean ====
section
/-! DEFINITION. Number formats (R52, R53), plane integers and quantisation (R54 to R58), stochastic draws (R59), FX80
(R62, R63, R65), class rounding (R66, R70), and the functions of one operand (R120). Arithmetic is exact until its one
rounding: a value is a sign, a natural number and a power of two. -/

namespace Sys2Proof.Machine

/-! ## Values -/

/-- A value before or after rounding. `num` is ±m × 2^e; with `more` its magnitude lies strictly between m × 2^e and
(m + 1) × 2^e, as for a root or a logarithm that no such number equals. -/
inductive Val where
  | zero (neg : Bool)
  | inf (neg : Bool)
  | nan (signalling : Bool)
  | num (neg : Bool) (m : Nat) (e : Int) (more : Bool := false)
  deriving DecidableEq, Repr

/-- The value z × 2^e; a zero takes the given sign. -/
def Val.ofInt (zneg : Bool) (z : Int) (e : Int) : Val :=
  if z = 0 then .zero zneg else .num (decide (z < 0)) z.natAbs e

/-- The sign bit of a value. -/
def Val.neg : Val → Bool
  | .zero n => n | .inf n => n | .nan _ => false | .num n _ _ _ => n

/-- The value is a NaN. -/
def Val.isNan : Val → Bool
  | .nan _ => true | _ => false

/-- The value is a signalling NaN. -/
def Val.isSnan : Val → Bool
  | .nan s => s | _ => false

/-- The value is a zero. -/
def Val.isZero : Val → Bool
  | .zero _ => true | _ => false

/-- The value is infinite. -/
def Val.isInf : Val → Bool
  | .inf _ => true | _ => false

/-- The value is finite. -/
def Val.finite : Val → Bool
  | .zero _ => true | .num .. => true | _ => false

/-- The value with its sign flipped. -/
def Val.flip : Val → Val
  | .zero n => .zero !n | .inf n => .inf !n | .nan s => .nan s | .num n m e r => .num (!n) m e r

/-- 2^k for a natural or negative exponent, as numerator or denominator. -/
def pow2n (k : Int) : Nat := 2 ^ k.toNat

/-- A finite value as an integer multiple of 2^e, for an `e` that is not above its exponent. -/
def Val.scaled (v : Val) (e : Int) : Int :=
  match v with
  | .num n m x _ => let y : Int := m * pow2n (x - e); if n then -y else y
  | _ => 0

/-- The exponent of a finite value. -/
def Val.exp? : Val → Option Int
  | .num _ _ e _ => some e
  | _ => none

/-- floor(log2 |v|) of a non-zero finite value. -/
def log2Of (m : Nat) (e : Int) : Int := (Nat.log2 m : Int) + e

/-- v × 2^k. -/
def Val.shift (v : Val) (k : Int) : Val :=
  match v with
  | .num n m e r => .num n m (e + k) r
  | x => x

/-- floor(z × 2^k). -/
def floorShift (z : Int) (k : Int) : Int := if 0 ≤ k then z * pow2n k else z / (pow2n (-k) : Int)

/-- floor(v × 2^k) of a finite value. -/
def Val.floor (v : Val) (k : Int) : Int :=
  match v with
  | .num n m e _ => floorShift (if n then -(m : Int) else m) (e + k)
  | _ => 0

/-! ## Formats (R52) -/

/-- A binary format: width in bits, precision, largest exponent. -/
structure Fmt where
  width : Nat
  p : Nat
  emax : Nat
  deriving DecidableEq, Repr

/-- FP32, BF16 and FP16 (R52). -/
def fp32 : Fmt := ⟨32, 24, 127⟩
def bf16 : Fmt := ⟨16, 8, 127⟩
def fp16 : Fmt := ⟨16, 11, 15⟩

/-- The smallest normal exponent. -/
def Fmt.emin (f : Fmt) : Int := 1 - f.emax

/-- The exponent of the least significant bit of a subnormal. -/
def Fmt.qmin (f : Fmt) : Int := f.emin - (f.p - 1)

/-- The bits of +Inf. -/
def Fmt.infBits (f : Fmt) : Nat := (2 * f.emax + 1) * 2 ^ (f.p - 1)

/-- The bits of the largest finite value. -/
def Fmt.maxBits (f : Fmt) : Nat := f.infBits - 1

/-- The canonical quiet NaN (R52). -/
def Fmt.qnan (f : Fmt) : Nat := f.infBits + 2 ^ (f.p - 2)

/-- Magnitude bits with a sign. -/
def Fmt.signed (f : Fmt) (neg : Bool) (x : Nat) : Nat := if neg then 2 ^ (f.width - 1) + x else x

/-- The value of bits (R52). -/
def Fmt.decode (f : Fmt) (bits : Nat) : Val :=
  let x := bits % 2 ^ f.width
  let neg := x.testBit (f.width - 1)
  let mag := x % 2 ^ (f.width - 1)
  let ex := mag / 2 ^ (f.p - 1)
  let fr := mag % 2 ^ (f.p - 1)
  if ex = 2 * f.emax + 1 then (if fr = 0 then .inf neg else .nan (!fr.testBit (f.p - 2)))
  else if mag = 0 then .zero neg
  else if ex = 0 then .num neg fr f.qmin
  else .num neg (2 ^ (f.p - 1) + fr) (f.qmin + (ex - 1))

/-- The value is subnormal in the format. -/
def Fmt.subnormal (f : Fmt) (v : Val) : Bool :=
  match v with
  | .num _ m e _ => decide (log2Of m e < f.emin)
  | _ => false

/-- The input rule of `.ftz` (R53). -/
def Fmt.flush (f : Fmt) (ftz : Bool) (v : Val) : Val := if ftz && f.subnormal v then .zero v.neg else v

/-! ## Rounding (R70) -/

/-- A rounding mode. -/
inductive Rnd where
  | rne | rtz | rd | ru | sr
  deriving DecidableEq, Repr

/-- The rounding code of MOD3 (R45). -/
def Rnd.ofCode (c : BitVec 3) : Rnd :=
  match c.toNat with
  | 0 => .rne | 1 => .rtz | 2 => .rd | _ => .ru

/-- `rnd_int` of the magnitude of ±(n / d), `more` telling that the magnitude is a little larger: the magnitude of the
integer (R70). -/
def rndMag (mode : Rnd) (rb : Nat) (neg : Bool) (n d : Nat) (more : Bool) : Nat :=
  let q := n / d
  let r := n % d
  let inexact := r ≠ 0 || more
  match mode with
  | .rne => if d < 2 * r || (2 * r = d && (more || q % 2 = 1)) then q + 1 else q
  | .rtz => q
  | .rd => if neg && inexact then q + 1 else q
  | .ru => if !neg && inexact then q + 1 else q
  | .sr => if neg then (n * 65536 - rb * d + (65536 * d - 1)) / (65536 * d) else (n * 65536 + rb * d) / (65536 * d)

/-- Numerator and denominator of m × 2^k. -/
def ratio (m : Nat) (k : Int) : Nat × Nat := if 0 ≤ k then (m * pow2n k, 1) else (m, pow2n (-k))

/-- `rnd_int` of a value (R70). -/
def Val.rndInt (v : Val) (mode : Rnd) (rb : Nat) : Int :=
  match v with
  | .num n m e r =>
    let (a, d) := ratio m e
    let x : Int := rndMag mode rb n a d r
    if n then -x else x
  | _ => 0

/-- A rounded value: its bits and the flags NV DZ OF UF NX, [4] to [0] (R53). -/
structure Rounded where
  bits : Nat
  flags : BitVec 5 := 0
  deriving DecidableEq, Repr

/-- The flags (R16). -/
def flNV : BitVec 5 := 16
def flDZ : BitVec 5 := 8
def flOF : BitVec 5 := 4
def flUF : BitVec 5 := 2
def flNX : BitVec 5 := 1

/-- `round_fmt` with the flags of R53, and the output rule of `.ftz`. -/
def Fmt.round (f : Fmt) (mode : Rnd) (rb : Nat) (ftz : Bool) (v : Val) : Rounded :=
  match v with
  | .zero n => ⟨f.signed n 0, 0⟩
  | .inf n => ⟨f.signed n f.infBits, 0⟩
  | .nan _ => ⟨f.qnan, 0⟩
  | .num neg m e more =>
    let lg := log2Of m e
    let q := max lg f.emin - (f.p - 1)
    let (a, d) := ratio m (e - q)
    let n := rndMag mode rb neg a d more
    let mag := (q - f.qmin).toNat * 2 ^ (f.p - 1) + n
    let inexact := decide (a % d ≠ 0) || more
    if f.infBits ≤ mag then
      let x := match mode with
        | .rtz => f.maxBits
        | .rd => if neg then f.infBits else f.maxBits
        | .ru => if neg then f.maxBits else f.infBits
        | _ => f.infBits
      ⟨f.signed neg x, flOF ||| flNX⟩
    else
      -- tiny: the result rounded to p bits with an unbounded exponent lies below 2^emin
      let (a1, d1) := ratio m (e - (lg - (f.p - 1)))
      let tiny := decide (lg < f.emin) &&
        !(decide (lg = f.emin - 1) && decide (rndMag mode rb neg a1 d1 more = 2 ^ f.p))
      if ftz && tiny then ⟨f.signed neg 0, flUF ||| flNX⟩
      else ⟨f.signed neg mag, (if inexact then flNX else 0) ||| (if tiny && inexact then flUF else 0)⟩

/-! ## Arithmetic (R117) -/

/-- A value with the flags that the operation raises before rounding. -/
structure Arith where
  v : Val
  flags : BitVec 5 := 0
  deriving DecidableEq, Repr

/-- NV when an operand is a signalling NaN. -/
def nvOf (l : List Val) : BitVec 5 := if l.any Val.isSnan then flNV else 0

/-- a + b (R117). -/
def addV (mode : Rnd) (a b : Val) : Arith :=
  match a, b with
  | .nan s, y => ⟨.nan false, nvOf [.nan s, y]⟩
  | x, .nan s => ⟨.nan false, nvOf [x, .nan s]⟩
  | .inf m, .inf n => if m = n then ⟨.inf m, 0⟩ else ⟨.nan false, flNV⟩
  | .inf m, _ => ⟨.inf m, 0⟩
  | _, .inf n => ⟨.inf n, 0⟩
  | .zero m, .zero n => ⟨.zero (if m = n then m else decide (mode = .rd)), 0⟩
  | .zero _, y => ⟨y, 0⟩
  | x, .zero _ => ⟨x, 0⟩
  | .num m x e r, .num n y k t =>
    let q := min e k
    ⟨Val.ofInt (decide (mode = .rd)) ((Val.num m x e r).scaled q + (Val.num n y k t).scaled q) q, 0⟩

/-- a × b (R117). -/
def mulV (a b : Val) : Arith :=
  let n := a.neg != b.neg
  match a, b with
  | .nan s, y => ⟨.nan false, nvOf [.nan s, y]⟩
  | x, .nan s => ⟨.nan false, nvOf [x, .nan s]⟩
  | .inf _, .zero _ => ⟨.nan false, flNV⟩
  | .zero _, .inf _ => ⟨.nan false, flNV⟩
  | .inf _, _ => ⟨.inf n, 0⟩
  | _, .inf _ => ⟨.inf n, 0⟩
  | .zero _, _ => ⟨.zero n, 0⟩
  | _, .zero _ => ⟨.zero n, 0⟩
  | .num _ x e _, .num _ y k _ => ⟨.num n (x * y) (e + k), 0⟩

/-- a × b + c with one rounding to come (R117). -/
def fmaV (mode : Rnd) (a b c : Val) : Arith :=
  let p := mulV a b
  let r := addV mode p.v c
  ⟨r.v, p.flags ||| r.flags ||| nvOf [c]⟩

/-- a < b for values that are not NaN; with `signedZero`, −0 < +0. -/
def Val.lt (signedZero : Bool) (a b : Val) : Bool :=
  match a, b with
  | .nan _, _ => false
  | _, .nan _ => false
  | .inf m, .inf n => m && !n
  | .inf m, _ => m
  | _, .inf n => !n
  | .zero m, .zero n => signedZero && m && !n
  | .zero _, .num n _ _ _ => !n
  | .num m _ _ _, .zero _ => m
  | .num m x e r, .num n y k t =>
    let q := min e k
    decide ((Val.num m x e r).scaled q < (Val.num n y k t).scaled q)

/-- a = b, with +0 = −0; false for a NaN. -/
def Val.eq (a b : Val) : Bool := !a.isNan && !b.isNan && !a.lt false b && !b.lt false a

/-- A condition of R46 on two values (R119): 0 eq, 1 ne, 2 lt, 3 le, 4 gt, 5 ge, 6 un, 7 ord. -/
def condV (c : BitVec 3) (a b : Val) : Bool :=
  let un := a.isNan || b.isNan
  match c.toNat with
  | 0 => a.eq b
  | 1 => !a.eq b
  | 2 => a.lt false b
  | 3 => !un && !b.lt false a
  | 4 => b.lt false a
  | 5 => !un && !a.lt false b
  | 6 => un
  | _ => !un

/-- NV of a comparison (R119). -/
def condNv (c : BitVec 3) (a b : Val) : BitVec 5 :=
  if 2 ≤ c.toNat ∧ c.toNat ≤ 5 then (if a.isNan || b.isNan then flNV else 0) else nvOf [a, b]

/-! ## Functions of one operand (R120) -/

/-- The integer square root by bits, `k` bits from the top. -/
def sqrtBits (n : Nat) : Nat → Nat → Nat
  | 0, r => r
  | k + 1, r => let t := r + 2 ^ k; sqrtBits n k (if t * t ≤ n then t else r)

/-- floor(√n). -/
def isqrt (n : Nat) : Nat := sqrtBits n (Nat.log2 n / 2 + 1) 0

/-- Fractional bits of the fixed-point series. -/
def fxP : Nat := 512

/-- Σ terms: the first is `t`, each next is the last times `z` over `2^fxP` and over `d k`, for `n` terms; the sum with
alternating signs when `alt`. -/
def series (z : Nat) (d : Nat → Nat) (alt : Bool) : Nat → Nat → Nat → Int
  | 0, _, _ => 0
  | n + 1, k, t =>
    let rest := series z d alt n (k + 1) (t * z / 2 ^ fxP / d (k + 1))
    (t : Int) + (if alt then -rest else rest)

/-- Σ y^(2k+1) / (2k+1), with alternating signs when `alt`: atanh or atan of y, y a multiple of 2^−fxP. -/
def arcSeries (y : Nat) (alt : Bool) : Nat → Nat → Nat → Int
  | 0, _, _ => 0
  | n + 1, k, t =>
    let rest := arcSeries y alt n (k + 1) (t * y / 2 ^ fxP * y / 2 ^ fxP)
    (t / (2 * k + 1) : Int) + (if alt then -rest else rest)

/-- ln 2 = 2 atanh(1/3). -/
def fxLn2 : Nat := (2 * arcSeries (2 ^ fxP / 3) false 170 0 (2 ^ fxP / 3)).toNat

/-- π = 16 atan(1/5) − 4 atan(1/239). -/
def fxPi : Nat :=
  (16 * arcSeries (2 ^ fxP / 5) true 120 0 (2 ^ fxP / 5) - 4 * arcSeries (2 ^ fxP / 239) true 40 0 (2 ^ fxP / 239)).toNat

/-- sin(π a / 2^d) × 2^fxP for 0 < a / 2^d ≤ 1/2. -/
def fxSin (a d : Nat) : Nat :=
  let z := fxPi * a / 2 ^ d
  (series (z * z / 2 ^ fxP) (fun k => (2 * k) * (2 * k + 1)) true 60 0 z).toNat

/-- 2^(a / 2^d) × 2^fxP for 0 < a / 2^d < 1. -/
def fxExp2 (a d : Nat) : Nat := (series (fxLn2 * a / 2 ^ d) (fun k => k) false 110 0 (2 ^ fxP)).toNat

/-- log2(m / 2^k) × 2^fxP, for 2^k < m < 2^(k+1). -/
def fxLog2 (m k : Nat) : Nat :=
  let y := (m - 2 ^ k) * 2 ^ fxP / (m + 2 ^ k)
  ((2 * arcSeries y false 170 0 y).toNat * 2 ^ fxP) / fxLn2

/-- 1/x. -/
def rcpV (v : Val) : Arith :=
  match v with
  | .zero n => ⟨.inf n, flDZ⟩
  | .inf n => ⟨.zero n, 0⟩
  | .nan s => ⟨.nan false, nvOf [.nan s]⟩
  | .num n m e _ =>
    let k := Nat.log2 m + 64
    ⟨.num n (2 ^ k / m) (-e - k) (decide (2 ^ k % m ≠ 0)), 0⟩

/-- √x. -/
def sqrtV (v : Val) : Arith :=
  match v with
  | .zero n => ⟨.zero n, 0⟩
  | .inf n => if n then ⟨.nan false, flNV⟩ else ⟨.inf n, 0⟩
  | .nan s => ⟨.nan false, nvOf [.nan s]⟩
  | .num n m e _ =>
    if n then ⟨.nan false, flNV⟩
    else
      let o := (e % 2).toNat
      let x := m * 2 ^ (128 + o)
      let r := isqrt x
      ⟨.num false r ((e - o - 128) / 2) (decide (r * r ≠ x)), 0⟩

/-- 1/√x. -/
def rsqV (v : Val) : Arith :=
  match v with
  | .zero n => ⟨.inf n, flDZ⟩
  | .inf n => if n then ⟨.nan false, flNV⟩ else ⟨.zero false, 0⟩
  | .nan s => ⟨.nan false, nvOf [.nan s]⟩
  | .num n m e _ =>
    if n then ⟨.nan false, flNV⟩
    else
      let o := (e % 2).toNat
      let y := m * 2 ^ o
      let k := Nat.log2 y + 64
      let x := 2 ^ (2 * k) / y
      let r := isqrt x
      ⟨.num false r (-((e - o) / 2) - k) (decide (r * r * y ≠ 2 ^ (2 * k))), 0⟩

/-- Numerator and power of the denominator of a finite value's magnitude, the denominator 2^d. -/
def dyadic (m : Nat) (e : Int) : Nat × Nat := if 0 ≤ e then (m * pow2n e, 0) else (m, (-e).toNat)

/-- 2^x. Exponents beyond ±1000 over- or underflow every format alike. -/
def exp2V (v : Val) : Arith :=
  match v with
  | .zero _ => ⟨.num false 1 0, 0⟩
  | .inf n => ⟨if n then .zero false else .inf false, 0⟩
  | .nan s => ⟨.nan false, nvOf [.nan s]⟩
  | .num n m e _ =>
    if 10 ≤ log2Of m e then ⟨.num false 1 (if n then -1000 else 1000), 0⟩
    else
      let (a, d) := dyadic m e
      let z : Int := if n then -(a : Int) else a
      let k := z / (2 ^ d : Nat)
      let t := (z % (2 ^ d : Nat)).toNat
      if t = 0 then ⟨.num false 1 k, 0⟩ else ⟨.num false (fxExp2 t d) (k - fxP) true, 0⟩

/-- log2 x. -/
def log2V (v : Val) : Arith :=
  match v with
  | .zero _ => ⟨.inf true, flDZ⟩
  | .inf n => if n then ⟨.nan false, flNV⟩ else ⟨.inf false, 0⟩
  | .nan s => ⟨.nan false, nvOf [.nan s]⟩
  | .num n m e _ =>
    if n then ⟨.nan false, flNV⟩
    else
      let k := Nat.log2 m
      let l := log2Of m e
      if m = 2 ^ k then ⟨Val.ofInt false l 0, 0⟩
      else
        match Val.ofInt false (l * (2 ^ fxP : Nat) + fxLog2 m k) (-(fxP : Int)) with
        | .num n m e _ => ⟨.num n m e true, 0⟩
        | x => ⟨x, 0⟩

/-- sin(π x) (R120). -/
def sinpV (v : Val) : Arith :=
  match v with
  | .zero n => ⟨.zero n, 0⟩
  | .inf _ => ⟨.nan false, flNV⟩
  | .nan s => ⟨.nan false, nvOf [.nan s]⟩
  | .num n m e _ =>
    if 0 ≤ e then ⟨.zero n, 0⟩
    else
      let d := (-e).toNat
      let one := 2 ^ d
      let r := m % (2 * one)
      let neg := n != decide (one < r)
      let u := r % one
      let w := if one < 2 * u then one - u else u
      if u = 0 then ⟨.zero n, 0⟩
      else if 2 * u = one then ⟨.num neg 1 0, 0⟩
      else ⟨.num neg (fxSin w d) (-(fxP : Int)) true, 0⟩

/-- cos(π x) (R120). -/
def cospV (v : Val) : Arith :=
  match v with
  | .zero _ => ⟨.num false 1 0, 0⟩
  | .inf _ => ⟨.nan false, flNV⟩
  | .nan s => ⟨.nan false, nvOf [.nan s]⟩
  | .num _ m e _ =>
    let (a, d) := dyadic m e
    let one := 2 ^ d
    let r := a % (2 * one)
    let u := if one < r then 2 * one - r else r    -- cos(π (2 − r)) = cos(π r), 0 ≤ u ≤ 1
    if u = 0 then ⟨.num false 1 0, 0⟩
    else if u = one then ⟨.num true 1 0, 0⟩
    else if 2 * u = one then ⟨.zero false, 0⟩
    else if 2 * u < one then ⟨.num false (fxSin (one - 2 * u) (d + 1)) (-(fxP : Int)) true, 0⟩
    else ⟨.num true (fxSin (2 * u - one) (d + 1)) (-(fxP : Int)) true, 0⟩

/-- x rounded to an integer, as a value (R121). -/
def rintV (mode : Rnd) (v : Val) : Arith :=
  match v with
  | .nan s => ⟨.nan false, nvOf [.nan s]⟩
  | .num n m e r => ⟨Val.ofInt n ((Val.num n m e r).rndInt mode 0) 0, 0⟩
  | x => ⟨x, 0⟩

/-- The class mask of a value (R122). -/
def classBits (f : Fmt) (v : Val) : Nat :=
  match v with
  | .inf n => if n then 1 else 128
  | .zero n => if n then 8 else 16
  | .nan s => if s then 256 else 512
  | .num n m e r => if f.subnormal (.num n m e r) then (if n then 4 else 32) else (if n then 2 else 64)

/-! ## The class binding entry (R66) -/

/-- Fields of an entry. -/
def entTRG (e : DWord) : Bool := e.getLsbD 61
def entTUF (e : DWord) : Bool := e.getLsbD 60
def entTGD (e : DWord) : Bool := e.getLsbD 59
def entTNAN (e : DWord) : Bool := e.getLsbD 58
def entExact (e : DWord) : Bool := e.getLsbD 62
def entV (e : DWord) : Bool := e.getLsbD 63
def entSAT (e : DWord) : Bool := e.getLsbD 21
def entMKIND (e : DWord) : Nat := (e.extractLsb' 51 3).toNat
def entMPL (e : DWord) : Nat := (e.extractLsb' 47 4).toNat
def entXPL (e : DWord) : Nat := (e.extractLsb' 43 4).toNat
def entLSB (e : DWord) : Int := (e.extractLsb' 35 8).toInt
def entGLOG (e : DWord) : Nat := (e.extractLsb' 30 5).toNat
def entRXB (e : DWord) : Int := (e.extractLsb' 22 8).toNat
def entRFMT (e : DWord) : Nat := (e.extractLsb' 54 2).toNat

/-- RND of an entry. -/
def entRND (e : DWord) : Rnd :=
  match (e.extractLsb' 56 2).toNat with
  | 1 => .rtz | 2 => .sr | _ => .rne

/-- The format of a code: 1 BF16, 2 FP16, otherwise FP32. -/
def fmtOf (c : Nat) : Fmt := if c = 1 then bf16 else if c = 2 then fp16 else fp32

/-- The register format of a class. -/
def entFmt (e : DWord) : Fmt := fmtOf (entRFMT e)

/-- The register format holds two elements. -/
def entPacked (e : DWord) : Bool := entRFMT e = 1 || entRFMT e = 2

/-! ## Stochastic rounding (R59, R70) -/

/-- The 16-bit draw of element `i`: rotl(s, i mod 32)[15:0]. -/
def srDraw (s : Word) (i : Nat) : Nat := (s.rotateLeft (i % 32)).toNat % 65536

/-- xorshift32 (R70). -/
def xorshift32 (s : Word) : Word :=
  let a := s ^^^ (s <<< 13)
  let b := a ^^^ (a >>> 17)
  b ^^^ (b <<< 5)

/-! ## Class rounding (R70, R128) -/

/-- The outcome of `round_class` for one element: the bits that are delivered when no trap enable is set, the reason of
a trap (0 none, 1 range, 2 NaN, 3 underflow), and the flags. -/
structure ClsRes where
  bits : Nat
  reason : Nat := 0
  range : Bool := false
  under : Bool := false
  deriving DecidableEq, Repr

/-- |v| ≥ 2^b for a value. -/
def geBound (v : Val) (b : Int) : Bool :=
  match v with
  | .inf _ => true
  | .num _ m e _ => decide (b ≤ log2Of m e)
  | _ => false

/-- maxb_f: bits of the largest finite value of a format below 2^b (R70). -/
def maxBelow (f : Fmt) (b : Int) : Nat :=
  if (f.emax : Int) < b then f.maxBits
  else if f.emin ≤ b then (b + f.emax).toNat * 2 ^ (f.p - 1) - 1
  else if f.qmin ≤ b then 2 ^ (b - f.qmin).toNat - 1
  else 0

/-- The range bound of an entry is 2^(RXB − 126). -/
def entBound (e : DWord) : Int := entRXB e - 126

/-- `round_class` into a format, with its draw (R70). -/
def clsRound (e : DWord) (f : Fmt) (rb : Nat) (x : Val) : ClsRes :=
  let r := (f.round (entRND e) rb false x).bits
  if x.isNan then { bits := f.qnan, reason := if entTNAN e then 2 else 0 }
  else
    let range := geBound (f.decode r) (entBound e)
    let r1 := if range && entSAT e && x.finite then f.signed x.neg (maxBelow f (entBound e)) else r
    let under := !x.isZero && (f.decode r1).isZero && !(range && entTRG e)
    { bits := r1, range := range, under := under
      reason := if range && entTRG e then 1 else if under && entTUF e then 3 else 0 }

/-! ## Plane integers (R54 to R58) -/

/-- The n-bit two's-complement pattern of an integer. -/
def planeBits (n : Nat) (q : Int) : Nat := (q % (2 ^ n : Nat)).toNat

/-- Plane words of 32 integers of n bits, plane 0 first (R54). -/
def planesOf (n : Nat) (qs : List Int) : List Word :=
  (List.range n).map fun j => maskOf fun i => (planeBits n (qs.getD i.val 0)).testBit (n - 1 - j)

/-- The integer of element `i` of a block read at `k` planes (R55). -/
def planeInt (w : List Word) (k i : Nat) : Int :=
  let n := (List.range k).foldl (fun x j => 2 * x + (if (w.getD j 0).getLsbD i then 1 else 0)) 0
  if 2 ^ (k - 1) ≤ n then (n : Int) - 2 ^ k else n

/-- The value of an integer of k bits under a scale code (R56, R70). -/
def planeVal (q : Int) (code : Nat) (k : Nat) : Val :=
  if code = 0 then .zero false
  else if code = 0xFF then .nan false
  else if code = 0xFE then (if q = 0 then .zero false else .inf (decide (q < 0)))
  else Val.ofInt false q ((code : Int) - 127 - (k - 1))

/-- `plane_elem` (R70). -/
def planeElem (w : List Word) (code k i : Nat) : Val := planeVal (planeInt w k i) code k

/-- A clamp to n bits. -/
def clampQ (n : Nat) (q : Int) : Int := max (-(2 ^ (n - 1) : Nat)) (min q ((2 ^ (n - 1) : Nat) - 1))

/-- The integer of a finite element under a scale code, before the clamp (R57 step 7). -/
def quantInt (n code : Nat) (mode : Rnd) (rb : Nat) (x : Val) : Int :=
  (x.shift ((n : Int) - 1 - ((code : Int) - 127))).rndInt mode rb

/-- A quantised block. -/
structure Quant where
  code : Nat
  qs : List Int
  range : Bool := false
  under : Bool := false
  /-- the reason of a trap (R70), 0 for none -/
  reason : Nat := 0
  deriving DecidableEq, Repr

/-- `quant_block` (R57) with draws of a state. -/
def quantBlock (e : DWord) (srs : Word) (n : Nat) (xs : List Val) : Quant :=
  let ix := (List.range 32).zip xs
  if xs.any Val.isNan then { code := 0xFF, qs := xs.map fun _ => 0 }
  else if xs.any Val.isInf then
    { code := 0xFE
      qs := xs.map fun x => match x with
        | .inf neg => if neg then -(2 ^ (n - 1) : Nat) else ((2 ^ (n - 1) : Nat) : Int) - 1
        | _ => 0 }
  else
    let lg := xs.foldl (fun (r : Option Int) x => match x with
      | .num _ m k _ => let l := log2Of m k; some (match r with | none => l | some y => max y l)
      | _ => r) none
    match lg with
    | none => { code := 0, qs := xs.map fun _ => 0 }
    | some l =>
      let c := l + 128
      if c < 1 then { code := 0, qs := xs.map fun _ => 0, under := true, reason := if entTUF e then 3 else 0 }
      else
        let range := decide (0xFD < c)
        let code := (min c 0xFD).toNat
        { code := code, range := range, reason := if range && entTRG e then 1 else 0
          qs := ix.map fun p => clampQ n (quantInt n code (entRND e) (srDraw srs p.1) p.2) }

/-- Quantisation under a supplied code (R58). -/
def quantTensor (e : DWord) (srs : Word) (n code : Nat) (xs : List Val) : Quant :=
  if code = 0 ∨ code = 0xFE ∨ code = 0xFF then { code := code, qs := xs.map fun _ => 0 }
  else
    let top : Int := ((2 ^ (n - 1) : Nat) : Int) - 1
    -- integer, RANGE, reason
    let one := fun (p : Nat × Val) => match p.2 with
      | .nan _ => ((0 : Int), true, if entTNAN e then 2 else 0)
      | .inf neg => (if neg then -(2 ^ (n - 1) : Nat) else top, true, if entTRG e then 1 else 0)
      | x =>
        let q := quantInt n code (entRND e) (srDraw srs p.1) x
        let c := clampQ n q
        (c, decide (c ≠ q), if c ≠ q && entTRG e then 1 else 0)
    let rs := ((List.range 32).zip xs).map one
    { code := code, qs := rs.map (·.1), range := rs.any (·.2.1)
      reason := ((rs.map (·.2.2)).find? (· ≠ 0)).getD 0 }

/-! ## FX80 (R62, R63, R65) -/

/-- The product of two plane elements in units of 2^Lsb (R62). -/
def fxProduct (lsb : Int) (qa qb : Int) (ea eb na nb : Nat) : Int :=
  floorShift (qa * qb) ((ea : Int) + eb - 254 - (na - 1) - (nb - 1) - lsb)

/-- Adds to a tile element: modulo 2^80, and the special bits by OR (R62, R63). -/
def Elem.add (x : Elem) (z : Int) (sp sn sq : Bool) : Elem :=
  ⟨x.v + BitVec.ofInt 80 z, x.sp || sp, x.sn || sn, x.sq || sq⟩

/-- The value that an element reads as (R63, R65). -/
def Elem.val (lsb : Int) (x : Elem) : Val :=
  if x.sq || (x.sp && x.sn) then .nan false
  else if x.sp then .inf false
  else if x.sn then .inf true
  else Val.ofInt false x.v.toInt lsb

/-- Sums of an EXACT class (R69): the aligned value of an addend. -/
def Elem.addVal (lsb : Int) (x : Elem) (v : Val) : Elem :=
  match v with
  | .nan _ => x.add 0 false false true
  | .inf neg => x.add 0 (!neg) neg false
  | y => x.add (y.floor (-lsb)) false false false

end Sys2Proof.Machine
end

