-- ==== Sys2Proof/Machine/Float.lean ====
section
/-! DEFINITION. Fixed-format floating point (R113 to R124) and the delivery of its results, flags and traps (R116). -/

namespace Sys2Proof.Machine

/-! ## Delivery (R116) -/

/-- What an instruction computes for a lane: the value for D, the value for D + 1, the flags of elements 0 and 1. -/
structure FpOut where
  lo : Word
  hi : Word := 0
  f0 : BitVec 5 := 0
  f1 : BitVec 5 := 0
  deriving DecidableEq, Repr

/-- The flags of a lane. -/
def FpOut.flags (o : FpOut) : BitVec 5 := o.f0 ||| o.f1

/-- The lowest code among raised flags: NV 0x10, DZ 0x11, OF 0x12, UF 0x13, NX 0x14. -/
def fpCause (x : BitVec 5) : Nat :=
  if x.getLsbD 4 then 0x10 else if x.getLsbD 3 then 0x11 else if x.getLsbD 2 then 0x12
  else if x.getLsbD 1 then 0x13 else 0x14

/-- The OR of the flags of some lanes. -/
def orFlags (l : List (Fin 32 × FpOut)) : BitVec 5 := l.foldl (fun x p => x ||| p.2.flags) 0

/-- The lanes that trap under the enables of `$fpctl`. -/
def fpBad (ctl : BitVec 5) (l : List (Fin 32 × FpOut)) : List (Fin 32 × FpOut) :=
  l.filter fun p => p.2.flags &&& ctl ≠ 0

/-- The mask of listed lanes; a U = 1 form names lane 0. -/
def lanesOf {α : Type} (l : List (Fin 32 × α)) : Word := maskOf fun x => l.any fun p => p.1 = x

/-- Enables of `$fpctl` (R16). -/
def State.fpEnables (s : State) : BitVec 5 := s.cur.ctl.fpctl.extractLsb' 0 5

/-- The trap of the lanes `bad` (R116). -/
def fpTrap (f : Fields) (ctl : BitVec 5) (bad : List (Fin 32 × FpOut)) : TrapInfo :=
  let at' := fun (l : Fin 32) => (bad.find? fun p => p.1 = l).map (·.2)
  ⟨fpCause (orFlags bad &&& ctl), lanesOf bad, Vector.ofFn fun i => Lanes.mk fun l =>
    match at' l with
    | none => 0
    | some o =>
      if i = 0 then (0 : BitVec 24) ++ f.d
      else if i = 1 then (0 : BitVec 19) ++ o.f1 ++ (0 : BitVec 3) ++ o.f0
      else if i = 2 then o.lo else o.hi⟩

/-- The lanes of exec outside the trapping lanes. -/
def restLanes (exec : Word) (bad : Word) : Word := exec &&& ~~~bad

/-- Delivers lane results to D (R116). -/
def fpDeliver (f : Fields) (s : State) (pair : Bool) (o : Fin 32 → FpOut) : Res :=
  let outs := (activeLanes f.u s.cur.exec).map fun l => (l, o l)
  let val := fun l => (o l).hi ++ (o l).lo
  let s1 := s.orFp (orFlags outs)
  match fpBad s.fpEnables outs with
  | [] => .done (s1.onRegs fun r => r.writeRes f.u pair f.d s.cur.exec val)
  | bad =>
    let keep := restLanes s.cur.exec (lanesOf bad)
    let s2 := if f.u || keep = 0 then s1 else s1.onRegs fun r => r.writeRes false pair f.d keep val
    .trap s2 (fpTrap f s.fpEnables bad)

/-- Delivers a comparison to k[D] or s[D] (R119): a trapping lane keeps its old bit. -/
def fpDeliverCmp (f : Fields) (s : State) (p : Fin 32 → Bool) (o : Fin 32 → FpOut) : Res :=
  let outs := (activeLanes f.u s.cur.exec).map fun l => (l, o l)
  let s1 := s.orFp (orFlags outs)
  match fpBad s.fpEnables outs with
  | [] => .done (writeCmp f s1 p)
  | bad =>
    let t := lanesOf bad
    let s2 := if f.u then s1 else s1.onRegs fun r =>
      r.setK f.d ((s.cur.exec &&& maskOf p &&& ~~~t) ||| (r.getK f.d &&& t))
    .trap s2 (fpTrap f s.fpEnables bad)

/-! ## Elements (R45, R52) -/

/-- The format of SUB. -/
def fpFmt (f : Fields) : Fmt := fmtOf (f.sub.extractLsb' 0 2).toNat

/-- The format packs two elements. -/
def fpPacked (f : Fields) : Bool := (f.sub.extractLsb' 0 2) ≠ 0

/-- `.ftz` (R45). -/
def fpFtz (f : Fields) : Bool := f.sub.getLsbD 3

/-- Element `k` of an operand. -/
def elemBits (fm : Fmt) (x : DWord) (k : Nat) : Nat := x.toNat / 2 ^ (16 * k) % 2 ^ fm.width

/-- A lane of one or two elements. -/
def packOut (packed : Bool) (g : Nat → Rounded) : FpOut :=
  if packed then ⟨BitVec.ofNat 32 ((g 0).bits + (g 1).bits * 65536), 0, (g 0).flags, (g 1).flags⟩
  else ⟨BitVec.ofNat 32 (g 0).bits, 0, (g 0).flags, 0⟩

/-- Rounds the outcome of an operation (R53). -/
def Arith.round (a : Arith) (fm : Fmt) (mode : Rnd) (ftz : Bool) : Rounded :=
  let r := fm.round mode 0 ftz a.v
  ⟨r.bits, r.flags ||| a.flags⟩

/-- An instruction of sources A and B on elements. -/
def fpOp2 (i : Instr) (op : BitVec 7) (f : Fields) (g : Fmt → Rnd → Bool → Nat → Nat → Rounded) (s : State) : State :=
  issue i (planOf op f) (fun s => fpDeliver f s false fun l =>
    let fm := fpFmt f
    packOut (fpPacked f) fun k => g fm (Rnd.ofCode f.mod3) (fpFtz f)
      (elemBits fm (rawA f s.cur.regs false l) k) (elemBits fm (rawB f s.cur.regs false l) k)) s

/-- An instruction of source A on elements. -/
def fpOp1 (i : Instr) (op : BitVec 7) (f : Fields) (g : Fmt → Rnd → Bool → Nat → Rounded) (s : State) : State :=
  issue i (planOf op f) (fun s => fpDeliver f s false fun l =>
    let fm := fpFmt f
    packOut (fpPacked f) fun k => g fm (Rnd.ofCode f.mod3) (fpFtz f) (elemBits fm (rawA f s.cur.regs false l) k)) s

/-- An operand as the instruction reads it: decoded, with the input rule of `.ftz`. -/
def Fmt.operand (fm : Fmt) (ftz : Bool) (x : Nat) : Val := fm.flush ftz (fm.decode x)

/-! ## Arithmetic (R117) -/

/-- FADD of elements. -/
def faddE (fm : Fmt) (mode : Rnd) (ftz : Bool) (a b : Nat) : Rounded :=
  (addV mode (fm.operand ftz a) (fm.operand ftz b)).round fm mode ftz

/-- FSUB of elements. -/
def fsubE (fm : Fmt) (mode : Rnd) (ftz : Bool) (a b : Nat) : Rounded :=
  (addV mode (fm.operand ftz a) (fm.operand ftz b).flip).round fm mode ftz

/-- FMUL of elements. -/
def fmulE (fm : Fmt) (mode : Rnd) (ftz : Bool) (a b : Nat) : Rounded :=
  (mulV (fm.operand ftz a) (fm.operand ftz b)).round fm mode ftz

/-- FADD (R117). -/
def execFadd (f : Fields) (s : State) : Host.Outcome State Fault Refusal := .next (fpOp2 (.fadd f) 0x34 f faddE s)
/-- FADD in form E (R117). -/
def execFaddExt (f : Fields) (s : State) : Host.Outcome State Fault Refusal := .next (fpOp2 (.faddExt f) 0x34 f faddE s)
/-- FSUB (R117). -/
def execFsub (f : Fields) (s : State) : Host.Outcome State Fault Refusal := .next (fpOp2 (.fsub f) 0x35 f fsubE s)
/-- FSUB in form E (R117). -/
def execFsubExt (f : Fields) (s : State) : Host.Outcome State Fault Refusal := .next (fpOp2 (.fsubExt f) 0x35 f fsubE s)
/-- FMUL (R117). -/
def execFmul (f : Fields) (s : State) : Host.Outcome State Fault Refusal := .next (fpOp2 (.fmul f) 0x36 f fmulE s)
/-- FMUL in form E (R117). -/
def execFmulExt (f : Fields) (s : State) : Host.Outcome State Fault Refusal := .next (fpOp2 (.fmulExt f) 0x36 f fmulE s)

/-- FFMA (R117): one rounding. -/
def execFfma (f : Fields) (s : State) : Host.Outcome State Fault Refusal :=
  .next (issue (.ffma f) (planOf 0x37 f) (fun s => fpDeliver f s false fun l =>
    let fm := fpFmt f
    let z := fpFtz f
    let mode := Rnd.ofCode f.mod3
    packOut (fpPacked f) fun k =>
      let x := fun (r : DWord) => fm.operand z (elemBits fm r k)
      (fmaV mode (x (rawA f s.cur.regs false l)) (x (rawB f s.cur.regs false l)) (x (rawC f s.cur.regs false l))).round fm mode z) s)

/-- The bits of an operand that FMIN or FMAX returns: a flushed subnormal is its signed zero (R118). -/
def Fmt.flushBits (fm : Fmt) (ftz : Bool) (x : Nat) : Nat :=
  if ftz && fm.subnormal (fm.decode x) then fm.signed (fm.decode x).neg 0 else x

/-- FMIN and FMAX of elements (R118). -/
def fpickE (takeMax : Bool) (fm : Fmt) (_ : Rnd) (ftz : Bool) (a b : Nat) : Rounded :=
  let x := fm.operand ftz a
  let y := fm.operand ftz b
  let r := if x.isNan && y.isNan then fm.qnan
    else if x.isNan then fm.flushBits ftz b
    else if y.isNan then fm.flushBits ftz a
    else if (if takeMax then x.lt true y else y.lt true x) then fm.flushBits ftz b else fm.flushBits ftz a
  ⟨r, nvOf [x, y]⟩

/-- FMIN (R118). -/
def execFmin (f : Fields) (s : State) : Host.Outcome State Fault Refusal := .next (fpOp2 (.fmin f) 0x38 f (fpickE false) s)
/-- FMIN in form E (R118). -/
def execFminExt (f : Fields) (s : State) : Host.Outcome State Fault Refusal :=
  .next (fpOp2 (.fminExt f) 0x38 f (fpickE false) s)
/-- FMAX (R118). -/
def execFmax (f : Fields) (s : State) : Host.Outcome State Fault Refusal := .next (fpOp2 (.fmax f) 0x39 f (fpickE true) s)
/-- FMAX in form E (R118). -/
def execFmaxExt (f : Fields) (s : State) : Host.Outcome State Fault Refusal :=
  .next (fpOp2 (.fmaxExt f) 0x39 f (fpickE true) s)

/-- FCMP (R119). -/
def execFcmp (f : Fields) (s : State) : Host.Outcome State Fault Refusal :=
  .next (issue (.fcmp f) (planOf 0x3A f) (fun s =>
    let x := fun (r : DWord) => fp32.operand (fpFtz f) (elemBits fp32 r 0)
    let a := fun l => x (rawA f s.cur.regs false l)
    let b := fun l => x (rawB f s.cur.regs false l)
    let p := fun l => condV f.mod3 (a l) (b l)
    fpDeliverCmp f s p fun l => { lo := if p l then 1 else 0, f0 := condNv f.mod3 (a l) (b l) }) s)

/-! ## Functions of one operand (R120 to R122) -/

/-- A correctly rounded function of an element (R120). -/
def fnE (g : Val → Arith) (fm : Fmt) (_ : Rnd) (ftz : Bool) (a : Nat) : Rounded :=
  (g (fm.operand ftz a)).round fm .rne ftz

/-- FRINT of an element (R121): no flag but NV. -/
def rintE (fm : Fmt) (mode : Rnd) (ftz : Bool) (a : Nat) : Rounded :=
  let r := rintV mode (fm.operand ftz a)
  ⟨(fm.round mode 0 ftz r.v).bits, r.flags⟩

/-- FCLASS of an element (R122). -/
def classE (fm : Fmt) (_ : Rnd) (ftz : Bool) (a : Nat) : Rounded := ⟨classBits fm (fm.operand ftz a), 0⟩

/-- FRCP (R120). -/
def execFrcp (f : Fields) (s : State) : Host.Outcome State Fault Refusal := .next (fpOp1 (.frcp f) 0x3B f (fnE rcpV) s)
/-- FRCP in form E (R120). -/
def execFrcpExt (f : Fields) (s : State) : Host.Outcome State Fault Refusal := .next (fpOp1 (.frcpExt f) 0x3B f (fnE rcpV) s)
/-- FRSQ (R120). -/
def execFrsq (f : Fields) (s : State) : Host.Outcome State Fault Refusal := .next (fpOp1 (.frsq f) 0x3C f (fnE rsqV) s)
/-- FRSQ in form E (R120). -/
def execFrsqExt (f : Fields) (s : State) : Host.Outcome State Fault Refusal := .next (fpOp1 (.frsqExt f) 0x3C f (fnE rsqV) s)
/-- FSQRT (R120). -/
def execFsqrt (f : Fields) (s : State) : Host.Outcome State Fault Refusal := .next (fpOp1 (.fsqrt f) 0x3D f (fnE sqrtV) s)
/-- FSQRT in form E (R120). -/
def execFsqrtExt (f : Fields) (s : State) : Host.Outcome State Fault Refusal :=
  .next (fpOp1 (.fsqrtExt f) 0x3D f (fnE sqrtV) s)
/-- FEXP2 (R120). -/
def execFexp2 (f : Fields) (s : State) : Host.Outcome State Fault Refusal := .next (fpOp1 (.fexp2 f) 0x3E f (fnE exp2V) s)
/-- FEXP2 in form E (R120). -/
def execFexp2Ext (f : Fields) (s : State) : Host.Outcome State Fault Refusal :=
  .next (fpOp1 (.fexp2Ext f) 0x3E f (fnE exp2V) s)
/-- FLOG2 (R120). -/
def execFlog2 (f : Fields) (s : State) : Host.Outcome State Fault Refusal := .next (fpOp1 (.flog2 f) 0x3F f (fnE log2V) s)
/-- FLOG2 in form E (R120). -/
def execFlog2Ext (f : Fields) (s : State) : Host.Outcome State Fault Refusal :=
  .next (fpOp1 (.flog2Ext f) 0x3F f (fnE log2V) s)
/-- FSINP (R120). -/
def execFsinp (f : Fields) (s : State) : Host.Outcome State Fault Refusal := .next (fpOp1 (.fsinp f) 0x40 f (fnE sinpV) s)
/-- FSINP in form E (R120). -/
def execFsinpExt (f : Fields) (s : State) : Host.Outcome State Fault Refusal :=
  .next (fpOp1 (.fsinpExt f) 0x40 f (fnE sinpV) s)
/-- FCOSP (R120). -/
def execFcosp (f : Fields) (s : State) : Host.Outcome State Fault Refusal := .next (fpOp1 (.fcosp f) 0x41 f (fnE cospV) s)
/-- FCOSP in form E (R120). -/
def execFcospExt (f : Fields) (s : State) : Host.Outcome State Fault Refusal :=
  .next (fpOp1 (.fcospExt f) 0x41 f (fnE cospV) s)
/-- FRINT (R121). -/
def execFrint (f : Fields) (s : State) : Host.Outcome State Fault Refusal := .next (fpOp1 (.frint f) 0x42 f rintE s)
/-- FRINT in form E (R121). -/
def execFrintExt (f : Fields) (s : State) : Host.Outcome State Fault Refusal := .next (fpOp1 (.frintExt f) 0x42 f rintE s)
/-- FCLASS (R122). -/
def execFclass (f : Fields) (s : State) : Host.Outcome State Fault Refusal := .next (fpOp1 (.fclass f) 0x43 f classE s)
/-- FCLASS in form E (R122). -/
def execFclassExt (f : Fields) (s : State) : Host.Outcome State Fault Refusal := .next (fpOp1 (.fclassExt f) 0x43 f classE s)

/-! ## Conversions (R123, R124) -/

/-- A conversion between formats. -/
def fcvtFmt (src dst : Fmt) (mode : Rnd) (ftz : Bool) (a : Nat) : Rounded :=
  let v := src.operand ftz a
  let r := dst.round mode 0 ftz v
  ⟨r.bits, r.flags ||| nvOf [v]⟩

/-- The value is no integer. -/
def Val.fractional (v : Val) : Bool :=
  match v with
  | .num _ m e _ => decide (e < 0) && decide (m % pow2n (-e) ≠ 0)
  | _ => false

/-- A conversion to an integer from `lo` to `hi`, saturating (R123). -/
def fcvtInt (lo hi : Int) (mode : Rnd) (v : Val) : Rounded :=
  let bits := fun (z : Int) => (z % 2 ^ 32).toNat
  match v with
  | .nan _ => ⟨0, flNV⟩
  | .inf n => ⟨bits (if n then lo else hi), flNV⟩
  | x =>
    let z := x.rndInt mode 0
    if z < lo then ⟨bits lo, flNV⟩
    else if hi < z then ⟨bits hi, flNV⟩
    else ⟨bits z, if x.fractional then flNX else 0⟩

/-- FCVT of a lane (R123). -/
def fcvtE (f : Fields) (x : DWord) : Rounded :=
  let mode := Rnd.ofCode f.mod3
  let z := f.sub.getLsbD 3
  let w := x.toNat % 2 ^ 32
  match (f.sub.extractLsb' 0 3).toNat with
  | 0 => fcvtFmt fp32 bf16 mode z w
  | 1 => fcvtFmt fp32 fp16 mode z w
  | 2 => fcvtFmt bf16 fp32 .rne z (w % 65536)
  | 3 => fcvtFmt fp16 fp32 .rne z (w % 65536)
  | 4 => fcvtInt (-(2 ^ 31)) (2 ^ 31 - 1) mode (fp32.operand z w)
  | 5 => fcvtInt 0 (2 ^ 32 - 1) mode (fp32.operand z w)
  | 6 => fp32.round mode 0 z (Val.ofInt false (BitVec.ofNat 32 w).toInt 0)
  | _ => fp32.round mode 0 z (Val.ofInt false w 0)

/-- FCVT (R123). -/
def execFcvt (f : Fields) (s : State) : Host.Outcome State Fault Refusal :=
  .next (issue (.fcvt f) (planOf 0x44 f) (fun s => fpDeliver f s false fun l =>
    packOut false fun _ => fcvtE f (rawA f s.cur.regs false l)) s)

/-- FPACK (R124). -/
def execFpack (f : Fields) (s : State) : Host.Outcome State Fault Refusal :=
  .next (issue (.fpack f) (planOf 0x45 f) (fun s => fpDeliver f s false fun l =>
    packOut true fun k => fcvtFmt fp32 (fpFmt f) (Rnd.ofCode f.mod3) false
      (elemBits fp32 (if k = 0 then rawA f s.cur.regs false l else rawB f s.cur.regs false l) 0)) s)

/-- FUNPK (R124). -/
def execFunpk (f : Fields) (s : State) : Host.Outcome State Fault Refusal :=
  .next (issue (.funpk f) (planOf 0x46 f) (fun s => fpDeliver f s true fun l =>
    let e := fun k => fcvtFmt (fpFmt f) fp32 .rne false (elemBits (fpFmt f) (rawA f s.cur.regs false l) k)
    ⟨BitVec.ofNat 32 (e 0).bits, BitVec.ofNat 32 (e 1).bits, (e 0).flags, (e 1).flags⟩) s)

end Sys2Proof.Machine
end

