-- ==== Sys2Proof/Machine/Class.lean ====
section
/-! DEFINITION. Class-typed arithmetic (R125 to R135) and the delivery of its results, flags and traps (R127). -/

namespace Sys2Proof.Machine

/-! ## Entries and elements -/

/-- The binding entry of a class for the running group (R66). -/
def State.ent (s : State) (c : BitVec 4) : DWord := (s.lchOf s.cur).cbind[c.toNat]'c.isLt

/-- The elements of a register in the register format of a class (R126). -/
def clsElems (e : DWord) (x : DWord) : List Val :=
  let fm := entFmt e
  if entPacked e then [fm.decode (elemBits fm x 0), fm.decode (elemBits fm x 1)] else [fm.decode (elemBits fm x 0)]

/-- What a class instruction computes for a lane. -/
structure ClsOut where
  bits : Word
  r0 : Nat := 0
  r1 : Nat := 0
  range : Bool := false
  under : Bool := false
  deriving DecidableEq, Repr

/-- The lane traps. -/
def ClsOut.trapping (o : ClsOut) : Bool := o.r0 ≠ 0 || o.r1 ≠ 0

/-- The reasons of a lane as `$xval1` holds them. -/
def ClsOut.reasons (o : ClsOut) : Word := BitVec.ofNat 32 (o.r0 + 256 * o.r1)

/-- `round_class` of the elements of lane `l` (R126): the draw of element 0 is that of the lane, of element 1 that of
the lane + 16. -/
def clsOut (e : DWord) (srs : Word) (l : Nat) (vs : List Val) : ClsOut :=
  let one := fun k => clsRound e (entFmt e) (srDraw srs (l + 16 * k)) (vs.getD k (.zero false))
  if entPacked e then
    let a := one 0
    let b := one 1
    ⟨BitVec.ofNat 32 (a.bits + b.bits * 65536), a.reason, b.reason, a.range || b.range, a.under || b.under⟩
  else
    let a := one 0
    ⟨BitVec.ofNat 32 a.bits, a.reason, 0, a.range, a.under⟩

/-- A converting instruction that completes advances `$srstate` (R59): not under an empty exec, not after a trap. -/
def State.advanceSr (s : State) (e : DWord) : State :=
  if entRND e = .sr && s.cur.exec ≠ 0 then s.onCtl fun c => { c with srstate := storeSr (xorshift32 c.srstate) } else s

/-- The cause of class traps with these reasons: CLASS_RANGE if any is 1 or 2 (R127). -/
def clsCause (rs : List Nat) : Nat := if rs.any fun r => r = 1 ∨ r = 2 then Cause.classRange else Cause.classUnderflow

/-- The trap of listed lanes (R127). -/
def clsTrap (x0 : Word) (bad : List (Fin 32 × ClsOut)) : TrapInfo :=
  let at' := fun (l : Fin 32) => (bad.find? fun p => p.1 = l).map (·.2)
  ⟨clsCause (bad.flatMap fun p => [p.2.r0, p.2.r1]), lanesOf bad, Vector.ofFn fun i => Lanes.mk fun l =>
    match at' l with
    | none => 0
    | some o => if i = 0 then x0 else if i = 1 then o.reasons else if i = 2 then o.bits else 0⟩

/-- Sets the flags of class lanes (R127). -/
def State.clsFlags (s : State) (c : BitVec 4) (outs : List (Fin 32 × ClsOut)) : State :=
  s.orCls c (outs.any (·.2.range)) (outs.any (·.2.under))

/-- Delivers the results of the lanes of `exec` of class `c` to D (R127). -/
def clsDeliverIn (f : Fields) (c : BitVec 4) (s : State) (exec : Word) (o : Fin 32 → ClsOut) : Res :=
  let outs := (activeLanes f.u exec).map fun l => (l, o l)
  let val := fun l => raw32 (o l).bits
  let s1 := s.clsFlags c outs
  match outs.filter (·.2.trapping) with
  | [] => .done ((s1.onRegs fun r => r.writeRes f.u false f.d exec val).advanceSr (s.ent c))
  | bad =>
    let keep := restLanes exec (lanesOf bad)
    let s2 := if f.u || keep = 0 then s1 else s1.onRegs fun r => r.writeRes false false f.d keep val
    .trap s2 (clsTrap ((0 : BitVec 24) ++ f.d) bad)

/-- Delivers lane results of class `c` to D (R127). -/
def clsDeliver (f : Fields) (c : BitVec 4) (s : State) (o : Fin 32 → ClsOut) : Res := clsDeliverIn f c s s.cur.exec o

/-! ## Arithmetic (R129) -/

/-- Elements of two operands in pairs. -/
def zipElems (g : Val → Val → Val) (a b : List Val) : List Val := (a.zip b).map fun p => g p.1 p.2

/-- A class instruction of sources A and B. -/
def clsOp2 (i : Instr) (op : BitVec 7) (f : Fields) (g : Val → Val → Val) (s : State) : State :=
  issue i (planOf op f) (fun s =>
    let e := s.ent f.cls
    clsDeliver f f.cls s fun l => clsOut e s.cur.ctl.srstate l.val
      (zipElems g (clsElems e (rawA f s.cur.regs false l)) (clsElems e (rawB f s.cur.regs false l)))) s

/-- `pick_min` and `pick_max` (R129). -/
def pickV (takeMax : Bool) (a b : Val) : Val :=
  if a.isNan || b.isNan then .nan false
  else if (if takeMax then a.lt false b else b.lt false a) then b else a

/-- CADD (R129). -/
def execCadd (f : Fields) (s : State) : Host.Outcome State Fault Refusal :=
  .next (clsOp2 (.cadd f) 0x48 f (fun a b => (addV .rne a b).v) s)
/-- CSUB (R129). -/
def execCsub (f : Fields) (s : State) : Host.Outcome State Fault Refusal :=
  .next (clsOp2 (.csub f) 0x49 f (fun a b => (addV .rne a b.flip).v) s)
/-- CMUL (R129). -/
def execCmul (f : Fields) (s : State) : Host.Outcome State Fault Refusal :=
  .next (clsOp2 (.cmul f) 0x4A f (fun a b => (mulV a b).v) s)

/-- CFMA (R129): one rounding. -/
def execCfma (f : Fields) (s : State) : Host.Outcome State Fault Refusal :=
  .next (issue (.cfma f) (planOf 0x4B f) (fun s =>
    let e := s.ent f.cls
    clsDeliver f f.cls s fun l =>
      let a := clsElems e (rawA f s.cur.regs false l)
      let b := clsElems e (rawB f s.cur.regs false l)
      let c := clsElems e (rawC f s.cur.regs false l)
      clsOut e s.cur.ctl.srstate l.val ((a.zip (b.zip c)).map fun p => (fmaV .rne p.1 p.2.1 p.2.2).v)) s)

/-- CMIN (R129). -/
def execCmin (f : Fields) (s : State) : Host.Outcome State Fault Refusal := .next (clsOp2 (.cmin f) 0x4C f (pickV false) s)
/-- CMAX (R129). -/
def execCmax (f : Fields) (s : State) : Host.Outcome State Fault Refusal := .next (clsOp2 (.cmax f) 0x4D f (pickV true) s)

/-- CCVT (R130): from the class of SUB to the class of CLS; a second element without a source is +0. -/
def execCcvt (f : Fields) (s : State) : Host.Outcome State Fault Refusal :=
  .next (issue (.ccvt f) (planOf 0x4E f) (fun s =>
    clsDeliver f f.cls s fun l =>
      clsOut (s.ent f.cls) s.cur.ctl.srstate l.val (clsElems (s.ent f.sub) (rawA f s.cur.regs false l))) s)

/-! ## CRED (R72, R131) -/

/-- A pending tree value: `none` while it holds identities only. -/
structure TreeSt where
  t : List (Option Val)
  reason : Nat := 0
  range : Bool := false
  under : Bool := false
  bits : Nat := 0
  deriving DecidableEq, Repr

/-- The left and right operands of a step, an identity in place of an absent lane. -/
def treeOp (id : Val) (g : Val → Val → Val) (a b : Option Val) : Option Val :=
  match a, b with
  | none, none => none
  | some x, none => some (g x id)
  | none, some y => some (g id y)
  | some x, some y => some (g x y)

/-- One pairwise step at lane `l` with distance `d`. Steps after an element's first trapping one set their flags as well (DESIGN CHOICE,
log 172). -/
def treeStep (e : DWord) (srs : Word) (k : Nat) (id : Val) (g : Val → Val → Val) (d : Nat) (x : TreeSt) (l : Nat) : TreeSt :=
  match treeOp id g (x.t.getD l none) (x.t.getD (l + d) none) with
  | none => x
  | some v =>
    let r := clsRound e (entFmt e) (srDraw srs (l + 16 * k)) v
    { t := x.t.set l (some ((entFmt e).decode r.bits))
      reason := if x.reason = 0 then r.reason else x.reason
      range := x.range || r.range, under := x.under || r.under, bits := r.bits }

/-- The tree of R72 with `round_class` at every step; the last step leaves the result of lane 0. -/
def clsTree (e : DWord) (srs : Word) (k : Nat) (id : Val) (g : Val → Val → Val) (t : List (Option Val)) : ClsRes :=
  let x := [16, 8, 4, 2, 1].foldl (fun x d => (List.range d).foldl (treeStep e srs k id g d) x) (TreeSt.mk t 0 false false 0)
  ⟨x.bits, x.reason, x.range, x.under⟩

/-- An exact sum: aligned to LSB, one rounding (R69, R131). -/
def clsExactSum (e : DWord) (srs : Word) (k : Nat) (t : List (Option Val)) : ClsRes :=
  let el : Elem := t.foldl (fun x v => match v with
    | none => x
    | some y => x.addVal (entLSB e) y) {}
  clsRound e (entFmt e) (srDraw srs (16 * k)) (el.val (entLSB e))

/-- CRED (R131). -/
def execCred (f : Fields) (s : State) : Host.Outcome State Fault Refusal :=
  .next (issue (.cred f) (planOf 0x4F f) (fun s =>
    let e := s.ent f.cls
    let srs := s.cur.ctl.srstate
    let one := fun (k : Nat) =>
      let t := laneList.map fun l =>
        if maskBit s.cur.exec l then (clsElems e (rawA f s.cur.regs false l))[k]? else none
      if f.sub = 0 then
        (if entExact e then clsExactSum e srs k t else clsTree e srs k (.zero true) (fun a b => (addV .rne a b).v) t)
      else if f.sub = 1 then clsTree e srs k (.inf false) (pickV false) t
      else clsTree e srs k (.inf true) (pickV true) t
    let a := one 0
    let b : ClsRes := if entPacked e then one 1 else { bits := 0 }
    let o : ClsOut := ⟨BitVec.ofNat 32 (a.bits + b.bits * 65536), a.reason, b.reason, a.range || b.range, a.under || b.under⟩
    let s1 := s.orCls f.cls o.range o.under
    if o.trapping then
      .trap s1 (.all (clsCause [o.r0, o.r1]) s.cur.exec ((0 : BitVec 24) ++ f.d) o.reasons o.bits 0)
    else .done ((s1.onRegs fun r => r.writeS f.d o.bits).advanceSr e)) s)

/-! ## Quantisation in registers (R132, R133) -/

/-- The class has a plane memory format. -/
def entPlanes (e : DWord) : Bool := entMKIND e = 3 || entMKIND e = 4

/-- Registers of a run of planes: n, and the scale code of a block-scaled class. -/
def planeRun (e : DWord) : Nat := entMPL e + (if entMKIND e = 3 then 1 else 0)

/-- The checks of CQNT and CDQ: the memory kind of the class, and the run of s registers. -/
def planeErr (e : DWord) (f : Fields) (field : Nat) (first : BitVec 8) : Option FieldErr :=
  firstErr (if entPlanes e then none else some ⟨4, (0 : BitVec 28) ++ f.cls⟩)
    (if entPlanes e && 64 < first.toNat + planeRun e then some ⟨field, (0 : BitVec 24) ++ first⟩ else none)

/-- The s registers of a run after its first. -/
def planeRegs (e : DWord) (first : BitVec 8) : List (BitVec 8) :=
  (List.range (planeRun e - 1)).map fun i => first + BitVec.ofNat 8 (i + 1)

/-- CQNT (R132). -/
def execCqnt (f : Fields) (s : State) : Host.Outcome State Fault Refusal :=
  let e := s.ent f.cls
  let plan := { planOf 0x50 f with
    more := fun _ => planeErr e f 0 f.d
    xdst := (planeRegs e f.d).map Reg.s
    skip := if entMKIND e = 3 then [2] else [] }
  .next (issue (.cqnt f) plan (fun s =>
    let n := entMPL e
    let xs := laneList.map fun l =>
      if maskBit s.cur.exec l then (clsElems e (rawA f s.cur.regs false l)).headD (.zero false) else .zero false
    let srs := s.cur.ctl.srstate
    let q := if entMKIND e = 3 then quantBlock e srs n xs
      else quantTensor e srs n ((s.cur.regs.getS f.b).toNat % 256) xs
    let s1 := s.orCls f.cls q.range q.under
    if q.reason ≠ 0 then
      .trap s1 (.all (clsCause [q.reason]) s.cur.exec ((0 : BitVec 24) ++ f.d) (BitVec.ofNat 32 q.reason)
        (BitVec.ofNat 32 q.code) 0)
    else
      let words := planesOf n q.qs ++ (if entMKIND e = 3 then [BitVec.ofNat 32 q.code] else [])
      let ix := (List.range words.length).zip words
      .done ((s1.onRegs fun r => ix.foldl (fun (r : RegFile) p => r.writeS (f.d + BitVec.ofNat 8 p.1) p.2) r).advanceSr e)) s)

/-- CDQ (R133). -/
def execCdq (f : Fields) (s : State) : Host.Outcome State Fault Refusal :=
  let e := s.ent f.cls
  let plan := { planOf 0x51 f with
    more := fun _ => planeErr e f 1 f.a
    xsrc := (planeRegs e f.a).map fun n => ⟨.s n, 1, f.fe.getLsbD 0⟩
    skip := if entMKIND e = 3 then [2] else [] }
  .next (issue (.cdq f) plan (fun s =>
    let n := entMPL e
    let r := s.cur.regs
    let w := (List.range n).map fun i => r.getS (f.a + BitVec.ofNat 8 i)
    let code := (if entMKIND e = 3 then r.getS (f.a + BitVec.ofNat 8 n) else r.getS f.b).toNat % 256
    clsDeliver f f.cls s fun l => clsOut e s.cur.ctl.srstate l.val [planeElem w code n l.val]) s)

/-! ## Checks and addresses (R134, R135) -/

/-- CCHK (R134). -/
def execCchk (f : Fields) (s : State) : Host.Outcome State Fault Refusal :=
  .next (issue (.cchk f) (planOf 0x52 f) (fun s => .done (writeCmp f s fun l =>
    let e := s.ent f.cls
    (clsElems e (rawA f s.cur.regs false l)).all fun v => v.finite && !geBound v (entBound e))) s)

/-- The scaled index of CLEA (R135). -/
def clsIndex (e : DWord) (idx : Nat) : Nat :=
  match entMKIND e with
  | 0 => 4 * idx
  | 1 => 2 * idx
  | 2 => 2 * idx
  | _ => 4 * entMPL e * (idx / 32)

/-- CLEA (R135). -/
def execClea (f : Fields) (s : State) : Host.Outcome State Fault Refusal :=
  .next (issue (.clea f) (planOf 0x53 f) (fun s => writeD f s true fun l =>
    let r := s.cur.regs
    let idx := if f.a = 0xFF then 0 else (r.raw f.u false f.a l).toNat
    r.getPair f.b + BitVec.ofNat 64 (clsIndex (s.ent f.cls) idx) + f.w2.signExtend 64) s)

end Sys2Proof.Machine
end

