-- ==== Sys2Proof/Machine/Stage.lean ====
section
/-! DEFINITION. Atomic operations on values (R146), the staging buffer of a deterministic launch (R276 to R280), the
digest of a verify run (R282), and the release of staged writes. -/

namespace Sys2Proof.Machine

/-! ## Atomics (R146) -/

/-- The width in bytes of the type in EXT6: 8 for i64 and n64. -/
def atomWidth (typ : BitVec 6) : Nat := if typ = 3 ∨ typ = 7 then 8 else 4

/-- The new value of an atomic on w-byte values (R146). -/
def atomNew (op : BitVec 4) (typ : BitVec 6) (old b c : Nat) : Nat :=
  let w := 8 * atomWidth typ
  let m : Nat := 2 ^ w
  let signed := decide (typ = 0 ∨ typ = 3)
  let num : Nat → Int := fun x => if signed && 2 ^ (w - 1) ≤ x then (x : Int) - m else x
  match op.toNat with
  | 0 => (old + b) % m
  | 1 => if num b < num old then b % m else old
  | 2 => if num old < num b then b % m else old
  | 3 => Nat.land old b
  | 4 => Nat.lor old b
  | 5 => Nat.xor old b
  | 6 => b % m
  | 7 => if old = b % m then c % m else old
  | _ => (fp32.round .rne 0 false (addV .rne (fp32.decode old) (fp32.decode b)).v).bits

/-! ## Which writes are staged (R277, R279, R282) -/

/-- The kind of the range that holds an address: 0 for none. -/
def Launch.rangeKind (l : Launch) (a : Nat) : Nat :=
  match l.img.own.find? (·.holds l.img.griddim.toNat a) with
  | some r => r.kind
  | none => 0

/-- The location lies in the global window. -/
def isGlobal (loc : Nat) : Bool := decide (loc < 2 ^ 56) && decide (window loc ≠ 0xFE) && decide (window loc ≠ 0xFD)

/-- A write of a deterministic launch to the location passes through the ticket unit: it lies in a SHARED-ACCUMULATE
range, or the launch has verify runs. -/
def Launch.ticketed (l : Launch) (loc : Nat) : Bool :=
  l.img.det && isGlobal loc && (l.img.verify || decide (l.rangeKind loc = 3))

/-- It is the block's turn: it is block T of a launch without verify runs (R279). -/
def Launch.hasTurn (l : Launch) (block : Nat) : Bool := !l.img.verify && decide (block ≤ l.ticket)

/-- A place in the order of release within a block (R278): round tag, group, place in the order of issue. -/
abbrev StageKey := Nat × Nat × Nat

/-- The order of places. -/
def keyLt (a b : StageKey) : Bool :=
  if a.1 ≠ b.1 then decide (a.1 < b.1) else if a.2.1 ≠ b.2.1 then decide (a.2.1 < b.2.1) else decide (a.2.2 < b.2.2)

/-- The places of the copies of a block's run that have ticketed pieces still to be written: what comes after them waits (R278,
log 161). -/
def State.copyKeys (s : State) (launch block run : Nat) : List StageKey :=
  let l := s.lch launch
  (s.groups.filter fun g => decide (g.launch = launch) && decide (g.block = block) && decide (g.run = run)).flatMap fun g =>
    (g.pend.cp.filter fun c => c.left.any fun x => !c.sent.contains x && l.ticketed (x * 32)).map fun c => (c.tag, g.index, c.order)

/-- The block streams (R279): it is its turn, and nothing that it wrote before waits. -/
def State.streams (s : State) (l : Launch) (block run : Nat) : Bool :=
  l.hasTurn block && !(l.staged.any fun e => e.block = block && e.run = run) && (s.copyKeys l.id block run).isEmpty

/-- A write of the group to the location is staged. -/
def State.stages (s : State) (g : Group) (loc : Nat) : Bool :=
  let l := s.lchOf g
  l.ticketed loc && !s.streams l g.block g.run

/-! ## The staging buffer (R278) -/

/-- Entries of a core's staging buffer. -/
def stageEntries : Nat := 1024

/-- Entries that the spill area holds. -/
def Image.spillEntries (i : Image) : Nat := if i.spill = 0 then 0 else i.spillsize.toNat / 64

/-- Free entries of a core's buffer and of the spill area. -/
def Launch.stageFree (l : Launch) (core : Nat) : Nat × Nat :=
  (stageEntries - (l.staged.filter fun e => !e.spilled && e.core = core).length,
   l.img.spillEntries - (l.staged.filter (·.spilled)).length)

/-- The buffer and the spill area take `n` more entries. -/
def State.stageRoom (s : State) (g : Group) (n : Nat) : Bool :=
  let x := (s.lchOf g).stageFree (s.coreOf g)
  decide (n ≤ x.1 + x.2)

/-- One round of the digest (R282). -/
def digestStep (h x : DWord) : DWord :=
  let h1 := (h ^^^ x) * 0xBF58476D1CE4E5B9
  h1 ^^^ (h1 >>> 31)

/-- h of a write event: the sector's virtual address, its bytes, op (R282). -/
def digestEvent (sector : Nat) (bytes : List (Nat × Byte)) (op : Nat) : DWord :=
  let at' := fun i => ((byteAt bytes (sector * 32 + i)).getD 0).toNat
  let word := fun i => at' (4 * i) + 256 * at' (4 * i + 1) + 65536 * at' (4 * i + 2) + 16777216 * at' (4 * i + 3)
  let mask := (List.range 32).foldl (fun m i => if (byteAt bytes (sector * 32 + i)).isSome then m + 2 ^ i else m) 0
  let h0 : DWord := 0x9E3779B97F4A7C15 ^^^ BitVec.ofNat 64 (sector * 32)
  let h1 := (List.range 8).foldl (fun h i => digestStep h (BitVec.ofNat 64 (word i) ^^^ BitVec.ofNat 64 (i * 2 ^ 32))) h0
  let h2 := (h1 ^^^ BitVec.ofNat 64 mask ^^^ BitVec.ofNat 64 (op * 2 ^ 32)) * 0x94D049BB133111EB
  h2 ^^^ (h2 >>> 29)

/-- Takes the next place in the order of the staged writes of a deterministic launch. -/
def State.takeOrder (s : State) (launch : Nat) : Nat × State :=
  if (s.lch launch).img.det then ((s.lch launch).orders, s.onLaunch launch fun l => { l with orders := l.orders + 1 }) else (0, s)

/-- Enters one staged write of group `g` that issued at a place of the order. In verify runs its digest grows (R282). -/
def State.stageAt (s : State) (g : Group) (tag order sector : Nat) (bytes : List (Nat × Byte)) (op : Option (BitVec 4 × BitVec 6))
    (args : List (Nat × Nat × DWord)) (mark : Bool := false) : State :=
  let core := s.coreOf g
  s.onLaunch g.launch fun l =>
    let spill := decide ((l.stageFree core).1 = 0)
    let e : Staged := { block := g.block, run := g.run, group := g.index, core := core, tag := tag
                        order := order, sector := sector, bytes := bytes, op := op, args := args, spilled := spill, mark := mark }
    let code := match op with
      | none => 0
      | some (o, _) => o.toNat + 1
    let l1 := { l with staged := l.staged ++ [e] }
    if l.img.verify then
      l1.onGang (l.gangOf g.block) g.run fun k => { k with digest := k.digest + digestEvent sector bytes code }
    else l1

/-- Enters one staged write of group `g` that issues now. -/
def State.stageAdd (s : State) (g : Group) (sector : Nat) (bytes : List (Nat × Byte)) (op : Option (BitVec 4 × BitVec 6))
    (args : List (Nat × Nat × DWord)) : State :=
  let (order, s1) := s.takeOrder g.launch
  s1.stageAt g g.iss.roundTag order sector bytes op args

/-- The place of an entry. -/
def Staged.key (e : Staged) : StageKey := (e.tag, e.group, e.order)

/-- The order of release within a block (R278). -/
def Staged.le (a b : Staged) : Bool := !keyLt b.key a.key

/-- Sorted insertion by release order. -/
def insertStaged (e : Staged) : List Staged → List Staged
  | [] => [e]
  | x :: xs => if e.le x then e :: x :: xs else x :: insertStaged e xs

/-- Entries in release order. -/
def sortStaged (l : List Staged) : List Staged := l.foldr insertStaged []

/-- The bytes of a reduction's lanes, one lane after another, over bytes as they stand (R148). -/
def reduceBytes (op : BitVec 4) (typ : BitVec 6) (args : List (Nat × Nat × DWord)) (read : Nat → Byte) : List (Nat × Byte) :=
  args.foldl (fun l p =>
    let w := atomWidth typ
    let locs := (List.range w).map (p.2.1 + ·)
    let old := leNat (locs.map fun a => (byteAt l a).getD (read a))
    (locs.zip (leBytes w (atomNew op typ old p.2.2.toNat 0))) ++ l) []

/-- The bytes that the entries leave in a sector, over bytes as they stand: what a verify run's load of its own
partition returns (R282). -/
def overlayStaged (es : List Staged) (sector : Nat) (base : List (Nat × Byte)) : List (Nat × Byte) :=
  (sortStaged (es.filter fun e => e.sector = sector)).foldl (fun l e => match e.op with
    | none => e.bytes ++ l
    | some (op, typ) => reduceBytes op typ e.args (fun a => (byteAt l a).getD 0) ++ l) base

/-- The staged entries of a group's block and run. -/
def Launch.ownStaged (l : Launch) (g : Group) : List Staged := l.staged.filter fun e => e.block = g.block ∧ e.run = g.run

/-! ## Release (R279, R329) -/

/-- Where the sector of a staged write stands. -/
def State.stagedPlace (s : State) (l : Launch) (sector : Nat) : Option (Nat × IptEntry) :=
  s.mem.walk l.asid (sector * 32 / 65536) l.img.codever

/-- The physical address of the sector of a staged write, for a record: one of a remote page is its place at the peer, PFRAME and the
page offset (R223, R336, log 164). -/
def State.stagedAddr (s : State) (l : Launch) (sector : Nat) : DWord :=
  match s.stagedPlace l sector with
  | some (i, e) => BitVec.ofNat 64 ((if e.rem then e.pframe else i) * 65536 + sector * 32 % 65536)
  | none => 0

/-- The bytes of an entry cover its sector. -/
def Staged.whole (e : Staged) : Bool := (List.range 32).all fun i => (byteAt e.bytes (e.sector * 32 + i)).isSome

/-- Performs a staged write at its home, or sends it to the peer that holds it. `none` tells that it is marked, or combines with a
marked sector (R329); a reduction of all 32 bytes clears the mark (R239). A sector whose page is mapped no longer takes no write. -/
def State.performStaged (s : State) (l : Launch) (e : Staged) : Option State :=
  if e.mark then none
  else match s.stagedPlace l e.sector with
  | none => some s
  | some (i, en) =>
    let off := e.sector * 32 % 65536
    if en.rem then
      let (_, s1) := s.sendReq { id := 0, owner := .launch l.id, asid := l.asid, queue := l.queue, peer := en.peer
                                 pframe := en.pframe, off := off, va := BitVec.ofNat 64 (e.sector * 32)
                                 acc := if e.op.isSome then 3 else 1
                                 data := e.bytes.map fun p => (p.1 - e.sector * 32, p.2)
                                 args := e.args.map fun p => (p.1, p.2.1 - e.sector * 32, p.2.2, 0)
                                 op := (e.op.map (·.1)).getD 0, typ := (e.op.map (·.2)).getD 0 }
      some s1
    else
      let pa := i * 65536 + off
      let move := fun (b : List (Nat × Byte)) => b.map fun p => (p.1 - e.sector * 32 + pa, p.2)
      match e.op with
      | none => some (s.putPiece (pa / 32) (move e.bytes))
      | some (op, typ) =>
        if s.marked (pa / 32) && !e.whole then none
        else
          let w := reduceBytes op typ e.args fun a => s.mem.bytes.read (a - e.sector * 32 + pa)
          some (s.putPiece (pa / 32) (move w) false)

/-- An entry of a launch has been performed: it is gone, and its gang had a write released (R280). -/
def State.unstage (s : State) (launch : Nat) (e : Staged) : State :=
  s.onLaunch launch fun l =>
    { l with staged := l.staged.filter (· ≠ e) }.onGang (l.gangOf e.block) e.run fun k => { k with released := true }

/-- Releases the entries of one block in order. The gang of a block whose entry meets a mark is killed (R329). -/
def State.releaseList (s : State) (launch : Nat) : List Staged → State
  | [] => s
  | e :: es =>
    let l := s.lch launch
    if l.staged.contains e then
      match s.performStaged l e with
      | some s1 => (s1.unstage launch e).releaseList launch es
      | none => s.killGang launch (l.gangOf e.block) e.run
          { code := 0x0102, source := if e.mark then 4 else 5, split := 0xFF, block := some e.block
            addr := s.stagedAddr l e.sector }
    else s.releaseList launch es

/-- The writes that a launch's ticket unit has sent to peers are acknowledged: a release has release semantics (R279). -/
def State.acked (s : State) (launch : Nat) : Bool := !s.fabric.reqs.any fun r => r.owner = .launch launch

/-- Releases the staged entries of a block of run `run` (R279), but those that come after a piece which a copy has still to write. -/
def State.releaseBlock (s : State) (launch block run : Nat) : State :=
  let keys := s.copyKeys launch block run
  s.releaseList launch (sortStaged ((s.lch launch).staged.filter fun e =>
    decide (e.block = block) && decide (e.run = run) && !keys.any fun k => keyLt k e.key))

/-- What a copy of a group may write directly in its block's turn: no earlier copy of the block waits, and the entries before it have
been released. -/
def State.copyTurn (s : State) (g : Group) (key : StageKey) : Bool :=
  (s.lchOf g).hasTurn g.block && !(s.copyKeys g.launch g.block g.run).any (keyLt · key)

/-- A write of the gang was released by streaming or a returning atomic (R280). -/
def State.noteReleased (s : State) (g : Group) : State :=
  s.onLaunch g.launch fun l => l.onGang (l.gangOf g.block) g.run fun k => { k with released := true }

end Sys2Proof.Machine
end

