-- ==== Sys2Proof/Machine/Pieces.lean ====
section
/-! DEFINITION. Memory operations in flight: their pieces (R141, R194, R216), the order of one split's pieces (R142), the
arrival of data (R140), failures of remote pieces (R150), and reads that an instruction waits for. -/

namespace Sys2Proof.Machine

/-! ## Locations -/

/-- The locations of `n` bytes from a location; generic addresses wrap modulo 2^56 (R137). -/
def byteLocs (loc n : Nat) : List Nat :=
  (List.range n).map fun i => if 2 ^ 60 ≤ loc then loc + i else (loc + i) % 2 ^ 56

/-- The bytes of a lane. -/
def LaneReq.locs (r : LaneReq) : List Nat := byteLocs r.loc r.width

/-- The sectors of some locations, ascending. -/
def sectorSet (locs : List Nat) : List Nat := setAddAll [] (locs.map (· / 32))

/-- Locations that an operation touches. -/
def MemOp.locs (o : MemOp) : List Nat :=
  o.lanes.flatMap LaneReq.locs ++ (match o.kind with
    | .cplane _ _ scale => o.lanes.map fun r => locOf r.lane scale
    | _ => [])

/-- The operation reads memory into registers. -/
def OpKind.loads : OpKind → Bool
  | .load _ => true | .cload _ _ => true | .cplane .. => true | _ => false

/-- The operation returns data: a load or a returning atomic (R149). -/
def MemOp.returns (o : MemOp) : Bool := o.kind.loads || !o.dst.isEmpty

/-! ## Pending operations of a group -/

/-- Applies a change to a pending memory operation of a group. -/
def State.onOp (s : State) (r : GRef) (id : Nat) (f : MemOp → MemOp) : State :=
  s.onGroup r fun g => { g with pend := { g.pend with mem := replaceFirst (·.id = id) f g.pend.mem } }

/-- A pending memory operation. -/
def State.op? (s : State) (r : GRef) (id : Nat) : Option MemOp :=
  match s.group? r with
  | none => none
  | some g => g.pend.mem.find? (·.id = id)

/-- Removes a pending memory operation. -/
def State.dropOp (s : State) (r : GRef) (id : Nat) : State :=
  s.onGroup r fun g => { g with pend := { g.pend with mem := g.pend.mem.filter (·.id ≠ id) } }

/-- Failed lanes with one more failure: each lane keeps its lowest failing location. -/
def lowestFail (l : List (Fin 32 × Nat)) (p : Fin 32 × Nat) : List (Fin 32 × Nat) :=
  if l.any fun q => q.1 = p.1 then l.map fun q => if q.1 = p.1 then (q.1, min q.2 p.2) else q else l ++ [p]

/-- Failures held for the splits of a group with one more; one of the same instruction that is held already takes its lanes, and is a
timeout as soon as one of its pieces is (log 50). -/
def Pending.withHeld (p : Pending) (h : HeldFail) : Pending :=
  { p with held :=
      if p.held.any fun x => x.id = h.id then
        p.held.map fun x => if x.id = h.id then
            { x with lanes := h.lanes.foldl lowestFail x.lanes, nack := if h.nack = 0 then 0 else x.nack }
          else x
      else p.held ++ [h] }

/-- Holds a failure for the issuing split (R150). -/
def State.hold (s : State) (r : GRef) (h : HeldFail) : State := s.onGroup r fun g => { g with pend := g.pend.withHeld h }

/-! ## Values of lanes -/

/-- Little-endian words of bytes. -/
def wordsOf (bytes : List Byte) (n : Nat) : List Word :=
  (List.range n).map fun i => BitVec.ofNat 32 (leNat ((bytes.drop (4 * i)).take 4))

/-- The words that a load of a size delivers (R140). -/
def loadWords (sub : BitVec 4) (bytes : List Byte) : List Word :=
  let x := leNat bytes
  match sub.toNat with
  | 0 => [BitVec.ofNat 32 x]
  | 1 => [(BitVec.ofNat 8 x).signExtend 32]
  | 2 => [BitVec.ofNat 32 x]
  | 3 => [(BitVec.ofNat 16 x).signExtend 32]
  | 4 => wordsOf bytes 1
  | 5 => wordsOf bytes 2
  | _ => wordsOf bytes 4

/-- Bytes of an element of the memory format of a class (R143). -/
def memElem (e : DWord) : Nat := if entMKIND e = 0 then 4 else 2

/-- Elements per lane. -/
def elemCount (e : DWord) : Nat := if entPacked e then 2 else 1

/-- The elements that memory bytes hold in the format of MKIND 0 to 2 (R143). -/
def memVals (e : DWord) (bytes : List Byte) : List Val :=
  (List.range (elemCount e)).map fun j => (fmtOf (entMKIND e)).decode (leNat ((bytes.drop (memElem e * j)).take (memElem e)))

/-- A class load of a lane in the formats of MKIND 0 to 2 (R143). -/
def cloadOut (e : DWord) (srs : Word) (l : Nat) (bytes : List Byte) : ClsOut := clsOut e srs l (memVals e bytes)

/-- A class load of a lane from a plane block (R144). -/
def cplaneOut (e : DWord) (srs : Word) (l : Nat) (planes : List Word) (code : Nat) : ClsOut :=
  clsOut e srs l [planeElem planes code (entMPL e) l]

/-- The bytes at some locations, zero where none has arrived. -/
def gotBytes (got : List (Nat × Byte)) (locs : List Nat) : List Byte := locs.map fun a => (byteAt got a).getD 0

/-- The words that a lane's destination receives, and the class flags it sets. -/
def MemOp.laneWords (o : MemOp) (ent : BitVec 4 → DWord) (r : LaneReq) : List Word × Option (BitVec 4 × Bool × Bool) :=
  let bytes := gotBytes o.got r.locs
  match o.kind with
  | .load sub => (loadWords sub bytes, none)
  | .cload c srs => let x := cloadOut (ent c) srs r.lane.val bytes; ([x.bits], some (c, x.range, x.under))
  | .cplane c srs scale =>
    let e := ent c
    let x := cplaneOut e srs r.lane.val (wordsOf bytes (entMPL e)) ((byteAt o.got (locOf r.lane scale)).getD 0).toNat
    ([x.bits], some (c, x.range, x.under))
  | .store => ([], none)
  | .atomic _ typ =>
    let v := ((assoc o.old r.lane.val).getD 0)
    (if atomWidth typ = 8 then [v.extractLsb' 0 32, v.extractLsb' 32 32] else [v.extractLsb' 0 32], none)

/-- Writes one lane of a register without a change of its state. -/
def RegFile.putLane (r : RegFile) (x : Reg) (l : Fin 32) (w : Word) : RegFile :=
  match x with
  | .v n => r.putV n (BitVec.ofNat 32 (2 ^ l.val)) (Lanes.all w)
  | .s n => r.putS n w

/-- ORs class flags into a split's entry (R16), which may stand in the overflow area. -/
def State.orClsOf (s : State) (r : GRef) (n : Owner) (c : BitVec 4) (range under : Bool) : State :=
  let b := (if range then 2 ^ (2 * c.toNat) else 0) + (if under then 2 ^ (2 * c.toNat + 1) else 0)
  let f := fun (e : Split) => { e with clsf := e.clsf ||| BitVec.ofNat 32 b }
  match n, s.group? r with
  | .entry n, _ => s.onGroup r fun g => g.setEntry n (f (g.entry n))
  | .slot i, some g => s.setOvfOf g i (f (s.ovfEntry g i))
  | .slot _, none => s

/-- The lane's bytes have all arrived or been refused. -/
def MemOp.settled (o : MemOp) (r : LaneReq) : Bool :=
  match o.kind with
  | .cplane .. => o.left.isEmpty
  | _ => r.locs.all fun a => !o.left.contains (a / 32)

/-- The lane received no data (R150). -/
def MemOp.lost (o : MemOp) (l : Fin 32) : Bool := maskBit (o.nacked ||| o.timed) l

/-- The state that the destinations take (R10, R150). -/
def MemOp.endState (o : MemOp) : RegSt := if o.timed ≠ 0 then .timeout else if o.nacked ≠ 0 then .nack else .full

/-- Writes the destination of a lane whose bytes have arrived (R140). -/
def State.fillLane (s : State) (r : GRef) (id : Nat) (x : LaneReq) : State :=
  match s.group? r, s.op? r id with
  | some g, some o =>
    if maskBit o.done x.lane || !o.settled x then s
    else
      let s1 := s.onOp r id fun o => { o with done := o.done ||| BitVec.ofNat 32 (2 ^ x.lane.val) }
      if o.lost x.lane then s1
      else
        let l := s.lchOf g
        let (ws, fl) := o.laneWords (fun c => l.cbind[c.toNat]'c.isLt) x
        let s2 := s1.onGroup r fun g => { g with regs := (o.dst.zip ws).foldl (fun (q : RegFile) p => q.putLane p.1 x.lane p.2) g.regs }
        match fl with
        | some (c, range, under) => s2.orClsOf r o.split c range under
        | none => s2
  | _, _ => s

/-- Marks of a destination register that one instruction's write of the lanes of `m` clears (R328). -/
def RegFile.unpoison (r : RegFile) (m : Word) : Reg → RegFile
  | .v n => { r with vpoison := r.vpoison.filter fun p => !(decide (p.1 = n.toNat) && (coveredWords m).contains p.2) }
  | .s _ => r

/-- An operation whose last piece has been performed or has failed leaves: its destinations become FULL or POISONED (R140, R150). -/
def State.endOp (s : State) (r : GRef) (id : Nat) : State :=
  match s.op? r id with
  | none => s
  | some o =>
    if !o.left.isEmpty || o.hold then s
    else
      let m := o.done &&& ~~~(o.nacked ||| o.timed)
      (s.dropOp r id).onGroup r fun g =>
        { g with regs := o.dst.foldl (fun (q : RegFile) x => (q.unpoison m x).setSt o.endState x) g.regs }

/-- Delivers what has arrived of an operation. -/
def State.settle (s : State) (r : GRef) (id : Nat) : State :=
  match s.op? r id with
  | none => s
  | some o => (o.lanes.foldl (fun s x => if o.returns && !o.hold then s.fillLane r id x else s) s).endOp r id

/-! ## The performance of a piece -/

/-- SOURCE and ADDR of consumed data at a location (R336); of a remote page the place at the peer (log 164). -/
def State.poisonAt (s : State) (g : Group) (loc : Nat) : Nat × DWord :=
  match s.placeOf g loc with
  | .scratch b o => (2, Config.poolAddr 1 g.launch g.run b (o / 8))
  | .mem pa _ => (5, BitVec.ofNat 64 (pa / 32 * 32))
  | .stack o => (5, Config.stackAddr (s.blockOf g).stack.origin g.run g.block (o / 32 * 32))
  | .remote e off => (5, BitVec.ofNat 64 (e.pframe * 65536 + off / 32 * 32))
  | .absent => (5, 0)

/-- Kills the gang of `g`, an instruction of which consumed the data at a location (R329). -/
def State.killAt (s : State) (g : Group) (loc : Nat) (split : Owner) (pc : Pc) : State :=
  let (src, a) := s.poisonAt g loc
  s.killPoison g src a split.num pc

/-! ## What the splits and groups of a block see before others (R139, R195, R197) -/

/-- A write of a split to some locations: what other splits of the group may still read, unless its block saw the write already,
and what the writer no longer may. -/
def Group.overwrite (g : Group) (w : Owner) (shown : Bool) (bytes : List (Nat × Byte)) (read : Nat → Byte) : Group :=
  if g.validNums.length + g.ovf ≤ 1 then g
  else
    let locs := bytes.map (·.1)
    let look := fun (x : Shadow) => if x.old.any fun p => locs.contains p.1 then { x with seen := w :: x.seen } else x
    let new := if shown then [] else [{ writer := w, old := locs.map fun a => (a, read a) }]
    { g with shadow := g.shadow.map look ++ new }

/-- The writes of other splits to a sector that a split has not read. -/
def Group.unseen (g : Group) (w : Owner) (sector : Nat) : List Shadow :=
  g.shadow.filter fun x => decide (x.writer ≠ w) && !x.seen.contains w && x.old.any fun p => p.1 / 32 = sector

/-- A split's read of a sector: before a join it may miss what another split of its group wrote there, a free choice (R197). -/
def State.readUnjoined (s : State) (r : GRef) (w : Owner) (sector : Nat) (bytes : List (Nat × Byte)) : List (Nat × Byte) × State :=
  match s.group? r with
  | none => (bytes, s)
  | some g =>
    let l := g.unseen w sector
    if l.isEmpty then (bytes, s)
    else
      let (miss, s1) := s.drawBool
      if miss then (l.flatMap (·.old) ++ bytes, s1)
      else (bytes, s1.onGroup r fun g => { g with shadow := g.shadow.map fun x => if l.contains x then { x with seen := w :: x.seen } else x })

/-- A piece of a store that others see before it is at its home: its place in the order of such pieces, group, operation, sector. -/
abbrev NearPiece := Nat × GRef × MemOp × Nat

/-- The pieces of stores that are seen and not yet at their home, of the groups and scopes that a test names, the oldest first. -/
def State.nearOf (s : State) (test : GRef → Scope → Bool) : List NearPiece :=
  let l := s.groups.flatMap fun h => (h.pend.mem.filter fun o => !o.near.isEmpty && test h.ref o.nearSc).flatMap fun o =>
    (o.near.filter o.left.contains).map fun x => (o.nearAt, h.ref, o, x)
  l.foldr insertNear []
where
  /-- sorted insertion by the order in which the pieces became visible -/
  insertNear (p : NearPiece) : List NearPiece → List NearPiece
    | [] => [p]
    | q :: l => if p.1 ≤ q.1 then p :: q :: l else q :: insertNear p l

/-- The pieces that a group sees and that are not yet at their home: those made visible at a scope that it shares (R195). -/
def State.nearPieces (s : State) (g : Group) : List NearPiece := s.nearOf fun h sc => s.shares sc (.group g.ref) (.group h)

/-- The physical sector of a global location of a group. -/
def State.sectorAt (s : State) (g : Group) (loc : Nat) : Option Nat :=
  match s.placeOf g loc with
  | .mem pa _ => some (pa / 32)
  | _ => none

/-- The pieces that a group sees in a sector. -/
def State.nearAt (s : State) (g : Group) (sector : Nat) : List NearPiece :=
  match s.sectorAt g (sector * 32) with
  | some x => (s.nearPieces g).filter fun p => s.sectorAt g (p.2.2.2 * 32) = some x
  | none => []

/-- The bytes of a sector as they stand for a group: at their home, under the pieces that it sees. -/
def State.sectorNow (s : State) (g : Group) (sector : Nat) : List (Nat × Byte) :=
  (s.nearAt g sector).foldl (fun b p =>
    ((p.2.2.1.data.filter fun q => q.1 / 32 = p.2.2.2).map fun q => (sector * 32 + q.1 % 32, q.2)).reverse ++ b)
    ((span (sector * 32) (sector * 32 + 32)).map fun x => (x, s.byteOf g x))

/-- The lanes of an atomic in a sector, one after another (R148): the bytes written, the latest first, and each lane's old value. -/
def atomLanes (op : BitVec 4) (typ : BitVec 6) (lanes : List LaneReq) (args : List (Nat × DWord × DWord)) (read : Nat → Byte) :
    List (Nat × Byte) × List (Nat × DWord) :=
  lanes.foldl (fun x r =>
    let old := leNat (r.locs.map fun a => (byteAt x.1 a).getD (read a))
    let (b, c) := (assoc args r.lane.val).getD (0, 0)
    (r.locs.zip (leBytes r.width (atomNew op typ old b.toNat c.toNat)) ++ x.1, (r.lane.val, BitVec.ofNat 64 old) :: x.2)) ([], [])

/-- A write of the group to a SHARED-ACCUMULATE sector was performed without staging (R280). -/
def State.noteStream (s : State) (g : Group) (sector : Nat) : State :=
  if (s.lchOf g).ticketed (sector * 32) then s.noteReleased g else s

/-- The reduction writes all 32 bytes of a sector of memory (R239). -/
def MemOp.coversWhole (o : MemOp) (sector : Nat) : Bool :=
  !o.returns && (byteLocs (sector * 32) 32).all o.locs.contains

/-- The operation loses a sector, and what has arrived is delivered. -/
def State.endPiece (s : State) (r : GRef) (id sector : Nat) (f : MemOp → MemOp) : State :=
  (s.onOp r id fun o => f { o with left := setDel o.left sector }).settle r id

/-- One piece of a store, an atomic or a reduction is performed where it stands. -/
def State.writePiece (s : State) (r : GRef) (id sector : Nat) : State :=
  match s.group? r, s.op? r id with
  | some g, some o =>
    if !o.left.contains sector then s
    else
      match s.placeOf g (sector * 32) with
      | .remote _ _ => s
      | .absent => s.endPiece r id sector fun o => o
      | p =>
        let write := fun (bytes : List (Nat × Byte)) =>
          let shown := o.near.contains sector
          let s1 := s.onGroup r fun g => g.overwrite o.split shown bytes (s.byteOf g)
          (s1.performWrite g bytes false (!shown)).noteStream g sector
        match o.kind with
        | .atomic op typ =>
          let whole := (match p with | .mem _ _ => true | _ => false) && o.coversWhole sector
          match (o.locs.filter fun a => a / 32 = sector).find? (s.markedAt g) with
          | some a => if whole then atom g o op typ write else s.killAt g a o.split o.pc
          | none => atom g o op typ write
        | _ => (write (o.data.filter fun p => p.1 / 32 = sector)).endPiece r id sector fun o => o
  | _, _ => s
where
  /-- the atomic's lanes in the sector (R148) -/
  atom (g : Group) (o : MemOp) (op : BitVec 4) (typ : BitVec 6) (write : List (Nat × Byte) → State) : State :=
    let (bytes, old) := atomLanes op typ (o.lanes.filter fun x => x.loc / 32 = sector) o.args (s.byteOf g)
    (write bytes.reverse).endPiece r id sector fun o => { o with old := old ++ o.old }

/-- Pieces that are seen are performed at their home. -/
def State.flushPieces (s : State) (l : List NearPiece) : State := l.foldl (fun s p => s.writePiece p.2.1 p.2.2.1.id p.2.2.2) s

/-- The pieces that a group sees in a sector are performed at their home. -/
def State.flushNear (s : State) (g : Group) (sector : Nat) : State := s.flushPieces (s.nearAt g sector)

/-- Every piece that a group sees is performed at its home: a fence of `.dev` scope or wider, and engines that read or write memory
(R199). -/
def State.flushBlock (s : State) (g : Group) : State := s.flushPieces (s.nearPieces g)

/-- What a verify run's own staged entries show to a read that issued at a place of their order: not what its own group staged
after it (R142, R282). -/
def Launch.stagedFor (l : Launch) (g : Group) (order : Nat) : List Staged :=
  (l.ownStaged g).filter fun e => decide (e.group ≠ g.index) || decide (e.order < order)

/-- The sector as a read of a split sees it, once a wide one has had what its group sees performed: in a verify run the run's own
staged bytes cover memory (R282); and before a join another split's writes may be missing (R197). -/
def State.seeSector (s : State) (g : Group) (w : Owner) (sc : Scope) (order sector : Nat) : List (Nat × Byte) × State :=
  let (b, s1) := s.readSector g sc sector (s.sectorNow g sector)
  let l := s.lchOf g
  let b1 := if l.img.det && l.img.verify && isGlobal (sector * 32) then overlayStaged (l.stagedFor g order) sector b else b
  s1.readUnjoined g.ref w sector b1

/-- A sector comes to a read of a scope: a wide one has what its group sees there performed first (R139). -/
def State.bring (s : State) (g : Group) (sc : Scope) (sector : Nat) : State := if sc.wide then s.flushNear g sector else s

/-- A mark of a sector under staged entries, in their order: a store of the whole sector takes its own mark, any other write adds
its own (R328). -/
def stagedMark (es : List Staged) (sector : Nat) (mark : Bool) : Bool :=
  (sortStaged (es.filter (·.sector = sector))).foldl (fun m e => if e.op.isNone && e.whole then e.mark else m || e.mark) mark

/-- A read of the location meets a mark: that of its home, unless a store of the whole sector covers it that its group sees, or that
of the run's own staged writes (R328, R329). -/
def State.readMarked (s : State) (g : Group) (order loc : Nat) : Bool :=
  let whole := fun (p : NearPiece) => (List.range 32).all fun i => (byteAt p.2.2.1.data (p.2.2.2 * 32 + i)).isSome
  let home := s.markedAt g loc && !(s.nearAt g (loc / 32)).any whole
  let l := s.lchOf g
  if l.img.det && l.img.verify && isGlobal loc then stagedMark (l.stagedFor g order) (loc / 32) home else home

/-- An engine's read of the location, of the bytes at their home and what the run has staged by now, meets a mark. -/
def State.engineMarked (s : State) (g : Group) (loc : Nat) : Bool :=
  let l := s.lchOf g
  if l.img.det && l.img.verify && isGlobal loc then stagedMark (l.ownStaged g) (loc / 32) (s.markedAt g loc) else s.markedAt g loc

/-- One piece of an operation, whatever its order within its split. Pieces that its group sees in the sector come before a write of
it. -/
def State.piece (s : State) (r : GRef) (id sector : Nat) : State :=
  match s.group? r, s.op? r id with
  | some g, some o =>
    if !o.left.contains sector then s
    else if !o.kind.loads then (s.flushNear g sector).writePiece r id sector
    else match s.placeOf g (sector * 32) with
      | .remote _ _ => s
      | .absent => s.endPiece r id sector fun o => o
      | _ =>
        let s0 := s.bring g o.scope sector
        match (o.locs.filter fun a => a / 32 = sector).find? (s0.readMarked g o.order) with
        | some a => s0.killAt g a o.split o.pc
        | none =>
          let (bytes, s1) := s0.seeSector g o.split o.scope o.order sector
          s1.endPiece r id sector fun o => { o with got := bytes ++ o.got }
  | _, _ => s

/-- Performs the pieces of some operations in a sector, oldest first. -/
def State.piecesOf (s : State) (r : GRef) (sector : Nat) (ids : List Nat) : State :=
  ids.foldl (fun s i => s.piece r i sector) s

/-- Of some operations, the latest first, those whose pieces in a sector must be performed before a piece that touches the
locations of `need`: each has a byte of the sector in common with it or with one that must come between (R142, R196). -/
def before (sector : Nat) : List MemOp → List Nat → List Nat
  | [], _ => []
  | o :: os, need =>
    let mine := o.locs.filter fun a => a / 32 = sector
    if o.left.contains sector && mine.any need.contains then before sector os (mine ++ need) ++ [o.id]
    else before sector os need

/-- The operations of a split that a piece of an operation performs, oldest first: the piece's own comes last. -/
def Pending.upTo (p : Pending) (o : MemOp) (sector : Nat) : List Nat :=
  before sector (p.mem.filter fun x => x.split = o.split ∧ x.id < o.id).reverse (o.locs.filter fun a => a / 32 = sector) ++ [o.id]

/-- A piece of an operation is performed; earlier pieces of its split that touch a byte of it come first (R142, R196). -/
def State.performPiece (s : State) (r : GRef) (id sector : Nat) : State :=
  match s.group? r, s.op? r id with
  | some g, some o => if o.left.contains sector then s.piecesOf r sector (g.pend.upTo o sector) else s
  | _, _ => s

/-- Performs the pending local pieces of a split that touch some bytes, with those that come before them (R142). -/
def State.flushBytes (s : State) (r : GRef) (split : Owner) (need : List Nat) : State :=
  match s.group? r with
  | none => s
  | some g =>
    let ops := (g.pend.mem.filter fun o => o.split = split).reverse
    (setAddAll [] (ops.flatMap (·.left))).foldl (fun s x => s.piecesOf r x (before x ops (need.filter fun a => a / 32 = x))) s

/-- Performs every pending local piece of a group. -/
def State.flushGroup (s : State) (r : GRef) : State :=
  match s.group? r with
  | none => s
  | some g => g.pend.mem.foldl (fun s o => o.left.foldl (fun s x => s.piece r o.id x) s) (s.flushBlock g)

/-- Performs every pending local piece of the package. -/
def State.flushLocal (s : State) : State := (s.groups.map Group.ref).foldl (fun s r => s.flushGroup r) s

/-! ## Issue -/

/-- The remote page of a sector. -/
def State.remoteOf (s : State) (g : Group) (sector : Nat) : Option IptEntry :=
  match s.placeOf g (sector * 32) with
  | .remote e _ => some e
  | _ => none

/-- A store may be seen before it is at its home: no earlier operation of its split that is not seen, too, stands on a byte of it
(R142, R196). -/
def Pending.nearFree (p : Pending) (o : MemOp) (sectors : List Nat) : Bool :=
  (p.mem.takeWhile (·.id ≠ o.id)).all fun q => decide (q.split ≠ o.split) || sectors.all fun x =>
    !q.left.contains x || q.near.contains x || !((q.locs.filter fun a => a / 32 = x).any o.locs.contains)

/-- A store of the running group to global memory is written through L1: its block sees it, and it is performed at its home later
(R139). Another split of the group may still miss it (R197). -/
def State.makeNearOp (s : State) (id : Nat) : State :=
  let g := s.cur
  match g.pend.mem.find? (·.id = id) with
  | none => s
  | some o =>
    let secs := o.left.filter fun x => (s.sectorAt g (x * 32)).isSome
    if o.kind ≠ .store || secs.isEmpty || !o.near.isEmpty || !g.pend.nearFree o secs then s
    else
      let bytes := o.data.filter fun p => secs.contains (p.1 / 32)
      let g1 := g.overwrite o.split false bytes fun a => (byteAt (s.sectorNow g (a / 32)) a).getD 0
      let m := secs.foldl (fun (m : Mem) x => match s.placeOf g (x * 32) with
        | .mem pa _ => m.updateL1 (s.coreOf g) (pa / 32) ((bytes.filter fun p => p.1 / 32 = x).map fun p => (p.1 - x * 32 + pa, p.2))
        | _ => m) s.mem
      let ops := replaceFirst (·.id = id) (fun o => { o with near := secs, nearAt := s.fresh, nearSc := .blk }) g1.pend.mem
      { s with cur := { g1 with pend := { g1.pend with mem := ops } }, mem := m, fresh := s.fresh + 1 }

/-- The stores of the running split to global memory become visible to its block (R139, R195). -/
def State.makeNear (s : State) : State :=
  ((s.cur.pend.mem.filter fun o => o.split = .entry s.cur.running).map (·.id)).foldl State.makeNearOp s

/-- What the running group sees becomes visible to its gang (R195). In a sector in which another block of the gang sees a piece that
the group does not, all that the gang has there is performed first, so that all its groups see one order of them (R198). -/
def State.widenNear (s : State) : State :=
  let g := s.cur
  let all := s.nearOf fun h _ => s.shares .gang (.group g.ref) (.group h)
  let sees := fun (p : NearPiece) => s.shares p.2.2.1.nearSc (.group g.ref) (.group p.2.1)
  let place := fun (p : NearPiece) => s.sectorAt g (p.2.2.2 * 32)
  let apart := ((all.filter fun p => !sees p).map place).filter ((all.filter sees).map place).contains
  let s1 := s.flushPieces (all.filter fun p => apart.contains (place p))
  let widen := fun (o : MemOp) => if o.near.isEmpty then o else { o with nearSc := .gang }
  s1.mapGroups (fun h => s.shares .blk (.group g.ref) (.group h.ref)) fun h => { h with pend := { h.pend with mem := h.pend.mem.map widen } }

/-- Sends the requests of an operation's remote sectors (R139, R309). A write to a SHARED-ACCUMULATE range is so released without
staging (R280). -/
def State.sendPieces (s : State) (g : Group) (o : MemOp) : State :=
  let l := s.lchOf g
  o.left.foldl (fun s0 sector => match s0.remoteOf g sector with
    | none => s0
    | some e =>
      let s := if o.kind.loads then s0 else s0.noteStream g sector
      let args := match o.kind with
        | .atomic _ _ => (o.lanes.filter fun x => x.loc / 32 = sector).map fun x =>
            let (b, c) := (assoc o.args x.lane.val).getD (0, 0)
            (x.lane.val, x.loc % 32, b, c)
        | _ => []
      let (op, typ) := match o.kind with
        | .atomic op typ => (op, typ)
        | _ => (0, 0)
      (s.sendReq { id := 0, owner := .mem g.ref o.id sector, asid := l.asid, queue := l.queue, peer := e.peer
                   pframe := e.pframe, off := sector * 32 % 65536, va := BitVec.ofNat 64 (addrOfLoc (sector * 32))
                   acc := o.acc, data := (o.data.filter fun p => p.1 / 32 = sector).map fun p => (p.1 % 32, p.2)
                   args := args, op := op, typ := typ }).2) s

/-- Fills the core's TLB with the pages of some sectors (R226). -/
def State.touch (s : State) (g : Group) (sectors : List Nat) : State :=
  let l := s.lchOf g
  let pages := setAddAll [] ((sectors.filter fun x => isGlobal (x * 32)).map (· / 2048))
  { s with mem := pages.foldl (fun m p => m.fillTlb (s.coreOf g) l.asid p l.img.codever) s.mem }

/-- Enters an operation of the running group: its destinations become EMPTY, its remote pieces are sent (R140). -/
def State.startOp (s : State) (o : MemOp) : State :=
  let g := s.cur
  let o1 := { o with id := g.pend.nextId, split := .entry g.running, pc := g.sp.pc, order := (s.lchOf g).orders }
  let s1 := { s with cur := { g with
    regs := o.dst.foldl (fun (q : RegFile) x => q.setSt .empty x) g.regs
    pend := { g.pend with nextId := g.pend.nextId + 1, mem := g.pend.mem ++ [o1] } } }
  (s1.touch g o1.left).sendPieces g o1

/-- The bytes of a write, a higher lane's over a lower lane's (R141). -/
def writeBytes (l : List (LaneReq × List Byte)) : List (Nat × Byte) :=
  l.foldl (fun d p => (p.1.locs.zip p.2).foldl (fun d q => assocSet d q.1 q.2) d) []

/-- Lanes of a reduction in layers in which no two overlap (R148); each layer of a sector is one staged entry. -/
def layerLanes (lanes : List LaneReq) : List (List LaneReq) :=
  lanes.foldl (fun ls r =>
    match ls with
    | [] => [[r]]
    | top :: rest => if top.any (fun q => q.locs.any fun a => r.locs.contains a) then [r] :: top :: rest else (top ++ [r]) :: rest) []

/-- The staged entries of a write: sector, bytes, reduction operands. -/
def stageParts (sectors : List Nat) (data : List (Nat × Byte)) : List (Nat × List (Nat × Byte)) :=
  sectors.map fun x => (x, data.filter fun p => p.1 / 32 = x)

/-- What a write of the running group to some sectors must do at issue. -/
inductive StageRes where
  | go (s : State) (rest : List Nat)   -- the sectors that are not staged
  | wait
  | full                               -- a verify run's spill area has filled (R282)

/-- Ends the launch whose spill area has filled (R282). -/
def State.spillFull (s : State) (g : Group) : State :=
  s.endLaunch g.launch Config.spillFullCode.toNat { gang := BitVec.ofNat 32 (s.gangOf g) } true

/-- Enters the staged sectors of a write at issue (R278). -/
def State.stageWrite (s : State) (g : Group) (sectors : List Nat) (data : List (Nat × Byte))
    (red : Option (BitVec 4 × BitVec 6 × List LaneReq × List (Nat × DWord × DWord))) : StageRes :=
  let mine := sectors.filter fun x => s.stages g (x * 32)
  let rest := sectors.filter fun x => !s.stages g (x * 32)
  let entries : List (Nat × List (Nat × Byte) × Option (BitVec 4 × BitVec 6) × List (Nat × Nat × DWord)) := match red with
    | none => (stageParts mine data).map fun p => (p.1, p.2, none, [])
    | some (op, typ, lanes, args) => mine.flatMap fun x =>
        (layerLanes (lanes.filter fun q => q.loc / 32 = x)).reverse.map fun ls =>
          let a := ls.map fun q => (q.lane.val, q.loc, ((assoc args q.lane.val).getD (0, 0)).1)
          (x, a.flatMap fun p => (byteLocs p.2.1 (atomWidth typ)).zip (leBytes (atomWidth typ) p.2.2.toNat), some (op, typ), a)
  if entries.isEmpty then .go s rest
  else if s.stageRoom g entries.length then
    .go (entries.foldl (fun s e => s.stageAdd g e.1 e.2.1 e.2.2.1 e.2.2.2) s) rest
  else if (s.lchOf g).img.verify then .full else .wait

/-! ## Replies (R150, R309, R312) -/

/-- What an outbound piece came to. -/
inductive PieceEnd where
  | data (bytes : List Byte)
  | nack (code : Nat)
  | timeout
  deriving DecidableEq, Repr

/-- The lanes of an operation that touch a sector. -/
def MemOp.lanesAt (o : MemOp) (sector : Nat) : Word :=
  let more := fun (r : LaneReq) => match o.kind with
    | .cplane _ _ scale => decide (locOf r.lane scale / 32 = sector)
    | _ => false
  maskOf fun l => o.lanes.any fun r => r.lane = l && (more r || r.locs.any fun a => a / 32 = sector)

/-- An operation after the answer to a remote piece (R150). For an atomic the data are the old bytes of the sector. -/
def MemOp.reply (o : MemOp) (sector : Nat) (e : PieceEnd) : MemOp :=
  let m := o.lanesAt sector
  let o1 := { o with left := setDel o.left sector }
  match e with
  | .data bytes =>
    let got := (byteLocs (sector * 32) 32).zip bytes
    let old := match o.kind with
      | .atomic _ _ => (o.lanes.filter fun x => x.loc / 32 = sector).map fun x =>
          (x.lane.val, BitVec.ofNat 64 (leNat (gotBytes got x.locs)))
      | _ => []
    { o1 with got := got ++ o.got, old := old ++ o.old }
  | .nack code => { o1 with nacked := o.nacked ||| m, bad := sector :: o.bad, nackCode := if o.nackCode = 0 then code else o.nackCode }
  | .timeout => { o1 with timed := o.timed ||| m, bad := sector :: o.bad }

/-- Data came. -/
def PieceEnd.arrived : PieceEnd → Bool
  | .data _ => true
  | _ => false

/-- A verify run's own staged writes show a read a mark at a location (R328). -/
def State.stagedMarked (s : State) (g : Group) (order loc : Nat) : Bool :=
  let l := s.lchOf g
  l.img.det && l.img.verify && isGlobal loc && stagedMark (l.stagedFor g order) (loc / 32) false

/-- What is held of a failed piece of a store or reduction. -/
def MemOp.heldOf (o : MemOp) (sector : Nat) : Option HeldFail :=
  let lanes := o.lanes.filterMap fun q => (q.locs.find? fun a => a / 32 = sector).map fun a => (q.lane, a)
  if o.returns || o.hold || !o.bad.contains sector || lanes.isEmpty then none
  else some ⟨o.first.getD o.id, o.split, lanes, o.acc, if o.timed ≠ 0 then 0 else o.nackCode⟩

/-- A failed piece of a store or reduction is held for its split from its answer on (R150). -/
def State.holdFailed (s : State) (r : GRef) (o : MemOp) (sector : Nat) : State :=
  match o.heldOf sector with
  | some h => s.hold r h
  | none => s

/-- A peer's bytes of a sector as a read of a verify run's group that issued at a place of the order sees them: under the run's own
staged bytes (R282). -/
def State.overlaid (s : State) (g : Group) (order sector : Nat) (e : PieceEnd) : PieceEnd :=
  match e with
  | .data b =>
    let l := s.lchOf g
    if l.img.det && l.img.verify then
      .data (gotBytes (overlayStaged (l.stagedFor g order) sector ((byteLocs (sector * 32) 32).zip b)) (byteLocs (sector * 32) 32))
    else e
  | e => e

/-- The first byte of a piece of a load that came marked to its group: by a verify run's own staged writes (R328). -/
def State.cameMarked (s : State) (g : Group) (o : MemOp) (sector : Nat) (e : PieceEnd) : Option Nat :=
  if e.arrived && o.kind.loads then (o.locs.filter fun a => a / 32 = sector).find? (s.stagedMarked g o.order) else none

/-- The answer to a remote piece of a memory operation of a resident group. -/
def State.memReply (s : State) (r : GRef) (id sector : Nat) (e : PieceEnd) : State :=
  match s.op? r id, s.group? r with
  | some o, some g =>
    if !o.left.contains sector then s
    else match s.cameMarked g o sector e with
      | some a => s.killAt g a o.split o.pc
      | none =>
        let o1 := o.reply sector (s.overlaid g o.order sector e)
        ((s.onOp r id fun _ => o1).holdFailed r o1 sector).settle r id
  | _, _ => s

/-! ## Reads that the instruction waits for -/

/-- What a read that the running instruction waits for gives. -/
inductive SyncRes where
  | ready (s : State) (got : List (Nat × Byte)) (failed : Word) (st : RegSt) (nack : Nat)
  | wait (s : State)
  | killed (s : State)

/-- Reads the locations of some lanes for the running split's instruction: at once when they are local, otherwise through
an operation that the split waits for (R145). -/
def State.syncRead (s : State) (acc : Nat) (sc : Scope) (lanes : List LaneReq) : SyncRes :=
  let g := s.cur
  let locs := lanes.flatMap LaneReq.locs
  match g.pend.mem.find? (fun o => o.hold && decide (o.split = .entry g.running)) with
  | some o =>
    if o.left.isEmpty then .ready (s.dropOp g.ref o.id) o.got (o.nacked ||| o.timed) o.endState (if o.timed ≠ 0 then 0 else o.nackCode)
    else .wait s
  | none =>
    let sectors := sectorSet locs
    let s1 := s.flushBytes g.ref (.entry g.running) locs
    if !s1.cur.isRef g.ref then .killed s1
    else if sectors.any fun x => (s1.remoteOf s1.cur x).isSome then
      .wait (s1.startOp { id := 0, split := .entry 0, pc := 0, kind := .load 0, acc := acc, scope := sc, lanes := lanes
                          left := sectors, hold := true })
    else
      let s2 := sectors.foldl (fun s x => s.bring s.cur sc x) s1
      let order := (s2.lchOf s2.cur).orders
      match locs.find? (s2.readMarked s2.cur order) with
      | some a => .killed (s2.killAt s2.cur a (.entry g.running) g.sp.pc)
      | none =>
        let r := sectors.foldl (fun (x : List (Nat × Byte) × State) sec =>
          let (b, t) := x.2.seeSector g (.entry g.running) sc order sec
          (b ++ x.1, t)) ([], s2.touch g sectors)
        .ready r.2 r.1 0 .full 0

end Sys2Proof.Machine
end

