-- ==== Sys2Proof/Machine/Engines.lean ====
section
/-! DEFINITION. The copy engine and the gather unit (R151, R152), and the object of a data-arrival barrier (R162, R163),
into which copies count. -/

namespace Sys2Proof.Machine

/-! ## Data-arrival objects (R162, R163) -/

/-- The two words of an object. -/
structure TbObj where
  w0 : DWord
  w1 : DWord
  deriving DecidableEq, Repr

/-- PHASE, RELOAD and PEND. -/
def TbObj.phase (o : TbObj) : BitVec 12 := o.w0.extractLsb' 52 12
def TbObj.reload (o : TbObj) : BitVec 16 := o.w0.extractLsb' 16 16
def TbObj.pend (o : TbObj) : BitVec 16 := o.w0.extractLsb' 0 16

/-- Word 0 with a new PHASE and PEND. -/
def TbObj.withCounts (o : TbObj) (phase : BitVec 12) (pend : BitVec 16) : TbObj :=
  { o with w0 := phase ++ o.w0.extractLsb' 16 36 ++ pend }

/-- complete? of R163. -/
def TbObj.complete (o : TbObj) : TbObj :=
  if o.pend = 0 ∧ o.w1 = 0 then o.withCounts (o.phase + 1) o.reload else o

/-- TBINIT, TBEXP and TBARV on the object (R163). -/
def TbObj.init (n : Word) : TbObj := ⟨(0 : BitVec 32) ++ n.extractLsb' 0 16 ++ n.extractLsb' 0 16, 0⟩
def TbObj.expect (o : TbObj) (bytes : DWord) : TbObj := { o with w1 := o.w1 + bytes }.complete
def TbObj.arrive (o : TbObj) (k : Nat) : TbObj := (o.withCounts o.phase (o.pend - BitVec.ofNat 16 k)).complete

/-- The object at a scratchpad location of a group's gang. -/
def State.tbRead (s : State) (g : Group) (loc : Nat) : TbObj :=
  let b := (byteLocs loc 16).map (s.byteOf g)
  ⟨BitVec.ofNat 64 (leNat (b.take 8)), BitVec.ofNat 64 (leNat (b.drop 8))⟩

/-- Writes the object; marks of its words stay, unless the write initialises it. -/
def State.tbWrite (s : State) (g : Group) (loc : Nat) (o : TbObj) (fresh : Bool) : State :=
  match s.placeOf g loc with
  | .scratch b off => s.onBlock g.launch g.run b fun x =>
      let bytes := leBytes 8 o.w0.toNat ++ leBytes 8 o.w1.toNat
      if fresh then x.putScratch (((List.range 16).map (off + ·)).zip bytes) false
      else { x with scratch := x.scratch.writeN off bytes }
  | _ => s

/-! ## Engine accesses -/

/-- Bytes as an engine of the group reads them: as they stand, under the staged bytes of a verify run (R282). -/
def State.engineBytes (s : State) (g : Group) (locs : List Nat) : List (Nat × Byte) :=
  let base := locs.map fun a => (a, s.byteOf g a)
  let l := s.lchOf g
  if l.img.det && l.img.verify then
    (sectorSet (locs.filter isGlobal)).foldl (fun b x => overlayStaged (l.ownStaged g) x b) base
  else base

/-- Performs an engine's write of one sector; the units that receive bytes of `marks` become marked (R328). -/
def State.performMarked (s : State) (g : Group) (bytes : List (Nat × Byte)) (marks : List Nat) : State :=
  let s1 := s.performWrite g bytes false false
  marks.foldl (fun s a => match s.placeOf g a with
    | .scratch b o => s.onBlock g.launch g.run b fun x => { x with poison := setAdd x.poison (o / 8) }
    | .mem pa _ => { s with mem := s.mem.mark (pa / 32) }
    | _ => s) s1

/-! ## Copies (R151) -/

/-- The source location of a destination location of a copy. -/
def CopyOp.srcLoc (c : CopyOp) (d : Nat) : Nat := (c.src + (d + 2 ^ 56 - c.dst) % 2 ^ 56) % 2 ^ 56

/-- Destination locations of a copy in a sector. -/
def CopyOp.dstLocs (c : CopyOp) (piece : Nat) : List Nat :=
  (byteLocs (piece * 32) 32).filter fun a => (a + 2 ^ 56 - c.dst) % 2 ^ 56 < c.count

/-- Changes a copy of a group. -/
def State.onCopy (s : State) (r : GRef) (id : Nat) (f : CopyOp → CopyOp) : State :=
  s.onGroup r fun g => { g with pend := { g.pend with cp := replaceFirst (·.id = id) f g.pend.cp } }

/-- A copy of a group. -/
def State.copy? (s : State) (r : GRef) (id : Nat) : Option CopyOp :=
  match s.group? r with
  | none => none
  | some g => g.pend.cp.find? (·.id = id)

/-- A destination piece of a copy is over: with `n` bytes written a bound barrier's BYTES falls by `n` (R163). -/
def State.endCopyPiece (s : State) (r : GRef) (id piece n : Nat) : State :=
  match s.copy? r id, s.group? r with
  | some c, some g =>
    let s1 := s.onCopy r id fun c => { c with left := setDel c.left piece, sent := setDel c.sent piece }
    match c.dab with
    | some loc => if n = 0 then s1 else s1.tbWrite g loc ((s1.tbRead g loc).expect (-(BitVec.ofNat 64 n))) false
    | none => s1
  | _, _ => s

/-- The bytes of a piece: per destination location, the source byte and whether it carries a mark. For overlapping ranges each
source byte may be the one from before the copy, a free choice of its own (R151). `none`: some have not come from a peer;
`some none`: some will not come. -/
def State.pieceData (s : State) (g : Group) (c : CopyOp) (piece : Nat) : Option (Option (List (Nat × Byte) × List Nat)) :=
  let ds := c.dstLocs piece
  let srcs := ds.map c.srcLoc
  if srcs.any fun a => c.waitSrc.contains (a / 32) then none
  else
    let remote := fun (a : Nat) => (s.remoteOf g (a / 32)).isSome
    if srcs.any fun a => remote a && (byteAt c.got a).isNone then some none
    else
      let now := s.engineBytes g srcs
      -- each byte with its mark: from the peer, from before the copy where the ranges overlap, or as it stands
      let val := fun (a n : Nat) => match byteAt c.got a with
        | some b => (b, s.stagedMarked g (s.lchOf g).orders a)
        | none => match (if Config.freeBool (s.fresh + n) then byteAt c.orig a else none) with
          | some b => (b, c.marked.contains a)
          | none => ((byteAt now a).getD 0, s.engineMarked g a)
      let out := (ds.zip (List.range ds.length)).map fun p => (p.1, val (c.srcLoc p.1) p.2)
      some (some (out.map fun p => (p.1, p.2.1), (out.filter (·.2.2)).map (·.1)))

/-- A destination piece of a copy is written, or sent to the peer that holds it (R151, R163). -/
def State.copyPiece (s : State) (r : GRef) (id piece : Nat) : State :=
  match s.group? r, s.copy? r id with
  | some g, some c =>
    if !c.left.contains piece || c.sent.contains piece then s
    else
      match s.pieceData g c piece with
      | none => s
      | some none => s.endCopyPiece r id piece 0
      | some (some (bytes, marks)) =>
        let s1 := if c.orig.isEmpty then s else { s with fresh := s.fresh + 32 }
        let ticketed := (s1.lchOf g).ticketed (piece * 32)
        let turn := s1.copyTurn g (c.tag, g.index, c.order)
        let s0 := if ticketed && turn then s1.releaseBlock g.launch g.block g.run else s1
        if (s0.group? r).isNone then s0
        else if ticketed && !turn then
          if s0.stageRoom g 1 then
            (s0.stageAt g c.tag c.order piece bytes none [] (!marks.isEmpty)).endCopyPiece r id piece bytes.length
          else if (s0.lchOf g).img.verify then s0.spillFull g
          else s
        else match s0.placeOf g (piece * 32) with
          | .remote e _ =>
            let l := s.lchOf g
            let s2 := ((s0.noteStream g piece).sendReq
              { id := 0, owner := .copyWrite r id piece, asid := l.asid, queue := l.queue, peer := e.peer, pframe := e.pframe
                off := piece * 32 % 65536, va := BitVec.ofNat 64 (addrOfLoc (piece * 32)), acc := 7
                data := bytes.map fun p => (p.1 % 32, p.2), mark := !marks.isEmpty }).2
            s2.onCopy r id fun c => { c with sent := setAdd c.sent piece }
          | .absent => s0.endCopyPiece r id piece 0
          | _ => ((s0.performMarked g bytes marks).noteStream g piece).endCopyPiece r id piece bytes.length
  | _, _ => s

/-- Enters a copy of the running group into the engine (R151). -/
def State.enterCopy (sB : State) (c : CopyOp) : State :=
  let s := sB.flushBlock sB.cur
  let g := s.cur
  let id := g.pend.nextId
  let srcSecs := sectorSet (byteLocs c.src c.count)
  let dstSecs := sectorSet (byteLocs c.dst c.count)
  let s0 := s.touch g (srcSecs ++ dstSecs)
  let far := srcSecs.filter fun x => (s0.remoteOf g x).isSome
  let overlap := (byteLocs c.dst c.count).any fun a => decide (c.src ≤ a) && decide (a < c.src + c.count)
  let orig := if overlap then s0.engineBytes g (byteLocs c.src c.count) else []
  let c1 := { c with id := id, left := dstSecs, sent := [], waitSrc := far, got := [], orig := orig
                     marked := (orig.map (·.1)).filter (s0.engineMarked g), fail := .full }
  let s1 := { s0 with cur := { g with
    regs := g.regs.setSt .empty (.s c.token)
    pend := { g.pend with nextId := id + 1, cp := g.pend.cp ++ [c1] } } }
  let l := s.lchOf g
  far.foldl (fun (s : State) x => match s.remoteOf g x with
    | none => s
    | some e => (s.sendReq { id := 0, owner := .copyRead g.ref id x, asid := l.asid, queue := l.queue, peer := e.peer
                             pframe := e.pframe, off := x * 32 % 65536, va := BitVec.ofNat 64 (x * 32), acc := 6 }).2) s1

/-- A copy that the running split issues: its staged writes take the tag and the place in order of now (R278). -/
def State.startCopy (s : State) (c : CopyOp) : State :=
  let (order, s1) := s.takeOrder s.cur.launch
  s1.enterCopy { c with split := .entry s.cur.running, pc := s.cur.sp.pc, tag := s.cur.iss.roundTag, order := order }

/-- The state that a failed piece gives a register. -/
def PieceEnd.st : PieceEnd → RegSt
  | .data _ => .full | .nack _ => .nack | .timeout => .timeout

/-- The worse of two states: a timeout stays, whichever failure came first (R10). -/
def worse (a b : RegSt) : RegSt := if a = .full ∨ b = .timeout then b else a

/-- The answer to a read of a copy's source from a peer. -/
def State.copyReadReply (s : State) (r : GRef) (id sector : Nat) (e : PieceEnd) : State :=
  let seen := match s.group? r with
    | some g => s.overlaid g (s.lchOf g).orders sector e
    | none => e
  s.onCopy r id fun c =>
    let c1 := { c with waitSrc := setDel c.waitSrc sector, fail := worse c.fail e.st }
    match seen with
    | .data bytes => { c1 with got := (byteLocs (sector * 32) 32).zip bytes ++ c1.got }
    | _ => c1

/-- The answer to a write of a copy's piece to a peer. -/
def State.copyWriteReply (s : State) (r : GRef) (id piece : Nat) (e : PieceEnd) : State :=
  match s.copy? r id with
  | none => s
  | some c =>
    let s1 := s.onCopy r id fun c => { c with fail := worse c.fail e.st }
    s1.endCopyPiece r id piece (if e.st = .full then (c.dstLocs piece).length else 0)

/-- The core's L1 copies of the global sectors that an engine wrote become invalid (R198, R214). -/
def State.dropSectors (s : State) (g : Group) (sectors : List Nat) : State :=
  sectors.foldl (fun s x => match s.placeOf g (x * 32) with
    | .mem pa _ => { s with mem := { s.mem with l1 := s.mem.l1.filter fun c => ¬ (c.core = s.coreOf g ∧ c.sector = pa / 32) } }
    | _ => s) s

/-- The oldest copy of a group retires, when its pieces are over (R24, R151). -/
def State.retireCopy (s : State) (r : GRef) : State :=
  match s.group? r with
  | none => s
  | some g =>
    match g.pend.cp with
    | [] => s
    | c :: cs =>
      if !c.left.isEmpty || !c.waitSrc.isEmpty then s
      else (s.dropSectors g (sectorSet (byteLocs c.dst c.count))).onGroup r fun g =>
        let regs := if c.fail = .full then g.regs.putS c.token (BitVec.ofNat 32 c.count) else g.regs
        { g with regs := regs.setSt c.fail (.s c.token), pend := { g.pend with cp := cs } }

/-! ## Gathers (R152) -/

/-- Changes a gather of a group. -/
def State.onGather (s : State) (r : GRef) (id : Nat) (f : GatherOp → GatherOp) : State :=
  s.onGroup r fun g => { g with pend := { g.pend with ga := replaceFirst (·.id = id) f g.pend.ga } }

/-- The destination locations of a gather's row, each with its source location. -/
def GatherOp.cells (o : GatherOp) (p : Fin 32 × Nat) : List (Nat × Nat) :=
  ((List.range o.rows).map (o.dst + p.1.val * o.rows + ·)).zip (byteLocs p.2 o.rows)

/-- Enters a gather of the running group. Each local row is read now or as its pieces are written, a free choice (log 18). -/
def State.enterGather (sA : State) (o : GatherOp) : State :=
  let s := sA.flushBlock sA.cur
  let g := s.cur
  let id := g.pend.nextId
  let secs := sectorSet (o.srcs.flatMap fun p => byteLocs p.2 o.rows)
  let s0 := s.touch g secs
  let far := secs.filter fun x => (s0.remoteOf g x).isSome
  let early := (o.srcs.zip (List.range o.srcs.length)).filter fun p => Config.freeBool (s.fresh + p.2)
  let got := s0.engineBytes g (early.flatMap fun p => (byteLocs p.1.2 o.rows).filter fun a => !far.contains (a / 32))
  let o1 := { o with id := id, waitSrc := far, got := got, failed := [], nackCode := 0, timed := false
                     marked := (got.map (·.1)).filter (s0.engineMarked g)
                     left := sectorSet (o.srcs.flatMap fun p => (o.cells p).map (·.1)) }
  let s1 := { s0 with cur := { g with pend := { g.pend with nextId := id + 1, ga := g.pend.ga ++ [o1] } }
                      fresh := s.fresh + o.srcs.length }
  let l := s.lchOf g
  far.foldl (fun (s : State) x => match s.remoteOf g x with
    | none => s
    | some e => (s.sendReq { id := 0, owner := .gatherRead g.ref id x, asid := l.asid, queue := l.queue, peer := e.peer
                             pframe := e.pframe, off := x * 32 % 65536, va := BitVec.ofNat 64 (x * 32), acc := 8 }).2) s1

/-- A gather that the running split issues. -/
def State.startGather (s : State) (o : GatherOp) : State :=
  s.enterGather { o with split := .entry s.cur.running, pc := s.cur.sp.pc }

/-- The rows of a gather that read a sector, each with its lowest location there. -/
def GatherOp.readers (o : GatherOp) (sector : Nat) : List (Fin 32 × Nat) :=
  o.srcs.filterMap fun p => ((byteLocs p.2 o.rows).find? fun a => a / 32 = sector).map fun a => (p.1, a)

/-- A gather after the answer to a read of a sector from a peer. -/
def GatherOp.reply (o : GatherOp) (sector : Nat) (e : PieceEnd) : GatherOp :=
  let o1 := { o with waitSrc := setDel o.waitSrc sector }
  let failed := (o.readers sector).foldl lowestFail o.failed
  match e with
  | .data bytes => { o1 with got := (byteLocs (sector * 32) 32).zip bytes ++ o1.got }
  | .nack code => { o1 with failed := failed, nackCode := if o1.nackCode = 0 then code else o1.nackCode }
  | .timeout => { o1 with failed := failed, timed := true }

/-- The answer to a read of a gather's source from a peer: rows that fail are held from then on (R150, R152). -/
def State.gatherReply (s : State) (r : GRef) (id sector : Nat) (e : PieceEnd) : State :=
  match s.group? r, (s.group? r).bind fun g => g.pend.ga.find? (·.id = id) with
  | some g, some o =>
    let marks := if e.arrived then (byteLocs (sector * 32) 32).filter (s.stagedMarked g (s.lchOf g).orders) else []
    let o1 := o.reply sector (s.overlaid g (s.lchOf g).orders sector e)
    let s1 := s.onGather r id fun _ => { o1 with marked := marks ++ o1.marked }
    if e.arrived || (o.readers sector).isEmpty then s1
    else s1.hold r ⟨id, o.split, o.readers sector, 8, if o1.timed then 0 else o1.nackCode⟩
  | _, _ => s

/-- The rows of a gather that reach a destination sector. -/
def GatherOp.rowsAt (o : GatherOp) (piece : Nat) : List (Fin 32 × Nat) :=
  o.srcs.filter fun p => (o.cells p).any fun c => c.1 / 32 = piece

/-- A destination piece of a gather can be written: the rows that reach it have come from their peers. -/
def GatherOp.ready (o : GatherOp) (piece : Nat) : Bool :=
  (o.rowsAt piece).all fun p => (byteLocs p.2 o.rows).all fun a => !o.waitSrc.contains (a / 32)

/-- A destination piece of a gather is written, with the bytes and marks of the rows that did not fail (R152, R194). -/
def State.gatherPiece (s : State) (r : GRef) (id piece : Nat) : State :=
  match s.group? r, (s.group? r).bind fun g => g.pend.ga.find? (·.id = id) with
  | some g, some o =>
    if !o.left.contains piece || !o.ready piece then s
    else
      let cells := ((o.rowsAt piece).filter fun p => !o.failed.any fun q => q.1 = p.1).flatMap fun p =>
        (o.cells p).filter fun c => c.1 / 32 = piece
      let now := s.engineBytes g (cells.map (·.2))
      let bytes := cells.map fun c => (c.1, (byteAt o.got c.2).getD ((byteAt now c.2).getD 0))
      let marks := (cells.filter fun c => if (byteAt o.got c.2).isSome then o.marked.contains c.2 else s.engineMarked g c.2).map (·.1)
      (s.performMarked g bytes marks).onGather r id fun o => { o with left := setDel o.left piece }
  | _, _ => s

/-- The oldest gather of a group retires, its pieces written (R24, R152). -/
def State.retireGather (s : State) (r : GRef) : State :=
  match s.group? r with
  | none => s
  | some g =>
    match g.pend.ga with
    | [] => s
    | o :: os =>
      if !o.waitSrc.isEmpty || !o.left.isEmpty then s
      else s.onGroup r fun g => { g with pend := { g.pend with ga := os } }

end Sys2Proof.Machine
end

