-- ==== Sys2Proof/Machine/Memory.lean ====
section
/-! DEFINITION. Memory access, atomics, fences and asynchronous copies (R136 to R156). -/

namespace Sys2Proof.Machine

/-! ## Lanes of an access -/

/-- Bytes of a load or store size (R136). -/
def sizeBytes (sub : BitVec 4) : Nat :=
  match sub.toNat with
  | 0 => 1 | 1 => 1 | 2 => 2 | 3 => 2 | 4 => 4 | 5 => 8 | _ => 16

/-- The lanes of an access of `w` bytes at the address operand (R137). -/
def memLanes (f : Fields) (s : State) (w : Nat) : List LaneReq :=
  (activeLanes f.u s.cur.exec).map fun l => ⟨l, locOf l (addrOf f s.cur.regs l), w⟩

/-- The check of R138 over the lanes of an access. -/
def memCheck (f : Fields) (s : State) (acc w : Nat) : Option TrapInfo :=
  s.checkLanes s.cur acc ((activeLanes f.u s.cur.exec).map fun l => (l, addrOf f s.cur.regs l, w))

/-- The scope of an access. -/
def memScope (f : Fields) : Scope := Scope.ofCode f.mod3

/-- The sectors of lanes. -/
def laneSectors (l : List LaneReq) : List Nat := sectorSet (l.flatMap LaneReq.locs)

/-- The words of the data register or registers of a lane. -/
def dataBytes (f : Fields) (r : RegFile) (l : Fin 32) : List Byte :=
  (List.range 4).flatMap fun i =>
    let n := f.c + BitVec.ofNat 8 i
    bytesOfWord (if f.cs then r.getS n else (r.getV n).get l)

/-! ## Loads and stores -/

/-- LD (R140). -/
def execLd (f : Fields) (s : State) : Host.Outcome State Fault Refusal :=
  let p := planOf 0x58 f
  .next (issue (.ld f) p (fun s =>
    match memCheck f s 0 (sizeBytes f.sub) with
    | some t => .trap s t
    | none =>
      let lanes := memLanes f s (sizeBytes f.sub)
      .done (s.startOp { id := 0, split := .entry 0, pc := 0, kind := .load f.sub, acc := 0, scope := memScope f, lanes := lanes
                         dst := p.dsts, left := laneSectors lanes })) s)

/-- What follows an instruction's effect where it completes: a wait or a trap leaves it out. -/
def Res.andThen (r : Res) (f : State → State) : Res :=
  match r with
  | .done s => .done (f s)
  | r => r

/-- The end of a store-like write at issue: its staged sectors are entered, the rest become pieces. -/
def issueWrite (s : State) (o : MemOp)
    (red : Option (BitVec 4 × BitVec 6 × List LaneReq × List (Nat × DWord × DWord))) : Res :=
  match s.stageWrite s.cur o.left o.data red with
  | .wait => .wait s
  | .full => .stay (s.spillFull s.cur)
  | .go s1 rest => if rest.isEmpty then .done s1 else .done (s1.startOp { o with left := rest })

/-- ST (R141). -/
def execSt (f : Fields) (s : State) : Host.Outcome State Fault Refusal :=
  .next (issue (.st f) (planOf 0x59 f) (fun s =>
    let w := sizeBytes f.sub
    match memCheck f s 1 w with
    | some t => .trap s t
    | none =>
      let lanes := memLanes f s w
      let data := writeBytes (lanes.map fun r => (r, (dataBytes f s.cur.regs r.lane).take w))
      issueWrite s { id := 0, split := .entry 0, pc := 0, kind := .store, acc := 1, scope := memScope f, lanes := lanes
                     data := data, left := laneSectors lanes } none) s)

/-- A piece of a load or of a returning atomic arrives (R140). -/
def execLoadSectorArrival (g : GRef) (op sector : Nat) (s : State) : Host.Outcome State Fault Refusal :=
  match s.op? g op with
  | some o => .next (if o.returns then s.performPiece g op sector else s)
  | none => .next s

/-- A piece of a store or reduction is performed at its home (R139, R141). -/
def execStorePerformed (g : GRef) (op piece : Nat) (s : State) : Host.Outcome State Fault Refusal :=
  match s.op? g op with
  | some o => .next (if o.returns then s else s.performPiece g op piece)
  | none => .next s

/-! ## Class loads and stores (R143 to R145) -/

/-- The checks of the fields of CLD and CST: `c` and `d` name the scale pair or must be zero (R143, R144). -/
def clsMemErr (e : DWord) (f : Fields) (load : Bool) : Option FieldErr :=
  let pair := if load then f.c else f.d
  let code := if load then 3 else 0
  let bad : FieldErr := ⟨code, (0 : BitVec 24) ++ pair⟩
  if !entV e then none
  else if entPlanes e then
    let scale := if (load && !f.cs) || !regRange 64 2 pair then some bad else none
    let offs := if f.a = 0xFF then none else some ⟨1, (0 : BitVec 24) ++ f.a⟩
    let cls := if f.u then some ⟨4, (0 : BitVec 28) ++ f.cls⟩ else none
    firstErr scale (firstErr offs cls)
  else if pair ≠ 0 || (load && f.cs) then some bad
  else none

/-- The scale pair of a class load or store is a source. -/
def clsMemSrc (e : DWord) (f : Fields) (load : Bool) : List Src :=
  if !entPlanes e then []
  else if load then (regsFrom true 2 f.c).map fun r => ⟨r, 3, f.fe.getLsbD 2⟩
  else (regsFrom true 2 f.d).map fun r => ⟨r, 0, false⟩

/-- The plan of CLD or CST. -/
def clsMemPlan (op : BitVec 7) (e : DWord) (f : Fields) (load : Bool) : Plan :=
  { planOf op f with more := fun _ => clsMemErr e f load, xsrc := clsMemSrc e f load }

/-- The check of R138 over a plane block and its scale byte, for every active lane. A fault of either names the class
instruction's kind. -/
def planeCheck (f : Fields) (s : State) (n : Nat) (scale : DWord) (acc scaleAcc : Nat) : Option TrapInfo :=
  let base := addrOf f s.cur.regs 0
  trapOfBads ((activeLanes f.u s.cur.exec).filterMap fun l =>
    match s.checkRange s.cur acc (base.toNat % 2 ^ 56) (4 * n) with
    | some b => some (l, acc, b)
    | none => (s.checkRange s.cur scaleAcc (scale.toNat % 2 ^ 56) 1).map fun b => (l, acc, b))

/-- An entry that makes a class load complete before the next instruction (R145). -/
def entTraps (e : DWord) : Bool := entTRG e || entTUF e || entTNAN e

/-- Delivers a class load whose bytes have been read, but for lanes that failed (R145, R150). -/
def cldDeliver (f : Fields) (s : State) (e : DWord) (failed : Word) (st : RegSt) (o : Fin 32 → ClsOut) : Res :=
  let leave := fun (s : State) => s.onRegs fun r => r.setSt st (if f.u then .s f.d else .v f.d)
  let exec := s.cur.exec &&& ~~~failed
  if st ≠ .full ∧ (f.u ∨ exec = 0) then .done ((leave s).advanceSr e)
  else match clsDeliverIn f f.cls s exec o with
    | .done t => .done (if st = .full then t else leave t)
    | .trap t i => .trap (leave t) i
    | r => r

/-- CLD in the formats of MKIND 0 to 2 (R143). -/
def cldPlain (f : Fields) (e : DWord) (dst : List Reg) (s : State) : Res :=
  let w := elemCount e * memElem e
  match memCheck f s 4 w with
  | some t => .trap s t
  | none =>
    let lanes := memLanes f s w
    let srs := s.cur.ctl.srstate
    if entTraps e then
      match s.syncRead 4 (memScope f) lanes with
      | .wait t => .wait t
      | .killed t => .stay t
      | .ready t got failed st _ => cldDeliver f t e failed st fun l =>
          cloadOut e srs l.val (gotBytes got (byteLocs (locOf l (addrOf f t.cur.regs l)) w))
    else .done ((s.advanceSr e).startOp { id := 0, split := .entry 0, pc := 0, kind := .cload f.cls srs, acc := 4, scope := memScope f
                                          lanes := lanes, dst := dst, left := laneSectors lanes })

/-- CLD of a plane block (R144). -/
def cldPlane (i : Instr) (f : Fields) (e : DWord) (dst : List Reg) (s : State) : Res :=
  let n := entMPL e
  let base := addrOf f s.cur.regs 0
  let scale := s.cur.regs.getPair f.c
  if base.toNat % 4 ≠ 0 then s.operandTrap i 6 f.w2
  else match planeCheck f s n scale 4 4 with
  | some t => .trap s t
  | none =>
    let lanes := memLanes f s (4 * n)
    let srs := s.cur.ctl.srstate
    if entTraps e then
      match s.syncRead 4 (memScope f) (lanes ++ lanes.map fun r => ⟨r.lane, locOf r.lane scale, 1⟩) with
      | .wait t => .wait t
      | .killed t => .stay t
      | .ready t got failed st _ => cldDeliver f t e failed st fun l =>
          cplaneOut e srs l.val (wordsOf (gotBytes got (byteLocs (locOf l base) (4 * n))) n)
            ((byteAt got (locOf l scale)).getD 0).toNat
    else
      let o : MemOp := { id := 0, split := .entry 0, pc := 0, kind := .cplane f.cls srs scale, acc := 4, scope := memScope f
                         lanes := lanes, dst := dst, left := [] }
      .done ((s.advanceSr e).startOp { o with left := sectorSet o.locs })

/-- CLD (R143 to R145). -/
def execCld (f : Fields) (s : State) : Host.Outcome State Fault Refusal :=
  let e := s.ent f.cls
  let p := clsMemPlan 0x5A e f true
  .next (issue (.cld f) p (fun s => if entPlanes e then cldPlane (.cld f) f e p.dsts s else cldPlain f e p.dsts s) s)

/-- What a class store makes of a lane: memory bytes, reasons and flags (R127, R143). -/
structure CstOut where
  bytes : List Byte
  r0 : Nat := 0
  r1 : Nat := 0
  range : Bool := false
  under : Bool := false
  deriving DecidableEq, Repr

/-- `round_mem` of the elements of a lane (R143). -/
def cstOut (e : DWord) (srs : Word) (l : Nat) (vs : List Val) : CstOut :=
  let fm := fmtOf (entMKIND e)
  let one := fun (j : Nat) => clsRound e fm (srDraw srs (l + 16 * j)) (vs.getD j (.zero false))
  let rs := (List.range (elemCount e)).map one
  { bytes := rs.flatMap fun r => leBytes (memElem e) r.bits
    r0 := ((rs[0]?).map (·.reason)).getD 0, r1 := ((rs[1]?).map (·.reason)).getD 0
    range := rs.any (·.range), under := rs.any (·.under) }

/-- The trap of a class store in the formats of MKIND 0 to 2 (R127, R143). -/
def cstTrap (c : BitVec 8) (bad : List (Fin 32 × CstOut)) : TrapInfo :=
  let at' := fun (l : Fin 32) => (bad.find? fun p => p.1 = l).map (·.2)
  ⟨clsCause (bad.flatMap fun p => [p.2.r0, p.2.r1]), lanesOf bad, Vector.ofFn fun i => Lanes.mk fun l =>
    match at' l with
    | none => 0
    | some o =>
      if i = 0 then (0 : BitVec 24) ++ c
      else if i = 1 then BitVec.ofNat 32 (o.r0 + 256 * o.r1)
      else if i = 2 then BitVec.ofNat 32 (leNat (o.bytes.take 4))
      else BitVec.ofNat 32 (leNat ((o.bytes.drop 4).take 4))⟩

/-- CST in the formats of MKIND 0 to 2 (R143). -/
def cstPlain (f : Fields) (e : DWord) (s : State) : Res :=
  let w := elemCount e * memElem e
  match memCheck f s 5 w with
  | some t => .trap s t
  | none =>
    let lanes := memLanes f s w
    let srs := s.cur.ctl.srstate
    let outs := lanes.map fun r => (r.lane, cstOut e srs r.lane.val (clsElems e (rawC f s.cur.regs false r.lane)))
    -- a store that must wait has not issued: it sets no flag
    let flag := fun (s : State) => s.orCls f.cls (outs.any (·.2.range)) (outs.any (·.2.under))
    match outs.filter fun p => p.2.r0 ≠ 0 || p.2.r1 ≠ 0 with
    | [] =>
      let data := writeBytes (lanes.zip (outs.map (·.2.bytes)))
      (issueWrite s { id := 0, split := .entry 0, pc := 0, kind := .store, acc := 5, scope := memScope f, lanes := lanes
                      data := data, left := laneSectors lanes } none).andThen fun s => (flag s).advanceSr e
    | bad => .trap (flag s) (cstTrap f.c bad)

/-- The plane words and the scale byte of a block, each in pieces of its own (R144). Bytes that both write are the scale's. `first`
is the operation of the same instruction that came before, if there was one. -/
def issueTwo (s : State) (sc : Scope) (first : Option Nat) (blocks scales : List (LaneReq × List Byte)) : Res :=
  let op := fun (l : List (LaneReq × List Byte)) (first : Option Nat) =>
    ({ id := 0, split := .entry 0, pc := 0, kind := .store, acc := 5, scope := sc, lanes := l.map (·.1)
       data := writeBytes l, left := laneSectors (l.map (·.1)), first := first } : MemOp)
  let id := first.getD s.cur.pend.nextId
  match s.stageWrite s.cur (op blocks none).left (op blocks none).data none with
  | .wait => .wait s
  | .full => .stay (s.spillFull s.cur)
  | .go s1 rest =>
    let s2 := if rest.isEmpty then s1 else s1.startOp { op blocks first with left := rest }
    if scales.isEmpty then .done s2
    else match issueWrite s2 (op scales (some id)) none with
      | .wait _ => .wait s
      | r => r

/-- The end of a plane class store: its class traps, then its writes (R144). One block stands for every active lane; a failure of its
plane words or its scale byte names the lowest of them (DESIGN CHOICE, log 173). -/
def cstBlock (f : Fields) (e : DWord) (base scale : DWord) (code : Nat) (first : Option Nat) (s : State) : Res :=
  let n := entMPL e
  let srs := s.cur.ctl.srstate
  let xs := laneList.map fun l =>
    if maskBit s.cur.exec l then (clsElems e (rawC f s.cur.regs false l)).headD (.zero false) else .zero false
  let q := if entMKIND e = 3 then quantBlock e srs n xs else quantTensor e srs n code xs
  let flag := fun (s : State) => s.orCls f.cls q.range q.under
  if q.reason ≠ 0 then
    .trap (flag s) (.all (clsCause [q.reason]) s.cur.exec ((0 : BitVec 24) ++ f.c) (BitVec.ofNat 32 q.reason)
      (BitVec.ofNat 32 q.code) 0)
  else
    let planes := (planesOf n q.qs).flatMap bytesOfWord
    let active := activeLanes f.u s.cur.exec
    -- one block; in the stack window one in each lane's own stack (R137)
    let ls := if window (base.toNat % 2 ^ 56) = 0xFD then active else active.take 1
    let ss := if window (scale.toNat % 2 ^ 56) = 0xFD then active else active.take 1
    let blocks : List (LaneReq × List Byte) := ls.map fun l => (⟨l, locOf l base, 4 * n⟩, planes)
    let scales : List (LaneReq × List Byte) := if entMKIND e = 3 then ss.map fun l => (⟨l, locOf l scale, 1⟩, [BitVec.ofNat 8 q.code]) else []
    (issueTwo s (memScope f) first blocks scales).andThen fun s => (flag s).advanceSr e

/-- CST of a plane block (R144). The scale byte of a per-tensor class is read at issue, in the stack window from the stack of the
lowest active lane (log 56); where a peer does not answer the read, the code is a free value and the failure is held (log 145). -/
def cstPlane (i : Instr) (f : Fields) (e : DWord) (s : State) : Res :=
  let base := addrOf f s.cur.regs 0
  let scale := s.cur.regs.getPair f.d
  if base.toNat % 4 ≠ 0 then s.operandTrap i 6 f.w2
  else match planeCheck f s (entMPL e) scale 5 (if entMKIND e = 3 then 5 else 4) with
  | some t => .trap s t
  | none =>
    if entMKIND e = 3 then cstBlock f e base scale 0 none s
    else
      let first := (activeLanes f.u s.cur.exec).take 1
      -- a store that must wait finds its scale byte again
      let keep := fun (r : Res) => match r with
        | .wait _ => Res.wait s
        | r => r
      match s.syncRead 4 (memScope f) (first.map fun l => ⟨l, locOf l scale, 1⟩) with
      | .wait t => .wait t
      | .killed t => .stay t
      | .ready t got _ .full _ =>
        keep (cstBlock f e base scale ((first.map fun l => ((byteAt got (locOf l scale)).getD 0).toNat).headD 0) none t)
      | .ready t _ _ _ nack =>
        let t1 : State := { t with fresh := t.fresh + 1 }
        let h : HeldFail := ⟨t.cur.pend.nextId, .entry t.cur.running, first.map fun l => (l, locOf l scale), 5, nack⟩
        keep (cstBlock f e base scale ((Config.freeWord t.fresh).toNat % 256) (some h.id)
          { t1 with cur := { t1.cur with pend := { t1.cur.pend with nextId := h.id + 1, held := t1.cur.pend.held ++ [h] } } })

/-- CST (R143, R144). -/
def execCst (f : Fields) (s : State) : Host.Outcome State Fault Refusal :=
  let e := s.ent f.cls
  .next (issue (.cst f) (clsMemPlan 0x5B e f false) (fun s =>
    if entPlanes e then cstPlane (.cst f) f e s else cstPlain f e s) s)

/-! ## Atomics (R146 to R148) -/

/-- The operands of an atomic's lanes: b, or the compare value and the new value of cas. -/
def atomArgs (f : Fields) (s : State) : List (Nat × DWord × DWord) :=
  let wide := decide (atomWidth f.b6 = 8)
  (activeLanes f.u s.cur.exec).map fun l =>
    let r := s.cur.regs
    (l.val, r.raw f.cs wide f.c l, if f.sub = 7 then r.raw f.cs wide (f.c + (if wide then 2 else 1)) l else 0)

/-- An atomic of a deterministic launch to a SHARED-ACCUMULATE range waits for its block's turn (R279). -/
def atomTurn (s : State) (sectors : List Nat) : Bool :=
  let l := s.lchOf s.cur
  sectors.all fun x => !l.ticketed (x * 32) ||
    (decide (s.cur.block = l.ticket) && (s.copyKeys s.cur.launch s.cur.block s.cur.run).isEmpty)

/-- ATOM (R146). -/
def execAtom (f : Fields) (s : State) : Host.Outcome State Fault Refusal :=
  let p := planOf 0x5C f
  .next (issue (.atom f) p (fun s =>
    let w := atomWidth f.b6
    match memCheck f s 2 w with
    | some t => .trap s t
    | none =>
      let lanes := memLanes f s w
      let sectors := laneSectors lanes
      if !atomTurn s sectors then .wait s
      else
        let shared := sectors.any fun x => (s.lchOf s.cur).ticketed (x * 32)
        let s1 := if shared then s.releaseBlock s.cur.launch s.cur.block s.cur.run else s
        if !s1.cur.isRef s.cur.ref then .stay s1
        else if shared && !s1.acked s.cur.launch then .wait s1
        else .done (s1.startOp { id := 0, split := .entry 0, pc := 0, kind := .atomic f.sub f.b6, acc := 2, scope := memScope f
                                 lanes := lanes, dst := p.dsts, args := atomArgs f s, left := sectors })) s)

/-- RED (R147). -/
def execRed (f : Fields) (s : State) : Host.Outcome State Fault Refusal :=
  .next (issue (.red f) (planOf 0x5D f) (fun s =>
    let w := atomWidth f.b6
    match memCheck f s 3 w with
    | some t => .trap s t
    | none =>
      let lanes := memLanes f s w
      let args := atomArgs f s
      issueWrite s { id := 0, split := .entry 0, pc := 0, kind := .atomic f.sub f.b6, acc := 3, scope := memScope f, lanes := lanes
                     args := args, left := laneSectors lanes } (some (f.sub, f.b6, lanes, args))) s)

/-! ## Fences and counters (R149, R150, R153) -/

/-- Earlier loads and returning atomics of the running split have not completed. -/
def State.acqPending (s : State) : Bool := s.cur.pend.mem.any fun o => decide (o.split = .entry s.cur.running) && o.returns

/-- A write to a sector has not completed at a scope (R139, R206): a peer's memory acknowledges for `.sys` alone; at `.grp` the group
alone must see it; at `.blk` and `.gang` a store is written through L1 where the block or the gang sees it (log 148). -/
def State.writeOpen (s : State) (sc : Scope) (o : MemOp) (sector : Nat) : Bool :=
  match s.placeOf s.cur (sector * 32), sc with
  | .remote _ _, _ => decide (sc = .sys)
  | .mem _ _, .grp => false
  | .mem _ _, .blk => !o.near.contains sector
  | .mem _ _, .gang => !(o.near.contains sector && decide (o.nearSc = .gang))
  | _, _ => true

/-- Earlier accesses of the running split have not completed at a scope (R149). -/
def State.relPending (s : State) (sc : Scope) : Bool :=
  s.cur.pend.mem.any fun o => decide (o.split = .entry s.cur.running) && (o.returns || o.left.any (s.writeOpen sc o))

/-- A release of a scope begins (R149, R195): it makes the split's stores visible to the scope's instance, and with them what the
group sees (R199); at `.dev` or wider they are performed at their home. -/
def State.release (s : State) (sc : Scope) : State :=
  match sc with
  | .grp => s
  | .blk => s.makeNear
  | .gang => s.makeNear.widenNear
  | .dev => s.flushBlock s.cur
  | .sys => s.flushBlock s.cur

/-- The core's L1 copies of global lines are invalidated (R149, R214). -/
def State.dropL1 (s : State) (core : Nat) : State := { s with mem := { s.mem with l1 := s.mem.l1.filter (·.core ≠ core) } }

/-- The oldest held failure of the running split; a fence covers those of stores and reductions alone (R150, R152). -/
def State.oldestHeld (s : State) (fence : Bool) : Option HeldFail :=
  (s.cur.pend.held.filter fun h => h.split = .entry s.cur.running ∧ ¬ (fence ∧ h.acc = 8)).foldl (fun r h => match r with
    | none => some h
    | some x => if h.id < x.id then some h else some x) none

/-- The trap of a held failure (R150). -/
def heldTrap (h : HeldFail) : TrapInfo :=
  let at' := fun (l : Fin 32) => (h.lanes.find? fun p => p.1 = l).map (·.2)
  ⟨if h.nack = 0 then Cause.remoteTimeout else Cause.remoteAccess, lanesOf h.lanes, Vector.ofFn fun i => Lanes.mk fun l =>
    match at' l with
    | none => 0
    | some loc =>
      if i = 0 then addrLo (addrOfLoc loc) else if i = 1 then addrHi (addrOfLoc loc)
      else if i = 2 then BitVec.ofNat 32 h.acc else BitVec.ofNat 32 h.nack⟩

/-- Raises a held failure: it is held no longer (R150). -/
def State.raiseHeld (s : State) (h : HeldFail) : Res :=
  .trap { s with cur := { s.cur with pend := { s.cur.pend with held := s.cur.pend.held.filter (· ≠ h) } } } (heldTrap h)

/-- FENCE with its semantics and scope (R149): the fence completes when the accesses it waits for have. A `.sys` fence alone waits
for a peer's acknowledgement (R206), and so raises a failure (R150). -/
def fenceEffect (sub : BitVec 4) (sc : Scope) (s0 : State) : Res :=
  let acq := decide (sub ≠ 1)
  let rel := decide (sub ≠ 0)
  let s := if rel then s0.release sc else s0
  if (acq && s.acqPending) || (rel && s.relPending sc) then .wait s
  else match (if rel && decide (sc = .sys) then s.oldestHeld true else none) with
    | some h => s.raiseHeld h
    | none => .done (if acq && sc.wide then s.dropL1 (s.coreOf s.cur) else s)

/-- FENCE (R149): `.acq` at `.grp` scope. -/
def execFence (f : Fields) (s : State) : Host.Outcome State Fault Refusal :=
  .next (issue (.fence f) (planAlways 0x5E f) (fenceEffect 0 .grp) s)

/-- FENCE in form E (R149). -/
def execFenceExt (f : Fields) (s : State) : Host.Outcome State Fault Refusal :=
  .next (issue (.fenceExt f) (planAlways 0x5E f) (fenceEffect f.sub (memScope f)) s)

/-- The outstanding operations of a counter class: 0 CP, 1 MX, 2 GA, 3 CO (R24). -/
def Group.count (g : Group) (cnt : Nat) : Nat :=
  match cnt with
  | 0 => g.pend.cp.length | 1 => g.pend.mx.length | 2 => g.pend.ga.length | _ => g.pend.co.length

/-- WAITCNT (R150, R153). A failure that is held when the instruction issues is raised; one that is held while it waits
is left to the next covering instruction. -/
def execWaitcnt (f : Fields) (s : State) : Host.Outcome State Fault Refusal :=
  let plan := { planAlways 0x63 f with
    more := fun _ => if f.d.toNat ≤ 63 then none else some ⟨0, (0 : BitVec 24) ++ f.d⟩ }
  .next (issue (.waitcnt f) plan (fun s =>
    match (if s.cur.sp.half then none else s.oldestHeld false) with
    | some h => s.raiseHeld h
    | none => if s.cur.count f.a.toNat ≤ f.d.toNat then .done s else .wait (s.onSp fun e => { e with half := true })) s)

/-- CNTRD (R153). -/
def execCntrd (f : Fields) (s : State) : Host.Outcome State Fault Refusal :=
  .next (issue (.cntrd f) (planAlways 0x64 f) (fun s =>
    .done (s.onRegs fun r => r.writeS f.d (BitVec.ofNat 32 (s.cur.count f.a.toNat)))) s)

/-- A remote store or reduction fails as a whole, by a NACK or by a timeout (NACK code 0), and is held; each request that it fails
has its record (R150, R311). -/
def execRemoteStoreFailure (g : GRef) (op nack : Nat) (s : State) : Host.Outcome State Fault Refusal :=
  match s.op? g op, s.group? g with
  | some o, some gr =>
    if o.returns then .next s
    else
      let far := o.left.filter fun x => (s.remoteOf gr x).isSome
      let mine := fun (r : OutReq) => match r.owner with
        | .mem g' op' _ => decide (g' = g) && decide (op' = op)
        | _ => false
      let s0 := (s.fabric.reqs.filter mine).foldl (fun s r => s.initiatorRec r nack) s
      let s1 := { s0 with fabric := { s0.fabric with reqs := s0.fabric.reqs.filter fun r => !mine r } }
      .next (far.foldl (fun s x => s.memReply g op x (if nack = 0 then .timeout else .nack nack)) s1)
  | _, _ => .next s

/-! ## Copies and gathers (R151, R152) -/

/-- A counter class is full: the instruction waits at issue (R20). -/
def Group.full (g : Group) (cnt : Nat) : Bool := decide (63 ≤ g.count cnt)

/-- The check of R138 for one range by lane 0. -/
def State.checkOne (s : State) (acc : Nat) (addr : DWord) (n : Nat) : Option TrapInfo := s.checkLanes s.cur acc [(0, addr, n)]

/-- CPASYNC (R151). -/
def execCpasync (f : Fields) (s : State) : Host.Outcome State Fault Refusal :=
  .next (issue (.cpasync f) (planAlways 0x5F f) (fun s =>
    let i := Instr.cpasync f
    let dst := s.cur.regs.getPair f.a
    let src := s.cur.regs.getPair f.b
    let dab := s.cur.regs.getPair f.c
    let n := f.w2.toNat
    if dst.toNat % 4 ≠ 0 then s.operandTrap i 1 (dst.extractLsb' 0 32)
    else if src.toNat % 4 ≠ 0 then s.operandTrap i 2 (src.extractLsb' 0 32)
    else if n % 4 ≠ 0 ∨ n < 4 ∨ 65536 < n then s.operandTrap i 6 f.w2
    else match s.checkOne 6 src n with
    | some t => .trap s t
    | none => match s.checkOne 7 dst n with
      | some t => .trap s t
      | none =>
        if f.sub = 1 ∧ dab.toNat % 16 ≠ 0 then s.operandTrap i 3 (dab.extractLsb' 0 32)
        else match (if f.sub = 1 then s.checkOne 10 dab 16 else none) with
        | some t => .trap s t
        | none =>
          if s.cur.full 0 then .wait s
          else
            let g := s.cur
            let a := src.toNat % 2 ^ 56
            let b := dst.toNat % 2 ^ 56
            let s1 := s.flushBytes g.ref (.entry g.running) (byteLocs a n ++ byteLocs b n)
            if !s1.cur.isRef g.ref then .stay s1
            else .done (s1.startCopy { id := 0, split := .entry 0, pc := 0, src := a, dst := b, count := n, token := f.d
                                       dab := if f.sub = 1 then some (dab.toNat % 2 ^ 56) else none, left := [], words := encode i })) s)

/-- A destination piece of a copy or of a gather is written (R151, R152, R163). -/
def execCopyPieceWritten (g : GRef) (op piece : Nat) (s : State) : Host.Outcome State Fault Refusal :=
  .next ((s.copyPiece g op piece).gatherPiece g op piece)

/-- A copy retires (R151). -/
def execCopyRetire (g : GRef) (s : State) : Host.Outcome State Fault Refusal := .next (s.retireCopy g)

/-- GATHER (R152). -/
def execGather (f : Fields) (s : State) : Host.Outcome State Fault Refusal :=
  let n := f.w2.toNat
  let plan := { planOf 0x60 f with
    more := fun _ => if f.a = 0xFF then some ⟨1, 0xFF⟩ else if n % 4 ≠ 0 ∨ n < 4 ∨ 4096 < n then some ⟨6, f.w2⟩ else none }
  .next (issue (.gather f) plan (fun s =>
    let i := Instr.gather f
    let r := s.cur.regs
    let dst := r.getPair f.c
    let src := fun (l : Fin 32) => r.getPair f.b + raw32 ((r.getV f.a).get l)
    let lanes := activeLanes false s.cur.exec
    if dst.toNat % 4 ≠ 0 then s.operandTrap i 3 (dst.extractLsb' 0 32)
    else
      let dest := fun (l : Fin 32) => dst + BitVec.ofNat 64 (l.val * n)
      match trapOfBads (lanes.filterMap fun l =>
          match s.checkRange s.cur 8 ((src l).toNat % 2 ^ 56) n with
          | some b => some (l, 8, b)
          | none => (s.checkRange s.cur 9 ((dest l).toNat % 2 ^ 56) n).map fun b => (l, 9, b)) with
      | some t => .trap s t
      | none =>
        if s.cur.full 2 then .wait s
        else
          let g := s.cur
          let srcs := lanes.map fun l => (l, (src l).toNat % 2 ^ 56)
          let s1 := s.flushBytes g.ref (.entry g.running)
            (srcs.flatMap (fun p => byteLocs p.2 n) ++ lanes.flatMap fun l => byteLocs ((dest l).toNat % 2 ^ 56) n)
          if !s1.cur.isRef g.ref then .stay s1
          else .done (s1.startGather { id := 0, split := .entry 0, pc := 0, rows := n, dst := dst.toNat % 2 ^ 56, srcs := srcs
                                       base := (r.getPair f.b).toNat % 2 ^ 56, words := encode i })) s)

/-- A gather retires (R152). -/
def execGatherRetire (g : GRef) (s : State) : Host.Outcome State Fault Refusal := .next (s.retireGather g)

/-! ## Prefetch and CODESYNC (R154 to R156) -/

/-- The sectors of the L1 lines at the lanes' addresses that a prefetch may bring (R154): plain local memory. -/
def prefSectors (f : Fields) (s : State) : List Nat :=
  let lines := setAddAll [] ((memLanes f s 1).map fun r => r.loc / 128)
  (lines.flatMap fun x => span (4 * x) (4 * x + 4)).filter fun x =>
    isGlobal (x * 32) && (s.lchOf s.cur).owns s.cur.block 0 (x * 32) &&
    match s.placeOf s.cur (x * 32) with
    | .mem pa _ => !s.mem.beyond (frameOf pa) && decide (frameOf pa < s.mem.capacity) && !s.marked (pa / 32)
    | _ => false

/-- Brings sectors to the core's L1 where it holds no copy. -/
def State.fillL1 (s : State) (sectors : List Nat) : State :=
  let core := s.coreOf s.cur
  sectors.foldl (fun s x => match s.placeOf s.cur (x * 32) with
    | .mem pa _ =>
      if s.mem.l1.any fun c => c.core = core ∧ c.sector = pa / 32 then s
      else { s with mem := { s.mem with l1 := ⟨core, pa / 32, s.mem.bytes.readN (pa / 32 * 32) 32⟩ :: s.mem.l1 } }
    | _ => s) s

/-- PREF (R154). It raises only the causes of R48 steps 2 to 6: a register that holds no data gives an address like any other
(log 55). -/
def execPref (f : Fields) (s : State) : Host.Outcome State Fault Refusal :=
  .next (issue (.pref f) { planOf 0x61 f with quiet := true } (fun s => .done (if f.sub = 1 then s.fillL1 (prefSectors f s) else s)) s)

/-- From now on the groups of the running group's launch, and those of the cores that run one of them, fetch what the stores into the
self-modifiable pages of its address space have written (R156, R217). -/
def State.syncCode (s : State) : State :=
  let l := s.cur.launch
  let cores := (s.groups.filter (·.launch = l)).map s.coreOf
  { s with mem := { s.mem with code := s.mem.code.map fun c =>
      if (s.mem.entry (c.sector / 2048)).asid = (s.lch l).asid then { c with synced := setAdd c.synced l, cores := setAddAll c.cores cores }
      else c } }

/-- CODESYNC (R156): its release, then every core that runs a group of the launch discards what it holds of the code pages. -/
def execCodesync (s : State) : Host.Outcome State Fault Refusal :=
  .next (issue .codesync (planAlways 0x62 { form := .b }) (fun s0 =>
    let s := s0.release .dev
    if s.relPending .dev then .wait s else .done s.syncCode) s)

end Sys2Proof.Machine
end

