-- ==== Sys2Proof/Machine/Barrier.lean ====
section
/-! DEFINITION. Execution barriers (R158 to R161) and data-arrival barriers (R162 to R164). -/

namespace Sys2Proof.Machine

/-! ## Execution barriers (R159) -/

/-- The level and number of a barrier instruction. -/
def barLevel (f : Fields) : Level := Level.ofCode f.mod3
def barNum (f : Fields) : Nat := f.w2.toNat

/-- The plan of a barrier instruction: the number lies below the level's count (R157). -/
def barPlan (op : BitVec 7) (f : Fields) : Plan :=
  { planAlways op f with more := fun _ => if barNum f < levelCount (barLevel f) then none else some ⟨6, f.w2⟩ }

/-- Some lanes of the running split stand in an unfinished round. -/
def State.standing (s : State) (lvl : Level) (n : Nat) : Bool := decide (s.cur.sp.lanes &&& s.cur.arr.get lvl n ≠ 0)

/-- The release at the scope of a level begins. -/
def State.releaseAt (s : State) (lvl : Level) : State := if lvl = .grp then s else s.release (levelScope lvl)

/-- arrive(b) may proceed: no lane stands in the round, and the release has completed. -/
def State.mayArrive (s : State) (lvl : Level) (n : Nat) : Bool :=
  !s.standing lvl n && (decide (lvl = .grp) || !s.relPending (levelScope lvl))

/-- arrive(b) after its waits. -/
def State.arrive (s : State) (lvl : Level) (n : Nat) : State :=
  let g := s.cur
  State.checkBar { s with cur := { g with arr := g.arr.set lvl n (g.arr.get lvl n ||| g.sp.lanes) } } lvl n

/-- waitbar(b) may complete. -/
def State.mayPass (s : State) (lvl : Level) (n : Nat) : Bool :=
  !s.standing lvl n && (decide (lvl = .grp) || !s.acqPending)

/-- A completed acquire of a scope: at `.gang` or wider the core's L1 copies go (R149). -/
def State.acquire (s : State) (sc : Scope) : State := if sc.wide then s.dropL1 (s.coreOf s.cur) else s

/-- The group's first completed wait of a round raises its round tag (R278). -/
def State.noteWait (s : State) (lvl : Level) (n : Nat) : State :=
  let key := (levelCode lvl, n)
  if s.cur.iss.due.contains key then
    { s with cur := { s.cur with iss := { s.cur.iss with due := s.cur.iss.due.filter (· ≠ key), roundTag := s.cur.iss.roundTag + 1 } } }
  else s

/-- waitbar(b) completes. -/
def State.passBar (s : State) (lvl : Level) (n : Nat) : State :=
  (if lvl = .grp then s else s.acquire (levelScope lvl)).noteWait lvl n

/-- BARWT, and the second half of BAR. -/
def barWait (lvl : Level) (n : Nat) (s : State) : Res :=
  if s.mayPass lvl n then .done (s.passBar lvl n) else .wait s

/-- BAR (R159). -/
def execBar (f : Fields) (s : State) : Host.Outcome State Fault Refusal :=
  .next (issue (.bar f) (barPlan 0x68 f) (fun s =>
    let lvl := barLevel f
    let n := barNum f
    if s.cur.sp.half then barWait lvl n s
    else
      let s1 := s.releaseAt lvl
      if s1.mayArrive lvl n then barWait lvl n ((s1.arrive lvl n).onSp fun e => { e with half := true }) else .wait s1) s)

/-- BARARV (R159). -/
def execBararv (f : Fields) (s : State) : Host.Outcome State Fault Refusal :=
  .next (issue (.bararv f) (barPlan 0x69 f) (fun s =>
    let s1 := s.releaseAt (barLevel f)
    if s1.mayArrive (barLevel f) (barNum f) then .done (s1.arrive (barLevel f) (barNum f)) else .wait s1) s)

/-- BARWT (R159). -/
def execBarwt (f : Fields) (s : State) : Host.Outcome State Fault Refusal :=
  .next (issue (.barwt f) (barPlan 0x6A f) (barWait (barLevel f) (barNum f)) s)

/-! ## Data-arrival barriers (R163, R164) -/

/-- The location of the object that the address pair names. -/
def tbLoc (f : Fields) (s : State) : Nat := (s.cur.regs.getPair f.a).toNat % 2 ^ 56

/-- k of R163. -/
def tbCount (f : Fields) (s : State) : Nat := if f.u then 1 else (laneList.filter (maskBit s.cur.exec)).length

/-- The checks of a TB instruction, then its effect; the split's earlier stores to the object come first (R142, R164). -/
def tbEffect (i : Instr) (f : Fields) (body : State → Nat → Res) (s : State) : Res :=
  let addr := s.cur.regs.getPair f.a
  if addr.toNat % 16 ≠ 0 then s.operandTrap i 1 (addr.extractLsb' 0 32)
  else match s.checkLanes s.cur 10 ((activeLanes f.u s.cur.exec).map fun l => (l, addr, 16)) with
  | some t => .trap s t
  | none =>
    let s1 := s.flushBytes s.cur.ref (.entry s.cur.running) (byteLocs (tbLoc f s) 16)
    if s1.cur.isRef s.cur.ref then body s1 (tbLoc f s) else .stay s1

/-- The object is initialised: no group of the gang has completed a wait of its rounds (R278). -/
def State.freshTb (s : State) (loc : Nat) : State :=
  let g := s.cur
  let l := s.lchOf g
  let clear := fun (h : Group) => if h.iss.tbSeen.any fun p => p.1 = loc then
    { h with iss := { h.iss with tbSeen := h.iss.tbSeen.filter fun p => p.1 ≠ loc } } else h
  s.mapGroups (fun h => l.inGang (l.gangOf g.block) g.run h.ref) clear

/-- TBINIT (R163). -/
def execTbinit (f : Fields) (s : State) : Host.Outcome State Fault Refusal :=
  let plan := { planOf 0x6B f with
    more := fun _ => if 1 ≤ f.w2.toNat ∧ f.w2.toNat ≤ 65535 then none else some ⟨6, f.w2⟩ }
  .next (issue (.tbinit f) plan (tbEffect (.tbinit f) f fun s loc =>
    .done ((s.tbWrite s.cur loc (TbObj.init f.w2) true).freshTb loc)) s)

/-- TBEXP (R163). -/
def execTbexp (f : Fields) (s : State) : Host.Outcome State Fault Refusal :=
  let plan := { planOf 0x6B f with more := fun _ => if f.w2.toNat < 2 ^ 31 then none else some ⟨6, f.w2⟩ }
  .next (issue (.tbexp f) plan (tbEffect (.tbexp f) f fun s loc =>
    .done (s.tbWrite s.cur loc ((s.tbRead s.cur loc).expect (raw32 f.w2)) false)) s)

/-- TBARV (R163). -/
def execTbarv (f : Fields) (s : State) : Host.Outcome State Fault Refusal :=
  .next (issue (.tbarv f) (planOf 0x6B f) (tbEffect (.tbarv f) f fun s0 loc =>
    let s := s0.release .gang
    let k := tbCount f s
    let o := s.tbRead s.cur loc
    if s.relPending .gang then .wait s
    else if o.pend.toNat < k then s.operandTrap (.tbarv f) 1 ((0 : BitVec 16) ++ o.pend)
    else .done ((s.tbWrite s.cur loc (o.arrive k) false).onRegs fun r => r.writeS f.d ((0 : BitVec 20) ++ o.phase))) s)

/-- The group's first completed wait of a data-arrival round raises its round tag (R278). -/
def State.noteTb (s : State) (loc : Nat) (phase : BitVec 12) : State :=
  if s.cur.iss.tbSeen.contains (loc, phase.toNat) then s
  else
    let i := s.cur.iss
    { s with cur := { s.cur with iss := { i with
        tbSeen := (loc, phase.toNat) :: i.tbSeen.filter (fun p => p.1 ≠ loc), roundTag := i.roundTag + 1 } } }

/-- TBWAIT (R163). -/
def execTbwait (f : Fields) (s : State) : Host.Outcome State Fault Refusal :=
  .next (issue (.tbwait f) (planOf 0x6B f) (tbEffect (.tbwait f) f fun s loc =>
    let o := s.tbRead s.cur loc
    if o.phase = (s.cur.regs.getS f.b).extractLsb' 0 12 || s.acqPending then .wait s
    else .done ((s.acquire .gang).noteTb loc o.phase)) s)

end Sys2Proof.Machine
end

