-- ==== Sys2Proof/Machine/Queue.lean ====
section
/-! DEFINITION. The queue processor: packets and their checks (R289 to R292), begin and completion (R290, R293), errors and
answers' stops (R288, R299, R300), passes (R291), and the accesses that packets make. -/

namespace Sys2Proof

open Machine

/-! ## Packet fields (R289, R294) -/

/-- Byte `i` of a packet. -/
def Packet.byte (p : Packet) (i : Nat) : Nat := (p.bytes.getD i 0).toNat

/-- The field of `n` bytes at offset `o` after the header. -/
def Packet.fld (p : Packet) (o n : Nat) : Nat := leNat ((p.bytes.drop (8 + o)).take n)

/-- OPCODE, BAR, SIZE and SEQ of the header. -/
def Packet.opcode (p : Packet) : Nat := p.byte 0
def Packet.bar (p : Packet) : Bool := (p.byte 1) % 2 = 1
def Packet.units (p : Packet) : Nat := leNat ((p.bytes.drop 2).take 2)
def Packet.hseq (p : Packet) : Word := BitVec.ofNat 32 (leNat ((p.bytes.drop 4).take 4))

/-- Every byte after the header that no range (offset, size) names is zero. -/
def Packet.zeroBut (p : Packet) (named : List (Nat × Nat)) : Bool :=
  (List.range (p.bytes.length - 8)).all fun i => named.any (fun r => r.1 ≤ i && i < r.1 + r.2) || p.byte (8 + i) = 0

/-- The SIZE of an opcode; none for an undefined one. -/
def opcodeUnits (op : Nat) : Option Nat := if op ≤ 7 then some 1 else if op = 8 then some 2 else none

/-- An address is a multiple of 64 KiB. -/
def pageAligned (a : Nat) : Bool := a % 65536 = 0

/-- The arguments of a CONFIG packet lie in the limits of R294 and R349. -/
def Packet.configOk (p : Packet) : Bool :=
  let sub := p.fld 0 8
  let op := p.fld 8 1
  match sub with
  | 0 => p.zeroBut [(0, 8), (8, 8), (16, 2), (18, 1), (19, 1), (20, 2), (22, 2), (24, 4)] && pageAligned (p.fld 8 8) &&
      p.fld 16 2 < 2048 && 12 ≤ p.fld 18 1 && p.fld 18 1 ≤ 24 && (p.fld 22 2 < 2048 || p.fld 22 2 = 0xFFFF) && p.fld 24 4 < 8
  | 1 => p.zeroBut [(0, 8), (8, 1), (10, 2)]
  | 2 => p.zeroBut [(0, 8), (8, 2), (10, 1), (11, 1), (16, 8), (24, 8)] && p.fld 10 1 < 64 && p.fld 11 1 < 2 &&
      p.fld 16 8 % 65536 = 0 && p.fld 24 8 % 65536 = 0
  | 3 => p.zeroBut [(0, 8), (8, 2), (10, 1), (11, 1), (12, 4), (16, 8), (24, 4), (28, 2)] && p.fld 10 1 < 16 &&
      pageAligned (p.fld 16 8) && (p.fld 10 1 / 8 = 0 || (p.fld 28 2 < 512 && p.fld 24 4 < 2 ^ 25))
  | 4 => p.zeroBut [(0, 8), (8, 2), (10, 1), (12, 4), (16, 8)] && p.fld 10 1 < 2
  | 5 => if op = 0 then p.zeroBut [(0, 8), (8, 1), (12, 4), (16, 4)] else op = 1 && p.zeroBut [(0, 8), (8, 1), (12, 4), (24, 8)]
  | 6 => p.zeroBut [(0, 8), (8, 2), (16, 8), (24, 8)]
  | 7 => if op = 0 then p.zeroBut [(0, 8), (8, 1), (9, 1)]
         else if op = 1 then p.zeroBut [(0, 8), (8, 1), (10, 1)] && 16 ≤ p.fld 10 1 && p.fld 10 1 ≤ 24
         else op = 2 && 1 ≤ p.fld 11 1 && p.fld 11 1 ≤ 20 && p.zeroBut [(0, 8), (8, 1), (11, 1), (16, 2 * p.fld 11 1)]
  | 8 => p.zeroBut [(0, 8), (8, 2), (10, 1)] && p.fld 10 1 ≤ 2
  | 9 => if op = 0 then p.zeroBut [(0, 8), (8, 1), (10, 2), (12, 2), (16, 16)] && p.fld 10 2 < 16
         else if op = 1 then p.zeroBut [(0, 8), (8, 1), (10, 2), (12, 2), (14, 1), (16, 8), (24, 8), (32, 8)] &&
           p.fld 10 2 < 4096 && p.fld 14 1 < 4
         else op = 2 && p.zeroBut [(0, 8), (8, 1), (12, 4)] && 1 ≤ p.fld 12 4 && p.fld 12 4 ≤ 10000
  | _ => false

/-- The fields of a packet lie in their limits and its reserved bytes are zero (R294, R322); the addresses of a COPY are multiples of 4,
as those of `CPASYNC` (R151, log 26). -/
def Packet.fieldsOk (p : Packet) : Bool :=
  match p.opcode with
  | 0 => p.zeroBut []
  | 1 => p.zeroBut [(0, 8)] && p.fld 0 8 % 8 = 0
  | 2 => p.zeroBut [(0, 8), (8, 8), (16, 8), (24, 8)] && p.fld 0 8 % 8 = 0 && p.fld 16 8 ≤ 1
  | 3 => p.zeroBut [(0, 8), (8, 8), (16, 8)] && p.fld 16 4 ≤ 3
  | 4 => p.zeroBut [(0, 8), (8, 8), (16, 8), (24, 8)] && p.fld 0 8 % 64 = 0 && p.fld 8 8 % 64 = 0
  | 5 => p.zeroBut [(0, 8), (8, 8), (16, 8), (24, 8)] && p.fld 0 8 % 4 = 0 && p.fld 8 8 % 4 = 0 && 4 ≤ p.fld 16 8 && p.fld 16 8 ≤ 2 ^ 32 && p.fld 16 8 % 4 = 0
  | 6 => p.zeroBut [(0, 8), (8, 8), (16, 8), (24, 8), (32, 16)] && (List.range 16).all fun i => p.fld (32 + i) 1 < 32
  | 7 => p.configOk
  | _ => p.zeroBut [(0, 8), (8, 8), (16, 8), (24, 8), (32, 16), (48, 2), (56, 8), (64, 8)] && p.fld 0 8 ≤ 1 && p.fld 8 8 % 4 = 0 &&
      4 ≤ p.fld 16 8 && p.fld 16 8 ≤ 2 ^ 32 && p.fld 16 8 % 4 = 0

/-- RESP of a packet; 0 for one without the field. -/
def Packet.resp (p : Packet) : DWord :=
  if p.opcode = 2 ∨ p.opcode = 4 ∨ p.opcode = 5 ∨ p.opcode = 6 ∨ p.opcode = 8 then BitVec.ofNat 64 (p.fld 24 8) else 0

/-- The copy of a COPY packet: with overlapping ranges its pieces go from the end of which the source is read before the copy reaches
it, so that a later piece finds what the copy wrote (R151, log 26). -/
def Packet.copyOf (p : Packet) : PkCopy :=
  let src := p.fld 0 8 % 2 ^ 56
  let dst := p.fld 8 8 % 2 ^ 56
  let n := p.fld 16 8
  { src := src, dst := dst, count := n, down := decide (dst < src) && decide (src < dst + n) }

end Sys2Proof

namespace Sys2Proof.Machine

/-- SIZE lies within the limits of R289. -/
def QDesc.sizeOk (d : QDesc) (n : Nat) : Bool := 1 ≤ n && n ≤ 1024 && n * 64 ≤ d.ringBytes

/-- What is malformed in a packet, in the order of R292: the code of R300. -/
def State.malformed (s : State) (q : Nat) (p : Packet) : Option Nat :=
  let x := s.queueOf q
  match opcodeUnits p.opcode with
  | none => some 1
  | some n =>
    if !x.desc.sizeOk p.units || p.units ≠ n then some 2
    else if !x.desc.devlaunch && p.hseq ≠ x.expect then some 3
    else if p.byte 1 / 2 ≠ 0 || !p.fieldsOk then some 4
    else if p.opcode = 7 && q ≠ 0 then some 1
    else if (p.opcode = 8 || (p.opcode = 7 && p.fld 0 8 = 9)) && !Config.hasScout s.part then some 13
    else none

/-! ## Accesses of a packet by virtual address -/

/-- Writes bytes sector by sector: the requests sent to peers, and the code of the first refusal (R300). -/
def State.qpPut (s : State) (q : Nat) (id : Nat) (va : Nat) (bytes : List Byte) : State × List Nat × Option Nat :=
  let asid := (s.queueOf q).desc.asid
  (sectorsOf va bytes.length).foldl (fun r x => match r.2.2 with
    | some _ => r
    | none =>
      let lo := max va (x * 32)
      let hi := min (va + bytes.length) (x * 32 + 32)
      match r.1.qpWrite (.packet q id) q asid lo ((bytes.drop (lo - va)).take (hi - lo)) with
      | .ok (s1, some id) => (s1, r.2.1 ++ [id], none)
      | .ok (s1, none) => (s1, r.2.1, none)
      | .error c => (r.1, r.2.1, some c)) (s, [], none)

/-- What a read for the packet at the head gives. -/
inductive QRead where
  | ready (bytes : List Byte)
  | wait (s : State)
  | bad (code : Nat)

/-- What the reads of several ranges give. -/
inductive QReads where
  | ready (bytes : List (List Byte))
  | wait (s : State)
  | bad (code : Nat)

/-- Reads `n` bytes for the packet at the head of a queue: local sectors as they stand, others from their peers. A marked
sector ends the packet (R239). -/
def State.qpFetch (s : State) (q : Nat) (va n : Nat) : QRead :=
  let x := s.queueOf q
  let secs := (sectorsOf va n).map fun k => (k, s.vaddr x.desc.asid (k * 32) false)
  let bad := secs.findSome? fun p => match p.2 with
    | .bad c => some c
    | .ok pa _ _ => if s.marked (pa / 32) then some 10 else none
    | .remote _ _ => none
  match (if x.failed.isSome then x.failed else bad) with
  | some c => .bad c
  | none =>
    let far := secs.filterMap fun p => match p.2 with
      | .remote e off => if (byteAt x.got (p.1 * 32)).isSome then none else some (p.1, e, off)
      | _ => none
    if far.isEmpty then
      .ready ((List.range n).map fun i =>
        let a := va + i
        match s.vaddr x.desc.asid (a / 32 * 32) false with
        | .ok pa _ _ => s.mem.bytes.read (pa + a % 32)
        | _ => (byteAt x.got a).getD 0)
    else
      let ask := far.filter fun p => !x.asked.contains p.1
      let s1 := ask.foldl (fun (s : State) p => (s.sendReq
        { id := 0, owner := .fetch q p.1, asid := x.desc.asid, queue := q, peer := p.2.1.peer, pframe := p.2.1.pframe
          off := p.2.2, va := BitVec.ofNat 64 (p.1 * 32), acc := 0 }).2) s
      .wait (s1.onQueue q fun y => { y with asked := y.asked ++ ask.map (·.1) })

/-- Reads several ranges for the packet at the head; what lies at peers is asked for at once. -/
def State.qpFetchAll (s : State) (q : Nat) (l : List (Nat × Nat)) : QReads :=
  l.foldl (fun r p => match r with
    | .bad c => .bad c
    | .wait s1 => match s1.qpFetch q p.1 p.2 with
      | .ready _ => .wait s1
      | .wait s2 => .wait s2
      | .bad c => .bad c
    | .ready bs => match s.qpFetch q p.1 p.2 with
      | .ready b => .ready (bs ++ [b])
      | .wait s2 => .wait s2
      | .bad c => .bad c) (.ready [])

/-- Forgets what peers answered: the next test of a SIGNAL_WAIT asks again. -/
def Queue.forget (x : Queue) : Queue := { x with got := [], asked := [], failed := none }

/-! ## Records of a queue (R299, R300) -/

/-- The header fields of a KIND 1 record. -/
def State.packetRec (s : State) (q : Nat) (seq : Word) (pos code : Nat) : Rec :=
  let d := (s.queueOf q).desc
  { kind := 1, code := code, queue := q, tenant := d.tenant, seq := seq, asid := d.asid, pc := pos }

/-- A KIND 1 record that awaits no answer. -/
def State.packetError (s : State) (q : Nat) (seq : Word) (pos code : Nat) : State :=
  (s.emit (s.packetRec q seq pos code)).syncHeader q (some code)

/-- The queue stops with a KIND 1 record that awaits an answer; SKIP passes over `skip` bytes (R301). -/
def State.stopQueue (s : State) (q : Nat) (seq : Word) (pos code skip : Nat) : State :=
  let s1 := s.onQueue q fun x => { x with stopped := true, skip := skip }
  ((s1.emitAwait { s.packetRec q seq pos code with flags := 2 } none 0 0).2).syncHeader q (some code)

/-! ## Completion (R290, R293) -/

/-- DONESEQ advances over packets completed in unbroken order. -/
def Queue.advanceDone : Nat → Queue → Queue
  | 0, x => x
  | n + 1, x =>
    let k := x.doneSeq + 1
    if x.doneSet.contains k then Queue.advanceDone n { x with doneSeq := k, doneSet := x.doneSet.filter (· ≠ k) } else x

/-- A sequence number has completed. -/
def Queue.noteDone (x : Queue) (seq : Word) : Queue :=
  Queue.advanceDone (x.doneSet.length + 1) { x with doneSet := seq :: x.doneSet.filter (· ≠ seq) }

/-- The response word (R293). -/
def respWord (seq : Word) (status detail : Nat) : Nat := seq.toNat * 2 ^ 32 + status * 2 ^ 24 + detail % 256

/-- Writes a packet's response word, when it has a RESP. A RESP that cannot be written has a record of its own. -/
def State.respond (s : State) (q : Nat) (seq : Word) (pos : Nat) (resp : DWord) (status detail : Nat) : State :=
  if resp = 0 then s
  else match s.qpPut q (s.queueOf q).begun (resp.toNat % 2 ^ 56) (leBytes 8 (respWord seq status detail)) with
    | (s1, _, none) => s1
    | (s1, _, some c) => s1.packetError q seq pos c

/-- A packet completes. -/
def State.completePacket (s : State) (q : Nat) (r : Running) : State :=
  let s1 := s.onQueue q fun x => { x with running := x.running.filter (·.id ≠ r.id) }
  let s2 := s1.respond q r.seq r.pos r.resp r.status r.detail
  if r.stale then s2 else (s2.onQueue q fun x => x.noteDone r.seq).syncHeader q

/-- A packet ends with a KIND 1 record and STATUS 3 (R294, R300). -/
def State.failRunning (s : State) (q : Nat) (r : Running) (code : Nat) : State :=
  (s.packetError q r.seq r.pos code).completePacket q { r with status := 3 }

/-! ## Begin (R290) -/

/-- The part has come up with its recovery image and runs no queue and no launch (R341). -/
def State.inRecovery (s : State) : Bool := s.power.recovery.isSome

/-- A record of the queue waits for its exception queue: the source queue stays stopped meanwhile (R288, R299). -/
def State.recordWaits (s : State) (q : Nat) : Bool := s.waitingRecs.any (·.src = q)

/-- The packet stands at the head of its queue, which runs, and may begin: with BAR only after every earlier packet. -/
def State.mayBegin (s : State) (q : Nat) (p : Packet) : Bool :=
  let x := s.queueOf q
  decide (x.held = some p) && x.desc.enabled && !x.stopped && !s.inRecovery && !s.recordWaits q && (!p.bar || (x.running.all (·.stale)))

/-- The packet leaves the head and runs. -/
def State.beginPacket (s : State) (q : Nat) (p : Packet) : State × Running :=
  let r : Running := { seq := p.seq, resp := p.resp, opcode := p.opcode, pos := p.pos, id := (s.queueOf q).begun }
  (s.onQueue q fun x => { x.forget with held := none, running := x.running ++ [r], begun := x.begun + 1 }, r)

/-- The effect of a packet at the head of its queue; anything else is left as it stands. -/
def packetEvent (q : Nat) (p : Packet) (body : State → State) (s : State) : State := if s.mayBegin q p then body s else s

/-- A packet that ends where it begins, with a KIND 1 record. -/
def State.failPacket (s : State) (q : Nat) (p : Packet) (code : Nat) : State :=
  let (s1, r) := s.beginPacket q p
  s1.failRunning q r code

/-- Changes a running packet. -/
def State.onRunning (s : State) (q : Nat) (id : Nat) (f : Running → Running) : State :=
  s.onQueue q fun x => { x with running := replaceFirst (·.id = id) f x.running }

/-- A running packet. -/
def State.running? (s : State) (q : Nat) (id : Nat) : Option Running := (s.queueOf q).running.find? (·.id = id)

/-- A packet begins, performs its writes, and completes once they are acknowledged (PACKET_COMPLETION). -/
def State.runWrites (s : State) (q : Nat) (p : Packet) (va : Nat) (bytes : List Byte) : State :=
  let (s1, r) := s.beginPacket q p
  match s1.qpPut q r.id va bytes with
  | (s2, ids, none) => s2.onRunning q r.id fun x => { x with waits := ids }
  | (s2, _, some c) => s2.failRunning q r c

/-- A packet whose effect ends with the begin. -/
def State.runNow (s : State) (q : Nat) (p : Packet) (effect : State → Except Nat State) : State :=
  let (s1, r) := s.beginPacket q p
  match effect s1 with
  | .ok s2 => s2.completePacket q r
  | .error c => s1.failRunning q r c

/-! ## Passes (R291) -/

/-- The event that a packet is. -/
def packetInstr (q : Nat) (p : Packet) : Instr :=
  match p.opcode with
  | 0 => .pktNop q p
  | 1 => .timestamp q p
  | 2 => .signalWrite q p
  | 3 => .signalWait q p
  | 4 => .launchImage q p
  | 5 => .copy q p
  | 6 => .bind q p
  | 7 =>
    match p.fld 0 8 with
    | 0 => .configQueue q p
    | 1 => .configTenant q p
    | 2 => .configAsid q p
    | 3 => .configMap q p
    | 4 => .configUnmap q p
    | 5 => if p.fld 8 1 = 0 then .configPoolGive q p else .configPoolTake q p
    | 6 => .configEvict q p
    | 7 => if p.fld 8 1 = 0 then .configRetireRequest q p else if p.fld 8 1 = 1 then .configRetireInterval q p else .configRetireDrop q p
    | 8 => if p.fld 10 1 = 0 then .configPortReinstate q p else if p.fld 10 1 = 1 then .configPortDisable q p else .configPortEnable q p
    | _ => if p.fld 8 1 = 0 then .configScoutLocal q p else if p.fld 8 1 = 1 then .configScoutKey q p else .configScoutTimeout q p
  | _ => .scout q p

/-- The class of a packet in the order of service: 2 SIGNAL_WAIT to 8 NOP. -/
def packetClass (p : Packet) : Nat :=
  match p.opcode with
  | 0 => 8 | 1 => 7 | 2 => 3 | 3 => 2 | 4 => 4 | 5 => 5 | 6 => 6 | 7 => 6 | _ => 5

/-- A WIDX value is legal (R288). -/
def Queue.widxOk (x : Queue) (w : Nat) : Bool := x.ridx ≤ w && w ≤ x.ridx + x.desc.ringBytes && w % 64 = 0

/-- Unit `i` of the ring stream. -/
def State.ringUnit (s : State) (d : QDesc) (pos : Nat) : Except Nat (List Byte) := s.vread d.asid (d.ringAddr pos) 64

/-- The bytes of `n` units of the ring. -/
def State.ringUnits (s : State) (d : QDesc) (pos : Nat) : Nat → Except Nat (List Byte)
  | 0 => .ok []
  | n + 1 => match s.ringUnit d pos, s.ringUnits d (pos + 64) n with
    | .ok a, .ok b => .ok (a ++ b)
    | .error c, _ => .error c
    | _, .error c => .error c

/-- The ring offset of a stream position. -/
def QDesc.offset (d : QDesc) (pos : Nat) : Nat := pos % d.ringBytes

/-- Parses the packet at RIDX, of which `w` is WIDX: a well-formed one becomes the head, a malformed one stops the queue. -/
def State.parse (s : State) (q w : Nat) : State :=
  let x := s.queueOf q
  let pos := x.desc.offset x.ridx
  let fault := fun c => s.stopQueue q x.expect pos c 0
  match s.ringUnit x.desc x.ridx with
  | .error c => fault c
  | .ok head =>
    let n := leNat ((head.drop 2).take 2)
    let good := x.desc.sizeOk n && opcodeUnits (head.getD 0 0).toNat = some n
    if good && w < x.ridx + 64 * n then s
    else match (if good then s.ringUnits x.desc x.ridx n else .ok head) with
      | .error c => fault c
      | .ok bytes =>
        let p : Packet := { bytes := bytes, pos := pos, seq := x.expect }
        match s.malformed q p with
        | some code => s.stopQueue q x.expect pos code (if x.desc.sizeOk n then 64 * n else 64)
        | none => (s.onQueue q fun y => { y with
            held := some p, heldSince := s.cycle.toNat, ridx := y.ridx + 64 * n, expect := y.expect + 1 }).syncHeader q

/-- ANSWER and TICKET in a queue's header. -/
def State.answerOf (s : State) (q : Nat) : Nat × Word :=
  match s.headWord (s.queueOf q).desc 4 with
  | .ok w => (w % 4, BitVec.ofNat 32 (w / 2 ^ 32))
  | .error _ => (0, 0)

/-- The event of an answer. -/
def answerInstr (q : Nat) (a : Nat × Word) : Option Instr :=
  match a.1 with
  | 1 => some (.answerResume q a.2)
  | 2 => some (.answerSkip q a.2)
  | 3 => some (.answerAbort q a.2)
  | _ => none

/-- The WIDX of a queue that runs is illegal: the queue stops with IDXERR (R288). -/
def State.checkWidx (s : State) (q : Nat) : State :=
  let x := s.queueOf q
  if !x.desc.enabled || x.desc.exc || x.stopped then s
  else match s.headWord x.desc 0 with
    | .error _ => s
    | .ok w => if x.widxOk w then s else s.stopQueue q x.expect (x.desc.offset x.ridx) 14 0

/-- The queue processor sees every write to a WIDX word (R288). -/
def State.snoop (s : State) : State := (s.queues.map (·.num)).foldl (fun s q => s.checkWidx q) s

/-- One lane of a pass: a queue that is enabled and runs has its WIDX read, and when it holds no packet parses the one at RIDX; one
whose last record still waits goes no further (R288, R299). -/
def State.passQueue (s : State) (q : Nat) : State :=
  let x := s.queueOf q
  if !x.desc.enabled || x.desc.exc || x.stopped then s
  else match s.headWord x.desc 0 with
    | .error c => s.stopQueue q x.expect (x.desc.offset x.ridx) c 0
    | .ok w =>
      if !x.widxOk w then s.stopQueue q x.expect (x.desc.offset x.ridx) 14 0
      else if w = x.ridx || x.held.isSome || s.recordWaits q then s
      else s.parse q w

/-- The answers that stand in the headers of queues. -/
def State.answers (s : State) (qs : List Nat) : List Instr :=
  qs.filterMap fun q => if (s.queueOf q).desc.enabled then answerInstr q (s.answerOf q) else none

/-- The heads of a class that a pass serves, in lane order. -/
def State.served (s : State) (qs : List Nat) (c : Nat) : List Instr :=
  qs.filterMap fun q =>
    let x := s.queueOf q
    match x.held with
    | some p => if x.desc.enabled && !x.stopped && decide (packetClass p = c) then some (packetInstr q p) else none
    | none => none

/-- The lanes of a pass serve class `c` and then the classes after it. A lane that held a packet as the pass began parses the next one
once that has left the head (R291, R301). -/
def State.serveClass (s : State) (qs late : List Nat) (c : Nat) : State :=
  let gone := late.filter fun q => (s.queueOf q).held.isNone
  let s1 := gone.foldl (fun s q => s.passQueue q) s
  s1.pushAgenda ((s1.served qs c).map .event ++
    if c < 8 then [.serve qs (late.filter fun q => (s.queueOf q).held.isSome) (c + 1)] else [])

/-- QP_PASS (R291): lane L serves queue 32p + L. The answers are acted on, and the packets served class by class. A part in recovery runs
no queue processor (R341). -/
def execQpPass (pass : Nat) (s : State) : Host.Outcome State Fault Refusal :=
  .next <|
    if 64 ≤ pass || s.inRecovery then s
    else
      let qs := ((List.range 32).map (32 * pass + ·)).filter fun q => (s.queue? q).isSome
      let s1 := qs.foldl (fun s q => s.passQueue q) s.retryRecords
      s1.pushAgenda ((s1.answers qs).map .event ++ [.serve qs (qs.filter fun q => (s.queueOf q).held.isSome) 2])

/-- WIDX_WRITE (R288): a producer writes WIDX and the queue processor snoops it. -/
def execWidxWrite (q : Nat) (widx : DWord) (s : State) : Host.Outcome State Fault Refusal :=
  .next <|
    let x := s.queueOf q
    if !x.desc.enabled || x.desc.exc then s
    else
      let s1 := s.setHeadWord x.desc 0 widx.toNat
      if x.stopped || x.widxOk widx.toNat then s1 else s1.stopQueue q x.expect (x.desc.offset x.ridx) 14 0

/-! ## Answers (R301) -/

/-- The answer has been acted on: ANSWER is cleared, TICKET stays. -/
def State.clearAnswer (s : State) (q : Nat) : State :=
  match s.headWord (s.queueOf q).desc 4 with
  | .ok w => s.setHeadWord (s.queueOf q).desc 4 (w / 4 * 4)
  | .error _ => s

/-- The record that a ticket answers. -/
def State.awaiting (s : State) (q : Nat) (ticket : Word) : Option Awaited :=
  s.awaited.find? fun a => a.ticket = ticket ∧ a.queue = q

/-- The record awaits no longer. -/
def State.answered (s : State) (ticket : Word) : State := { s with awaited := s.awaited.filter (·.ticket ≠ ticket) }

/-- Another record that stops the queue awaits its answer: of KIND 1, or of KIND 6. -/
def State.stillStopped (s : State) (q : Nat) : Bool := s.awaited.any fun a => decide (a.queue = q) && (decide (a.kind = 1) || decide (a.kind = 6))

/-- The queue runs on, unless another record holds it. -/
def State.runOn (s : State) (q : Nat) : State := (s.onQueue q fun x => { x with stopped := s.stillStopped q }).syncHeader q

/-- SKIP of a KIND 1 record: the packet completes with STATUS 1, under the SEQ expected for it (R301). -/
def State.skipPacket (s : State) (q : Nat) : State :=
  let x := s.queueOf q
  if x.skip = 0 then s.runOn q
  else
    let p : Packet := match s.ringUnit x.desc x.ridx with
      | .ok b => { bytes := b, pos := x.desc.offset x.ridx, seq := x.expect }
      | .error _ => { bytes := [], pos := x.desc.offset x.ridx, seq := x.expect }
    let s1 := s.onQueue q fun y => { y with ridx := y.ridx + x.skip, expect := y.expect + 1, stopped := s.stillStopped q, skip := 0 }
    let s2 := s1.respond q x.expect p.pos p.resp 1 0
    (s2.onQueue q fun y => y.noteDone x.expect).syncHeader q

/-- The unbegun packets of a queue complete with STATUS 2: the head, then the ring up to WIDX. -/
def State.abortRing (s : State) (q w : Nat) : Nat → State
  | 0 => s
  | n + 1 =>
    let x := s.queueOf q
    if w < x.ridx + 64 then s
    else match s.ringUnit x.desc x.ridx with
      | .error _ => s
      | .ok b =>
        let p : Packet := { bytes := b, pos := x.desc.offset x.ridx, seq := x.expect }
        let size := if x.desc.sizeOk p.units then p.units else 1
        let s1 := s.onQueue q fun y => { y with ridx := y.ridx + 64 * size, expect := y.expect + 1 }
        let s2 := s1.respond q p.seq p.pos p.resp 2 0
        (s2.onQueue q fun y => y.noteDone p.seq).abortRing q w n

/-- The queue is disabled: its launches end with KIND 7 records of CODE ABORTED, its unbegun packets with STATUS 2 (R301). -/
def State.disableQueue (s : State) (q : Nat) : State :=
  let ids := (s.launches.filter fun l => decide (l.queue = q) && !l.aborted).map (·.id)
  let s1 := ids.foldl (fun s i => s.endLaunch i 0x0106 {} false) s
  let x := s1.queueOf q
  let s2 := match x.held with
    | some p => ((s1.onQueue q fun y => { y.forget with held := none }).respond q p.seq p.pos p.resp 2 0).onQueue q fun y => y.noteDone p.seq
    | none => s1
  let s3 := match s2.headWord x.desc 0 with
    | .ok w => if x.widxOk w then s2.abortRing q w (x.desc.ringBytes / 64) else s2
    | .error _ => s2
  ((s3.onQueue q fun y => { y with desc := { y.desc with enabled := false }, stopped := false }).syncHeader q)

/-- The parked group goes on, and its faulting instruction executes again (R230). -/
def State.unpark (s : State) (r : GRef) : State :=
  match s.group? r with
  | none => s
  | some g =>
    match g.sup with
    | some sv => s.onGroup r fun g =>
        { g.setEntry sv.split { g.entry sv.split with pc := alignPc sv.fault.pc } with sup := none, parked := none }
    | none => s.onGroup r fun g => { g with parked := none }

/-- The gang of a KIND 3 record is killed with CODE ABORTED, at the instruction that raised the fault (R230, R336). -/
def State.abortGang (s : State) (a : Awaited) : State :=
  match a.group with
  | none => s
  | some r => s.killGang a.launch a.gang r.run { code := 0x0106, source := 0, block := some r.block, split := a.split, pc := a.pc }

/-- Acts on an answer that stands in the header (R301). -/
def actOn (code : Nat) (q : Nat) (ticket : Word) (f : Awaited → State → State) (s : State) : State :=
  if s.answerOf q ≠ (code, ticket) then s
  else match s.awaiting q ticket with
    | none => s.clearAnswer q
    | some a => (f a (s.answered ticket)).clearAnswer q

/-- ANSWER_RESUME (R301). -/
def execAnswerResume (q : Nat) (ticket : Word) (s : State) : Host.Outcome State Fault Refusal :=
  .next (actOn 1 q ticket (fun a s => match a.kind, a.group with
    | 3, some r => s.unpark r
    | _, _ => s.runOn q) s)

/-- ANSWER_SKIP (R301). -/
def execAnswerSkip (q : Nat) (ticket : Word) (s : State) : Host.Outcome State Fault Refusal :=
  .next (actOn 2 q ticket (fun a s =>
    if a.kind = 3 then s.abortGang a else if a.kind = 6 then s.runOn q else s.skipPacket q) s)

/-- ANSWER_ABORT (R301). -/
def execAnswerAbort (q : Nat) (ticket : Word) (s : State) : Host.Outcome State Fault Refusal :=
  .next (actOn 3 q ticket (fun a s => if a.kind = 3 then s.abortGang a else s.disableQueue q) s)

/-! ## Signals and time (R294) -/

/-- NOP. -/
def execPktNop (q : Nat) (p : Packet) (s : State) : Host.Outcome State Fault Refusal :=
  .next (packetEvent q p (fun s => s.runNow q p .ok) s)

/-- TIMESTAMP. -/
def execTimestamp (q : Nat) (p : Packet) (s : State) : Host.Outcome State Fault Refusal :=
  .next (packetEvent q p (fun s => s.runWrites q p (p.fld 0 8 % 2 ^ 56) (leBytes 8 s.cycle.toNat)) s)

/-- A reduction of 8 bytes by the queue processor: n64 add. -/
def signalAdd (q : Nat) (p : Packet) (s : State) : State :=
  let (s1, r) := s.beginPacket q p
  let asid := (s.queueOf q).desc.asid
  let va := p.fld 0 8 % 2 ^ 56
  match s1.vaddr asid va true with
  | .bad c => s1.failRunning q r c
  | .remote e off =>
    let (id, s2) := s1.sendReq { id := 0, owner := .packet q r.id, asid := asid, queue := q, peer := e.peer, pframe := e.pframe
                                 off := off / 32 * 32, va := BitVec.ofNat 64 va, acc := 3, size := 8
                                 data := ((List.range 8).map (off % 32 + ·)).zip (leBytes 8 (p.fld 8 8))
                                 args := [(0, off % 32, BitVec.ofNat 64 (p.fld 8 8), 0)], op := 0, typ := 7 }
    s2.onRunning q r.id fun x => { x with waits := [id] }
  | .ok pa _ _ =>
    if s1.marked (pa / 32) then s1.failRunning q r 10
    else
      let old := leNat (s1.mem.bytes.readN pa 8)
      match s1.vwrite asid va (leBytes 8 ((old + p.fld 8 8) % 2 ^ 64)) with
      | .ok s2 => s2
      | .error c => s1.failRunning q r c

/-- SIGNAL_WRITE. -/
def execSignalWrite (q : Nat) (p : Packet) (s : State) : Host.Outcome State Fault Refusal :=
  .next (packetEvent q p (fun s =>
    if p.fld 16 8 = 0 then s.runWrites q p (p.fld 0 8 % 2 ^ 56) (leBytes 8 (p.fld 8 8)) else signalAdd q p s) s)

/-- COND of a SIGNAL_WAIT on the word that it reads. -/
def signalCond (cond value word : Nat) : Bool :=
  match cond with
  | 0 => word = value | 1 => word ≠ value | 2 => value ≤ word | _ => word < value

/-- SIGNAL_WAIT: held at the head until its condition holds. -/
def execSignalWait (q : Nat) (p : Packet) (s : State) : Host.Outcome State Fault Refusal :=
  .next (packetEvent q p (fun s =>
    match s.qpFetch q (p.fld 0 8 % 2 ^ 56) 8 with
    | .bad c => s.failPacket q p c
    | .wait s1 => s1
    | .ready bytes =>
      if signalCond (p.fld 16 4) (p.fld 8 8) (leNat bytes) then s.runNow q p .ok
      else s.onQueue q Queue.forget) s)

/-- SIGNAL_WAIT_TIMEOUT: TIMEOUT µs have passed first. -/
def execSignalWaitTimeout (q : Nat) (p : Packet) (s : State) : Host.Outcome State Fault Refusal :=
  .next (packetEvent q p (fun s =>
    let limit := p.fld 20 4 * 940
    if p.opcode = 3 ∧ limit ≠ 0 ∧ (s.queueOf q).heldSince + limit ≤ s.cycle.toNat then s.failPacket q p 12 else s) s)

/-! ## COPY and the progress of packets -/

/-- COPY (R294): its pieces follow, as packet progress (PACKET_COMPLETION). -/
def execCopy (q : Nat) (p : Packet) (s : State) : Host.Outcome State Fault Refusal :=
  .next (packetEvent q p (fun s =>
    let (s1, r) := s.beginPacket q p
    s1.onRunning q r.id fun x => { x with copy := some p.copyOf }) s)

/-- The next piece of a copy, one sector of the destination at most: its offset and its bytes. -/
def PkCopy.next (c : PkCopy) : Nat × Nat :=
  let left := c.count - c.off
  if c.down then
    let n := min ((c.dst + left - 1) % 32 + 1) left
    (left - n, n)
  else (c.off, min (32 - (c.dst + c.off) % 32) left)

/-- The copy's ranges overlap. -/
def PkCopy.overlaps (c : PkCopy) : Bool := decide (c.dst < c.src + c.count) && decide (c.src < c.dst + c.count)

/-- The source of one piece. -/
inductive PkSrc where
  | bytes (b : List Byte) (mark : Bool) (s : State)
  | wait (s : State)
  | bad (code : Nat)

/-- Reads `n` source bytes of a copy at an offset. Where the ranges overlap, a byte that the copy has overwritten may still be the one
from before, with the mark from before, a free choice of its own (R151, R328). -/
def State.copySource (s : State) (q : Nat) (id : Nat) (c : PkCopy) (off n : Nat) : PkSrc :=
  match c.evict with
  | some (asid, va) =>
    match s.vaddr asid (va + off) false with
    | .ok pa _ _ => .bytes (s.mem.bytes.readN pa n) ((sectorsOf pa n).any s.marked) s
    | .remote _ _ => .bad 9
    | .bad x => .bad x
  | none =>
    let asid := (s.queueOf q).desc.asid
    let a := c.src + off
    let secs := (sectorsOf a n).map fun k => (k, s.vaddr asid (k * 32) false)
    match secs.findSome? (fun p => match p.2 with | .bad x => some x | _ => none) with
    | some x => .bad x
    | none =>
      let far := secs.filterMap fun p => match p.2 with
        | .remote e off => if (byteAt c.got (p.1 * 32)).isSome then none else some (p.1, e, off)
        | _ => none
      if far.isEmpty then
        let now := fun (i : Nat) => match s.vaddr asid ((a + i) / 32 * 32) false with
          | .ok pa _ _ => s.mem.bytes.read (pa + (a + i) % 32)
          | _ => (byteAt c.got (a + i)).getD 0
        let old := fun (i : Nat) => if Config.freeBool (s.fresh + i) then byteAt c.orig (a + i) else none
        let markNow := fun (i : Nat) => match s.vaddr asid ((a + i) / 32 * 32) false with
          | .ok pa _ _ => s.marked (pa / 32)
          | _ => false
        .bytes ((List.range n).map fun i => (old i).getD (now i))
          ((List.range n).any fun i => if (old i).isSome then c.origMarks.contains (a + i) else markNow i)
          (if c.orig.isEmpty then s else { s with fresh := s.fresh + n })
      else
        let ask := far.filter fun p => !c.asked.contains p.1
        .wait (ask.foldl (fun (s : State) p =>
          let (i, s1) := s.sendReq { id := 0, owner := .packetRead q id p.1, asid := asid, queue := q, peer := p.2.1.peer
                                     pframe := p.2.1.pframe, off := p.2.2, va := BitVec.ofNat 64 (p.1 * 32), acc := 6 }
          s1.onRunning q id fun r => { r with waits := r.waits ++ [i], copy := r.copy.map fun c => { c with asked := c.asked ++ [p.1] } }) s)

/-- What stands at local bytes of a copy's destination that its source range holds, too. -/
def State.copyOld (s : State) (q : Nat) (c : PkCopy) (d n : Nat) : List (Nat × Byte) :=
  if !c.overlaps then []
  else (List.range n).filterMap fun i => match s.vaddr (s.queueOf q).desc.asid ((d + i) / 32 * 32) false with
    | .ok pa _ _ => some (d + i, s.mem.bytes.read (pa + (d + i) % 32))
    | _ => none

/-- Which of those bytes lie in a marked sector. -/
def State.copyOldMarks (s : State) (q : Nat) (c : PkCopy) (d n : Nat) : List Nat :=
  (s.copyOld q c d n).filterMap fun p => match s.vaddr (s.queueOf q).desc.asid (p.1 / 32 * 32) false with
    | .ok pa _ _ => if s.marked (pa / 32) then some p.1 else none
    | _ => none

/-- Bytes of a packet reach a sector of its destination, here or at the peer that holds it, with their mark (R328); the copy goes on
with `next`. -/
def State.copyInto (s : State) (q : Nat) (r : Running) (d : Nat) (b : List Byte) (mark : Bool) (next : PkCopy) : State :=
  let asid := (s.queueOf q).desc.asid
  let go := fun (s : State) (ids : List Nat) => s.onRunning q r.id fun r => { r with waits := r.waits ++ ids, copy := some next }
  match s.vaddr asid d true with
  | .remote e off => let (id, s1) := s.sendWrite (.packet q r.id) asid q e d off b mark; go s1 [id]
  | _ => match s.vwrite asid d b (if mark then [d / 32 * 32] else []) with
    | .ok s1 => go s1 []
    | .error x => s.failRunning q r x

/-- One piece of a packet's copy: one sector of the destination. -/
def State.copyStep (s : State) (q : Nat) (r : Running) (c : PkCopy) : State :=
  let (off, n) := c.next
  match s.copySource q r.id c off n with
  | .bad x => s.failRunning q r x
  | .wait s1 => s1
  | .bytes b mark s1 =>
    let d := c.dst + off
    s1.copyInto q r d b mark
      { c with off := c.off + n, got := [], asked := [], orig := s1.copyOld q c d n ++ c.orig
               origMarks := s1.copyOldMarks q c d n ++ c.origMarks }

/-- A page that has been copied out loses its entry and its frame returns to the pool (R294 EVICT). -/
def State.dropPage (s : State) (asid : BitVec 16) (va : Nat) : State :=
  let s1 := s.flushLocal
  match s1.vaddr asid va false with
  | .ok _ i _ => { s1 with mem := (s1.mem.unlink i).giveFrame i }
  | _ => s1

/-! ## The scale-out engine (R322, R323) -/

/-- SCOUT (R322): handed to the engine. -/
def execScout (q : Nat) (p : Packet) (s : State) : Host.Outcome State Fault Refusal :=
  .next (packetEvent q p (fun s =>
    let (s1, r) := s.beginPacket q p
    let va := p.fld 8 8 % 2 ^ 56
    let n := p.fld 16 8
    let asid := (s.queueOf q).desc.asid
    let bad := (pageParts va n).findSome? fun x => match s1.vaddr asid x.1 (p.fld 0 8 = 1) with
      | .bad c => some c
      | _ => none
    match bad with
    | some c => s1.failRunning q r c
    | none =>
      let id := s1.scout.nextId
      let t : Transfer :=
        { id := id, queue := q, packet := r.id, write := p.fld 0 8 = 0, bytes := n, remote := (p.bytes.drop 40).take 16
          udp := p.fld 48 2, rkey := BitVec.ofNat 64 (p.fld 56 8), raddr := BitVec.ofNat 64 (p.fld 64 8), started := s1.cycle.toNat }
      let s2 := { s1 with scout := { s1.scout with nextId := id + 1, transfers := s1.scout.transfers ++ [t] } }
      s2.onRunning q r.id fun x => { x with launch := some id, copy := some { src := va, dst := va, count := n } }) s)

/-- A transfer is over. -/
def State.dropTransfer (s : State) (id : Nat) : State :=
  { s with scout := { s.scout with transfers := s.scout.transfers.filter (·.id ≠ id) } }

/-- SCOUT_TRANSPORT_TIMEOUT (R322, R323): no acknowledgement within TIMEOUT ms of the last byte sent. -/
def execScoutTransportTimeout (transfer : Nat) (s : State) : Host.Outcome State Fault Refusal :=
  .next <| match s.scout.transfers.find? (·.id = transfer) with
    | none => s
    | some t =>
      if s.cycle.toNat < t.started + s.scout.timeout * 940000 then s
      else match (s.dropTransfer transfer).running? t.queue t.packet with
        | some r => (s.dropTransfer transfer).failRunning t.queue r 12
        | none => s.dropTransfer transfer

/-- Bytes of a write leave for the remote end, with their mark (R322, R328). -/
def State.scoutSend (s : State) (t : Transfer) (off : Nat) (b : List Byte) (mark : Bool) : State :=
  { s with scout := { s.scout with
      sent := s.scout.sent ++ [⟨t.remote, t.udp, t.rkey, t.raddr.toNat + off, b, mark⟩]
      transfers := replaceFirst (·.id = t.id) (fun t => { t with started := s.cycle.toNat }) s.scout.transfers } }

/-- The next bytes of a transfer move: those of a write leave, those of a read, free values with a free mark, reach local memory, or
the peer that holds the page. -/
def State.scoutStep (s : State) (q : Nat) (r : Running) (t : Transfer) (c : PkCopy) : State :=
  let (off, n) := c.next
  let next : PkCopy := { c with off := c.off + n, got := [], asked := [] }
  if t.write then match s.copySource q r.id c off n with
    | .bad x => (s.dropTransfer t.id).failRunning q r x
    | .wait s1 => s1
    | .bytes b mark s1 => (s1.scoutSend t off b mark).onRunning q r.id fun r => { r with copy := some next }
  else
    let b := (List.range n).map fun i => Config.freeByte (s.fresh + i)
    let (mark, s1) := ({ s with fresh := s.fresh + n } : State).drawBool
    s1.copyInto q r (c.dst + off) b mark next

/-- The progress of a SCOUT packet. The remote end refuses or acknowledges as it likes, a free choice: a refusal ends the packet with
PROT, and bytes already moved stay moved (R322). Without a local endpoint there is no traffic (R323). -/
def State.endScout (s : State) (q : Nat) (r : Running) (id : Nat) : State :=
  if s.scout.locals.isEmpty then s
  else match s.scout.transfers.find? (·.id = id), r.copy with
    | some t, some c =>
      let (refused, s1) := s.drawBool
      if refused then (s1.dropTransfer id).failRunning q r 10
      else if c.off < c.count then s1.scoutStep q r t c
      else (s1.dropTransfer id).completePacket q r
    | _, _ => s

/-- A BIND packet's record is performed: its binding may be named from now on, or is gone (R256). -/
def State.endBind (s : State) (q : Nat) (r : Running) (id : Nat) : State :=
  let s1 := if r.status = 0 then
      { s with bindings := s.bindings.map fun b => if b.id.toNat = id then { b with bound := true } else b }
    else { s with bindings := s.bindings.filter fun b => b.id.toNat ≠ id }
  s1.completePacket q r

/-- PACKET_COMPLETION (R290): once nothing that the packet sent out awaits an answer, a copy performs its next piece, and a
packet with nothing left completes. A launch completes by LAUNCH_COMPLETE. -/
def execPacketCompletion (q : Nat) (id : Nat) (s : State) : Host.Outcome State Fault Refusal :=
  .next <| match s.running? q id with
    | none => s
    | some r =>
      if !r.waits.isEmpty || r.opcode = 4 then s
      else match r.opcode, r.launch with
        | 8, some id => s.endScout q r id
        | 6, some id => s.endBind q r id
        | _, _ => match r.copy with
          | none => s.completePacket q r
          | some c =>
            if c.off < c.count then s.copyStep q r c
            else match c.evict with
              | some (asid, va) => (s.dropPage asid va).completePacket q r
              | none => s.completePacket q r

end Sys2Proof.Machine
end

