-- ==== Sys2Proof/Machine/Sha.lean ====
section
/-! DEFINITION. SHA-256 (FIPS 180-4), over which modules, binding records and communicator descriptors are named (R245, R256,
R316). Its constants are computed from the primes that define them. -/

namespace Sys2Proof.Machine

/-! ## Constants -/

/-- The next number of at least `p` that none of the primes `ps` divides, within `n` tries. -/
def nextPrime (ps : List Nat) : Nat → Nat → Nat
  | 0, p => p
  | n + 1, p => if ps.any fun q => p % q = 0 then nextPrime ps n (p + 1) else p

/-- The first `n` primes beyond those of a rising list. -/
def primesAfter : Nat → List Nat → List Nat
  | 0, ps => ps
  | n + 1, ps => primesAfter n (ps ++ [nextPrime ps 50 (ps.getLast?.getD 1 + 1)])

/-- The largest number below `2^n`, above a number of which it keeps the higher bits, whose `k`-th power is at most `x`. -/
def rootBelow (k x : Nat) : Nat → Nat → Nat
  | 0, r => r
  | n + 1, r => rootBelow k x n (if (r + 2 ^ n) ^ k ≤ x then r + 2 ^ n else r)

/-- The first 32 bits of the fraction of the `k`-th root of a number below 1,024. -/
def rootFraction (k p : Nat) : Word := BitVec.ofNat 32 (rootBelow k (p * 2 ^ (32 * k)) 38 0)

/-- The first 64 primes. -/
def shaPrimes : List Nat := primesAfter 64 []

/-- The round constants: the cube roots of the first 64 primes. -/
def shaConstants : List Word := shaPrimes.map (rootFraction 3)

/-- The chaining value: the two halves of the eight words, each latest first as a round shifts them. -/
structure ShaHalves where
  left : List Word
  right : List Word
  deriving DecidableEq, Repr

/-- The initial chaining value: the square roots of the first eight primes. -/
def shaStart : ShaHalves :=
  ⟨(shaPrimes.take 4).map (rootFraction 2), ((shaPrimes.drop 4).take 4).map (rootFraction 2)⟩

/-! ## Compression -/

/-- The exclusive or of some rotations of a word. -/
def turned (x : Word) (by' : List Nat) : Word := by'.foldl (fun y n => y ^^^ x.rotateRight n) 0

/-- The word that follows sixteen words of the message schedule, the latest first. -/
def scheduleNext (w : List Word) : Word :=
  let at' := fun i => w.getD i 0
  let mix := fun (x : Word) (rs : List Nat) (n : Nat) => turned x rs ^^^ (x >>> n)
  mix (at' 1) [17, 19] 10 + at' 6 + mix (at' 14) [7, 18] 3 + at' 15

/-- One round. The left half gains its word from both halves, the right half from its own and the oldest left word. -/
def ShaHalves.mix (x : ShaHalves) (key : Word) : ShaHalves :=
  match x.left, x.right with
  | [a, b, c, d], [e, f, g, h] =>
    let chosen := g ^^^ (e &&& (f ^^^ g))
    let most := (a &&& b) ||| (c &&& (a ||| b))
    let t := key + h + chosen + turned e [6, 11, 25]
    ⟨[t + most + turned a [2, 13, 22], a, b, c], [d + t, e, f, g]⟩
  | _, _ => x

/-- The rounds of one block: one for each constant, while the sixteen latest schedule words slide along. -/
def shaRounds : List Word → List Word → ShaHalves → ShaHalves
  | [], _, x => x
  | k :: ks, w, x => shaRounds ks ((scheduleNext w :: w).take 16) (x.mix (k + w.getD 15 0))

/-- The compression of one block of sixteen words into the chaining value. -/
def ShaHalves.absorb (x : ShaHalves) (block : List Word) : ShaHalves :=
  let y := shaRounds shaConstants block.reverse x
  ⟨List.zipWith (· + ·) x.left y.left, List.zipWith (· + ·) x.right y.right⟩

/-! ## Messages -/

/-- The word of the first four bytes, the first the highest. -/
def wordOfHigh (b : List Byte) : Word := BitVec.ofNat 32 (leNat (b.take 4).reverse)

/-- Absorbs the whole blocks of a padded message, `n` of them. -/
def ShaHalves.absorbAll : Nat → ShaHalves → List Byte → ShaHalves
  | 0, x, _ => x
  | n + 1, x, b => absorbAll n (x.absorb ((List.range 16).map fun i => wordOfHigh (b.drop (4 * i)))) (b.drop 64)

/-- What follows a message of `n` bytes: a one bit, zeros to 56 modulo 64, and its length in bits. -/
def shaTail (n : Nat) : List Byte := 0x80 :: (List.replicate ((119 - n % 64) % 64) 0 ++ (leBytes 8 (8 * n)).reverse)

/-- The SHA-256 of bytes: 32 bytes. -/
def sha256 (m : List Byte) : List Byte :=
  let p := m ++ shaTail m.length
  let x := shaStart.absorbAll (p.length / 64) p
  (x.left ++ x.right).flatMap fun w => (leBytes 4 w.toNat).reverse

end Sys2Proof.Machine
end

