-- ==== Sys2Proof/Machine/Binder.lean ====
section
/-! DEFINITION. The binder: the module (R245, R246, R296), the search of a class's formats (R247 to R252), the checks across
classes (R253), and the binding record (R254 to R257). Real arithmetic is exact, on rationals. -/

namespace Sys2Proof.Machine

/-! ## Numbers -/

/-- A power of two. -/
def two (n : Int) : Rat := if 0 ≤ n then (pow2n n : Rat) else 1 / (pow2n (-n) : Rat)

/-- floor(log2 q) of a positive rational. -/
def floorLog2 (q : Rat) : Int :=
  let k : Int := (Nat.log2 q.num.toNat : Int) - (Nat.log2 q.den : Int)
  if q < two k then k - 1 else k

/-- ceiling(log2 n) of a positive number. -/
def ceilLog2 (n : Nat) : Nat := if n ≤ 1 then 0 else Nat.log2 (n - 1) + 1

/-- The FP32 bits of a positive rational of the normal range, rounded toward +∞ (R257). -/
def fp32Up (q : Rat) : Nat :=
  let e := floorLog2 q
  let m := (q * two (23 - e)).ceil.toNat
  ((e + 127) * 2 ^ 23 + ((m : Int) - 2 ^ 23)).toNat

/-! ## The module (R245, R246, R296) -/

/-- A little-endian field of bytes. -/
def fieldOf (b : List Byte) (o n : Nat) : Nat := leNat ((b.drop o).take n)

/-- The bytes of a range are zero. -/
def zeroIn (b : List Byte) (o n : Nat) : Bool := ((b.drop o).take n).all (· = 0)

/-- A section-table entry. -/
structure Section where
  index : Nat
  kind : Nat
  flags : Nat
  offset : Nat
  size : Nat
  vaddr : Nat
  deriving DecidableEq, Repr

/-- A class declaration (R246). -/
structure Decl where
  cls : Nat
  norm : Bool
  uses : Nat
  flags : Nat
  range : Nat
  relExp : Int
  accExp : Int
  chain : Nat
  pinReg : Nat
  pinMem : Nat
  deriving DecidableEq, Repr

/-- USES and FLAGS. -/
def Decl.vector (d : Decl) : Bool := d.uses.testBit 0
def Decl.matrix (d : Decl) : Bool := d.uses.testBit 1
def Decl.reduce (d : Decl) : Bool := d.uses.testBit 2
def Decl.sr (d : Decl) : Bool := d.flags.testBit 0
def Decl.exact (d : Decl) : Bool := d.flags.testBit 1

/-- A signed 16-bit field. -/
def signed16 (x : Nat) : Int := if 2 ^ 15 ≤ x then (x : Int) - 2 ^ 16 else x

/-- Entry `i` of the section table. -/
def sectionAt (b : List Byte) (i : Nat) : Section :=
  let o := 64 + 24 * i
  ⟨i, fieldOf b o 4, fieldOf b (o + 4) 4, fieldOf b (o + 8) 4, fieldOf b (o + 12) 4, fieldOf b (o + 16) 8⟩

/-- The bytes of a section. -/
def Section.bytes (x : Section) (b : List Byte) : List Byte := (b.drop x.offset).take x.size

/-- An entry keeps R245 in a module of `n` bytes. -/
def Section.ok (x : Section) (n : Nat) : Bool :=
  1 ≤ x.kind && x.kind ≤ 5 && (x.flags = 0 || (x.kind = 1 && x.flags = 1)) && x.offset % 4 = 0 && x.offset + x.size ≤ n &&
  (x.kind ≤ 2 || x.vaddr = 0)

/-- The header keeps R245, and MODHASH matches. -/
def headerOk (b : List Byte) : Bool :=
  64 ≤ b.length && fieldOf b 0 4 = 0x314D5946 && fieldOf b 4 2 = 1 && fieldOf b 6 1 = 1 && zeroIn b 7 1 &&
  3 ≤ fieldOf b 8 4 && fieldOf b 8 4 ≤ 64 && zeroIn b 12 4 && zeroIn b 48 16 && 64 + 24 * fieldOf b 8 4 ≤ b.length &&
  sha256 (b.drop 64) = (b.drop 16).take 32

/-- The record of a class as R246 lays it out. -/
def declOf (cls : Nat) (r : List Byte) : Decl :=
  { cls := cls, norm := fieldOf r 1 1 = 1, uses := fieldOf r 2 1, flags := fieldOf r 3 1, range := fieldOf r 4 4
    relExp := signed16 (fieldOf r 8 2), accExp := signed16 (fieldOf r 10 2), chain := fieldOf r 12 4
    pinReg := fieldOf r 16 1, pinMem := fieldOf r 17 1 }

/-- PINMEM is one of R246's values. -/
def pinMemOk (p : Nat) : Bool := p ≤ 3 || (0x12 ≤ p && p ≤ 0x18) || (0x22 ≤ p && p ≤ 0x28)

/-- A record keeps R246. -/
def recordOk (r : List Byte) : Bool :=
  if fieldOf r 0 1 = 0 then zeroIn r 0 32
  else
    let d := declOf 0 r
    fieldOf r 0 1 = 1 && fieldOf r 1 1 ≤ 1 && 1 ≤ d.uses && d.uses ≤ 7 && d.flags ≤ 3 && d.range < 2 ^ 31 &&
    1 ≤ d.range / 2 ^ 23 && d.range / 2 ^ 23 ≤ 253 && -64 ≤ d.relExp && d.relExp ≤ -1 && -64 ≤ d.accExp && d.accExp ≤ -1 &&
    1 ≤ d.chain && d.chain ≤ 2 ^ 31 && d.pinReg ≤ 3 && pinMemOk d.pinMem && zeroIn r 18 14

/-- A name in ASCII, padded with zero bytes. -/
def nameOk (b : List Byte) : Bool :=
  let name := b.takeWhile (· ≠ 0)
  !name.isEmpty && name.all (·.toNat < 128) && (b.drop name.length).all (· = 0)

/-- An image record keeps R296: each of its ownership ranges has a kind, and its reserved bytes are zero. -/
def imageRecordOk (r : List Byte) : Bool :=
  let n := fieldOf r 56 1
  nameOk (r.take 32) && fieldOf r 54 2 ≤ 3 && n ≤ 16 && zeroIn r 57 7 && zeroIn r (64 + 32 * n) (512 - 32 * n) &&
  (List.range n).all fun i => 1 ≤ fieldOf r (64 + 32 * i + 24) 1 && fieldOf r (64 + 32 * i + 24) 1 ≤ 3 && zeroIn r (64 + 32 * i + 25) 7

/-- The descriptor section keeps R296. -/
def descriptorsOk (b : List Byte) : Bool :=
  let n := fieldOf b 4 4
  16 ≤ b.length && fieldOf b 0 4 = 0x444C5946 && n ≤ 256 && fieldOf b 8 4 ≤ 1 && zeroIn b 12 4 && b.length = 16 + 576 * n &&
  (List.range n).all fun i => imageRecordOk ((b.drop (16 + 576 * i)).take 576)

/-- A module that keeps R245, R246 and R296. -/
structure Module where
  code : List (Nat × List Byte)     -- section index, bytes
  decls : List (Option Decl)        -- c1 to c15
  units : Nat
  deriving DecidableEq, Repr

/-- Reads a module; none is MODULE_FORMAT. -/
def parseModule (b : List Byte) : Option Module :=
  if !headerOk b then none
  else
    let secs := (List.range (fieldOf b 8 4)).map (sectionAt b)
    let ofKind := fun k => secs.filter fun x => x.kind = k
    match ofKind 1, ofKind 3, ofKind 4 with
    | c :: cs, [t], [d] =>
      let table := t.bytes b
      let recs := (List.range 15).map fun i => (table.drop (32 * i)).take 32
      let desc := d.bytes b
      if secs.all (·.ok b.length) && t.size = 480 && recs.all recordOk && descriptorsOk desc then
        some { code := (c :: cs).map fun x => (x.index, x.bytes b)
               decls := (recs.zip (List.range 15)).map fun p => if fieldOf p.1 0 1 = 0 then none else some (declOf (p.2 + 1) p.1)
               units := fieldOf desc 8 4 }
      else none
    | _, _, _ => none

/-! ## Candidates (R248, R249) -/

/-- A format: 0 FP32, 1 BF16, 2 FP16, 3 block-scaled Pn, 4 per-tensor Pn, in the codes of RFMT and MKIND. -/
structure BFmt where
  kind : Nat
  planes : Nat := 0
  deriving DecidableEq, Repr

/-- A candidate with a rounding. -/
structure Cand where
  mem : BFmt
  reg : Nat
  sr : Bool
  deriving DecidableEq, Repr

/-- The unit of a format (R248). -/
def BFmt.unit (f : BFmt) (sr : Bool) : Rat :=
  match f.kind with
  | 0 => two (if sr then -23 else -24)
  | 1 => two (if sr then -7 else -8)
  | 2 => two (if sr then -10 else -11)
  | _ => two (1 - f.planes)

/-- The condition under which the unit holds (R248). -/
def BFmt.holds (f : BFmt) (e : Int) : Bool :=
  match f.kind with
  | 0 => decide (-126 ≤ e - 23)
  | 1 => decide (-126 ≤ e - 23)
  | 2 => decide (-14 ≤ e - 23)
  | 3 => decide (-127 ≤ e - 23)
  | _ => true

/-- The largest finite value of an IEEE format holds the magnitude (R52); a block format holds every magnitude whose scale
exists. -/
def BFmt.reaches (f : BFmt) (range : Rat) (e : Int) : Bool :=
  match f.kind with
  | 0 => decide (range ≤ (2 - two (-23)) * two 127)
  | 1 => decide (range ≤ (2 - two (-7)) * two 127)
  | 2 => decide (range ≤ 65504)
  | 3 => decide (e + 1 ≤ 126)
  | _ => true

/-- A memory format that R249 skips for a declaration, pins apart. -/
def Decl.skips (d : Decl) (m : BFmt) : Bool :=
  if 3 ≤ m.kind then !d.norm else d.matrix

/-- The memory format of PINMEM. -/
def pinnedMem (p : Nat) : BFmt :=
  if p = 1 then ⟨0, 0⟩ else if p = 2 then ⟨1, 0⟩ else if p = 3 then ⟨2, 0⟩ else if p < 0x20 then ⟨3, p - 0x10⟩ else ⟨4, p - 0x20⟩

/-- The register format of PINREG. -/
def pinnedReg (p : Nat) : Nat := p - 1

/-- The block-scaled formats P2 to P8. -/
def blockMems : List BFmt := (List.range 7).map fun i => ⟨3, i + 2⟩

/-- The candidates of a class that is not EXACT, in cost order (R249). -/
def Decl.cands (d : Decl) : List Cand :=
  let all := blockMems ++ [⟨1, 0⟩, ⟨2, 0⟩, ⟨0, 0⟩]
  let mems := if d.pinMem = 0 then all else if 0x20 ≤ d.pinMem then [pinnedMem d.pinMem] else all.filter (· = pinnedMem d.pinMem)
  let regs := if d.pinReg = 0 then [1, 2, 0] else [pinnedReg d.pinReg]
  let rnds := if d.sr then [true, false] else [false]
  (mems.filter fun m => !d.skips m).flatMap fun m => regs.flatMap fun r => rnds.map fun x => ⟨m, r, x⟩

/-- rel and acc. -/
def Decl.rel (d : Decl) : Rat := two d.relExp
def Decl.acc (d : Decl) : Rat := two d.accExp

/-- The one candidate of an EXACT class (R252); none where R249 would skip its pinned format. -/
def Decl.exactCands (d : Decl) : List Cand :=
  let reg := if d.pinReg = 0 then 0 else pinnedReg d.pinReg
  if d.pinMem ≠ 0 then (if d.skips (pinnedMem d.pinMem) then [] else [⟨pinnedMem d.pinMem, reg, false⟩])
  else if d.norm || d.matrix then
    match blockMems.find? fun m => decide (two (1 - m.planes) ≤ d.rel) with
    | some m => [⟨m, reg, false⟩]
    | none => [⟨if d.matrix then ⟨3, 8⟩ else ⟨0, 0⟩, reg, false⟩]
  else [⟨⟨0, 0⟩, reg, false⟩]

/-! ## Binding one class (R250, R251) -/

/-- A class as bound: its entry before policy, and what the record states of it. -/
structure Bound where
  decl : Decl
  e : Int
  cand : Cand
  lsb : Int
  glog : Nat
  uc : Rat
  uo : Rat
  deriving DecidableEq, Repr

/-- E of a declaration: RANGE is a normal FP32 number. -/
def Decl.e (d : Decl) : Int := (d.range / 2 ^ 23 : Nat) - 127

/-- RANGE as a rational. -/
def Decl.rangeQ (d : Decl) : Rat := ((2 ^ 23 + d.range % 2 ^ 23 : Nat) : Rat) * two (d.e - 23)

/-- n·u / (1 − n·u) is at most a bound; not when n·u reaches 1. -/
def ratioOk (n : Nat) (u bound : Rat) : Bool := decide ((n : Rat) * u < 1) && decide ((n : Rat) * u / (1 - (n : Rat) * u) ≤ bound)

/-- What one candidate comes to: the code of the check that it fails, as a code of R254. -/
def Decl.try (d : Decl) (k : Cand) : Except Nat Bound :=
  let e := d.e
  let reg : BFmt := ⟨k.reg, 0⟩
  if !reg.reaches d.rangeQ e || !k.mem.reaches d.rangeQ e then .error 1
  else if !k.mem.holds e || !reg.holds e then .error 2
  else
    let um := k.mem.unit k.sr
    let ur := if k.reg = 0 ∨ k.reg = k.mem.kind ∨ (3 ≤ k.mem.kind ∧ k.reg = 1) then 0 else reg.unit k.sr
    let uc := um + ur + um * ur
    if d.rel < uc then .error 2
    else
      let uo := reg.unit k.sr
      let exactSum := d.reduce && d.exact
      let above := decide (uo < d.acc)
      let lsbM := if d.matrix && above then [floorLog2 ((d.acc - uo) * two (2 * e + 2) * two (-24))] else []
      let lsbE := if exactSum && above then [floorLog2 ((d.acc - uo) * two (e + 1) * two (-24))] else []
      -- the lsb that each check sees: a matrix use is checked first
      let lsb1 : Int := lsbM.foldl min 127
      let lsb2 : Int := lsbE.foldl min lsb1
      let glog := if d.matrix then ceilLog2 ((d.chain + 31) / 32) else 0
      let ok := (!d.vector || ratioOk d.chain uo d.acc) && (!(d.reduce && !d.exact) || ratioOk (d.chain - 1) uo d.acc) &&
        (!d.matrix || (above && decide (glog ≤ 31) && decide ((glog : Int) + 5 + 2 * e + 2 ≤ 79 + lsb1))) &&
        (!exactSum || (above && decide ((ceilLog2 d.chain : Int) + e + 1 ≤ 79 + lsb2)))
      let lsb := if !d.matrix && !exactSum then 0 else lsb2
      if !ok || decide (lsb < -128) then .error 3
      else .ok ⟨d, e, k, lsb, glog, uc, uo⟩

/-- The first candidate that passes, or the furthest failure. -/
def Decl.search (d : Decl) : Nat → List Cand → Except Nat Bound
  | best, [] => .error best
  | best, k :: ks => match d.try k with
    | .ok b => .ok b
    | .error c => d.search (max best c) ks

/-- bind_class (R250, R252). -/
def Decl.bind (d : Decl) : Except Nat Bound := d.search 1 (if d.exact then d.exactCands else d.cands)

/-- The entry of R251, with a policy byte. -/
def Bound.entry (b : Bound) (policy : Nat) : DWord :=
  let d := b.decl
  let bit := fun (p : Bool) (i : Nat) => if p then 2 ^ i else 0
  let k := b.cand
  BitVec.ofNat 64 (2 ^ 63 + bit d.exact 62 + bit (policy.testBit 0) 61 + bit (policy.testBit 1) 60 + bit (policy.testBit 2) 59 +
    bit (policy.testBit 3) 58 + bit k.sr 57 + k.reg * 2 ^ 54 + k.mem.kind * 2 ^ 51 + k.mem.planes * 2 ^ 47 +
    (if d.matrix then k.mem.planes * 2 ^ 43 else 0) + (b.lsb % 256).toNat * 2 ^ 35 + b.glog * 2 ^ 30 + (127 + b.e).toNat * 2 ^ 22 +
    bit (!policy.testBit 4) 21)

/-! ## The record (R256, R257) -/

/-- ACCG (R257). -/
def Bound.accg (b : Bound) : Rat :=
  let d := b.decl
  let r := fun (n : Nat) => (n : Rat) * b.uo / (1 - (n : Rat) * b.uo)
  ((if d.matrix then [two b.lsb / two (2 * b.e + 2 - 24) + b.uo] else []) ++
   (if d.reduce then [if d.exact then two b.lsb / two (b.e + 1 - 24) + b.uo else r (d.chain - 1)] else []) ++
   (if d.vector then [r d.chain] else [])).foldl max 0

/-- FP32 bits of a bound; +0 for a bound of zero. -/
def boundBits (q : Rat) : Nat := if q ≤ 0 then 0 else fp32Up q

/-- The slot of a bound class (R257). -/
def Bound.slot (b : Bound) (policy : Nat) : List Byte :=
  let d := b.decl
  leBytes 8 (b.entry policy).toNat ++ leBytes 4 (boundBits b.uc) ++ leBytes 1 (if d.norm then 1 else 0) ++ leBytes 1 d.uses ++
  leBytes 1 d.flags ++ leBytes 1 policy ++ leBytes 4 (boundBits b.accg) ++
  leBytes 4 (if d.matrix then 2 ^ b.glog * 32 else d.chain) ++ leBytes 4 (boundBits (two (b.e - 23))) ++
  leBytes 4 (boundBits (two (b.e + 1)))

/-- c0's entry (R67). -/
def entryC0 : DWord := 0x800000003F800000

/-- c0's slot: its entry and its FP32 unit (R257). -/
def slotC0 : List Byte := leBytes 8 entryC0.toNat ++ leBytes 4 (boundBits (two (-24))) ++ List.replicate 20 0

/-- What a binding came to. -/
structure BindResult where
  status : Nat
  badClass : Nat := 0
  badSect : Nat := 0
  badOff : Nat := 0xFFFFFFFF
  bound : List Bound := []
  deriving DecidableEq, Repr

/-- The bound class of a number. -/
def boundOf (bs : List Bound) (c : Nat) : Option Bound := bs.find? fun b => b.decl.cls = c

/-- Every class in class order: what is bound, and the first failure. -/
def bindClasses : List (Option Decl) → List Bound × Option (Nat × Nat)
  | [] => ([], none)
  | none :: ds => bindClasses ds
  | some d :: ds => match d.bind with
    | .error c => ([], some (c, d.cls))
    | .ok b => let r := bindClasses ds; (b :: r.1, r.2)

/-! ## Checks across classes (R253) -/

/-- The failure of an instruction that names the classes `x` and `y`. -/
def crossFail (op : BitVec 7) (x y : Option Bound) (y0 : Bool) : Option Nat :=
  if op = 0x4E then
    match x, y with
    | some d, some s =>
      if d.e < s.e then some 1
      else if !(d.decl.norm || !s.decl.norm) then some 2
      else if d.decl.rel < s.uc + d.uc + s.uc * d.uc then some 2
      else none
    | some d, none => if y0 && decide (d.decl.rel < two (-24) + d.uc + two (-24) * d.uc) then some 2 else none
    | _, _ => none
  else if op = 0x71 then
    match x, y with
    | some a, some b => if a.e < b.e then some 1 else none
    | _, _ => none
  else
    match x, y with
    | some n, some k => if n.decl.rel < k.decl.acc + n.uc then some 2 else none
    | _, _ => none

/-- The first failing instruction of a section's words: its offset and the code. -/
def crossWords (bs : List Bound) : Nat → Nat → List Word → Option (Nat × Nat)
  | 0, _, _ => none
  | _, _, [] => none
  | fuel + 1, off, w0 :: rest =>
    let fm := formOf w0
    let f := fieldsOf w0 (rest.getD 0 0) (rest.getD 1 0) 0
    let op := opOf w0
    let second := if op = 0x74 then f.w2.extractLsb' 16 4 else f.sub
    let bad := if fm = .e ∧ (op = 0x4E ∨ op = 0x71 ∨ op = 0x74) then
        crossFail op (boundOf bs f.cls.toNat) (boundOf bs second.toNat) (decide (second = 0))
      else none
    match bad with
    | some c => some (off, c)
    | none => crossWords bs fuel (off + fm.bytes) (rest.drop (fm.words - 1))

/-- The words of a section; a last word that is not whole is no instruction. -/
def crossSections (bs : List Bound) : List (Nat × List Byte) → Option (Nat × Nat × Nat)
  | [] => none
  | (i, b) :: rest => match crossWords bs (b.length / 4 + 1) 0 (wordsOfBytes b) with
    | some (off, c) => some (i, off, c)
    | none => crossSections bs rest

/-- The binder's result on a module image (R254). -/
def bindModule (hasUnfold : Bool) (b : List Byte) : BindResult :=
  match parseModule b with
  | none => { status := 5 }
  | some m =>
    if m.units.testBit 0 && !hasUnfold then { status := 4 }
    else match bindClasses m.decls with
      | (bs, some (c, cls)) => { status := c, badClass := cls, bound := bs }
      | (bs, none) => match crossSections bs m.code with
        | some (i, off, c) => { status := c, badSect := i, badOff := off, bound := bs }
        | none => { status := 0, bound := bs }

/-- The sixteen slots. -/
def BindResult.slots (r : BindResult) (policy : Nat → Nat) : List Byte :=
  slotC0 ++ (List.range 15).flatMap fun i => match boundOf r.bound (i + 1) with
    | some b => b.slot (policy (i + 1))
    | none => List.replicate 32 0

/-- The 608 bytes of a record (R256). -/
def BindResult.record (r : BindResult) (part : Part) (bindid : Word) (modhash : List Byte) (policy : Nat → Nat) : List Byte :=
  let body := leBytes 4 0x52425946 ++ leBytes 2 1 ++ leBytes 2 r.status ++ leBytes 4 (Config.cap0 part).toNat ++
    leBytes 4 (Config.cap1 part).toNat ++ leBytes 4 Config.binderVersion.toNat ++ leBytes 4 bindid.toNat ++ fitBytes 32 modhash ++
    leBytes 1 r.badClass ++ leBytes 1 r.badSect ++ [0, 0] ++ leBytes 4 r.badOff ++ r.slots policy
  body ++ sha256 body

/-- The entries of a binding. -/
def BindResult.entries (r : BindResult) (policy : Nat → Nat) : Vector DWord 16 :=
  Vector.ofFn fun i => if i.val = 0 then entryC0 else ((boundOf r.bound i.val).map fun b => b.entry (policy i.val)).getD 0

/-! ## BIND (R294) -/

/-- The identifier that the next binding takes: the next one that is not 0 and that no binding holds (R256). -/
def State.freeBind (s : State) : Word :=
  (((List.range (s.bindings.length + 2)).map fun i => s.nextBind + BitVec.ofNat 32 i).find? fun id =>
    decide (id ≠ 0) && !s.bindings.any (·.id = id)).getD s.nextBind

/-- BIND (R294): the module is read where the packet names it, the record is written, and the packet completes once the
record's bytes are performed. The binding may be named from then on. -/
def execBind (q : Nat) (p : Packet) (s : State) : Host.Outcome State Fault Refusal :=
  .next (packetEvent q p (fun s =>
    match s.qpFetch q (p.fld 0 8 % 2 ^ 56) (p.fld 8 8) with
    | .bad c => s.failPacket q p c
    | .wait s1 => s1
    | .ready bytes =>
      let policy := fun c => p.fld (32 + c) 1
      let r := bindModule (Config.hasUnfold s.part) bytes
      let id := if r.status = 0 then s.freeBind else 0
      let rec1 := r.record s.part id ((bytes.drop 16).take 32) policy
      let (s1, run) := s.beginPacket q p
      match s1.qpPut q run.id (p.fld 16 8 % 2 ^ 56) rec1 with
      | (s2, _, some c) => s2.failRunning q run c
      | (s2, ids, none) =>
        let s3 := s2.onRunning q run.id fun x => { x with waits := ids, detail := r.status, launch := if r.status = 0 then some id.toNat else none }
        if r.status = 0 then
          { s3 with nextBind := id + 1
                    bindings := { id := id, asid := (s.queueOf q).desc.asid, bound := false, entries := r.entries policy } :: s3.bindings }
        else s3) s)

end Sys2Proof.Machine
end

