-- ==== Sys2Proof/Machine/Collect.lean ====
section
/-! DEFINITION. Mesh collectives: contributions, collections, and combining at the nodes of a communicator (R165 to R167,
R319 to R321). -/

namespace Sys2Proof.Machine

/-! ## Communicators and rounds -/

/-- A communicator that the launch registered. -/
def Launch.comm? (l : Launch) (i : Nat) : Option Comm := l.comms.find? (·.index = i)

/-- The position of a group of this package (R317). -/
def Comm.posOf (c : Comm) (pkg : Nat) (g : Group) : Option Nat :=
  (List.range c.pos.length).find? fun i => match c.pos[i]? with
    | some (b, n, p, _) => decide (b = g.block) && decide (n = g.index) && decide (p = pkg)
    | none => false

/-- The node of a position. -/
def Comm.nodeOf (c : Comm) (pos : Nat) : Nat := ((c.pos[pos]?).map fun p => p.2.2.2).getD 0

/-- A node lies on a package. -/
def Comm.nodeAt (c : Comm) (pkg n : Nat) : Bool := match c.nodes[n]? with
  | some x => decide (x.pkg = pkg)
  | none => false

/-- A slot of the launch. -/
def Launch.slotOf (l : Launch) (comm slot : Nat) : Slot :=
  (l.slots.find? fun x => x.comm = comm ∧ x.slot = slot).getD { comm := comm, slot := slot }

/-- Sets a slot. -/
def Launch.setSlot (l : Launch) (x : Slot) : Launch :=
  { l with slots := putWhere (fun y => y.comm = x.comm ∧ y.slot = x.slot) x l.slots }

/-- The nodes of a round before anything has arrived. -/
def Comm.fresh (c : Comm) : List NodeSt := c.nodes.map fun n =>
  { own := if n.own.isSome then .awaited else .missing, ch := n.ch.map fun _ => .awaited }

/-- The round of a tag; one without contributions when there is none. -/
def Slot.roundOf (x : Slot) (c : Comm) (tag : BitVec 16) : Round :=
  (x.rounds.find? (·.tag = tag)).getD { tag := tag, nodes := c.fresh }

/-- Sets a round. -/
def Slot.setRound (x : Slot) (r : Round) : Slot := { x with rounds := putWhere (fun y => y.tag = r.tag) r x.rounds }

/-! ## Combining (R71, R167, R321) -/

/-- Elements of a lane word in the register format of a class. -/
def laneElems (e : DWord) (w : Word) : List Val := clsElems e (raw32 w)

/-- The add identity of a class in a lane: −0 in every element (R72). -/
def addIdentity (e : DWord) : Word := if entPacked e then 0x80008000 else 0x80000000

/-- One addition of two lane words with its flags in the places of FLG: FP32 under rn for c0, `round_class` with the draw 0
for any other class (R167). -/
def routerAdd (c0 : Bool) (e : DWord) (a b : Word) : Word × BitVec 5 :=
  if c0 then
    let x := addV .rne (fp32.decode a.toNat) (fp32.decode b.toNat)
    let r := fp32.round .rne 0 false x.v
    (BitVec.ofNat 32 r.bits, x.flags ||| r.flags)
  else
    let rs := ((laneElems e a).zip (laneElems e b)).map fun p => clsRound e (entFmt e) 0 (addV .rne p.1 p.2).v
    let bits := (rs.zip [0, 16]).foldl (fun n p => n + p.1.bits * 2 ^ p.2) 0
    (BitVec.ofNat 32 bits, BitVec.ofNat 5 ((if rs.any (·.range) then 1 else 0) + (if rs.any (·.under) then 2 else 0)))

/-- The identity as a partial result. -/
def identityPart (e : DWord) : Partial :=
  { words := Lanes.all (addIdentity e)
    exact := if entExact e then (List.range (32 * elemCount e)).map fun _ => {} else [] }

/-- A contribution as a partial result. -/
def contribution (e : DWord) (pos : Nat) (data : Lanes) : Partial :=
  { words := data, posns := BitVec.ofNat 64 (2 ^ pos)
    exact := if entExact e then laneList.flatMap fun l => (laneElems e (data.get l)).map fun v => Elem.addVal (entLSB e) {} v else [] }

/-- The sum of two partial results. -/
def addParts (c0 : Bool) (e : DWord) (a b : Partial) : Partial :=
  if entExact e then
    { words := a.words, posns := a.posns ||| b.posns, flags := a.flags ||| b.flags
      exact := (a.exact.zip b.exact).map fun p => p.1.add p.2.v.toInt p.2.sp p.2.sn p.2.sq }
  else
    { words := Lanes.mk fun l => (routerAdd c0 e (a.words.get l) (b.words.get l)).1, posns := a.posns ||| b.posns
      flags := laneList.foldl (fun f l => f ||| (routerAdd c0 e (a.words.get l) (b.words.get l)).2) (a.flags ||| b.flags) }

/-- An input as a partial result: the identity when it is missing (R320). -/
def NodeIn.part (e : DWord) : NodeIn → Partial
  | .here p => p
  | .awaited => identityPart e
  | .missing => identityPart e

/-- combine(node) (R320): own, then the children in order. -/
def NodeSt.combine (c0 : Bool) (e : DWord) (n : NodeSt) : Partial :=
  n.ch.foldl (fun out i => addParts c0 e out (i.part e)) (n.own.part e)

/-- The root rounds an exact sum (R321). -/
def finishExact (e : DWord) (p : Partial) : Partial :=
  let rs := p.exact.map fun x => clsRound e (entFmt e) 0 (x.val (entLSB e))
  let k := elemCount e
  { p with
    words := Lanes.mk fun l => BitVec.ofNat 32 ((List.range k).foldl (fun n j =>
      n + (((rs[k * l.val + j]?).map (·.bits)).getD 0) * 2 ^ (16 * j)) 0)
    flags := p.flags ||| BitVec.ofNat 5 ((if rs.any (·.range) then 1 else 0) + (if rs.any (·.under) then 2 else 0)) }

/-! ## Nodes (R320) -/

/-- An input has come, or will not come and the close has reached the node. -/
def NodeSt.has (n : NodeSt) : NodeIn → Bool
  | .here _ => true
  | .missing => n.closed
  | .awaited => false

/-- The node may send its result. -/
def NodeSt.ready (n : NodeSt) (noOwn : Bool) : Bool := n.result.isNone && (noOwn || n.has n.own) && n.ch.all n.has

/-- The bytes of a partial result on the stook (R321). -/
def Partial.bytes (p : Partial) : List Byte :=
  if p.exact.isEmpty then laneList.flatMap fun l => bytesOfWord (p.words.get l)
  else p.exact.flatMap fun x => leBytes 12 (x.v.toNat + (if x.sp then 2 ^ 82 else 0) + (if x.sn then 2 ^ 81 else 0) + (if x.sq then 2 ^ 80 else 0))

/-- Sends a message to a position of the stook, at the epoch of now (R313). -/
def State.sendOut (s : State) (peer : Nat) (body : OutBody) : State :=
  { s with fabric := { s.fabric with sent := s.fabric.sent ++ [⟨peer, s.fabric.epoch, body⟩] } }

/-- The package of a node. -/
def Comm.pkgOf (c : Comm) (n : Nat) : Nat := ((c.nodes[n]?).map (·.pkg)).getD 0

/-- Sends a packet of a round to a package, under the communicator's identity. -/
def State.sendColl (s : State) (r : RoundRef) (c : Comm) (pkg : Nat) (p : CollPacket) : State :=
  s.sendOut pkg (.coll c.ident r.slot r.tag p)

/-- The other packages that hold a node for which `f` holds, each once. -/
def Comm.others (c : Comm) (pkg : Nat) (f : CommNode → Bool) : List Nat :=
  ((c.nodes.filter f).map (·.pkg)).eraseDups.filter (· ≠ pkg)

/-- A node's result goes on: to its parent on another package, or from the root to the root group's package; elsewhere it stays at
the node until its parent or the collection takes it. -/
def State.passOn (s : State) (r : RoundRef) (c : Comm) (rd : Round) (n : Nat) (p : Partial) : State :=
  let pkt := CollPacket.result n p.bytes p.flags p.posns rd.dup rd.aborted
  if n = c.root then
    match rd.collector with
    | some k => s.sendColl r c k pkt
    | none => s
  else match c.nodes[n]? with
    | some nd => if c.nodeAt s.fabric.position nd.parent then s else s.sendColl r c (c.pkgOf nd.parent) pkt
    | none => s

/-- A node of this package whose inputs have arrived combines and sends its result (R320). -/
def State.nodeSend (s : State) (r : RoundRef) (n : Nat) : State :=
  let l := s.lch r.launch
  match l.comm? r.comm with
  | none => s
  | some c =>
    let x := l.slotOf r.comm r.slot
    let rd := x.roundOf c r.tag
    match rd.nodes[n]?, c.nodes[n]? with
    | some st, some nd =>
      if c.nodeAt s.fabric.position n && st.ready nd.own.isNone then
        let p := st.combine (decide (c.cls = 0)) (l.cbind[c.cls.toNat]'c.cls.isLt)
        let rd1 := { rd with nodes := rd.nodes.set n { st with result := some p } }
        (s.onLaunch r.launch fun l => l.setSlot (x.setRound rd1)).passOn r c rd1 n p
      else s
    | _, _ => s

/-- Changes a round of a launch. -/
def State.onRound (s : State) (r : RoundRef) (f : Comm → Round → Round) : State :=
  s.onLaunch r.launch fun l => match l.comm? r.comm with
    | none => l
    | some c => let x := l.slotOf r.comm r.slot; l.setSlot (x.setRound (f c (x.roundOf c r.tag)))

/-- The round as it stands. -/
def State.round? (s : State) (r : RoundRef) : Option Round :=
  let l := s.lch r.launch
  (l.comm? r.comm).map fun c => (l.slotOf r.comm r.slot).roundOf c r.tag

/-- Changes a node of a round. -/
def Round.onNode (rd : Round) (n : Nat) (f : NodeSt → NodeSt) : Round :=
  match rd.nodes[n]? with
  | some st => { rd with nodes := rd.nodes.set n (f st) }
  | none => rd

/-- A node that has neither an own position nor children: nothing arrives there. -/
def CommNode.empty (n : CommNode) : Bool := n.own.isNone && n.ch.isEmpty

/-- The first contribution of a tag opens the round (R319): the slot forgets the tag that it remembered, and the nodes of this package
at which nothing arrives have all their inputs. Other packages that hold such nodes are told, unless they told it. -/
def State.openRound (s : State) (r : RoundRef) (c : Comm) (tell : Bool) : State :=
  let x := (s.lch r.launch).slotOf r.comm r.slot
  let rd := x.roundOf c r.tag
  if rd.opened then s
  else
    let s1 := s.onLaunch r.launch fun l => l.setSlot ({ x with remembered := none }.setRound { rd with opened := true })
    let s2 := if tell then (c.others s.fabric.position CommNode.empty).foldl (fun s k => s.sendColl r c k (.notice .opened)) s1 else s1
    ((List.range c.nodes.length).filter fun n => ((c.nodes[n]?).map CommNode.empty).getD false).foldl (fun s n => s.nodeSend r n) s2

/-- A duplicate contribution was dropped: it shows in the round's status, at the root (R165, R166). -/
def State.noteDup (s : State) (r : RoundRef) (c : Comm) : State :=
  let s1 := s.onRound r fun _ rd => { rd with dup := true }
  if c.nodeAt s.fabric.position c.root then s1 else s1.sendColl r c (c.pkgOf c.root) (.notice .dup)

/-- Cycles of a microsecond: the core clock is 940 MHz (00_scope). -/
def cyclesPerUs : Nat := 940

/-- TMO of a communicator in cycles: 0 means 200 µs (R316). -/
def Comm.timeout (c : Comm) : Nat := (if c.tmo = 0 then 200 else c.tmo) * cyclesPerUs

/-- The root's timer has run out on the round (R320). -/
def Round.expired (rd : Round) (c : Comm) (now : Nat) : Bool :=
  rd.collect && ((rd.nodes[c.root]?).bind (·.result)).isNone && decide (rd.started + c.timeout ≤ now)

/-- A contribution that reaches its node now is later than the timer allows, and is left out (R320, R325). -/
def Round.late (rd : Round) (c : Comm) (now : Nat) : Bool := rd.expired c now && decide (rd.started + c.timeout < now)

/-- A contribution reaches its node on this package (R165, R319): the first of a tag opens the round; one with the tag of the slot's
last collected round is dropped, and so is one that finds its node closed or comes after the root's timer; a second one is
dropped and sets DUP. -/
def State.arriveOwn (s : State) (r : RoundRef) (c : Comm) (n pos : Nat) (data : Lanes) : State :=
  let l := s.lch r.launch
  let x := l.slotOf r.comm r.slot
  let rd := x.roundOf c r.tag
  if x.remembered = some r.tag ∨ rd.late c s.cycle.toNat then s
  else
    match rd.nodes[n]? with
    | none => s
    | some st =>
      if st.closed then s
      else match st.own with
        | .here _ => s.noteDup r c
        | .missing => s
        | .awaited =>
          ((s.openRound r c true).onRound r fun _ rd => rd.onNode n fun st =>
            { st with own := .here (contribution (l.cbind[c.cls.toNat]'c.cls.isLt) pos data) }).nodeSend r n

/-- The input of a node that a child's result is. -/
def CommNode.inputOf (nd : CommNode) (child : Nat) : Option Nat :=
  (List.range nd.ch.length).find? fun i => decide (nd.ch[i]? = some child)

/-- An input of a node will not come: the own one, or a child's. It is missing once the close has reached the node (R320, R321). -/
def NodeSt.lose (st : NodeSt) : Option Nat → NodeSt
  | none => if st.own = .awaited then { st with own := .missing } else st
  | some i => if st.ch[i]? = some NodeIn.awaited then { st with ch := st.ch.set i .missing } else st

/-- The result of a child does not come to a node on this package. -/
def State.loseChild (s : State) (r : RoundRef) (c : Comm) (n child : Nat) (aborted : Bool) : State :=
  match ((c.nodes[n]?).bind fun nd => nd.inputOf child) with
  | none => s
  | some i => (s.onRound r fun _ rd => { rd with aborted := rd.aborted || aborted }.onNode n fun st => st.lose (some i)).nodeSend r n

/-- The result of a child reaches a node on this package; one that holds contributions opens the round there. The slot drops
contributions of the tag that it remembers, and takes what answers a close without any (R319, R320). -/
def State.arriveChild (s : State) (r : RoundRef) (c : Comm) (n child : Nat) (p : Partial) (dup aborted : Bool) : State :=
  if ((s.lch r.launch).slotOf r.comm r.slot).remembered = some r.tag ∧ p.posns ≠ 0 then
    if ((s.round? r).map (·.collect)).getD false then s.loseChild r c n child false else s
  else match c.nodes[n]? with
    | none => s
    | some nd =>
      match nd.inputOf child with
      | none => s
      | some i =>
        ((if p.posns = 0 then s else s.openRound r c true).onRound r fun _ rd =>
          { rd with dup := rd.dup || dup, aborted := rd.aborted || aborted }.onNode n fun st =>
            if st.ch[i]? = some NodeIn.awaited then { st with ch := st.ch.set i (.here p) } else st).nodeSend r n

/-- The elements of a packet. -/
def packetElems (l : List (BitVec 80 × BitVec 3)) : List Elem :=
  l.map fun p => ⟨p.1, p.2.getLsbD 0, p.2.getLsbD 1, p.2.getLsbD 2⟩

/-- The end of a round at a package (R319): the slot remembers the tag. -/
def State.forgetRound (s : State) (r : RoundRef) : State :=
  s.onLaunch r.launch fun l =>
    let y := l.slotOf r.comm r.slot
    l.setSlot { y with remembered := some r.tag, rounds := y.rounds.filter (·.tag ≠ r.tag) }

/-- What another package tells about a round: it has been opened; its collection has begun, and a result that the root holds goes
there; a duplicate was dropped; it has ended. -/
def State.hearNotice (s : State) (r : RoundRef) (c : Comm) : RoundNotice → State
  | .opened => if ((s.lch r.launch).slotOf r.comm r.slot).remembered = some r.tag then s else s.openRound r c false
  | .collect k =>
    let s1 := s.onRound r fun _ rd => if rd.collect then rd else { rd with collect := true, started := s.cycle.toNat, collector := some k }
    match s1.round? r with
    | some rd => match (rd.nodes[c.root]?).bind (·.result) with
      | some p => s1.passOn r c rd c.root p
      | none => s1
    | none => s1
  | .dup => s.onRound r fun _ rd => { rd with dup := true }
  | .ended => s.forgetRound r

/-- The root of a round that this package collects stands on a package that has been declared dead: once the timer has run out, the
collection ends with nothing (R166, R320). -/
def State.rootSilent (s : State) (r : RoundRef) (c : Comm) : State :=
  match s.round? r with
  | some rd =>
    if s.fabric.dead.contains (c.pkgOf c.root) && rd.expired c s.cycle.toNat then
      s.onRound r fun _ rd => { rd with aborted := true }.onNode c.root fun st => { st with result := some (identityPart 0) }
    else s
  | none => s

/-- NODE_INPUT_ARRIVAL (R320, R321). What comes from another package comes over an ACTIVE port (R307). -/
def execNodeInputArrival (r : RoundRef) (node : Nat) (input : NodeInput) (s : State) : Host.Outcome State Fault Refusal :=
  let l := s.lch r.launch
  .next <| match l.comm? r.comm with
    | none => s
    | some c =>
      let x := l.slotOf r.comm r.slot
      let rd := x.roundOf c r.tag
      let here := c.nodeAt s.fabric.position node
      match input, c.nodes[node]? with
      | .own, some nd =>
        match nd.own, x.flight.find? (fun q => decide (q.1 = r.tag) && decide (nd.own = some q.2.1)) with
        | some pos, some q =>
          let s1 := s.onLaunch r.launch fun l => l.setSlot { x with flight := x.flight.erase q }
          s1.arriveOwn r c node pos q.2.2
        | _, _ => s
      | .child n, some _ => match (rd.nodes[n]?).bind (·.result) with
        | some p => if here then s.arriveChild r c node n p false false else s
        | none => s
      | .remoteOwn ident words, some nd =>
        match nd.own with
        | some pos =>
          if !here ∨ !s.fabric.up then s
          else if ident = c.ident then s.arriveOwn r c node pos words
          else s.onRound r fun _ rd => rd.onNode node fun st => st.lose none
        | none => s
      | .remoteChild n ident words exact flags posns dup aborted, some _ =>
        let p : Partial := ⟨words, packetElems exact, flags, posns⟩
        if !s.fabric.up then s
        else if !here ∧ node = c.root ∧ n = c.root then
          -- the root of a tree on another package answers to this package's collection
          if ident = c.ident then
            s.onRound r fun _ rd => { rd with dup := rd.dup || dup, aborted := rd.aborted || aborted }.onNode n fun st => { st with result := some p }
          else s
        else if here ∧ !c.nodeAt s.fabric.position n then
          if ident = c.ident then s.arriveChild r c node n p dup aborted else s.loseChild r c node n false
        else s
      | .dropped child, some nd =>
        match child with
        | none =>
          if !here then s
          else
            let s1 := s.onLaunch r.launch fun l => l.setSlot { x with flight := x.flight.filter fun q => !(decide (q.1 = r.tag) && decide (nd.own = some q.2.1)) }
            (s1.onRound r fun _ rd => { rd with aborted := true }).nodeSend r node
        | some n =>
          if here then (s.loseChild r c node n true).onRound r fun _ rd => { rd with aborted := true }
          else if node = c.root ∧ n = c.root then s.rootSilent r c
          else s
      | .notice ident n, some _ => if ident = c.ident ∧ s.fabric.up then s.hearNotice r c n else s
      | _, none => s

/-- ROUTER_TIMEOUT (R320): the root's timer has run out on a round that is not complete. -/
def execRouterTimeout (r : RoundRef) (s : State) : Host.Outcome State Fault Refusal :=
  .next (s.onRound r fun c rd =>
    if c.nodeAt s.fabric.position c.root && rd.expired c s.cycle.toNat then { rd with closing := true } else rd)

/-- The close may reach a node of this package: the root that has sent it, from a parent that it has reached, or over an ACTIVE port from
another package. -/
def Comm.closeMayReach (c : Comm) (pkg : Nat) (up : Bool) (rd : Round) (n : Nat) : Bool :=
  c.nodeAt pkg n &&
  if n = c.root then rd.closing
  else match (c.nodes[n]?).map (·.parent) with
    | some p => if c.nodeAt pkg p then ((rd.nodes[p]?).map (·.closed)).getD false else up
    | none => false

/-- The close goes on down the tree to the children of a node that stand on other packages. -/
def State.sendClose (s : State) (r : RoundRef) (c : Comm) (n : Nat) : State :=
  (((c.nodes[n]?).map (·.ch)).getD []).foldl (fun s k => if c.nodeAt s.fabric.position k then s else s.sendColl r c (c.pkgOf k) (.close k)) s

/-- ROUND_CLOSE (R320): an own input that has not arrived is missing; the node answers once its children have. -/
def execRoundClose (r : RoundRef) (node : Nat) (s : State) : Host.Outcome State Fault Refusal :=
  .next <| match s.round? r, (s.lch r.launch).comm? r.comm with
    | some rd, some c =>
      if c.closeMayReach s.fabric.position s.fabric.up rd node && !((rd.nodes[node]?).map (·.closed)).getD true then
        ((s.onRound r fun _ rd => rd.onNode node fun st =>
          { st with closed := true, own := if st.own = .awaited then .missing else st.own }).sendClose r c node).nodeSend r node
      else s
    | _, _ => s

/-! ## CRPUT (R165) -/

/-- The communicator, slot and tag that an instruction names. -/
structure CollArgs where
  comm : Comm
  pos : Nat
  slot : Nat
  tag : BitVec 16
  deriving DecidableEq, Repr

/-- The communicator that s[B] names, with the position of the running group (R165). -/
def collArgs (f : Fields) (s : State) : Option CollArgs :=
  let b := s.cur.regs.getS f.b
  if bitsOf b 16 16 ≠ 0 then none
  else match (s.lchOf s.cur).comm? (bitsOf b 0 12) with
    | none => none
    | some c => (c.posOf s.fabric.position s.cur).map fun p => ⟨c, p, bitsOf b 12 4, f.w2.extractLsb' 0 16⟩

/-- Word 2 holds a tag (R157). -/
def tagErr (f : Fields) : Option FieldErr := if bitsOf f.w2 16 16 = 0 then none else some ⟨6, f.w2⟩

/-- Enters a collective of the running group. -/
def State.enterColl (s : State) (o : CollOp) : State :=
  { s with cur := { s.cur with pend := { s.cur.pend with co := s.cur.pend.co ++ [o] } } }

/-- CRPUT (R165). -/
def execCrput (f : Fields) (s : State) : Host.Outcome State Fault Refusal :=
  let plan := { planOf 0x6C f with more := fun _ => tagErr f }
  .next (issue (.crput f) plan (fun s =>
    match collArgs f s with
    | none => s.operandTrap (.crput f) 2 (s.cur.regs.getS f.b)
    | some x =>
      if f.cls ≠ x.comm.cls then s.operandTrap (.crput f) 4 ((0 : BitVec 28) ++ f.cls)
      else if s.cur.full 3 then .wait s
      else
        let v := s.cur.regs.getV f.a
        let e := s.ent f.cls
        let data := Lanes.mk fun l => if maskBit s.cur.exec l then v.get l else addIdentity e
        .done (s.enterColl (.put x.comm.index x.slot x.tag x.pos data s.cur.exec (encode (.crput f))))) s)

/-- CONTRIBUTION_ACCEPTED's effect (R165): the oldest collective of the group is a contribution; the router takes it towards the node
of its position, here or on another package. -/
def State.acceptPut (s : State) (g : GRef) : State :=
  match s.group? g with
    | none => s
    | some gr =>
      match gr.pend.co with
      | .put comm slot tag pos data _ _ :: rest =>
        let s1 := s.onGroup g fun h => { h with pend := { h.pend with co := rest } }
        let l := s.lchOf gr
        match l.comm? comm with
        | none => s1
        | some c =>
          if c.nodeAt s.fabric.position (c.nodeOf pos) then
            s1.onLaunch gr.launch fun l => let x := l.slotOf comm slot; l.setSlot { x with flight := x.flight ++ [(tag, pos, data)] }
          else
            s1.sendColl ⟨gr.launch, comm, slot, tag⟩ c (c.pkgOf (c.nodeOf pos)) (.contribution pos (laneList.flatMap fun i => bytesOfWord (data.get i)))
      | _ => s

/-- CONTRIBUTION_ACCEPTED (R165). -/
def execContributionAccepted (g : GRef) (s : State) : Host.Outcome State Fault Refusal := .next (s.acceptPut g)

/-! ## CRGET (R166) -/

/-- A collection of a round has issued: the root's timer runs (R320); a root on another package is told. -/
def State.openGet (s : State) (r : RoundRef) : State :=
  let s1 := s.onRound r fun _ rd => if rd.collect then rd else { rd with collect := true, started := s.cycle.toNat }
  match s.round? r, (s.lch r.launch).comm? r.comm with
  | some rd, some c =>
    if rd.collect || c.nodeAt s.fabric.position c.root then s1
    else s1.sendColl r c (c.pkgOf c.root) (.notice (.collect s.fabric.position))
  | _, _ => s1

/-- CRGET (R166). -/
def execCrget (f : Fields) (s : State) : Host.Outcome State Fault Refusal :=
  let plan := { planOf 0x6D f with more := fun _ => tagErr f }
  .next (issue (.crget f) plan (fun s =>
    match collArgs f s with
    | none => s.operandTrap (.crget f) 2 (s.cur.regs.getS f.b)
    | some x =>
      if x.pos ≠ x.comm.rootPos then s.operandTrap (.crget f) 2 (s.cur.regs.getS f.b)
      else if f.cls ≠ x.comm.cls then s.operandTrap (.crget f) 4 ((0 : BitVec 28) ++ f.cls)
      else if s.cur.full 3 then .wait s
      else
        let g := s.cur
        let r : RoundRef := ⟨g.launch, x.comm.index, x.slot, x.tag⟩
        let s1 := s.enterColl (.get x.comm.index x.slot x.tag g.exec f.d f.a none (encode (.crget f)))
        let s2 := s1.onRegs fun q => plan.dsts.foldl (fun (q : RegFile) y => q.setSt .empty y) q
        .done (s2.openGet r)) s)

/-- The status of a round whose root result is `p` (R166). -/
def roundStatus (c : Comm) (rd : Round) (p : Partial) : List Word :=
  let count := ((List.range c.pos.length).filter fun i => p.posns.getLsbD i).length
  let miss : DWord := (List.range c.pos.length).foldl (fun m i => if p.posns.getLsbD i then m else m ||| BitVec.ofNat 64 (2 ^ i)) 0
  let res : BitVec 2 := if count = 0 then 3 else if rd.aborted then 2 else if miss ≠ 0 then 1 else 0
  [res ++ BitVec.ofBool rd.dup ++ p.flags ++ (0 : BitVec 8) ++ rd.tag, BitVec.ofNat 32 count, miss.extractLsb' 0 32, miss.extractLsb' 32 32]

/-- The vector and status of a round that the root holds complete; a node on a dead package aborts it. -/
def Launch.collected (l : Launch) (dead : List Nat) (c : Comm) (rd : Round) : Option (Lanes × List Word) :=
  ((rd.nodes[c.root]?).bind (·.result)).map fun p =>
    let e := l.cbind[c.cls.toNat]'c.cls.isLt
    let q := if entExact e then finishExact e p else p
    let q1 := if p.posns = 0 then { q with words := Lanes.all (addIdentity e) } else q
    (q1.words, roundStatus c { rd with aborted := rd.aborted || c.nodes.any fun n => dead.contains n.pkg } q1)

/-- The round ends: every collection of it has its result, the slot remembers its tag, and the other packages of the tree hear of it
(R319). -/
def State.endRound (s : State) (r : RoundRef) (x : Lanes × List Word) : State :=
  let give := fun (o : CollOp) => match o with
    | .get comm slot tag exec d sA none ws => if comm = r.comm ∧ slot = r.slot ∧ tag = r.tag then .get comm slot tag exec d sA (some x) ws else o
    | _ => o
  let s1 := s.mapGroups (fun g => g.launch = r.launch) fun g => { g with pend := { g.pend with co := g.pend.co.map give } }
  let s2 := s1.forgetRound r
  match (s.lch r.launch).comm? r.comm with
  | some c => (c.others s.fabric.position fun _ => true).foldl (fun s k => s.sendColl r c k (.notice .ended)) s2
  | none => s2

/-- The oldest collective of a group is a collection whose round has ended: it retires. -/
def Group.takeRound (g : Group) : Group :=
  match g.pend.co with
  | .get _ _ _ exec d sA (some x) _ :: rest =>
    let r1 := (g.regs.putV d exec x.1).setSt .full (.v d)
    let r2 := (x.2.zip (List.range 4)).foldl (fun (r : RegFile) p => r.writeS (sA + BitVec.ofNat 8 p.2) p.1) r1
    { g with regs := r2, pend := { g.pend with co := rest } }
  | _ => g

/-- CRGET_RETIRE (R166). -/
def execCrgetRetire (g : GRef) (s : State) : Host.Outcome State Fault Refusal :=
  .next <| match s.group? g with
    | none => s
    | some gr =>
      match gr.pend.co with
      | .get comm slot tag _ _ _ none _ :: _ =>
        let l := s.lchOf gr
        match l.comm? comm with
        | none => s
        | some c =>
          match l.collected s.fabric.dead c ((l.slotOf comm slot).roundOf c tag) with
          | none => s
          | some x =>
            -- a second collection of the round retires together with the first
            let s1 := s.endRound ⟨gr.launch, comm, slot, tag⟩ x
            s1.mapGroups (fun h => h.launch = gr.launch) fun h => (List.range 64).foldl (fun h _ => h.takeRound) h
      | .get _ _ _ _ _ _ (some _) _ :: _ => s.onGroup g Group.takeRound
      | _ => s

end Sys2Proof.Machine
end

