-- ==== Sys2Proof/Machine/Fetch.lean ====
section
/-! DEFINITION. Instruction fetch (R32, R155, R217, R329). -/

namespace Sys2Proof.Machine

/-- What a fetch gives. -/
inductive Fetched where
  | words (ws : List Word) (s : State)
  | trap (t : TrapInfo)
  | poison (addr : DWord)
  deriving DecidableEq, Repr

/-- The trap of a fetch: address and kind 15 in every lane (R32). -/
def fetchTrap (cause : Nat) (exec : Word) (addr : Nat) : TrapInfo := .all cause exec (addrLo addr) (addrHi addr) 15 0

/-- Undoes stores, the latest first: the bytes as they stood before them. -/
def undoStores (read : Nat → Byte) (l : List CodeStore) : Nat → Byte :=
  l.foldr (fun c f => fun a => (byteAt c.old a).getD (f a)) read

/-- A group sees a store into a self-modifiable page in every fetch: its launch, or what that was before a resume, has executed
`CODESYNC` since (R156), or its core discarded what it held then (R217). -/
def CodeStore.seenBy (c : CodeStore) (l : Launch) (core : Nat) : Bool :=
  (l.id :: l.past).any c.synced.contains || c.cores.contains core

/-- The bytes of a sector that a fetch by a group sees: of each store into a self-modifiable page that no `CODESYNC` has made it
see, all bytes or none, a free choice (R155, log 24). -/
def State.fetchSector (s : State) (g : Group) (sector : Nat) : List Byte × State :=
  let l := s.mem.code.filter (·.sector = sector)
  let base := undoStores (fun a => s.mem.bytes.read a) l
  let seen := (l.zip (List.range l.length)).filter fun p =>
    p.1.seenBy (s.lchOf g) (s.coreOf g) || Config.freeBool (s.fresh + p.2)
  let view := seen.foldl (fun f p => fun a => (byteAt p.1.new a).getD (f a)) base
  ((span (sector * 32) (sector * 32 + 32)).map view, { s with fresh := s.fresh + l.length })

/-- The trap of the first of `n` words of the instruction at `pc` that cannot be fetched. The spec speaks of a program counter in the
scratchpad or stack window alone: a later word there raises ACCESS_VIOLATION with the program counter too (DEDUCED, log 159). -/
def State.fetchFault (s : State) (g : Group) (exec : Word) (pc : Nat) : Nat → Nat → Option TrapInfo
  | 0, _ => none
  | n + 1, a =>
    if window a = 0xFE ∨ window a = 0xFD then some (fetchTrap Cause.accessViolation exec pc)
    else match s.codePage g a with
      | none => some (fetchTrap Cause.pageFault exec a)
      | some (i, _) =>
        if s.mem.beyond i then some (fetchTrap Cause.capacity exec a) else s.fetchFault g exec pc n ((a + 4) % 2 ^ 56)

/-- Reads `n` words of an instruction from an address, in order, where all can be fetched; the sector that the last word came from is
at hand, so that the instruction takes all its words in a sector from one view of it (R155). A marked word is consumed (R329). -/
def State.readWords (s : State) (g : Group) : Nat → Nat → Option (Nat × List Byte) → List Word → Fetched
  | 0, _, _, acc => .words acc.reverse s
  | n + 1, a, held, acc => match s.codePage g a with
    | none => .words acc.reverse s
    | some (i, _) =>
      let pa := i * 65536 + a % 65536
      if s.marked (pa / 32) then .poison (BitVec.ofNat 64 (pa / 32 * 32))
      else
        let (bytes, s1) := match held with
          | some (x, b) => if x = pa / 32 then (b, s) else s.fetchSector g (pa / 32)
          | none => s.fetchSector g (pa / 32)
        let b := fun k => bytes.getD (pa % 32 + k) 0
        s1.readWords g n ((a + 4) % 2 ^ 56) (some (pa / 32, bytes)) (wordOfBytes (b 0) (b 1) (b 2) (b 3) :: acc)

/-- Fetches `n` words of the instruction at `pc`: a word that cannot be fetched traps before a marked one is consumed (R32). -/
def State.fetchWords (s : State) (g : Group) (exec : Word) (pc n : Nat) : Fetched :=
  match s.fetchFault g exec pc n pc with
  | some t => .trap t
  | none => s.readWords g n pc none []

/-- Fetches the word at an address (R31, R32). -/
def State.fetchWord (s : State) (g : Group) (exec : Word) (pc : Pc) : Fetched := s.fetchWords g exec pc.toNat 1

/-- The first word at an address as it stands, marked or not: its LEN says which words the instruction has. -/
def State.peekWord (s : State) (g : Group) (a : Nat) : Word := match s.codePage g a with
  | none => 0
  | some (i, _) =>
    let b := fun k => (s.fetchSector g ((i * 65536 + a % 65536) / 32)).1.getD (a % 32 + k) 0
    wordOfBytes (b 0) (b 1) (b 2) (b 3)

/-- Fetches the instruction at an address: the words that LEN of the first names (R30, R32), in one pass. -/
def State.fetchInstr (s : State) (g : Group) (exec : Word) (pc : Pc) : Fetched :=
  match s.fetchFault g exec pc.toNat 1 pc.toNat with
  | some t => .trap t
  | none => s.fetchWords g exec pc.toNat (formOf (s.peekWord g pc.toNat)).words

end Sys2Proof.Machine
end

