-- ==== Sys2Proof/Machine/Control.lean ====
section
/-! DEFINITION. Control flow, splits, joins, masks and traps (R73 to R98). -/

namespace Sys2Proof.Machine

/-! ## Branches and calls (R74, R75) -/

/-- A direct target: pc plus the signed distance in word 2 (R74). -/
def direct (s : State) (f : Fields) : Pc := s.cur.sp.pc + f.w2.signExtend 56

/-- Jumps to an indirect target, whose bits [1:0] must be zero (R74). -/
def indirect (i : Instr) (s s1 : State) (t : DWord) : Res :=
  if t.extractLsb' 0 2 = 0 then .jump s1 (t.extractLsb' 0 56) else s.operandTrap i 1 (t.extractLsb' 0 32)

/-- The address of the next instruction, zero-extended: the link of a call (R75). -/
def link (s : State) (len : Nat) : DWord := (0 : BitVec 8) ++ (s.cur.sp.pc + BitVec.ofNat 56 len)

/-- NOP (R75). -/
def execNop (s : State) : Host.Outcome State Fault Refusal := .next (s.retire .nop)

/-- BRA (R75). -/
def execBra (f : Fields) (s : State) : Host.Outcome State Fault Refusal :=
  .next (issue (.bra f) (planAlways 0x01 f) (fun s => .jump s (direct s f)) s)

/-- BRX (R75). -/
def execBrx (f : Fields) (s : State) : Host.Outcome State Fault Refusal :=
  .next (issue (.brx f) (planAlways 0x03 f) (fun s => indirect (.brx f) s s (s.cur.regs.getPair f.a)) s)

/-- CALL (R75). -/
def execCall (f : Fields) (s : State) : Host.Outcome State Fault Refusal :=
  .next (issue (.call f) (planAlways 0x04 f) (fun s =>
    .jump (s.onRegs fun r => r.writePair f.d (link s 12)) (direct s f)) s)

/-- CALLX (R75): the target is read before the link is written. -/
def execCallx (f : Fields) (s : State) : Host.Outcome State Fault Refusal :=
  .next (issue (.callx f) (planAlways 0x05 f) (fun s =>
    indirect (.callx f) s (s.onRegs fun r => r.writePair f.d (link s 4)) (s.cur.regs.getPair f.a)) s)

/-- RET (R75). -/
def execRet (f : Fields) (s : State) : Host.Outcome State Fault Refusal :=
  .next (issue (.ret f) (planAlways 0x06 f) (fun s => indirect (.ret f) s s (s.cur.regs.getPair f.a)) s)

/-! ## Dividing (R77) -/

/-- The effect of BRC (R77). The instruction is folded before the new split copies SIG (R333). An entry in the overflow area is
stored with V = 1 (DEDUCED, log 144). The new entry's INH is clear, inside a handler too (DESIGN CHOICE, log 170); what the group has
outstanding stays with the dividing split (DESIGN CHOICE, log 175). -/
def brcEffect (f : Fields) (s : State) : Res :=
  let g := s.cur
  let taken := g.regs.getK f.a &&& g.exec
  let stay := g.exec &&& ~~~g.regs.getK f.a
  if taken = 0 then .done s
  else if stay = 0 then .jump s (direct s f)
  else
    let s1 := s.foldSp (.brc f)
    let e := s1.cur.sp
    let child : Split := { v := true, st := .ready, pc := direct s f, mask := taken, fpf := e.fpf, clsf := e.clsf, sig := e.sig
                           inh := false }
    let parent : Split := { e with mask := stay, pc := e.pc + 12 }
    match g.freeNum with
    | some n =>
      .stay (State.checkPartition s { s1 with cur := (s1.cur.setSp parent).setEntry n child })
    | none =>
      if g.ovf < 16 then
        let s2 := s1.setOvf g.ovf { child with st := .dormant }
        .stay (State.checkPartition s { s2 with cur := { (s2.cur.setSp parent) with
          ovf := g.ovf + 1, ovfWait := s2.cur.ovfWait ++ [0] } })
      else .trap s (.all Cause.splitOverflow g.exec taken 16 0 0)

/-- BRC (R77). -/
def execBrc (f : Fields) (s : State) : Host.Outcome State Fault Refusal :=
  .next (issue (.brc f) (planAlways 0x02 f) (brcEffect f) s)

/-! ## Joins (R79 to R82) -/

/-- The join slot that a field names. -/
def slotOf (x : BitVec 8) : BitVec 3 := x.extractLsb' 0 3

/-- JSET (R79). -/
def execJset (f : Fields) (s : State) : Host.Outcome State Fault Refusal :=
  .next (issue (.jset f) (planAlways 0x08 f) (fun s =>
    let j := slotOf f.d
    if s.waitsOn j then .trap s (.all Cause.convergence s.cur.exec ((0 : BitVec 24) ++ f.d) 0 0 0)
    else .done { s with cur := s.cur.setJoin j { rejoin := s.cur.regs.getK f.a, arrived := 0, pc := direct s f, armed := true } }) s)

/-- The effect of JARV (R80). -/
def jarvEffect (f : Fields) (s : State) : Res :=
  let g := s.cur
  let j := slotOf f.d
  let x := g.join j
  let lanes := g.sp.lanes
  if !x.armed then .jump s x.pc
  else if lanes &&& ~~~x.rejoin ≠ 0 then
    .trap s (.all Cause.convergence g.exec ((0 : BitVec 24) ++ f.d) (lanes &&& ~~~x.rejoin) 0 0)
  else
    let g1 := g.setSp { g.sp with st := .waiting, jslot := j, wait := 0 }
    let s1 := { s with cur := g1.setJoin j { x with arrived := x.arrived ||| lanes } }
    .stay (State.checkPartition s (s1.checkMerge j))

/-- JARV (R80). -/
def execJarv (f : Fields) (s : State) : Host.Outcome State Fault Refusal :=
  .next (issue (.jarv f) (planAlways 0x09 f) (jarvEffect f) s)

/-- JQRY (R81). -/
def execJqry (f : Fields) (s : State) : Host.Outcome State Fault Refusal :=
  .next (issue (.jqry f) (planAlways 0x0A f) (fun s =>
    let x := s.cur.join (slotOf f.a)
    .done (s.onRegs fun r => r.writeS f.d (if x.armed then x.rejoin &&& s.cur.ctl.live &&& ~~~x.arrived else 0))) s)

/-- The debugger freezes the entry: every one but that which it steps (R98). -/
def Group.halts (g : Group) (n : BitVec 3) : Bool :=
  match g.fydb with
  | .off => false
  | .attached => false
  | .stopped => true
  | .stepping l => decide (l.head? ≠ some n)

/-- An entry as SPLQ shows it: a ready entry that the debugger freezes, or that is parked, reads halted
(R12, log 85). -/
def Group.shown (g : Group) (n : BitVec 3) : Split :=
  let e := g.entry n
  if e.v && decide (e.st = .ready ∨ e.st = .waiting) && (g.parked.isSome || g.halts n) then { e with st := .halted } else e

/-- Word `w` of split entry `n` (R82). -/
def splitWord (g : Group) (n : BitVec 3) (w : BitVec 3) : Word :=
  if w = 6 then (g.entry n).park
  else if w = 7 then g.ctl.live
  else (g.shown n).words.getD w.toNat 0

/-- SPLQ (R82). -/
def execSplq (f : Fields) (s : State) : Host.Outcome State Fault Refusal :=
  .next (issue (.splq f)
    { planAlways 0x0B f with more := fun _ => if f.w2 &&& ~~~0x77#32 = 0 then none else some ⟨6, f.w2⟩ }
    (fun s => .done (s.onRegs fun r => r.writeS f.d (splitWord s.cur (f.w2.extractLsb' 0 3) (f.w2.extractLsb' 4 3)))) s)

/-! ## Leaving and yielding (R83, R84) -/

/-- Marks the gang of the running group as ended when every one of its groups has (R264). -/
def State.noteGangEnd (s : State) : State :=
  let g := s.cur
  let gang := s.gangOf g
  let l := s.lchOf g
  if (s.groups.filter fun h => l.inGang gang g.run h.ref).all (·.ended) then
    s.onLaunch g.launch fun l => l.onGang gang g.run fun k => if k.st = .placed then { k with st := .ended } else k
  else s

/-- EXIT (R83): LIVE loses the split's lanes, the entry is freed, the pop and the merges run, and the group ends when
no entry is left. -/
def exitEffect (s : State) : Res :=
  let s0 := s.foldSp .exit
  let g := s0.cur
  let live := g.ctl.live &&& ~~~g.sp.lanes
  let s1 := { s0 with cur := { (g.freeEntry g.running) with ctl := { g.ctl with live := live } } }
  let s2 := State.checkPartition s s1.pop.checkMerges
  if s2.cur.validNums.isEmpty && s2.cur.ovf = 0 && s2.cur.isRef g.ref then
    .stay ({ s2 with cur := { s2.cur with ended := true } }).checkBars.noteGangEnd
  else if s2.cur.isRef g.ref then .stay s2.checkBars
  else .stay s2

/-- EXIT (R83). -/
def execExit (s : State) : Host.Outcome State Fault Refusal :=
  .next (issue .exit (planAlways 0x07 { form := .b }) exitEffect s)

/-- YIELD (R84): the split is placed last in its group's order; the group gives up its next port A opportunity. -/
def execYield (s : State) : Host.Outcome State Fault Refusal :=
  .next (issue .yield (planAlways 0x0C { form := .b }) (fun s =>
    .done { s with cur := { s.cur with iss := { s.cur.iss with
      yielded := true, last := (s.cur.iss.last.filter (· ≠ s.cur.running)) ++ [s.cur.running] } } }) s)

/-! ## Traps (R95, R96) -/

/-- TRAP (R95). -/
def execTrap (f : Fields) (s : State) : Host.Outcome State Fault Refusal :=
  .next (issue (.trap f) (planAlways 0x0D f) (fun s => .trap s (.all Cause.userTrap s.cur.exec f.w2 0 0 0)) s)

/-- BKPT (R95). -/
def execBkpt (s : State) : Host.Outcome State Fault Refusal :=
  .next (issue .bkpt (planAlways 0x0F { form := .b }) (fun s => .trap s (.all Cause.bkpt s.cur.exec 0 0 0 0)) s)

/-- The check that opens TRET: in user mode a handler must be running (R96). -/
def tretAllowed (s : State) : Bool := s.cur.supervisor || s.cur.sp.inh

/-- ILLEGAL_CONVERGENCE of TRET outside a handler (R95). -/
def tretTrap (s : State) : Res := .trap s (.all Cause.convergence s.cur.exec 0 0 0 0)

/-- TRET (R96): the instruction at `$xpc` executes again. -/
def execTret (f : Fields) (s : State) : Host.Outcome State Fault Refusal :=
  .next (issue (.tret f) (planAlways 0x0E f) (fun s =>
    if tretAllowed s then .stay (s.trapReturn s.cur.trapView.pc) else tretTrap s) s)

/-- TRET.next (R96): past the instruction at `$xpc`, whose length is taken from LEN of the word there (R31). Where a handler has left
bits [1:0] of `$xpc` set, LEN is read at that address and the split resumes at the aligned one (DESIGN CHOICE, log 167). -/
def tretNextEffect (s : State) : Res :=
  if !tretAllowed s then tretTrap s
  else match s.fetchWord s.cur s.cur.exec s.cur.trapView.pc with
    | .words (w :: _) s1 => .stay (s1.trapReturn (s.cur.trapView.pc + BitVec.ofNat 56 (formOf w).bytes))
    | .words [] s1 => .stay s1
    | .trap t => .trap s t
    | .poison a => .stay (s.killPoison s.cur 6 a s.cur.running.toNat s.cur.sp.pc)

/-- TRET.next (R96). -/
def execTretNext (f : Fields) (s : State) : Host.Outcome State Fault Refusal :=
  .next (issue (.tretNext f) (planAlways 0x0E f) tretNextEffect s)

/-! ## Signatures (R97) -/

/-- SIGCHK (R97): not folded; a mismatch kills the gang. -/
def execSigchk (f : Fields) (s : State) : Host.Outcome State Fault Refusal :=
  .next (issue (.sigchk f) (planAlways 0x10 f) (fun s =>
    if s.cur.sp.sig = f.w2 then .stay ((s.onSp fun e => { e with sig := 0xFFFFFFFF }).goto (s.cur.sp.pc + 12))
    else .stay (s.killCur Cause.signature 8 s.cur.sp.sig f.w2)) s)

/-- SIGRD (R97). -/
def execSigrd (f : Fields) (s : State) : Host.Outcome State Fault Refusal :=
  .next (issue (.sigrd f) (planAlways 0x11 f) (fun s => .done (s.onRegs fun r => r.writeS f.d s.cur.sp.sig)) s)

/-! ## Masks (R89) -/

/-- A mask instruction of two mask sources. -/
def maskOp (i : Instr) (f : Fields) (op : Word → Word → Word) (s : State) : State :=
  issue i (planAlways 0x12 f) (fun s =>
    .done (s.onRegs fun r => r.setK f.d (op (r.getK f.a) (r.getK f.b)))) s

/-- KAND (R89). -/
def execKand (f : Fields) (s : State) : Host.Outcome State Fault Refusal := .next (maskOp (.kand f) f (· &&& ·) s)
/-- KOR (R89). -/
def execKor (f : Fields) (s : State) : Host.Outcome State Fault Refusal := .next (maskOp (.kor f) f (· ||| ·) s)
/-- KXOR (R89). -/
def execKxor (f : Fields) (s : State) : Host.Outcome State Fault Refusal := .next (maskOp (.kxor f) f (· ^^^ ·) s)
/-- KANDN (R89). -/
def execKandn (f : Fields) (s : State) : Host.Outcome State Fault Refusal :=
  .next (maskOp (.kandn f) f (fun a b => a &&& ~~~b) s)
/-- KNOT (R89). -/
def execKnot (f : Fields) (s : State) : Host.Outcome State Fault Refusal := .next (maskOp (.knot f) f (fun a _ => ~~~a) s)
/-- KMOV (R89). -/
def execKmov (f : Fields) (s : State) : Host.Outcome State Fault Refusal := .next (maskOp (.kmov f) f (fun a _ => a) s)

/-- Ones of a word. -/
def popcount (x : Word) : Nat := (laneList.filter (maskBit x)).length

/-- Index of the lowest set bit, 32 when there is none. -/
def lowestBit (x : Word) : Nat := match laneList.find? (maskBit x) with
  | some l => l.val
  | none => 32

/-- KPOPC (R89). -/
def execKpopc (f : Fields) (s : State) : Host.Outcome State Fault Refusal :=
  .next (issue (.kpopc f) (planAlways 0x13 f) (fun s =>
    .done (s.onRegs fun r => r.writeS f.d (BitVec.ofNat 32 (popcount (r.getK f.a))))) s)

/-- KFFS (R89). -/
def execKffs (f : Fields) (s : State) : Host.Outcome State Fault Refusal :=
  .next (issue (.kffs f) (planAlways 0x13 f) (fun s =>
    .done (s.onRegs fun r => r.writeS f.d (BitVec.ofNat 32 (lowestBit (r.getK f.a))))) s)

/-- KVOTE (R89). -/
def execKvote (f : Fields) (s : State) : Host.Outcome State Fault Refusal :=
  .next (issue (.kvote f) { planAlways 0x13 f with vector := true } (fun s =>
    .done (s.onRegs fun r => r.setK f.d (s.cur.exec &&& maskOf fun l => decide ((r.getV f.a).get l ≠ 0)))) s)

/-- KTOV (R89). -/
def execKtov (f : Fields) (s : State) : Host.Outcome State Fault Refusal :=
  .next (issue (.ktov f) { planAlways 0x13 f with vector := true } (fun s =>
    .done (s.onRegs fun r => r.writeV f.d s.cur.exec (Lanes.mk fun l => if maskBit (r.getK f.a) l then 1 else 0))) s)

end Sys2Proof.Machine
end

