-- ==== Sys2Proof/Machine/Image.lean ====
section
/-! DEFINITION. Launch images (R295), their checks (R298), block records (R297), and the registration of communicators
(R315 to R318). -/

namespace Sys2Proof.Machine

/-! ## The header (R295) -/

/-- Range `i` of the ownership map. -/
def ownAt (b : List Byte) (i : Nat) : OwnRange :=
  let o := 128 + 32 * i
  ⟨fieldOf b o 8, fieldOf b (o + 8) 8, fieldOf b (o + 16) 8, fieldOf b (o + 24) 1⟩

/-- The fields of a header. -/
def imageOf (b : List Byte) : Image :=
  { flags := BitVec.ofNat 16 (fieldOf b 6 2), bindid := BitVec.ofNat 32 (fieldOf b 8 4), codever := BitVec.ofNat 32 (fieldOf b 12 4)
    entry := BitVec.ofNat 56 (fieldOf b 16 8), griddim := BitVec.ofNat 32 (fieldOf b 24 4), blockdim := BitVec.ofNat 32 (fieldOf b 28 4)
    part := BitVec.ofNat 32 (fieldOf b 32 4), nv := fieldOf b 36 2, stack := fieldOf b 40 4, wall := fieldOf b 44 4
    utvec := BitVec.ofNat 56 (fieldOf b 48 8), srseed := BitVec.ofNat 32 (fieldOf b 56 4), nextidx := fieldOf b 60 4
    spill := BitVec.ofNat 64 (fieldOf b 64 8), spillsize := BitVec.ofNat 64 (fieldOf b 72 8), nrec := fieldOf b 80 4
    own := ((List.range 16).map (ownAt b)).filter (·.kind ≠ 0) }

/-- The header keeps R295. -/
def headerKeeps (b : List Byte) : Bool :=
  let i := imageOf b
  let bd := fieldOf b 28 4
  fieldOf b 0 4 = 0x494C5946 && fieldOf b 4 2 = 1 && fieldOf b 6 2 < 16 && zeroIn b 38 2 && zeroIn b 84 44 &&
  ((List.range 16).all fun k => zeroIn b (128 + 32 * k + 25) 7) && i.griddim ≠ 0 &&
  bd % 64 = bd % 256 && bd < 8192 && 1 ≤ bd / 256 && bd / 256 ≤ 16 && 1 ≤ bd % 256 && bd % 256 ≤ 32 &&
  i.nv % 8 = 0 && 8 ≤ i.nv && i.nv ≤ 256 && i.stack % 16 = 0 && i.stack ≤ 2 ^ 20 &&
  (i.resumed || (i.codever = 0 && i.nextidx = 0 && i.nrec = 0))

/-- The partition word keeps R210. -/
def Image.partOk (i : Image) : Bool :=
  let vu := (i.part.extractLsb' 0 7).toNat
  let su := (i.part.extractLsb' 8 7).toNat
  let au := (i.part.extractLsb' 16 5).toNat
  i.part.getLsbD 7 = false && i.part.getLsbD 15 = false && i.part.extractLsb' 21 11 = 0 && au % 3 = 0 && au ≤ 24 &&
  1 ≤ vu && vu ≤ 94 && 1 ≤ su && su ≤ 94 &&
  i.nv * i.gdim * 128 ≤ vu * 16384 && 512 * i.gdim + 256 ≤ su * 16384 && vu + su + au ≤ (if i.det then 90 else 94)

/-- The end of a range's bytes. -/
def OwnRange.last (r : OwnRange) (grid : Nat) : Nat := r.base + (if r.kind = 2 then grid * r.stride else r.size)

/-- Two ranges have no byte in common. -/
def OwnRange.apart (grid : Nat) (a b : OwnRange) : Bool := a.last grid ≤ b.base || b.last grid ≤ a.base

/-- No two ranges overlap. -/
def ownApart (grid : Nat) : List OwnRange → Bool
  | [] => true
  | r :: rs => rs.all (r.apart grid) && ownApart grid rs

/-- The ownership map keeps R276: a deterministic image has at least one range, and every range lies in the global window. -/
def Image.ownOk (i : Image) : Bool :=
  let grid := i.griddim.toNat
  (!i.det || !i.own.isEmpty) &&
  i.own.all (fun r => r.kind ≤ 3 && r.base % 32 = 0 && r.size % 32 = 0 && (r.kind ≠ 2 || (r.stride % 32 = 0 && r.size ≤ r.stride)) &&
    (r.last grid ≤ 0xFD * 2 ^ 48 || (0xFF * 2 ^ 48 ≤ r.base && r.last grid ≤ 2 ^ 56))) &&
  ownApart grid i.own

/-- Bytes of a group section and of a block record (R297). -/
def Image.sectionSize (i : Image) : Nat := 9792 + 128 * i.nv
def Image.recordSize (i : Image) : Nat := 64 + i.gdim * i.sectionSize + i.scratchSize + i.na * 49160

/-- A record's place in the table: records are 64-byte aligned. -/
def Image.recordStride (i : Image) : Nat := (i.recordSize + 63) / 64 * 64

/-- Blocks that one core holds (R210). -/
def Image.perCore (i : Image) : Nat := (if i.det then 90 else 94) / max 1 i.units

/-- The save area holds every resident block (R298). -/
def Image.saveOk (i : Image) (size : Nat) : Bool :=
  640 + min i.griddim.toNat (256 * i.perCore) * i.recordSize ≤ size

/-- The code with which an image is rejected (R298). -/
def State.rejects (s : State) (asid : BitVec 16) (b : List Byte) (saveSize : Nat) : Option Nat :=
  let i := imageOf b
  if !headerKeeps b then some 8
  else if !(s.bindings.any fun x => x.id = i.bindid && x.asid = asid && x.bound) then some 6
  else if !i.partOk then some 5
  else if !i.ownOk then some 7
  else if !i.saveOk saveSize then some 8
  else none

/-! ## The code versions of launches to come (R219) -/

/-- The packets of a ring that have not been parsed. -/
def State.ringPackets (s : State) (x : Queue) (w : Nat) : Nat → Nat → List (List Byte)
  | 0, _ => []
  | n + 1, pos =>
    if w < pos + 64 then []
    else match s.ringUnit x.desc pos with
      | .error _ => []
      | .ok b =>
        let size := leNat ((b.drop 2).take 2)
        b :: s.ringPackets x w n (pos + 64 * (if x.desc.sizeOk size then size else 1))

/-- The packets of a queue that have not begun: the head, and those in the ring. -/
def State.queuedPackets (s : State) (x : Queue) : List (List Byte) :=
  (x.held.toList.map (·.bytes)) ++ match s.headWord x.desc 0 with
    | .ok w => if x.widxOk w then s.ringPackets x w (x.desc.ringBytes / 64) x.ridx else []
    | .error _ => []

/-- The code version of the resumed image at an address, where it stands in local memory. -/
def State.imageVer (s : State) (asid : BitVec 16) (va : Nat) : Option Word :=
  match s.vreadAll asid va 640 with
  | .ok b => if fieldOf b 0 4 = 0x494C5946 ∧ (imageOf b).resumed then some (imageOf b).codever else none
  | .error _ => none

/-- The versions that a launch is bound to: one that runs, one that a queued packet resumes, or one whose image the package saved and
the runtime may hold, wherever it has put it (R219, log 151). -/
def State.boundVers (s : State) (asid : BitVec 16) : List Word :=
  ((s.launches.filter fun l => l.asid = asid).map (·.img.codever)) ++
  ((s.queues.filter fun x => x.desc.enabled && decide (x.desc.asid = asid)).flatMap fun x =>
    ((s.queuedPackets x).filter fun b => b.head? = some 4).filterMap fun b => s.imageVer asid (fieldOf b 8 8 % 2 ^ 56)) ++
  ((s.laneStacks.filter (·.asid = asid)).map (·.codever))

/-- Frees the versions that no launch is bound to, and the frames that served only them; the newest is open while none is bound to
it (R219). -/
def State.releaseVers (s : State) (asid : BitVec 16) : State :=
  let v := s.mem.versOf asid
  let bound := s.boundVers asid
  let keep := v.held.filter fun x => decide (x = v.newest) || bound.contains x
  let m := s.mem.setVers { v with held := keep, isOpen := v.isOpen || !bound.contains v.newest }
  let gone := (m.ipt.filter fun p => p.2.valid && p.2.code && decide (p.2.asid = asid) && decide ((v.newest - p.2.vfirst).toNat < 2 ^ 31) &&
    !keep.any fun x => decide ((m.walk asid p.2.vpn x).map (·.1) = some p.1)).map (·.1)
  { s with mem := gone.foldl (fun m i => (m.unlink i).giveFrame i) m }

/-! ## Communicators (R315 to R318) -/

/-- A node number of a descriptor; none for 0x7F. -/
def nodeNum (x lo : Nat) : Option Nat := let n := x / 2 ^ lo % 128; if n = 127 then none else some n

/-- A position of a descriptor. -/
def posAt (b : List Byte) (i : Nat) : Nat × Nat × Nat × Nat :=
  let x := fieldOf b (64 + 8 * i) 8
  (x / 2 ^ 32, x / 2 ^ 27 % 32, x / 2 ^ 18 % 512, x / 2 ^ 11 % 128)

/-- A node of a descriptor. -/
def nodeOfDesc (b : List Byte) (i : Nat) : CommNode :=
  let x := fieldOf b (576 + 8 * i) 8
  { pkg := x / 2 ^ 55, cluster := x / 2 ^ 49 % 64, parent := x / 2 ^ 42 % 128
    ch := [nodeNum x 35, nodeNum x 28, nodeNum x 21].filterMap id, own := nodeNum x 14 }

/-- CHILD1 only with CHILD0, CHILD2 only with CHILD1. -/
def childrenPacked (x : Nat) : Bool :=
  ((nodeNum x 28).isNone || (nodeNum x 35).isSome) && ((nodeNum x 21).isNone || (nodeNum x 28).isSome)

/-- The communicator of a descriptor. -/
def commOf (index : Nat) (b : List Byte) : Comm :=
  { index := index, cls := BitVec.ofNat 4 (fieldOf b 5 1), root := fieldOf b 8 1, rootPos := fieldOf b 9 1, tmo := fieldOf b 10 2
    ident := BitVec.ofNat 64 (fieldOf b 16 8), pos := (List.range (fieldOf b 6 1)).map (posAt b)
    nodes := (List.range (fieldOf b 7 1)).map (nodeOfDesc b) }

/-- The nodes reached from a frontier in at most `n` levels. -/
def Comm.reach (c : Comm) : Nat → List Nat → List Nat
  | 0, l => l
  | n + 1, l => l ++ (if l.isEmpty then [] else c.reach n (l.flatMap fun k => ((c.nodes[k]?).map (·.ch)).getD []))

/-- No list element stands twice. -/
def noRepeat : List Nat → Bool
  | [] => true
  | x :: xs => !xs.contains x && noRepeat xs

/-- No two positions name the same group of the same package. -/
def positionsApart : List (Nat × Nat × Nat × Nat) → Bool
  | [] => true
  | p :: ps => !(ps.any fun q => q.1 = p.1 && q.2.1 = p.2.1 && q.2.2.1 = p.2.2.1) && positionsApart ps

/-- A descriptor passes R318. Of another package the model knows no part: its clusters are taken to exist. -/
def descriptorOk (part : Part) (own : Nat) (b : List Byte) : Bool :=
  let c := commOf 0 b
  let np := c.pos.length
  let nn := c.nodes.length
  let kids := c.nodes.flatMap (·.ch)
  fieldOf b 0 4 = 0x4D435946 && (b.drop 16).take 8 = (sha256 (b.drop 64)).take 8 && zeroIn b 12 4 && zeroIn b 24 40 &&
  zeroIn b 1600 448 && fieldOf b 5 1 < 16 && 1 ≤ np && np ≤ 64 && 1 ≤ nn && nn ≤ 128 &&
  ((List.range np).all fun i => fieldOf b (64 + 8 * i) 8 % 2048 = 0) &&
  ((List.range nn).all fun i => fieldOf b (576 + 8 * i) 8 % 16384 = 0 && childrenPacked (fieldOf b (576 + 8 * i) 8)) &&
  c.root < nn && c.rootPos < np && ((c.nodes[c.root]?).map (·.parent)) = some 127 &&
  ((List.range nn).all fun i => i = c.root || (match c.nodes[i]? with
    | some x => (((c.nodes[x.parent]?).map (·.ch)).getD []).contains i
    | none => false)) &&
  kids.all (· < nn) && noRepeat kids && !kids.contains c.root && (c.reach nn [c.root]).length = nn &&
  ((List.range np).all fun i => match c.pos[i]? with
    | some p => ((c.nodes[p.2.2.2]?).map (·.own)) = some (some i)
    | none => false) &&
  (c.nodes.all fun x => x.pkg ≠ own || x.cluster < Config.clusters part) && positionsApart c.pos

/-- The virtual address of descriptor `i` (R315). -/
def descriptorAddr (i : Nat) : Nat := 0x00FC000000000000 + 2048 * i

/-- The slots of the array that stand on pages of this package, or on pages of peers. -/
def State.slotsOn (s : State) (asid : BitVec 16) (far : Bool) : List Nat :=
  let page := fun (k : Nat) => match s.vaddr asid (descriptorAddr (32 * k)) false with
    | .ok _ _ _ => !far
    | .remote _ _ => far
    | .bad _ => false
  ((List.range 128).filter page).flatMap fun k => (List.range 32).map fun j => 32 * k + j

/-- The communicators that a launch of an ASID registers: every readable descriptor with V = 1 that passes R318; `far` are the slots on
pages of peers and what was read of them. -/
def State.register (s : State) (asid : BitVec 16) (far : List (Nat × List Byte)) : List Comm :=
  let near := (s.slotsOn asid false).filterMap fun i => match s.vread asid (descriptorAddr i) 2048 with
    | .ok b => some (i, b)
    | .error _ => none
  (near ++ far).filterMap fun x =>
    if fieldOf x.2 4 1 = 1 && descriptorOk s.part s.fabric.position x.2 then some (commOf x.1 x.2) else none

/-- A running launch of the ASID has registered one of the communicators (R319). -/
def State.commBusy (s : State) (asid : BitVec 16) (cs : List Comm) : Bool :=
  s.launches.any fun l => l.asid = asid && l.comms.any fun c => cs.any fun d => d.ident = c.ident

/-! ## Block records: writing (R297) -/

/-- The words of a list, little-endian. -/
def wordBytes (l : List Word) : List Byte := l.flatMap bytesOfWord

/-- The code of a register state (R297). -/
def RegSt.code : RegSt → Nat
  | .full => 0 | .empty => 1 | .nack => 2 | .timeout => 3

/-- Four codes of two bits in a byte, the first in the lowest bits. -/
def packCodes : List Nat → List Byte
  | a :: b :: c :: d :: rest => BitVec.ofNat 8 (a + 4 * b + 16 * c + 64 * d) :: packCodes rest
  | _ => []

/-- The sixteen bytes of a join slot (R14). -/
def Join.bytes (j : Join) : List Byte :=
  wordBytes [j.rejoin, j.arrived, j.pc.extractLsb' 0 32, BitVec.ofBool j.armed ++ (0 : BitVec 7) ++ j.pc.extractLsb' 32 24]

/-- Arrival masks in the order of R158. -/
def Arrivals.words (a : Arrivals) : List Word := a.grp.toList ++ a.blk.toList ++ a.gang.toList ++ a.grid.toList

/-- A mask of splits. -/
def splitMask (p : BitVec 3 → Bool) : Nat := splitNums.foldl (fun m n => if p n then m + 2 ^ n.toNat else m) 0

/-- The 256 bytes of system registers (log 13). The mode of a group that is saved is user mode, 0: it stands in the bytes left over. -/
def Group.sysBytes (g : Group) : List Byte :=
  fitBytes 256 (wordBytes [g.ctl.jwd, g.ctl.lostrc, g.ctl.fpctl, g.ctl.srstate] ++ leBytes 8 g.ctl.utvec.toNat ++
    bytesOfWord g.ctl.live ++ [BitVec.ofNat 8 (splitMask fun n => (g.entry n).inh), BitVec.ofNat 8 (splitMask fun n => (g.entry n).half), BitVec.ofNat 8 g.running.toNat,
    BitVec.ofNat 8 ((if g.ended then 128 else 0) + g.ovf)] ++ wordBytes g.arr.words ++ leBytes 4 g.iss.roundTag)

/-- The 32 bytes of an outstanding operation: its words, then captured operands (log 13). -/
def slotBytes (words : List Word) (operands : List Byte) : List Byte := fitBytes 32 (fitBytes 12 (wordBytes words) ++ operands)

/-- A copy: source, destination, and the barrier object below its window. -/
def CopyOp.bytes (c : CopyOp) : List Byte := slotBytes c.words (leBytes 7 c.src ++ leBytes 7 c.dst ++ leBytes 6 (c.dab.getD 0 % 2 ^ 48))

/-- A gather: exec, s[B], and the destination below its window. Its vector finds no room (log 13). -/
def GatherOp.bytes (o : GatherOp) : List Byte :=
  slotBytes o.words (bytesOfWord (maskOf fun l => o.srcs.any fun p => p.1 = l) ++ leBytes 7 o.base ++ leBytes 6 (o.dst % 2 ^ 48))

/-- A matrix operation: scratchpad offsets of its bases, the count of an `MLDA`, and the epoch of its tile. -/
def MatOp.bytes : MatOp → List Byte
  | .mma o =>
    let (p, q) := o.a.getD (o.u.planes, o.u.scales)
    slotBytes o.words ([p, q, o.bp, o.bs].flatMap (fun x => leBytes 4 x.toNat) ++ leBytes 4 o.epoch)
  | .zero t e => slotBytes [0x000001CC ||| ((0 : BitVec 29) ++ t) <<< 17] (leBytes 16 0 ++ leBytes 4 e)
  | .load o => slotBytes o.words (leBytes 4 o.addr.toNat ++ bytesOfWord o.count ++ leBytes 8 0 ++ leBytes 4 o.epoch)

/-- A collective: exec, and what s[B] named. The vector of a contribution finds no room (log 13). -/
def CollOp.bytes : CollOp → List Byte
  | .put comm slot _ _ _ exec ws => slotBytes ws (bytesOfWord exec ++ leBytes 4 (comm + 4096 * slot))
  | .get comm slot _ exec _ _ _ ws => slotBytes ws (bytesOfWord exec ++ leBytes 4 (comm + 4096 * slot))

/-- The slots of one kind of operation. -/
def slotTable (l : List (List Byte)) : List Byte := fitBytes 2016 l.flatten

/-- The section of a group. -/
def Group.section (g : Group) (nv : Nat) : List Byte :=
  let r := g.regs
  g.sysBytes ++ wordBytes (splitNums.flatMap fun n => (g.entry n).words) ++
  wordBytes (splitNums.map fun n => (g.entry n).park) ++ leBytesEach (splitNums.map fun n => (g.entry n).wait) ++
  (g.joins.toList.flatMap Join.bytes) ++ wordBytes ((List.range 16).map fun i => r.getK (BitVec.ofNat 8 i)) ++ wordBytes r.s.toList ++
  fitBytes 128 (packCodes ((r.sst.toList ++ r.vst.toList).map RegSt.code) ++ [if g.unfold.valid then 1 else 0]) ++
  fitBytes 64 (leBytes 8 g.trap.pc.toNat ++ bytesOfWord g.trap.cause ++ bytesOfWord g.trap.mask) ++
  wordBytes (g.trap.val.toList.flatMap (·.toList)) ++
  fitBytes 64 (leBytes 8 g.unfold.planes.toNat ++ leBytes 8 g.unfold.scales.toNat ++ wordBytes g.unfold.desc) ++
  slotTable (g.pend.cp.map CopyOp.bytes) ++ slotTable (g.pend.mx.map MatOp.bytes) ++ slotTable (g.pend.ga.map GatherOp.bytes) ++
  slotTable (g.pend.co.map CollOp.bytes) ++
  wordBytes ((r.v.toList.take nv).flatMap (·.toList))
where
  /-- numbers as 32-bit words -/
  leBytesEach (l : List Nat) : List Byte := l.flatMap (leBytes 4)

/-- The twelve bytes of a tile element (R11). -/
def Elem.bytes (e : Elem) : List Byte :=
  leBytes 12 (e.v.toNat + (if e.sp then 2 ^ 82 else 0) + (if e.sn then 2 ^ 81 else 0) + (if e.sq then 2 ^ 80 else 0))

/-- A tile. -/
def Tile.bytes (t : Tile) : List Byte :=
  (t.el.toList.flatMap fun row => row.toList.flatMap Elem.bytes) ++ bytesOfWord t.steps ++ [if t.guard then 1 else 0, 0, 0, 0]

/-- The head of a record: block index, position in the gang, Na, in-chain bits (log 13). -/
def recordHead (i : Image) (b : Block) : List Byte :=
  fitBytes 64 (leBytes 4 b.index ++ leBytes 4 (b.index % i.bdim) ++ leBytes 4 i.na ++
    leBytes 4 ((List.range 8).foldl (fun m k => if (((b.tiles.toList)[k]?).map (·.chain)).getD false then m + 2 ^ k else m) 0))

/-- The record of a block, padded to its place in the table. -/
def State.blockRecord (s : State) (i : Image) (b : Block) : List Byte :=
  let gs := (List.range i.gdim).filterMap fun k => s.group? ⟨b.launch, b.index, k, b.run⟩
  fitBytes i.recordStride (recordHead i b ++ (gs.flatMap fun g => g.section i.nv) ++ b.scratch.readN 0 i.scratchSize ++
    ((b.tiles.toList.take i.na).flatMap Tile.bytes))

/-- The header of the image that pre-emption writes: RESUMED, the bound version, the first index never granted, the records. -/
def Launch.header (l : Launch) (records : Nat) : List Byte :=
  let i := l.img
  fitBytes 128 (leBytes 4 0x494C5946 ++ leBytes 2 1 ++ leBytes 2 (i.flags ||| 8).toNat ++ bytesOfWord i.bindid ++ bytesOfWord i.codever ++
    leBytes 8 i.entry.toNat ++ bytesOfWord i.griddim ++ bytesOfWord i.blockdim ++ bytesOfWord i.part ++ leBytes 2 i.nv ++ [0, 0] ++
    leBytes 4 i.stack ++ leBytes 4 i.wall ++ leBytes 8 i.utvec.toNat ++ bytesOfWord i.srseed ++ leBytes 4 l.next ++
    leBytes 8 i.spill.toNat ++ leBytes 8 i.spillsize.toNat ++ leBytes 4 records) ++
  fitBytes 512 (i.own.flatMap fun r => leBytes 8 r.base ++ leBytes 8 r.size ++ leBytes 8 r.stride ++ leBytes 8 r.kind)

/-! ## Block records: reading -/

/-- Word `k` (32 bits) of bytes at an offset. -/
def wordIn (b : List Byte) (o : Nat) : Word := BitVec.ofNat 32 (fieldOf b o 4)

/-- The state of a register from its code. -/
def RegSt.ofCode (n : Nat) : RegSt := if n = 0 then .full else if n = 1 then .empty else if n = 2 then .nack else .timeout

/-- Code `k` of packed codes. -/
def codeIn (b : List Byte) (o k : Nat) : Nat := fieldOf b (o + k / 4) 1 / 4 ^ (k % 4) % 4

/-- A join slot from its bytes. -/
def joinIn (b : List Byte) (o : Nat) : Join :=
  { rejoin := wordIn b o, arrived := wordIn b (o + 4), pc := (wordIn b (o + 12)).extractLsb' 0 24 ++ wordIn b (o + 8)
    armed := (wordIn b (o + 12)).getLsbD 31 }

/-- 32 words as lanes. -/
def lanesIn (b : List Byte) (o : Nat) : Lanes := Lanes.mk fun l => wordIn b (o + 4 * l.val)

/-- The register files of a section. -/
def regsIn (b : List Byte) (nv : Nat) : RegFile :=
  { v := Vector.ofFn fun i => if i.val < nv then lanesIn b (9792 + 128 * i.val) else Lanes.all 0
    s := Vector.ofFn fun i => wordIn b (704 + 4 * i.val)
    k := Vector.ofFn fun i => if i.val = 0 then 0xFFFFFFFF else wordIn b (640 + 4 * i.val)
    sst := Vector.ofFn fun i => RegSt.ofCode (codeIn b 960 i.val)
    vst := Vector.ofFn fun i => RegSt.ofCode (codeIn b 960 (64 + i.val)) }

/-- The instruction of a slot, with its words. -/
def slotInstr (b : List Byte) (o : Nat) : Option Instr × List Word :=
  let ws := (List.range 3).map fun i => wordIn b (o + 4 * i)
  (decode ws, ws)

/-- A copy in a slot; none for an empty one. Which split issued it no slot says: the running one is taken (log 91). -/
def copyIn (b : List Byte) (g : Group) (o : Nat) : Option CopyOp :=
  match slotInstr b o with
  | (some (.cpasync f), ws) =>
    some { id := 0, split := .entry g.running, pc := g.sp.pc, src := fieldOf b (o + 12) 7, dst := fieldOf b (o + 19) 7
           count := f.w2.toNat, token := f.d, dab := if f.sub = 1 then some (0xFE * 2 ^ 48 + fieldOf b (o + 26) 6) else none
           left := [], words := ws.take f.form.words }
  | _ => none

/-- A gather in a slot; its vector is what v[A] holds. -/
def gatherIn (b : List Byte) (g : Group) (o : Nat) : Option GatherOp :=
  match slotInstr b o with
  | (some (.gather f), ws) =>
    let base := fieldOf b (o + 16) 7
    some { id := 0, split := .entry g.running, pc := g.sp.pc, rows := f.w2.toNat, dst := 0xFE * 2 ^ 48 + fieldOf b (o + 23) 6
           srcs := (laneList.filter (maskBit (wordIn b (o + 12)))).map fun l => (l, (base + ((g.regs.getV f.a).get l).toNat) % 2 ^ 56)
           base := base, words := ws.take f.form.words }
  | _ => none

/-- A matrix operation in a slot. An `MMA` with a virtual A has the bases that it captured, and the descriptor of the group's unfolding
state, for which the slot has no room (log 13). -/
def matIn (b : List Byte) (g : Group) (core : Nat) (o : Nat) : Option MatOp :=
  let ptr := fun (k : Nat) => BitVec.ofNat 64 (0xFE * 2 ^ 48 + core * 2 ^ 46 + fieldOf b (o + 12 + 4 * k) 4)
  let epoch := fieldOf b (o + 28) 4
  let mma := fun (f : Fields) (ws : List Word) (a : Option (DWord × DWord)) => MatOp.mma
    { pc := g.sp.pc, split := g.running, tile := f.d.extractLsb' 0 3, ca := f.cls, cb := f.sub, a := a
      u := if a.isSome then g.unfold else { g.unfold with valid := true, planes := ptr 0, scales := ptr 1 }
      bp := ptr 2, bs := ptr 3, m := bitsOf f.w2 0 16, k0 := bitsOf f.w2 16 16, epoch := epoch, words := ws.take f.form.words }
  match slotInstr b o with
  | (some (.mma f), ws) => some (mma f ws (some (ptr 0, ptr 1)))
  | (some (.mmaUnfold f), ws) => some (mma f ws none)
  | (some (.mzero f), _) => some (.zero (f.a.extractLsb' 0 3) epoch)
  | (some (.mlda f), ws) =>
    some (.load { pc := g.sp.pc, split := g.running, tile := f.d.extractLsb' 0 3, cn := f.cls, ck := f.w2.extractLsb' 16 4
                  addr := ptr 0, count := wordIn b (o + 16), epoch := epoch, words := ws.take f.form.words })
  | _ => none

/-- A collective in a slot. The vector that a contribution captured is a free value. -/
def collIn (b : List Byte) (fresh o : Nat) : Option CollOp :=
  let n := fieldOf b (o + 16) 4
  let exec := wordIn b (o + 12)
  match slotInstr b o with
  | (some (.crget f), ws) => some (.get (n % 4096) (n / 4096 % 16) (f.w2.extractLsb' 0 16) exec f.d f.a none (ws.take f.form.words))
  | (some (.crput f), ws) =>
    some (.put (n % 4096) (n / 4096 % 16) (f.w2.extractLsb' 0 16) 0 (Lanes.mk fun l => Config.freeWord (fresh + o + l.val)) exec
      (ws.take f.form.words))
  | _ => none

/-- The places of the slots of a kind. -/
def slotPlaces (kind : Nat) : List Nat := (List.range 63).map fun k => 1728 + 2016 * kind + 32 * k

/-- The registers and splits of a section. -/
def stateIn (b : List Byte) (nv : Nat) (g : Group) : Group :=
  let half := fieldOf b 29 1
  let last := fieldOf b 31 1
  let words := fun (n : Nat) => (List.range 6).map fun i => wordIn b (256 + 24 * n + 4 * i)
  { g with
    ended := 128 ≤ last
    running := BitVec.ofNat 3 (fieldOf b 30 1)
    regs := regsIn b nv
    splits := Vector.ofFn fun i =>
      { Split.ofWords (words i.val ++ [wordIn b (448 + 4 * i.val), wordIn b (480 + 4 * i.val)]) with half := half.testBit i.val }
    ovf := last % 128
    joins := Vector.ofFn fun i => joinIn b (512 + 16 * i.val)
    ctl := { jwd := wordIn b 0, lostrc := wordIn b 4, fpctl := wordIn b 8, srstate := wordIn b 12
             utvec := BitVec.ofNat 56 (fieldOf b 16 8), live := wordIn b 24 }
    trap := { pc := BitVec.ofNat 56 (fieldOf b 1088 8), cause := wordIn b 1096, mask := wordIn b 1100
              val := Vector.ofFn fun i => lanesIn b (1152 + 128 * i.val) }
    arr := { grp := Vector.ofFn fun i => wordIn b (32 + 4 * i.val), blk := Vector.ofFn fun i => wordIn b (48 + 4 * i.val)
             gang := Vector.ofFn fun i => wordIn b (112 + 4 * i.val), grid := Vector.ofFn fun i => wordIn b (144 + 4 * i.val) }
    unfold := { valid := fieldOf b 1040 1 % 2 = 1, planes := BitVec.ofNat 64 (fieldOf b 1664 8)
                scales := BitVec.ofNat 64 (fieldOf b 1672 8), desc := (List.range 8).map fun i => wordIn b (1680 + 4 * i) }
    iss := { roundTag := fieldOf b 160 4 } }

/-- A group from its section, at its place on a core, with the operations that it has outstanding (R297). -/
def groupIn (b : List Byte) (nv core fresh : Nat) (g0 : Group) : Group :=
  let g := stateIn b nv g0
  { g with pend := { cp := (slotPlaces 0).filterMap (copyIn b g), mx := (slotPlaces 1).filterMap (matIn b g core)
                     ga := (slotPlaces 2).filterMap (gatherIn b g), co := (slotPlaces 3).filterMap (collIn b fresh) } }

/-- The bytes of a memory that are not zero. -/
def memoryOf (b : List Byte) : Memory := ((List.range b.length).zip b).filter fun p => p.2 ≠ 0

/-- A tile from its bytes. -/
def tileIn (b : List Byte) (chain : Bool) : Tile :=
  let el := fun (n : Nat) =>
    let x := fieldOf b (12 * n) 12
    Elem.mk (BitVec.ofNat 80 x) (x.testBit 82) (x.testBit 81) (x.testBit 80)
  { el := Vector.ofFn fun i => Vector.ofFn fun j => el (64 * i.val + j.val)
    steps := wordIn b 49152, guard := fieldOf b 49156 1 % 2 = 1, chain := chain }

/-- Offsets in a record. -/
def Image.scratchOff (i : Image) : Nat := 64 + i.gdim * i.sectionSize
def Image.tileOff (i : Image) (k : Nat) : Nat := i.scratchOff + i.scratchSize + 49160 * k

/-- A block from its record. -/
def blockIn (i : Image) (r : List Byte) (b : Block) : Block :=
  let chain := fieldOf r 12 4
  { b with
    scratch := memoryOf ((r.drop i.scratchOff).take i.scratchSize)
    tiles := Vector.ofFn fun k => if k.val < i.na then tileIn ((r.drop (i.tileOff k.val)).take 49160) (chain.testBit k.val) else {} }

/-- The section of group `k` of a record. -/
def sectionIn (i : Image) (r : List Byte) (k : Nat) : List Byte := (r.drop (64 + k * i.sectionSize)).take i.sectionSize

end Sys2Proof.Machine
end

