-- ==== Sys2Proof/Machine/Illegal.lean ====
section
/-! DEFINITION. Words that are no legal instruction (R48, R49). -/

namespace Sys2Proof.Machine

/-- The unit that a base word names is absent from the part (R5, R48 step 3). -/
def unitAbsent (p : Part) (w0 : Word) : Bool :=
  !Config.hasUnfold p && (opOf w0 = 0x72 || (opOf w0 = 0x71 && w0.extractLsb' 17 8 = 0xFF#8))

/-- The trap of R48 steps 2 to 4, raised whatever `$exec` holds (R49, R50). -/
def wordsTrap (cause : Nat) (exec : Word) (ws : List Word) (reason : Nat) : TrapInfo :=
  .all cause exec (ws.getD 0 0) (ws.getD 1 0) (ws.getD 2 0) (BitVec.ofNat 32 reason)

/-- ILLEGAL_OPCODE (R48 step 2). -/
def execIllegalOpcode (ws : List Word) (s : State) : Host.Outcome State Fault Refusal :=
  .next (s.takeTrap (wordsTrap Cause.illegalOpcode s.cur.exec ws 0))

/-- ILLEGAL_FORM (R48 step 4); a unit that the part lacks is found first (R48 step 3). -/
def execIllegalForm (ws : List Word) (reason : Reason) (s : State) : Host.Outcome State Fault Refusal :=
  .next (if unitAbsent s.part (ws.getD 0 0) then s.takeTrap (wordsTrap Cause.unitAbsent s.cur.exec ws 0)
         else s.takeTrap (wordsTrap Cause.illegalForm s.cur.exec ws reason.code))

end Sys2Proof.Machine
end

