-- ==== Sys2Proof/Machine/System.lean ====
section
/-! DEFINITION. Counter-based random numbers, system registers and device-side launch (R168 to R174). -/

namespace Sys2Proof.Machine

/-! ## Random numbers (R168, R169) -/

/-- One round of rngc_mix. -/
def rngcRound (x y : Word) (r : Nat) : Word × Word :=
  let x1 := ((x ^^^ (x >>> 16)) * 0x7FEB352D#32) ^^^ y
  (x1, y.rotateLeft 13 + BitVec.ofNat 32 (r * 0x9E3779B9))

/-- rngc_mix (R168). -/
def rngcMix (k : DWord) (t c : Word) : Word :=
  let x0 := c ^^^ k.extractLsb' 0 32
  let y0 := t ^^^ k.extractLsb' 32 32
  let (x, _) := [1, 2, 3, 4].foldl (fun (p : Word × Word) r => rngcRound p.1 p.2 r) (x0, y0)
  let x5 := (x ^^^ (x >>> 15)) * 0x846CA68B#32
  x5 ^^^ (x5 >>> 16)

/-- RNGC (R168). -/
def execRngc (f : Fields) (s : State) : Host.Outcome State Fault Refusal :=
  .next (issue (.rngc f) (planOf 0x7A f) (fun s => writeD f s false fun l =>
    raw32 (rngcMix (s.cur.regs.getPair f.b) f.w2 ((rawA f s.cur.regs false l).extractLsb' 0 32))) s)

/-- SRSEED (R169). -/
def execSrseed (f : Fields) (s : State) : Host.Outcome State Fault Refusal :=
  .next (issue (.srseed f) (planOf 0x7B f) (fun s =>
    let x := rngcMix (s.cur.regs.getPair f.a) f.w2 (BitVec.ofNat 32 (32 * s.cur.block + s.cur.index))
    .done (s.onCtl fun c => { c with srstate := storeSr x })) s)

/-! ## System registers (R16, R170) -/

/-- `$split`. -/
def Group.splitReg (g : Group) : Word :=
  BitVec.ofNat 32 ((if g.sp.inh then 65536 else 0) + g.ovf % 32 * 256 + g.validNums.length % 16 * 16 + g.running.toNat)

/-- `$cnt`. -/
def Group.cntReg (g : Group) : Word :=
  BitVec.ofNat 32 (g.count 3 * 2 ^ 24 + g.count 2 * 65536 + g.count 1 * 256 + g.count 0)

/-- Access of a system register. -/
inductive SysAcc where
  | ro | rw | so
  deriving DecidableEq, Repr

/-- A row of the table of R16: its access, whether it takes 64 bits, whether it is per lane. -/
structure SysReg where
  acc : SysAcc
  wide : Bool := false
  perLane : Bool := false
  deriving DecidableEq, Repr

/-- The register of an index; none when the table has none (R16). -/
def sysReg (i : BitVec 12) : Option SysReg :=
  match i.toNat with
  | 0x000 => some ⟨.ro, false, true⟩
  | 0x001 => some ⟨.ro, false, false⟩ | 0x002 => some ⟨.ro, false, false⟩ | 0x003 => some ⟨.ro, false, false⟩
  | 0x004 => some ⟨.ro, false, false⟩ | 0x005 => some ⟨.ro, false, false⟩ | 0x006 => some ⟨.ro, false, false⟩
  | 0x007 => some ⟨.ro, false, false⟩ | 0x008 => some ⟨.ro, false, false⟩
  | 0x010 => some ⟨.rw, false, false⟩ | 0x011 => some ⟨.ro, false, false⟩ | 0x012 => some ⟨.rw, false, false⟩
  | 0x013 => some ⟨.rw, false, false⟩
  | 0x020 => some ⟨.rw, false, false⟩ | 0x021 => some ⟨.rw, false, false⟩ | 0x022 => some ⟨.rw, false, false⟩
  | 0x023 => some ⟨.rw, false, false⟩
  | 0x030 => some ⟨.rw, true, false⟩ | 0x031 => some ⟨.ro, false, false⟩ | 0x032 => some ⟨.ro, false, false⟩
  | 0x034 => some ⟨.rw, false, true⟩ | 0x035 => some ⟨.rw, false, true⟩ | 0x036 => some ⟨.rw, false, true⟩
  | 0x037 => some ⟨.rw, false, true⟩
  | 0x038 => some ⟨.rw, true, false⟩ | 0x039 => some ⟨.so, true, false⟩
  | 0x040 => some ⟨.ro, true, false⟩ | 0x041 => some ⟨.ro, false, false⟩
  | 0x050 => some ⟨.ro, false, false⟩ | 0x051 => some ⟨.ro, false, false⟩ | 0x052 => some ⟨.ro, false, false⟩
  | 0x053 => some ⟨.ro, false, false⟩ | 0x054 => some ⟨.ro, false, false⟩ | 0x055 => some ⟨.ro, false, false⟩
  | 0x056 => some ⟨.ro, false, false⟩ | 0x057 => some ⟨.ro, false, false⟩
  | n => if 0x100 ≤ n ∧ n ≤ 0x10F then some ⟨.ro, true, false⟩ else none

/-- The value of a system register in a lane (R16). -/
def State.sysRead (s : State) (i : BitVec 12) (l : Fin 32) : DWord :=
  let g := s.cur
  let tr := g.trapView
  let ln := s.lchOf g
  let n := fun (x : Nat) => BitVec.ofNat 64 x
  match i.toNat with
  | 0x000 => n l.val
  | 0x001 => n g.index
  | 0x002 => n g.block
  | 0x003 => n (ln.gangOf g.block)
  | 0x004 => n (ln.posOf g.block % 4)
  | 0x005 => n g.cluster
  | 0x006 => n (dieOfCluster g.cluster)
  | 0x007 => raw32 ln.img.blockdim
  | 0x008 => raw32 ln.img.griddim
  | 0x010 => raw32 g.exec
  | 0x011 => raw32 g.splitReg
  | 0x012 => raw32 g.ctl.jwd
  | 0x013 => raw32 g.ctl.lostrc
  | 0x020 => (0 : BitVec 59) ++ g.sp.fpf
  | 0x021 => raw32 g.ctl.fpctl
  | 0x022 => raw32 g.sp.clsf
  | 0x023 => raw32 g.ctl.srstate
  | 0x030 => (0 : BitVec 8) ++ tr.pc
  | 0x031 => raw32 tr.cause
  | 0x032 => raw32 tr.mask
  | 0x034 => raw32 (tr.val[0].get l)
  | 0x035 => raw32 (tr.val[1].get l)
  | 0x036 => raw32 (tr.val[2].get l)
  | 0x037 => raw32 (tr.val[3].get l)
  | 0x038 => (0 : BitVec 8) ++ g.ctl.utvec
  | 0x039 => (0 : BitVec 8) ++ s.stvec.getD Config.stvec
  | 0x040 => s.cycle
  | 0x041 => raw32 g.cntReg
  | 0x050 => n s.mem.capacity
  | 0x051 => raw32 s.mem.phase
  | 0x052 => raw32 ln.img.bindid
  | 0x053 => raw32 ln.img.codever
  | 0x054 => (0 : BitVec 48) ++ ln.asid
  | 0x055 => n ln.tenant
  | 0x056 => raw32 (Config.cap0 s.part)
  | 0x057 => raw32 (Config.cap1 s.part)
  | x => ln.cbind[x % 16]'(Nat.mod_lt _ (by decide))

/-- The index in word 2. -/
def sysIdx (f : Fields) : BitVec 12 := f.w2.extractLsb' 0 12

/-- The check of the register operand of MFS or MTS and of the index (R16, R48, R170): a 64-bit register names a pair. -/
def sysErr (f : Fields) (mfs : Bool) (lm : Limits) : Option FieldErr :=
  let row := sysReg (sysIdx f)
  let reg := if mfs then f.d else f.a
  let n := if row.any (·.wide) then 2 else 1
  let range := if kindOk lm f.u f.u (.r n) reg then none else some ⟨if mfs then 0 else 1, (0 : BitVec 24) ++ reg⟩
  let index := match row with
    | none => some ⟨6, f.w2⟩
    | some _ => if mfs && f.u && sysIdx f = 0 then some ⟨6, 0⟩ else none
  firstErr range index

/-- The privilege check of MFS or MTS: a supervisor-only register in user mode (R170). -/
def sysPriv (f : Fields) (s : State) : Option FieldErr :=
  match sysReg (sysIdx f) with
  | some r => if r.acc = .so && !s.cur.supervisor then some ⟨6, f.w2⟩ else none
  | none => none

/-- The system register of the instruction takes 64 bits. -/
def sysWide (f : Fields) : Bool := (sysReg (sysIdx f)).any (·.wide)

/-- The plan of MFS: the destination is one register or a pair. -/
def mfsPlan (f : Fields) (s : State) : Plan :=
  { planOf 0x78 f with
    more := sysErr f true, priv := sysPriv f s
    xdst := kindRegs f.u f.u (.r (if sysWide f then 2 else 1)) f.d }

/-- The plan of MTS: the source is one register or a pair. -/
def mtsPlan (f : Fields) (s : State) : Plan :=
  { planOf 0x79 f with
    more := sysErr f false, priv := sysPriv f s
    xsrc := if sysWide f then ((kindRegs f.u f.u (.r 2) f.a).drop 1).map fun r => ⟨r, 1, f.fe.getLsbD 0⟩ else [] }

/-- MFS (R170). -/
def execMfs (f : Fields) (s : State) : Host.Outcome State Fault Refusal :=
  .next (issue (.mfs f) (mfsPlan f s) (fun s => writeD f s (sysWide f) fun l => s.sysRead (sysIdx f) l) s)

/-- The lowest lane of a mask; lane 0 of an empty one. -/
def lowLane (m : Word) : Fin 32 := (laneList.find? (maskBit m)).getD 0

/-- The value that MTS gives a uniform register: of the lowest lane in exec, or of the s register. -/
def mtsVal (f : Fields) (s : State) : DWord :=
  rawA f s.cur.regs (sysWide f) (if f.u then 0 else lowLane s.cur.exec)

/-- A write of `$xval`i: each lane in exec its own, or every lane (R170). -/
def setXval (f : Fields) (s : State) (i : Fin 4) : State :=
  let g := s.cur
  let old := g.trapView.val[i.val]
  let new := Lanes.mk fun l =>
    if f.u then (rawA f g.regs false 0).extractLsb' 0 32
    else if maskBit g.exec l then (rawA f g.regs false l).extractLsb' 0 32 else old.get l
  { s with cur := g.onTrapView fun r => { r with val := r.val.set i.val new i.isLt } }

/-- The write of a system register by MTS (R16, R170); a write to a read-only register is ignored. -/
def sysWrite (f : Fields) (s : State) : State :=
  let x := mtsVal f s
  let w : Word := x.extractLsb' 0 32
  match (sysIdx f).toNat with
  | 0x012 => s.onCtl fun c => { c with jwd := w &&& 0x83FFFFFF#32 }
  | 0x013 => s.onCtl fun c => { c with lostrc := w }
  | 0x020 => s.onSp fun e => { e with fpf := x.extractLsb' 0 5 }
  | 0x021 => s.onCtl fun c => { c with fpctl := w }
  | 0x022 => s.onSp fun e => { e with clsf := w }
  | 0x023 => s.onCtl fun c => { c with srstate := storeSr w }
  | 0x030 => { s with cur := s.cur.onTrapView fun r => { r with pc := x.extractLsb' 0 56 } }
  | 0x034 => setXval f s 0
  | 0x035 => setXval f s 1
  | 0x036 => setXval f s 2
  | 0x037 => setXval f s 3
  | 0x038 => s.onCtl fun c => { c with utvec := x.extractLsb' 0 56 }
  | 0x039 => { s with stvec := some (x.extractLsb' 0 56) }
  | _ => s

/-- MTS (R170). -/
def execMts (f : Fields) (s : State) : Host.Outcome State Fault Refusal :=
  .next (issue (.mts f) (mtsPlan f s) (fun s => .done (sysWrite f s)) s)

/-- MTS to `$exec` (R76): lanes move between MASK and PARK of the split. -/
def execMtsExec (f : Fields) (s : State) : Host.Outcome State Fault Refusal :=
  .next (issue (.mtsExec f) (mtsPlan f s) (fun s =>
    let x : Word := (mtsVal f s).extractLsb' 0 32
    let t := s.onSp fun e => { e with mask := x &&& e.lanes, park := e.lanes &&& ~~~x }
    if t.partition = 0 then .done t else .stay (State.checkPartition s t)) s)

/-- CAPRD (R172). -/
def execCaprd (f : Fields) (s : State) : Host.Outcome State Fault Refusal :=
  let plan := { planOf 0x7B f with more := fun _ => if f.w2.toNat ≤ 1 then none else some ⟨6, f.w2⟩ }
  .next (issue (.caprd f) plan (fun s => writeD f s false fun _ =>
    raw32 (if f.w2 = 0 then Config.cap0 s.part else Config.cap1 s.part)) s)

/-! ## Device-side launch (R173) -/

/-- The queue takes launches of the running group: it belongs to its tenant and is enabled for device-side launch. -/
def launchQueueOk (s : State) (b : Word) : Bool :=
  let q := s.queueOf (b.toNat % 2048)
  decide (b.toNat < 2048) && decide (q.desc.tenant = (s.lchOf s.cur).tenant) && q.desc.enabled && q.desc.devlaunch

/-- Appends a packet to a device queue: 0 placed, 1 no room, 2 stopped (R173). A queue whose header cannot be reached is
one that stops (R288). -/
def appendPacket (s : State) (q : Nat) (bytes : List Byte) : Word × State :=
  let x := s.queueOf q
  if x.stopped then (2, s)
  else match s.headWord x.desc 0 with
    | .error _ => (2, s)
    | .ok w =>
      if x.desc.ringBytes < w - x.ridx + bytes.length then (1, s)
      else
        let units := (List.range (bytes.length / 64)).map fun i => (w + 64 * i, (bytes.drop (64 * i)).take 64)
        let s1 := units.foldl (fun s u => match s.vwrite x.desc.asid (x.desc.ringAddr u.1) u.2 with
          | .ok t => t
          | .error _ => s) s
        (0, s1.setHeadWord x.desc 0 (w + bytes.length))

/-- The trap of LAUNCH in a deterministic launch (R173). -/
def launchDet (s : State) (addr : DWord) : Res :=
  .trap s (trapOfBads [(0, 11, ⟨Cause.detViolation, addr.toNat % 2 ^ 56⟩)] |>.getD (.all Cause.detViolation 1 0 0 11 0))

/-- LAUNCH after its first checks: the release, the packet, and the append (R173). The header is read first, and then, where it names
more, the whole packet. A packet on a peer's page whose read is refused or not answered has no header that names LAUNCH_IMAGE
(log 39); one whose SIZE is 0 counts as 64 bytes (log 162). -/
def launchAppend (i : Instr) (f : Fields) (addr : DWord) (b : Word) (s : State) : Res :=
  if s.relPending .dev && !s.cur.pend.mem.any (fun o => o.hold && decide (o.split = .entry s.cur.running)) then .wait s
  else match s.checkOne 0 addr 64 with
  | some t => .trap s t
  | none =>
    match s.syncRead 0 .dev [⟨0, locOf 0 addr, 64⟩] with
    | .wait t => .wait t
    | .killed t => .stay t
    | .ready t got _ st _ =>
      let head := gotBytes got (byteLocs (locOf 0 addr) 64)
      let size := leNat ((head.drop 2).take 2)
      let locs := byteLocs (locOf 0 addr) (64 * max 1 size)
      let append := fun (t : State) (got : List (Nat × Byte)) =>
        let (code, u) := appendPacket t b.toNat (gotBytes got locs)
        Res.done (u.onRegs fun r => r.writeS f.d code)
      if st ≠ .full ∨ (head.headD 0) ≠ 4 ∨ (t.queueOf b.toNat).desc.ringBytes < 64 * size then t.operandTrap i 1 (addr.extractLsb' 0 32)
      else match t.checkOne 0 addr (64 * max 1 size) with
      | some x => .trap t x
      | none =>
        -- a read of the whole packet that a peer has answered brings the header, too
        if locs.all fun a => (byteAt got a).isSome then append t got
        else match t.syncRead 0 .dev [⟨0, locOf 0 addr, 64 * size⟩] with
          | .wait u => .wait u
          | .killed u => .stay u
          | .ready u all _ st _ => if st ≠ .full then u.operandTrap i 1 (addr.extractLsb' 0 32) else append u all

/-- LAUNCH (R173). -/
def execLaunch (f : Fields) (s : State) : Host.Outcome State Fault Refusal :=
  .next (issue (.launch f) (planOf 0x6E f) (fun s =>
    let i := Instr.launch f
    let addr := s.cur.regs.getPair f.a
    let b := s.cur.regs.getS f.b
    if (s.lchOf s.cur).img.det then launchDet s addr
    else if !launchQueueOk s b then s.operandTrap i 2 b
    else if addr.toNat % 64 ≠ 0 then s.operandTrap i 1 (addr.extractLsb' 0 32)
    else launchAppend i f addr b (s.release .dev)) s)

end Sys2Proof.Machine
end

