-- ==== Sys2Proof/Machine/Matrix.lean ====
section
/-! DEFINITION. The matrix engine and convolution unfolding (R175 to R189), FX80 accumulation (R62 to R65). -/

namespace Sys2Proof.Machine

/-! ## Tiles (R9, R11) -/

/-- A tile of a group's block. -/
def State.tileOf (s : State) (g : Group) (n : BitVec 3) : Tile := (s.blockOf g).tiles[n.toNat]'n.isLt

/-- Changes a tile of a group's block. -/
def State.onTile (s : State) (g : Group) (n : BitVec 3) (f : Tile → Tile) : State :=
  s.onBlock g.launch g.run g.block fun b => { b with tiles := b.tiles.set n.toNat (f (b.tiles[n.toNat]'n.isLt)) n.isLt }

/-- Pool words of element `i` of a tile: 12 bytes an element (R11). -/
def elemWords (i : Nat) : List Nat := span (12 * i / 8) ((12 * i + 11) / 8 + 1)

/-- MZERO on a tile (R185): every element, the count and GUARD are cleared. -/
def Tile.zeroed (t : Tile) : Tile := { chain := t.chain, epoch := t.epoch }

/-! ## Unfolding (R183, R184) -/

/-- The fields of a descriptor. -/
structure Conv where
  w : Nat
  h : Nat
  kw : Nat
  kh : Nat
  c : Nat
  dw : Nat
  dh : Nat
  sw : Nat
  sh : Nat
  pw : Nat
  ph : Nat
  p0 : Nat
  deriving DecidableEq, Repr

/-- The fields in eight words (R183). -/
def Conv.ofWords (l : List Word) : Conv :=
  let x := fun i => l.getD i 0
  { w := bitsOf (x 0) 16 16, h := bitsOf (x 0) 0 16, kw := bitsOf (x 1) 24 8, kh := bitsOf (x 1) 16 8, c := bitsOf (x 1) 0 16
    dw := bitsOf (x 2) 24 8, dh := bitsOf (x 2) 16 8, sw := bitsOf (x 2) 8 8, sh := bitsOf (x 2) 0 8
    pw := bitsOf (x 3) 16 16, ph := bitsOf (x 3) 0 16, p0 := (x 4).toNat }

/-- floor((n + 2 pad - dil (k - 1) - 1) / stride) + 1 (R183). -/
def outDim (n pad dil k stride : Nat) : Int := ((n : Int) + 2 * pad - dil * ((k : Int) - 1) - 1) / stride + 1

/-- OH and OW. -/
def Conv.oh (d : Conv) : Int := outDim d.h d.ph d.dh d.kh d.sh
def Conv.ow (d : Conv) : Int := outDim d.w d.pw d.dw d.kw d.sw

/-- The first offending word of a descriptor (R183). An output of no pixels offends in word 0 (log 19). -/
def convBad (l : List Word) : Option Nat :=
  let d := Conv.ofWords l
  [0, 1, 2, 5, 6, 7].find? fun i =>
    match i with
    | 0 => decide (d.w = 0 ∨ d.h = 0 ∨ d.oh < 1 ∨ d.ow < 1)
    | 1 => decide (d.kw = 0 ∨ d.kh = 0 ∨ d.c = 0 ∨ d.c % 32 ≠ 0)
    | 2 => decide (d.dw = 0 ∨ d.dh = 0 ∨ d.sw = 0 ∨ d.sh = 0)
    | _ => decide (l.getD i 0 ≠ 0)

/-- k-blocks of an unfolded tensor. -/
def Conv.kblocks (d : Conv) : Nat := d.kh * d.kw * (d.c / 32)

/-- The activation block of tile row `r` and k-block `kb`; none for the ZERO block (R184). -/
def Conv.block (d : Conv) (r kb : Nat) : Option Nat :=
  let cb := d.c / 32
  let p := d.p0 + r
  let ow := d.ow.toNat
  let oh := p / ow
  let kh := kb / (d.kw * cb)
  let kw := kb / cb % d.kw
  let ih : Int := (oh * d.sh + kh * d.dh : Nat) - d.ph
  let iw : Int := (p % ow * d.sw + kw * d.dw : Nat) - d.pw
  if (oh : Int) < d.oh ∧ 0 ≤ ih ∧ ih < d.h ∧ 0 ≤ iw ∧ iw < d.w then some ((ih.toNat * d.w + iw.toNat) * cb + kb % cb) else none

/-! ## Plane tensors (R179) -/

/-- The plane words and the scale code of a block. -/
abbrev MBlock := List Word × Nat

/-- Locations of the planes and of the scale byte of block `i` of a tensor. -/
def planeLoc (e : DWord) (base : DWord) (i : Nat) : Nat := (base.toNat + 4 * entMPL e * i) % 2 ^ 56
def scaleLoc (e : DWord) (base : DWord) (i : Nat) : Nat := (base.toNat + (if entMKIND e = 3 then i else 0)) % 2 ^ 56

/-- Block `i` of a tensor. -/
def readBlock (e : DWord) (planes scales : DWord) (i : Nat) (read : Nat → Byte) : MBlock :=
  (wordsOf ((byteLocs (planeLoc e planes i) (4 * entXPL e)).map read) (entXPL e), (read (scaleLoc e scales i)).toNat)

/-- The ZERO block. -/
def zeroBlock : MBlock := ([], 0)

/-- The 32 products of an aligned group, added to a tile element (R62, R63, R180). -/
def addGroup (ca cb : DWord) (a b : MBlock) (x : Elem) : Elem :=
  let na := entXPL ca
  let nb := entXPL cb
  (List.range 32).foldl (fun (x : Elem) i =>
    let va := planeElem a.1 a.2 na i
    let vb := planeElem b.1 b.2 nb i
    if va.isNan || vb.isNan then x.add 0 false false true
    else if va.isInf || vb.isInf then
      (if va.isZero || vb.isZero then x.add 0 false false true
       else x.add 0 (va.neg == vb.neg) (va.neg != vb.neg) false)
    else if va.isZero || vb.isZero then x
    else x.add (fxProduct (entLSB ca) (planeInt a.1 na i) (planeInt b.1 nb i) a.2 b.2 na nb) false false false) x

/-- One k-step of a tile with the blocks of its rows and columns (R180). -/
def Tile.kstep (t : Tile) (ca cb : DWord) (a b : List MBlock) : Tile :=
  let n := if t.steps = 0xFFFFFFFF then t.steps else t.steps + 1
  { t with
    el := Vector.ofFn fun r => Vector.ofFn fun c =>
      addGroup ca cb (a.getD r.val zeroBlock) (b.getD c.val zeroBlock) ((t.el[r]'r.isLt)[c]'c.isLt)
    steps := n, guard := t.guard || decide (2 ^ entGLOG ca < n.toNat) }

/-- The blocks of A in a k-step: stored, or formed by the unfolding unit. -/
def MmaOp.aBlocks (o : MmaOp) (ca : DWord) (read : Nat → Byte) (j : Nat) : List MBlock :=
  (List.range 64).map fun r => match o.a with
    | some (p, q) => readBlock ca p q (64 * j + r) read
    | none => match (Conv.ofWords o.u.desc).block r (o.k0 + j) with
      | some i => readBlock ca o.u.planes o.u.scales i read
      | none => zeroBlock

/-- The next `n` k-steps of an `MMA`. -/
def MmaOp.apply (o : MmaOp) (ca cb : DWord) (read : Nat → Byte) (n : Nat) (t : Tile) : Tile :=
  (List.range n).foldl (fun (t : Tile) i =>
    let j := o.steps + i
    t.kstep ca cb (o.aBlocks ca read j) ((List.range 64).map fun c => readBlock cb o.bp o.bs (64 * j + c) read)) t

/-! ## Ranges and their checks (R176) -/

/-- A range that an instruction names: its base as given, whether that must be aligned, its parts. -/
structure MRange where
  base : DWord
  aligned : Bool
  field : Nat
  acc : Nat
  parts : List (Nat × Nat)
  deriving DecidableEq, Repr

/-- One contiguous range. -/
def MRange.one (base : DWord) (aligned : Bool) (field acc n : Nat) : MRange :=
  ⟨base, aligned, field, acc, [(base.toNat % 2 ^ 56, n)]⟩

/-- The planes and the scales of a stored tensor of m k-blocks. -/
def tensorRanges (e : DWord) (planes scales : DWord) (field acc m : Nat) : List MRange :=
  [.one planes true field acc (256 * entMPL e * m), .one scales false field acc (if entMKIND e = 3 then 64 * m else 1)]

/-- The range lies in the scratchpad allocations of the issuing core. -/
def State.checkOwn (s : State) (g : Group) (acc a n : Nat) : Option Bad :=
  if window a = 0xFE ∧ a / 2 ^ 46 % 4 ≠ s.coreOf g % 4 then some ⟨Cause.accessViolation, a⟩ else s.checkRange g acc a n

/-- The checks of step 3, range by range. -/
def State.checkRanges (s : State) (i : Instr) : List MRange → Option Res
  | [] => none
  | r :: rs =>
    if r.aligned && r.base.toNat % 4 ≠ 0 then some (s.operandTrap i r.field (r.base.extractLsb' 0 32))
    else
      let bads := r.parts.filterMap fun p => s.checkOwn s.cur r.acc p.1 p.2
      match lowest (bads.map (·.addr)) with
      | some a => (trapOfBads (laneList.map fun l => (l, r.acc, Bad.mk Cause.accessViolation a))).map fun t => .trap s t
      | none => s.checkRanges i rs

/-! ## Convergence (R176) -/

/-- The group is converged. -/
def Group.converged (g : Group) : Bool :=
  decide (g.validNums.length = 1) && decide (g.ovf = 0) && decide (g.exec = 0xFFFFFFFF) && decide (g.sp.park = 0)

/-- The effect of a matrix instruction after the convergence check. -/
def matBody (body : State → Res) (s : State) : Res :=
  if s.cur.converged then body s
  else .trap s (.all Cause.convergence s.cur.exec s.cur.splitReg s.cur.exec 0 0)

/-- The tile's in-chain bit must have a value (R182); the field code and number of the tile otherwise. -/
def chainCheck (i : Instr) (field : Nat) (n : BitVec 8) (want : Bool) (body : State → Res) (s : State) : Res :=
  if (s.tileOf s.cur (n.extractLsb' 0 3)).chain = want then body s else s.operandTrap i field ((0 : BitVec 24) ++ n)

/-! ## The engine (R177, R178, R182) -/

/-- The tile and epoch of an operation. -/
def MatOp.tile : MatOp → BitVec 3
  | .mma o => o.tile | .zero t _ => t | .load o => o.tile
def MatOp.epoch : MatOp → Nat
  | .mma o => o.epoch | .zero _ e => e | .load o => o.epoch
def MatOp.isMma : MatOp → Bool
  | .mma _ => true | .zero _ _ => false | .load _ => false

/-- An `MMA` waits for operations on its tile issued before an `MBEG` or `MEND`: a chain's for every operation ahead of the
`MBEG`, one after a chain for the chain's `MMA`s (R182). Odd epochs are chains. -/
def MatOp.behind (o x : MatOp) : Bool :=
  o.isMma && decide (x.tile = o.tile) && decide (x.epoch < o.epoch) &&
  (decide (o.epoch % 2 = 1) || (x.isMma && decide (x.epoch % 2 = 1)))

/-- The groups of the same block. -/
def State.mates (s : State) (g : Group) : List Group :=
  s.groups.filter fun h => s.sameUnit .blk g h && decide (h.ref ≠ g.ref)

/-- The oldest operation of the group may not be applied yet. -/
def State.matBlocked (s : State) (g : Group) (o : MatOp) : Bool := (s.mates g).any fun h => h.pend.mx.any fun x => o.behind x

/-- Operand bytes: those read at issue, otherwise as they stand. -/
def State.matRead (s : State) (g : Group) (got : List (Nat × Byte)) (a : Nat) : Byte := (byteAt got a).getD (s.byteOf g a)

/-- The binding entries of an `MMA`. -/
def State.mmaEnts (s : State) (g : Group) (o : MmaOp) : DWord × DWord :=
  let l := s.lchOf g
  (l.cbind[o.ca.toNat]'o.ca.isLt, l.cbind[o.cb.toNat]'o.cb.isLt)

/-- Distinct activation blocks of a virtual A. -/
def unfoldBlocks (u : Unfold) (k0 m : Nat) : List Nat :=
  setAddAll [] ((span k0 (k0 + m)).flatMap fun kb => (List.range 64).filterMap fun r => (Conv.ofWords u.desc).block r kb)

/-- The ranges of operand A. -/
def aRanges (e : DWord) (a : Option (DWord × DWord)) (u : Unfold) (k0 m : Nat) : List MRange :=
  match a with
  | some (p, q) => tensorRanges e p q 1 12 m
  | none =>
    let ix := unfoldBlocks u k0 m
    [⟨u.planes, true, 1, 12, ix.map fun i => (planeLoc e u.planes i, 4 * entMPL e)⟩,
     ⟨u.scales, false, 1, 12, setAddAll [] (ix.map fun i => scaleLoc e u.scales i) |>.map fun a => (a, 1)⟩]

/-- The ranges of an `MMA`. -/
def MmaOp.ranges (o : MmaOp) (ca cb : DWord) : List MRange := aRanges ca o.a o.u o.k0 o.m ++ tensorRanges cb o.bp o.bs 2 12 o.m

/-- The bytes of some blocks of a tensor that the engine reads: of the first XPL planes, and of their scales (R179). -/
def blockLocs (e : DWord) (planes scales : DWord) (ix : List Nat) : List Nat :=
  (ix.flatMap fun i => byteLocs (planeLoc e planes i) (4 * entXPL e)) ++ setAddAll [] (ix.map (scaleLoc e scales))

/-- The operand bytes of an `MMA` that the engine reads. -/
def MmaOp.reads (o : MmaOp) (ca cb : DWord) : List Nat :=
  (match o.a with
    | some (p, q) => blockLocs ca p q (List.range (64 * o.m))
    | none => blockLocs ca o.u.planes o.u.scales (unfoldBlocks o.u o.k0 o.m)) ++
  blockLocs cb o.bp o.bs (List.range (64 * o.m))

/-- Operand locations that the engine reads for an operation. -/
def State.matLocs (s : State) (g : Group) (o : MatOp) : List Nat :=
  match o with
  | .mma o => let e := s.mmaEnts g o; o.reads e.1 e.2
  | .zero _ _ => []
  | .load o => byteLocs (o.addr.toNat % 2 ^ 56) (4096 * memElem ((s.lchOf g).cbind[o.cn.toNat]'o.cn.isLt))

/-- `n` k-steps of the oldest `MMA` of a group are applied. -/
def State.applySteps (s : State) (g : Group) (o : MmaOp) (n : Nat) : State :=
  let e := s.mmaEnts g o
  let s1 := s.onTile g o.tile (o.apply e.1 e.2 (s.matRead g o.got) n)
  s1.onGroup g.ref fun h => { h with pend := { h.pend with mx := match h.pend.mx with
    | .mma x :: rest => .mma { x with steps := x.steps + n } :: rest
    | l => l } }

/-- Before another operation reaches a tile, the engine may have applied some k-steps of the oldest `MMA`s of the other
groups of the block into it (R178): a free number of each. -/
def State.partials (s : State) (g : Group) (tile : BitVec 3) : State :=
  (s.mates g).foldl (fun (s : State) h => match h.pend.mx with
    | .mma o :: _ =>
      if o.tile = tile ∧ ¬ s.matBlocked h (.mma o) ∧ o.marks.isEmpty ∧ ¬ (s.matLocs h (.mma o)).any (s.markedAt h) then
        { s with fresh := s.fresh + 1 }.applySteps h o ((Config.freeWord s.fresh).toNat % (o.m - o.steps + 1))
      else s
    | _ => s) s

/-- The operation leaves the engine. -/
def State.popMat (s : State) (g : Group) : State :=
  s.onGroup g.ref fun h => { h with pend := { h.pend with mx := h.pend.mx.drop 1 } }

/-- MLDA on a tile (R187). -/
def Tile.loaded (t : Tile) (en : DWord) (ck : DWord) (count : Word) (bytes : Nat → Byte) : Tile :=
  let n := memElem en
  let lim : Int := (2 ^ 79 : Nat)
  let at' := fun (i : Nat) => (fmtOf (entMKIND en)).decode (leNat ((List.range n).map fun k => bytes (i * n + k)))
  let int := fun (x : Val) => x.floor (-(entLSB ck))
  let out := fun (i : Nat) => let x := at' i; x.finite && decide (int x < -lim ∨ lim ≤ int x)
  { t with
    el := Vector.ofFn fun r => Vector.ofFn fun c => match at' (64 * r.val + c.val) with
      | .nan _ => { sq := true }
      | .inf neg => if neg then { sn := true } else { sp := true }
      | x => { v := BitVec.ofInt 80 (max (-lim) (min (int x) (lim - 1))) }
    steps := count, poison := []
    guard := (List.range 4096).any out || decide (2 ^ entGLOG ck < count.toNat) }

/-- The oldest matrix operation of a group is applied to its tile and retires (R177, R185, R187); it waits while the engine
may not start it (R182). -/
def State.retireMatrix (s : State) (r : GRef) : State :=
  match s.group? r with
  | none => s
  | some g =>
    match g.pend.mx with
    | [] => s
    | op :: _ =>
      if s.matBlocked g op then s
      else
        let marks := fun (l : List Nat) => match l.find? (s.markedAt g) with
          | some a => some a
          | none => none
        match op with
        | .zero t _ => ((s.partials g t).onTile g t Tile.zeroed).popMat g
        | .mma o =>
          let locs := (s.matLocs g op).filter fun a => (byteAt o.got a).isNone
          match o.marks.head?.orElse fun _ => marks locs with
          | some a => s.killAt g a (.entry o.split) o.pc
          | none => (s.applySteps g o (o.m - o.steps)).popMat g
        | .load o =>
          let locs := (s.matLocs g op).filter fun a => (byteAt o.got a).isNone
          match o.marks.head?.orElse fun _ => marks locs with
          | some a => s.killAt g a (.entry o.split) o.pc
          | none =>
            let s1 := s.partials g o.tile
            let l := s.lchOf g
            (s1.onTile g o.tile fun t => t.loaded (l.cbind[o.cn.toNat]'o.cn.isLt) (l.cbind[o.ck.toNat]'o.ck.isLt) o.count
              fun i => s.matRead g o.got ((o.addr.toNat + i) % 2 ^ 56)).popMat g

/-- An operation of the running group enters the engine, which may read each sector of its operands now, a free choice (R177). -/
def State.queueMat (s : State) (o : MatOp) : State :=
  let g := s.cur
  let secs := sectorSet (s.matLocs g o)
  let early := ((secs.zip (List.range secs.length)).filter fun p => Config.freeBool (s.fresh + p.2)).map (·.1)
  let locs := (s.matLocs g o).filter fun a => early.contains (a / 32)
  let got := locs.map fun a => (a, s.byteOf g a)
  let marks := locs.filter (s.markedAt g)
  let o1 : MatOp := match o with
    | .mma x => .mma { x with got := got, marks := marks }
    | .zero t e => .zero t e
    | .load x => .load { x with got := got, marks := marks }
  { s with cur := { g with pend := { g.pend with mx := g.pend.mx ++ [o1] } }, fresh := s.fresh + secs.length }

/-- Enters an operation of the running split: its earlier stores to the operands are performed first (R177). -/
def State.enterMat (s : State) (o : MatOp) : Res :=
  let g := s.cur
  if g.full 1 then .wait s
  else
    let s1 := s.flushBytes g.ref (.entry g.running) (s.matLocs g o)
    if !s1.cur.isRef g.ref then .stay s1
    else .done (s1.queueMat o)

/-- MATRIX_RETIRE (R177). -/
def execMatrixRetire (g : GRef) (s : State) : Host.Outcome State Fault Refusal := .next (s.retireMatrix g)

/-! ## Class requirements (R175) -/

/-- A class for the engine: planes, and XPL set. -/
def engineClass (e : DWord) : Bool := entPlanes e && decide (entXPL e ≠ 0)

/-- The accumulating class in word 2, bits [19:16]. -/
def ckOf (f : Fields) : BitVec 4 := f.w2.extractLsb' 16 4

/-- It must be declared and have XPL ≠ 0. -/
def ckErr (s : State) (f : Fields) : Option FieldErr :=
  let e := s.ent (ckOf f)
  if entV e && decide (entXPL e ≠ 0) then none else some ⟨6, f.w2⟩

/-- A test of word 2. -/
def w2Err (f : Fields) (ok : Bool) : Option FieldErr := if ok then none else some ⟨6, f.w2⟩

/-- A test of the class in CLS. -/
def clsErr (f : Fields) (ok : Bool) : Option FieldErr := if ok then none else some ⟨4, (0 : BitVec 28) ++ f.cls⟩

/-! ## Chains (R182) -/

/-- Sets the in-chain bit of the tile in A. -/
def setChain (f : Fields) (x : Bool) (s : State) : Res :=
  .done (s.onTile s.cur (f.a.extractLsb' 0 3) fun t => { t with chain := x, epoch := t.epoch + 1 })

/-- MBEG (R182). -/
def execMbeg (f : Fields) (s : State) : Host.Outcome State Fault Refusal :=
  .next (issue (.mbeg f) (planAlways 0x70 f) (matBody (chainCheck (.mbeg f) 1 f.a false (setChain f true))) s)

/-- MEND (R182). -/
def execMend (f : Fields) (s : State) : Host.Outcome State Fault Refusal :=
  .next (issue (.mend f) (planAlways 0x70 f) (matBody (chainCheck (.mend f) 1 f.a true (setChain f false))) s)

/-! ## MMA (R180, R184) -/

/-- m and k0 of word 2. -/
def mmaM (f : Fields) : Nat := bitsOf f.w2 0 16
def mmaK0 (f : Fields) : Nat := bitsOf f.w2 16 16

/-- The checks of step 5 of an `MMA` (R175). -/
def mmaErr (f : Fields) (s : State) : Option FieldErr :=
  let sub := if engineClass (s.ent f.sub) then none else some ⟨5, (0 : BitVec 28) ++ f.sub⟩
  firstErr (clsErr f (engineClass (s.ent f.cls)))
    (firstErr sub (w2Err f (1 ≤ mmaM f && mmaM f ≤ 1024 && (f.a = 0xFF || mmaK0 f = 0))))

/-- The operation that an `MMA` names. -/
def mmaOp (i : Instr) (f : Fields) (s : State) : MmaOp :=
  let r := s.cur.regs
  let tile := f.d.extractLsb' 0 3
  { pc := s.cur.sp.pc, split := s.cur.running, tile := tile, ca := f.cls, cb := f.sub
    a := if f.a = 0xFF then none else some (r.getPair f.a, r.getPair (f.a + 2))
    u := s.cur.unfold, bp := r.getPair f.b, bs := r.getPair (f.b + 2), m := mmaM f, k0 := mmaK0 f
    epoch := (s.tileOf s.cur tile).epoch, words := encode i }

/-- The range checks of an `MMA`, then its entry into the engine. -/
def mmaBody (i : Instr) (f : Fields) (s : State) : Res :=
  let o := mmaOp i f s
  match s.checkRanges i (o.ranges (s.ent f.cls) (s.ent f.sub)) with
  | some r => r
  | none => s.enterMat (.mma o)

/-- MMA with a stored A (R180). -/
def execMma (f : Fields) (s : State) : Host.Outcome State Fault Refusal :=
  let plan := { planAlways 0x71 f with more := fun _ => mmaErr f s }
  .next (issue (.mma f) plan (matBody (mmaBody (.mma f) f)) s)

/-- A 4140 lacks the unfolding unit (R5, R48 step 3). -/
def needsUnfold (i : Instr) (body : State → State) (s : State) : State :=
  if Config.hasUnfold s.part then body s else s.takeTrap (wordsTrap Cause.unitAbsent s.cur.exec (encode i) 0)

/-- MMA with a virtual A (R184). -/
def execMmaUnfold (f : Fields) (s : State) : Host.Outcome State Fault Refusal :=
  let plan := { planAlways 0x71 f with more := fun _ => mmaErr f s }
  .next (needsUnfold (.mmaUnfold f) (issue (.mmaUnfold f) plan (matBody fun s =>
    if !s.cur.unfold.valid then s.operandTrap (.mmaUnfold f) 1 0xFF
    else if (Conv.ofWords s.cur.unfold.desc).kblocks < mmaK0 f + mmaM f then s.operandTrap (.mmaUnfold f) 6 f.w2
    else mmaBody (.mmaUnfold f) f s)) s)

/-! ## Operand reads that the split waits for -/

/-- Bytes that an instruction reads from its core's scratchpad at issue, after the split's earlier stores to them; a marked
one kills the gang (R329). -/
def scratchRead (s : State) (locs : List Nat) (body : State → (Nat → Byte) → Res) : Res :=
  let g := s.cur
  let s1 := s.flushBytes g.ref (.entry g.running) locs
  if !s1.cur.isRef g.ref then .stay s1
  else match locs.find? (s1.markedAt s1.cur) with
    | some a => .stay (s1.killAt s1.cur a (.entry g.running) g.sp.pc)
    | none => body s1 (s1.byteOf s1.cur)

/-- Writes bytes of some ranges, given by location and width, to the scratchpad: a store whose pieces are performed before the
split's next instruction (R177, R194). -/
def scratchWrite (s : State) (ranges : List (Nat × Nat)) (l : List (Nat × Byte)) : State :=
  s.startOp { id := 0, split := .entry 0, pc := 0, kind := .store, acc := 13, scope := .grp
              lanes := ranges.map fun r => ⟨0, r.1, r.2⟩, data := l, left := sectorSet (l.map (·.1)), gate := true }

/-! ## MUNF (R183) -/

/-- MUNF (R183). -/
def execMunf (f : Fields) (s : State) : Host.Outcome State Fault Refusal :=
  let i := Instr.munf f
  .next (needsUnfold i (issue i (planAlways 0x72 f) (matBody fun s =>
    let r := s.cur.regs
    let planes := r.getPair f.a
    let addr := r.getPair f.b
    if planes.toNat % 4 ≠ 0 then s.operandTrap i 1 (planes.extractLsb' 0 32)
    else match s.checkRanges i [.one addr true 2 14 32] with
    | some x => x
    | none => scratchRead s (byteLocs (addr.toNat % 2 ^ 56) 32) fun s read =>
      let desc := wordsOf ((byteLocs (addr.toNat % 2 ^ 56) 32).map read) 8
      match convBad desc with
      | some n => s.operandTrap i 2 (BitVec.ofNat 32 n)
      | none => .done { s with cur := { s.cur with unfold := ⟨true, planes, r.getPair (f.a + 2), desc⟩ } })) s)

/-! ## MZERO, MLDA (R185, R187) -/

/-- MZERO (R185). -/
def execMzero (f : Fields) (s : State) : Host.Outcome State Fault Refusal :=
  .next (issue (.mzero f) (planAlways 0x73 f) (matBody (chainCheck (.mzero f) 1 f.a false fun s =>
    let t := f.a.extractLsb' 0 3
    s.enterMat (.zero t (s.tileOf s.cur t).epoch))) s)

/-- MLDA (R187). -/
def execMlda (f : Fields) (s : State) : Host.Outcome State Fault Refusal :=
  let plan := { planAlways 0x75 f with
    more := fun _ => firstErr (clsErr f (decide (entMKIND (s.ent f.cls) ≤ 2)))
      (firstErr (w2Err f (f.w2 &&& ~~~0xF0000#32 = 0)) (ckErr s f)) }
  .next (issue (.mlda f) plan (matBody (chainCheck (.mlda f) 0 f.d false fun s =>
    let r := s.cur.regs
    let t := f.d.extractLsb' 0 3
    let addr := r.getPair f.b
    match s.checkRanges (.mlda f) [.one addr false 2 12 (4096 * memElem (s.ent f.cls))] with
    | some x => x
    | none => s.enterMat (.load { pc := s.cur.sp.pc, split := s.cur.running, tile := t, cn := f.cls, ck := ckOf f, addr := addr
                                  count := r.getS f.c, epoch := (s.tileOf s.cur t).epoch, words := encode (.mlda f) }))) s)

/-! ## Drains (R65, R186) -/

/-- r0 and rows of word 2. -/
def drnR0 (f : Fields) : Nat := bitsOf f.w2 0 8
def drnRows (f : Fields) : Nat := bitsOf f.w2 8 8

/-- Word 2 of a drain. -/
def drnW2Ok (f : Fields) : Bool :=
  bitsOf f.w2 20 12 = 0 && drnR0 f ≤ 63 && 1 ≤ drnRows f && drnRows f ≤ 64 && drnR0 f + drnRows f ≤ 64

/-- A drained element (R65): through `round_class` or `round_mem` of the destination class, in a format. -/
def drainElem (e : DWord) (fm : Fmt) (lsb : Int) (guard : Bool) (srs : Word) (col : Nat) (x : Elem) : ClsRes :=
  let v := x.val lsb
  if v.finite && guard then
    { bits := fm.signed (x.v.getLsbD 79) (maxBelow fm (entBound e)), reason := if entTGD e then 4 else 0, range := !entTGD e }
  else clsRound e fm (srDraw srs col) v

/-- The cause of a reason (R92, R128). -/
def reasonCause (r : Nat) : Nat := if r = 4 then Cause.classGuard else if r = 3 then Cause.classUnderflow else Cause.classRange

/-- The rows of a drain, 64 results each. -/
def drainRows (f : Fields) (e : DWord) (fm : Fmt) (s : State) : List (List ClsRes) :=
  let t := s.tileOf s.cur (f.a.extractLsb' 0 3)
  let lsb := entLSB (s.ent (ckOf f))
  (span (drnR0 f) (drnR0 f + drnRows f)).map fun r => (List.range 64).map fun c =>
    drainElem e fm lsb t.guard s.cur.ctl.srstate c (((t.el.toList.getD r (Vector.ofFn fun _ => {})).toList).getD c {})

/-- The waits, the poison check, the traps and the flags of a drain, then its writes. -/
def drain (f : Fields) (fm : Fmt) (x0 : Word) (write : State → List (List ClsRes) → State) (s : State) : Res :=
  let g := s.cur
  let tile := f.a.extractLsb' 0 3
  if !g.pend.mx.isEmpty then .wait s
  else
    let s1 := s.partials g tile
    let words := (span (64 * drnR0 f) (64 * (drnR0 f + drnRows f))).flatMap elemWords
    match (s1.tileOf g tile).poison.find? words.contains with
    | some w => .stay (s1.killPoison g 3 (Config.poolAddr 2 g.launch g.run g.block (6144 * tile.toNat + w)) g.running.toNat g.sp.pc)
    | none =>
      let e := s1.ent f.cls
      let rows := drainRows f e fm s1
      let s2 := s1.orCls f.cls (rows.any fun r => r.any (·.range)) (rows.any fun r => r.any (·.under))
      let bads := (rows.zip (List.range rows.length)).flatMap fun p =>
        ((p.1.zip (List.range 64)).filter fun q => q.1.reason ≠ 0).map fun q => (q.1.reason, drnR0 f + p.2, q.2)
      match bads with
      | (reason, r, c) :: _ =>
        .trap s2 (.all (reasonCause reason) 0xFFFFFFFF x0 (BitVec.ofNat 32 reason) (BitVec.ofNat 32 (r * 256 + c)) 0)
      | [] => .done ((write s2 rows).advanceSr e)

/-- The register destinations of a drain. -/
def drnRegs (e : DWord) (f : Fields) : Nat := drnRows f * (if entPacked e then 1 else 2)

/-- MDRN to registers (R186). -/
def execMdrn (f : Fields) (s : State) : Host.Outcome State Fault Refusal :=
  let e := s.ent f.cls
  let range := if f.d.toNat < s.limits.nv ∧ f.d.toNat + drnRegs e f ≤ s.limits.nv then none else some ⟨0, (0 : BitVec 24) ++ f.d⟩
  let plan := { planAlways 0x74 f with
    more := fun _ => firstErr range (firstErr (w2Err f (drnW2Ok f)) (ckErr s f))
    xdst := regsFrom false (drnRegs e f) f.d }
  .next (issue (.mdrn f) plan (matBody (chainCheck (.mdrn f) 1 f.a false (drain f (entFmt e) ((0 : BitVec 24) ++ f.d) fun s rows =>
    s.onRegs fun r => (rows.zip (List.range rows.length)).foldl (fun (r : RegFile) p =>
      let bits := fun (c : Nat) => ((p.1[c]?).map (·.bits)).getD 0
      let reg := fun (k : Nat) => f.d + BitVec.ofNat 8 k
      if entPacked e then
        r.writeV (reg p.2) 0xFFFFFFFF (Lanes.mk fun l => BitVec.ofNat 32 (bits l.val + 65536 * bits (l.val + 32)))
      else
        (r.writeV (reg (2 * p.2)) 0xFFFFFFFF (Lanes.mk fun l => BitVec.ofNat 32 (bits l.val))).writeV (reg (2 * p.2 + 1)) 0xFFFFFFFF
          (Lanes.mk fun l => BitVec.ofNat 32 (bits (l.val + 32)))) r))) s)

/-- MDRN to the scratchpad (R186). -/
def execMdrnScratch (f : Fields) (s : State) : Host.Outcome State Fault Refusal :=
  let e := s.ent f.cls
  let plan := { planAlways 0x74 f with
    more := fun _ => firstErr (clsErr f (decide (entMKIND e ≤ 2))) (firstErr (w2Err f (drnW2Ok f)) (ckErr s f)) }
  .next (issue (.mdrnScratch f) plan (matBody (chainCheck (.mdrnScratch f) 1 f.a false fun s =>
    let n := memElem e
    let addr := s.cur.regs.getPair f.b
    match s.checkRanges (.mdrnScratch f) [.one addr false 2 13 (drnRows f * 64 * n)] with
    | some x => x
    | none => drain f (fmtOf (entMKIND e)) 0xFF (fun s rows =>
        let bytes := rows.flatMap fun r => r.flatMap fun x => leBytes n x.bits
        scratchWrite s [(addr.toNat % 2 ^ 56, bytes.length)] ((byteLocs (addr.toNat % 2 ^ 56) bytes.length).zip bytes)) s)) s)

/-! ## MQNT (R188) -/

/-- t and e of word 2. -/
def qntT (f : Fields) : Bool := f.w2.getLsbD 0
def qntE (f : Fields) : Nat := bitsOf f.w2 8 8

/-- Word 2 of MQNT. -/
def qntW2Ok (e : DWord) (f : Fields) : Bool :=
  bitsOf f.w2 16 16 = 0 && bitsOf f.w2 0 8 ≤ 1 && (entMKIND e ≠ 3 || qntE f = 0)

/-- The 128 blocks in row-major order: row, k-block, the quantised block. -/
def qntBlocks (f : Fields) (e : DWord) (srs : Word) (elem : Nat → Val) : List (Nat × Nat × Quant) :=
  (List.range 64).flatMap fun r => [0, 1].map fun kb =>
    let xs := (List.range 32).map fun i =>
      let c := 32 * kb + i
      elem (if qntT f then 64 * c + r else 64 * r + c)
    (r, kb, if entMKIND e = 3 then quantBlock e srs (entMPL e) xs else quantTensor e srs (entMPL e) (qntE f) xs)

/-- MQNT (R188). Under MKIND 4 no scale byte is written (R58), and the scale base of the destination quad is not checked (DESIGN CHOICE,
log 174). -/
def execMqnt (f : Fields) (s : State) : Host.Outcome State Fault Refusal :=
  let e := s.ent f.cls
  let plan := { planAlways 0x76 f with more := fun _ => firstErr (clsErr f (entPlanes e)) (w2Err f (qntW2Ok e f)) }
  .next (issue (.mqnt f) plan (matBody fun s =>
    let r := s.cur.regs
    let planes := r.getPair f.d
    let scales := r.getPair (f.d + 2)
    let src := r.getPair f.b
    let dst := (tensorRanges e planes scales 0 13 2).take (if entMKIND e = 3 then 2 else 1)
    let ranges : List MRange := dst ++ [.one src false 2 12 16384]
    match s.checkRanges (.mqnt f) ranges with
    | some x => x
    | none =>
      if !s.cur.pend.mx.isEmpty then .wait s
      else scratchRead s (byteLocs (src.toNat % 2 ^ 56) 16384) fun s read =>
        let elem := fun (i : Nat) => fp32.decode (leNat ((byteLocs ((src.toNat + 4 * i) % 2 ^ 56) 4).map read))
        let blocks := qntBlocks f e s.cur.ctl.srstate elem
        let s1 := s.orCls f.cls (blocks.any (·.2.2.range)) (blocks.any (·.2.2.under))
        match blocks.find? fun b => b.2.2.reason ≠ 0 with
        | some (row, kb, q) =>
          .trap s1 (.all (reasonCause q.reason) 0xFFFFFFFF ((0 : BitVec 24) ++ f.d) (BitVec.ofNat 32 q.reason)
            (BitVec.ofNat 32 (64 * kb + row)) 0)
        | none =>
          let cells := blocks.flatMap fun (row, kb, q) =>
            let i := 64 * kb + row
            let w := (planesOf (entMPL e) q.qs).flatMap bytesOfWord
            (byteLocs (planeLoc e planes i) w.length).zip w ++
              (if entMKIND e = 3 then [(scaleLoc e scales i, BitVec.ofNat 8 q.code)] else [])
          .done ((scratchWrite s1 (dst.flatMap (·.parts)) cells).advanceSr e)) s)

/-! ## MSTAT (R189) -/

/-- The status word of a tile (R189). -/
def Tile.status (t : Tile) : Word :=
  let any := fun (p : Elem → Bool) => t.el.toList.any fun r => r.toList.any p
  BitVec.ofBool t.guard ++ BitVec.ofBool (any (·.sp)) ++ BitVec.ofBool (any (·.sn)) ++ BitVec.ofBool (any (·.sq)) ++ (0 : BitVec 1) ++
    BitVec.ofNat 27 (min t.steps.toNat 0x7FFFFFF)

/-- MSTAT (R189). -/
def execMstat (f : Fields) (s : State) : Host.Outcome State Fault Refusal :=
  .next (issue (.mstat f) (planAlways 0x77 f) (matBody (chainCheck (.mstat f) 1 f.a false fun s =>
    if !s.cur.pend.mx.isEmpty then .wait s
    else
      let s1 := s.partials s.cur (f.a.extractLsb' 0 3)
      .done (s1.onRegs fun r => r.writeS f.d (s1.tileOf s1.cur (f.a.extractLsb' 0 3)).status))) s)

end Sys2Proof.Machine
end

