-- ==== Sys2Proof/Machine/Watch.lean ====
section
/-! DEFINITION. What the device does to the splits of a group by itself: the overflow swap (R78), the join watchdog (R85 to
R87), promotion (R268) and the debugger's steps (R98). -/

namespace Sys2Proof.Machine

/-- The debugger holds the group (R98). -/
def Fydb.holds : Fydb → Bool
  | .off => false
  | .attached => false
  | .stopped => true
  | .stepping _ => true

/-- The wait counts of the group do not rise: a user handler or the debugger freezes it (R19, R85), or it is parked (R230). -/
def Group.frozen (g : Group) : Bool := g.handler.isSome || g.parked.isSome || g.fydb.holds

/-- LIMIT and POL of `$jwd` (R16). -/
def Group.jwdLimit (g : Group) : Nat := bitsOf g.ctl.jwd 0 26
def Group.jwdTrap (g : Group) : Bool := g.ctl.jwd.getLsbD 31

/-- An entry waits on slot `j`. -/
def Split.waitsOn (e : Split) (j : BitVec 3) : Bool := e.v && decide (e.st = .waiting) && decide (e.jslot = j)

/-- Takes a group as the running one and applies a change to the state, if the group is resident. -/
def State.inGroup (s : State) (r : GRef) (f : State → State) : State :=
  match s.group? r with
  | some _ => f (s.focus r)
  | none => s

/-! ## Swap (R78) -/

/-- The waiting split that has waited longest; the lower number on a tie. -/
def Group.longest (g : Group) : Option (BitVec 3) :=
  g.validNums.foldl (fun r n => match r with
    | none => some n
    | some m => if (g.entry m).wait < (g.entry n).wait then some n else some m) none

/-- The slot of the dormant overflow entry nearest the top. -/
def topDormant (es : List Split) : Option Nat :=
  ((List.range es.length).filter fun i => ((es[i]?).map (·.st)) = some .dormant).getLast?

/-- The swap of R78 in the running group. -/
def State.swap (s : State) : State :=
  let g := s.cur
  let es := s.ovfEntries g
  if g.validNums.all fun n => (g.entry n).st = .waiting then
    match g.longest, topDormant es with
    | some n, some i =>
      match es[i]? with
      | some d =>
        let s1 := s.setOvfs (es.set i (g.entry n))
        State.checkPartition s { s1 with cur := (s1.cur.setEntry n { d with v := true, st := .ready }).relabel (swapOwner n i) }
      | none => s
    | _, _ => s
  else s

/-- SPLIT_SWAP (R78). -/
def execSplitSwap (g : GRef) (s : State) : Host.Outcome State Fault Refusal := .next (s.inGroup g State.swap)

/-! ## The join watchdog (R85 to R87) -/

/-- Some split on slot `j` has reached LIMIT, in the table or in the overflow area. -/
def State.limitReached (s : State) (j : BitVec 3) : Bool :=
  let g := s.cur
  let due := fun (e : Split) => e.waitsOn j && decide (g.jwdLimit ≤ e.wait)
  decide (g.jwdLimit ≠ 0) && !g.frozen && ((g.validNums.any fun n => due (g.entry n)) || (s.ovfEntries g).any due)

/-- `$lostrc` rises by one, saturating (R86). -/
def GroupRegs.lose (c : GroupRegs) : GroupRegs := { c with lostrc := if c.lostrc = 0xFFFFFFFF then c.lostrc else c.lostrc + 1 }

/-- JOIN_WATCHDOG_RELEASE (R86). -/
def execJoinWatchdogRelease (g : GRef) (slot : Fin 8) (s : State) : Host.Outcome State Fault Refusal :=
  .next (s.inGroup g fun s =>
    let j := BitVec.ofNat 3 slot.val
    if !s.cur.jwdTrap && s.limitReached j then State.checkPartition s ((s.onCtl GroupRegs.lose).merge j) else s)

/-- The lowest-numbered valid split on slot `j` whose count has reached LIMIT. -/
def Group.firstDue (g : Group) (j : BitVec 3) : Option (BitVec 3) :=
  g.validNums.find? fun n => (g.entry n).waitsOn j && decide (g.jwdLimit ≤ (g.entry n).wait)

/-- JOIN_WATCHDOG_TRAP (R87): the split leaves the waiting state, its lanes leave ARRIVED, and it takes the trap at its
`JARV`. -/
def execJoinWatchdogTrap (g : GRef) (slot : Fin 8) (s : State) : Host.Outcome State Fault Refusal :=
  .next (s.inGroup g fun s =>
    let j := BitVec.ofNat 3 slot.val
    let c := s.cur
    if c.jwdTrap && s.limitReached j then
      match c.firstDue j with
      | none => s
      | some n =>
        let e := c.entry n
        let x := c.join j
        let missing := x.rejoin &&& c.ctl.live &&& ~~~x.arrived
        let c1 := (c.setEntry n { e with st := .ready, wait := 0 }).setJoin j { x with arrived := x.arrived &&& ~~~e.lanes }
        State.takeTrap { s with cur := { c1 with running := n } }
          (.all Cause.joinTimeout e.mask missing (BitVec.ofNat 32 slot.val) 0 0)
    else s)

/-! ## Promotion (R268) -/

/-- GROUP_PROMOTE (R268): the group has been ready for 256 cycles without issuing. -/
def execGroupPromote (g : GRef) (s : State) : Host.Outcome State Fault Refusal :=
  .next (s.onGroup g fun h => if 256 ≤ h.iss.readyFor then { h with iss := { h.iss with promoted := true } } else h)

/-! ## The debugger (R98) -/

/-- The splits that may be stepped: valid, not waiting, not frozen by a handler of another split (R19). -/
def Group.steppable (g : Group) : List (BitVec 3) :=
  g.validNums.filter fun n => decide ((g.entry n).st = .ready) && g.unfrozen n

/-- The focus of the debugger's session, if it can be stepped; the lowest-numbered ready split otherwise. -/
def Group.focusSplit (g : Group) : Option (BitVec 3) :=
  match g.fydbFocus with
  | some n => if g.steppable.contains n then some n else g.steppable.head?
  | none => g.steppable.head?

/-- FYDB_STEP (R98): one instruction of the focus split, or of each ready split in order. The WAIT fields of the overflow area are
brought up to date when the group is frozen (R15). -/
def execFydbStep (g : GRef) (all : Bool) (s : State) : Host.Outcome State Fault Refusal :=
  .next (s.inGroup g fun s =>
    let todo := if all then s.cur.steppable else s.cur.focusSplit.toList
    State.syncWaits { s with cur := { s.cur with
      fydb := if todo.isEmpty then .stopped else .stepping todo, fydbFocus := if all then s.cur.fydbFocus else s.cur.focusSplit } })

/-- FYDB_CONTINUE (R98). -/
def execFydbContinue (g : GRef) (s : State) : Host.Outcome State Fault Refusal :=
  .next (s.onGroup g fun h => if h.fydb.holds then { h with fydb := .attached } else h)

/-- A step has completed: STEP is raised to the debugger, which goes on to the next split or holds the group. -/
def Group.stepped (g : Group) : Group :=
  match g.fydb with
  | .stepping (_ :: n :: l) => { g with fydb := .stepping (n :: l) }
  | .stepping _ => { g with fydb := .stopped }
  | _ => g

end Sys2Proof.Machine
end

