-- ==== Sys2Proof/Machine/Sched.lean ====
section
/-! DEFINITION. Launches and their gangs: LAUNCH_IMAGE (R298), batches (R264), placement (R265), pre-emption and resume (R161, R273,
R298), completion, the death of a die (R266), tenancy (R270 to R275), the ticket unit (R279) and verify runs (R282 to R284). -/

namespace Sys2Proof.Machine

/-! ## Tenancy (R270 to R273) -/

/-- A tenant slot; one without weight or usage when the firmware holds none. -/
def State.tenant (s : State) (slot : Nat) : Tenant := (s.tenants.find? (·.slot = slot)).getD { slot := slot }

/-- Changes a tenant slot. -/
def State.onTenant (s : State) (slot : Nat) (f : Tenant → Tenant) : State :=
  match s.tenants.find? (·.slot = slot) with
  | some _ => { s with tenants := replaceFirst (·.slot = slot) f s.tenants }
  | none => { s with tenants := s.tenants ++ [f { slot := slot }] }

/-- Cycles of a period (R270). -/
def periodCycles : Nat := 940000

/-- Unit-cycles of one core-µs: 940 cycles of 94 units. -/
def unitsPerUs : Nat := 940 * 94

/-- K: the capacity of a period in core-µs (R270). -/
def State.capacityUs (s : State) : Nat := 4 * Config.clusters s.part * 1000

/-- share_t in core-µs (R271). -/
def State.share (s : State) (t : Tenant) : Nat :=
  let w := s.tenants.foldl (fun n x => n + x.weight) 0
  if w = 0 then 0 else s.capacityUs * t.weight / w

/-- budget_t in core-µs (R271). -/
def State.budget (s : State) (t : Tenant) : Nat := s.share t - t.repay + t.credit

/-- Debt of a tenant (R272). -/
def State.debtOf (s : State) (slot : Nat) : Nat := s.debts.foldl (fun n d => if d.borrower = slot then n + d.amount else n) 0

/-- The tenant's usage lies below its budget. -/
def State.withinBudget (s : State) (t : Tenant) : Bool := decide (t.used < s.budget t * unitsPerUs)

/-- The tenant has work that the dispatchers could place: gangs that wait, or blocks that no die has been granted. -/
def State.wantsUnits (s : State) (slot : Nat) : Bool :=
  s.launches.any fun l => decide (l.tenant = slot) && !l.aborted && (decide (l.next < l.img.griddim.toNat) ||
    l.gangs.any fun k => k.st = .granted || k.st = .waiting || (k.st = .preempted && !k.gridWait))

/-- The tenant may be placed (R272): within its budget, or on units that no tenant within its budget needs while its debt,
if it has one, is below its share. -/
def State.mayUse (s : State) (slot : Nat) : Bool :=
  let t := s.tenant slot
  s.withinBudget t ||
    (!(s.tenants.any fun x => x.slot ≠ slot && s.withinBudget x && s.wantsUnits x.slot) &&
     (s.debtOf slot = 0 || s.debtOf slot < s.share t))

/-! ## Room on a cluster (R208, R210, R265) -/

/-- The core of a resident block. -/
def State.blockCore (s : State) (b : Block) : Nat :=
  let l := s.lch b.launch
  4 * ((l.gang? (l.gangOf b.index) b.run).map (·.cluster)).getD 0 + l.posOf b.index % 4

/-- Units that the blocks and staging buffers of a core hold. -/
def State.unitsOnCore (s : State) (core : Nat) : Nat :=
  let bs := s.blocks.filter fun b => s.blockCore b = core
  let det := setAddAll [] ((bs.filter fun b => (s.lch b.launch).img.det).map (·.launch))
  bs.foldl (fun n b => n + (s.lch b.launch).img.units) 0 + 4 * det.length

/-- The core has room for the gang's blocks at positions `k`, `k + 4`, … -/
def State.coreRoom (s : State) (l : Launch) (gang cluster k : Nat) : Bool :=
  let n := l.allocs gang k
  let core := 4 * cluster + k
  let staging := if l.img.det && !(s.blocks.any fun b => decide (b.launch = l.id) && decide (s.blockCore b = core)) then 4 else 0
  n = 0 || s.unitsOnCore core + n * l.img.units + staging ≤ 94

/-- The dispatchers place on the cluster: its island is not OFF and does not wait to go OFF (R347). -/
def State.clusterUp (s : State) (c : Nat) : Bool :=
  decide (c < Config.clusters s.part) && match (s.power.islands.toList)[c]? with
    | some .on => true
    | some .idle => true
    | _ => false

/-- A cluster takes the gang. Of the first two verify runs each goes to another cluster than the other (R282). -/
def State.clusterTakes (s : State) (l : Launch) (k : Gang) (c : Nat) : Bool :=
  s.clusterUp c && s.dieAlive (dieOfCluster c) && ((List.range 4).all fun i => s.coreRoom l k.index c i) &&
  !(l.gangs.any fun x => x.index = k.index && k.run + x.run = 3 && x.placedOnce && x.cluster = c)

/-- The lowest-numbered cluster that takes the gang, among some. -/
def State.pickCluster (s : State) (l : Launch) (k : Gang) (cs : List Nat) : Option Nat := cs.find? (s.clusterTakes l k)

/-- The clusters of a die. -/
def dieClusters (d : Nat) : List Nat := span (16 * d) (16 * d + 16)

/-! ## Creating groups -/

/-- A group of a fresh gang (R12, R82). The manual gives entry 0 its MASK; the entries never used hold MASK 0 (DESIGN CHOICE, log 168). -/
def freshGroup (l : Launch) (k : Gang) (block index age : Nat) : Group :=
  { resident := true, launch := l.id, run := k.run, block := block, index := index, cluster := k.cluster
    splits := Vector.ofFn fun i => if i = 0 then { v := true, mask := 0xFFFFFFFF, pc := alignPc l.img.entry } else { pc := alignPc l.img.entry }
    ctl := { utvec := l.img.utvec, srstate := storeSr l.img.srseed }, iss := { age := age } }

/-- What is saved of a group beside its section. -/
def Gang.savedOf (k : Gang) (r : GRef) : Option SavedGroup := k.saved.find? (·.ref = r)

/-- A group of a gang from its block record; outstanding remote accesses come back when the gang resumes (R273), not when it
is replayed. -/
def resumedGroup (l : Launch) (k : Gang) (rec : List Byte) (fresh block index age : Nat) : Group :=
  let base := { freshGroup l k block index age with resident := true }
  let g := groupIn (sectionIn l.img rec index) l.img.nv (l.posOf block % 4) fresh base
  match k.savedOf g.ref with
  | none => { g with iss := { g.iss with age := age } }
  | some x =>
    let pend := if k.st = .preempted then x.pend else { x.pend with mem := [], held := [] }
    { g with iss := { x.iss with age := age }, pend := pend, regs := { g.regs with vpoison := x.vpoison } }

/-- The epoch of a tile of a resumed block: it lies behind the operations that its groups have outstanding, and says whether a
chain is open (R182). -/
def tileEpoch (ops : List MatOp) (n : Nat) (t : Tile) (saved : Nat) : Nat :=
  let m := ops.foldl (fun m o => if o.tile.toNat = n then max m o.epoch else m) saved
  if (decide (m % 2 = 1)) = t.chain then m else m + 1

/-- A block of a gang, with the stacks that its lanes left. -/
def Gang.block (k : Gang) (l : Launch) (index : Nat) (rec : Option (List Byte)) (ops : List MatOp) : Block :=
  let base : Block := { launch := l.id, run := k.run, index := index, stack := (assoc k.stks index).getD { origin := l.id } }
  match rec with
  | none => base
  | some r =>
    let b := blockIn l.img r base
    let x := (k.savedBlocks.find? (·.index = index)).getD { index := index, poison := [], tiles := [] }
    { b with poison := x.poison
             tiles := Vector.ofFn fun i =>
               let (marks, epoch) := (x.tiles[i.val]?).getD ([], 0)
               { b.tiles[i] with poison := marks, epoch := tileEpoch ops i.val b.tiles[i] epoch } }

/-- Reads the wait counts of a group's overflow entries back from their WAIT words. -/
def State.loadWaits (s : State) (r : GRef) : State :=
  s.onGroup r fun g => { g with ovfWait := (List.range g.ovf).map fun i =>
    (Split.ofWords (wordsOfBytes ((s.blockOf g).scratch.readN (s.ovfOff g i) 32))).wait }

/-- The partition check at the restore of a group (R334). -/
def State.checkRestored (s : State) (r : GRef) : State :=
  match s.group? r with
  | none => s
  | some g =>
    let m := (s.focus r).partition
    if m = 0 then s else s.killGroupGang g { code := Cause.signature, source := 7, actual := m }

/-- The groups of a gang with their age stamps: each takes its core's count, in the order of blocks and groups (R267). -/
def stampAges (coreOf : Nat → Nat) (make : Nat × Nat → Nat → Group) : List (Nat × Nat) → List (Nat × Nat) → List Group × List (Nat × Nat)
  | [], ages => ([], ages)
  | x :: xs, ages =>
    let c := coreOf x.1
    let n := (assoc ages c).getD 0
    let (gs, ages1) := stampAges coreOf make xs (assocSet ages c (n + 1))
    (make x n :: gs, ages1)

/-- A resumed group reissues its outstanding operations, each kind in issue order, and they count again (R24, R297). -/
def State.reissue (s : State) (r : GRef) : State :=
  match s.group? r with
  | none => s
  | some g =>
    let p := g.pend
    -- a gather that is issued again fails again, if it does
    let held := p.held.filter fun h => !(decide (h.acc = 8) && p.ga.any fun o => o.id = h.id)
    let s1 := (s.onGroup r fun g => { g with pend := { g.pend with cp := [], mx := [], ga := [], co := [], held := held } }).focus r
    let s2 := p.cp.foldl State.enterCopy s1
    let s3 := p.mx.foldl State.queueMat s2
    let s4 := p.ga.foldl State.enterGather s3
    p.co.foldl again s4
where
  /-- a collection runs the root's timer again; a contribution goes to the position of its group -/
  again (s : State) (o : CollOp) : State :=
    match o with
    | .get comm slot tag _ _ _ _ _ => (s.enterColl o).openGet ⟨s.cur.launch, comm, slot, tag⟩
    | .put comm slot tag _ data exec ws =>
      match ((s.lchOf s.cur).comm? comm).bind fun c => c.posOf s.fabric.position s.cur with
      | some pos => s.enterColl (.put comm slot tag pos data exec ws)
      | none => s

/-- The gang goes on its cluster: fresh, or from its block records (R332). -/
def State.placeOn (s : State) (l : Launch) (k0 : Gang) (cluster : Nat) : State :=
  let k := { k0 with cluster := cluster }
  let idx := l.img.gangBlocks k.index
  let recs := (List.range idx.length).zip idx |>.map fun p => (p.2, k.record[p.1]?)
  let make := fun (x : Nat × Nat) (age : Nat) => match (assoc recs x.1).join with
    | none => freshGroup l k x.1 x.2 age
    | some r => resumedGroup l k r s.fresh x.1 x.2 age
  let (gs, ages) := stampAges (fun b => 4 * cluster + l.posOf b % 4) make
    (idx.flatMap fun b => (List.range l.img.gdim).map fun g => (b, g)) s.ages
  let refs := gs.map Group.ref
  let s1 := s.onLaunch l.id fun x => x.onGang k.index k.run fun y =>
    { y with st := .placed, die := dieOfCluster cluster, cluster := cluster, placedOnce := true, placeOrder := s.places, gridWait := false }
  let ops := fun (b : Nat) => (gs.filter (·.block = b)).flatMap (·.pend.mx)
  let s2 := { s1 with blocks := s1.blocks ++ recs.map (fun p => k.block l p.1 p.2 (ops p.1)), others := s1.others ++ gs, ages := ages, places := s.places + 1 }
  -- the gang sees what happened before it was placed, and before it was pre-empted (R174, R199, R207)
  let s3 := (List.range 4).foldl (fun s i => s.dropL1 (4 * cluster + i)) s2
  if k.record.isEmpty then s3
  else
    let s4 := refs.foldl (fun s r => ((s.loadWaits r).checkRestored r)) s3
    let s5 := refs.foldl (fun s r => match s.group? r with
      | none => s
      | some g => (g.pend.mem.map (·.id)).foldl (fun s i => s.settle r i) (s.reissue r)) s4
    if refs.all fun r => match s5.group? r with
        | some g => g.ended
        | none => true then
      s5.onLaunch l.id fun x => x.onGang k.index k.run fun y => if y.st = .placed then { y with st := .ended } else y
    else s5

/-! ## LAUNCH_IMAGE (R298) -/

/-- The records of a resumed image, by block. -/
def recordsIn (i : Image) (b : List Byte) : List (Nat × List Byte) :=
  (List.range i.nrec).map fun n =>
    let r := (b.drop (640 + n * i.recordStride)).take i.recordStride
    (fieldOf r 0 4, r)

/-- Block indices rise, lie in the grid, and take whole gangs. -/
def recordsOk (i : Image) (rs : List (Nat × List Byte)) : Bool :=
  let idx := rs.map (·.1)
  ((List.range (idx.length - 1)).all fun n => idx.getD n 0 < idx.getD (n + 1) 0) && idx.all (· < i.griddim.toNat) &&
  idx.all fun b => (i.gangBlocks (b / i.bdim)).all idx.contains

/-- What is kept of a group beside the records of an image, for the launch that resumes it: the answers to its remote accesses no
longer reach it (log 91). -/
def SavedGroup.resumedBy (x : SavedGroup) (launch : Nat) : SavedGroup :=
  { x with ref := { x.ref with launch := launch, run := 1 }, pend := { x.pend with mem := [] } }

/-- The gangs that a resumed image names: those with records stand pre-empted, with the stacks that they left (R213) and, where the
image is as it was saved, what else was kept of them; the rest below NEXTIDX are complete. -/
def resumedGangs (launch : Nat) (i : Image) (rs : List (Nat × List Byte)) (kept : Option SavedStacks) : List Gang :=
  let mineIn := fun (g b : Nat) => decide (b / i.bdim = g)
  let stks := (kept.map (·.stks)).getD []
  let same := kept.filter fun x => x.records = rs.map (·.2)
  (List.range ((i.nextidx + i.bdim - 1) / i.bdim)).map fun g =>
    let mine := rs.filter fun r => mineIn g r.1
    if mine.isEmpty then { index := g, st := .complete }
    else { index := g, st := .preempted, record := mine.map (·.2), stks := stks.filter fun p => mineIn g p.1
           saved := ((same.map (·.groups)).getD [] |>.filter fun x => mineIn g x.ref.block).map (·.resumedBy launch)
           savedBlocks := (same.map (·.blocks)).getD [] |>.filter fun x => mineIn g x.index }

/-- What the package keeps of an image: it is known by its records, wherever the runtime has put it, and else by its address
(log 92). -/
def State.keptImage (s : State) (asid : BitVec 16) (addr : Nat) (records : List (List Byte)) : Option SavedStacks :=
  let mine := s.laneStacks.filter (·.asid = asid)
  match mine.find? fun x => x.records = records ∧ x.image = addr with
  | some x => some x
  | none => match mine.find? (·.records = records) with
    | some x => some x
    | none => mine.find? (·.image = addr)

/-- A launch begins (R218, R263, R319). -/
def State.beginLaunch (s : State) (q : Nat) (p : Packet) (i : Image) (rs : List (Nat × List Byte)) (comms : List Comm) : State :=
  let d := (s.queueOf q).desc
  let ver := if i.resumed then i.codever else (s.mem.versOf d.asid).newest
  let kept := if i.resumed then s.keptImage d.asid (p.fld 0 8 % 2 ^ 56) (rs.map (·.2)) else none
  let gangs := if i.resumed then resumedGangs s.nextLaunch i rs kept else []
  let first := gangs.foldl (fun n k => if k.st = .complete then n else min n (k.index * i.bdim)) i.nextidx
  let entries := ((s.bindings.find? fun x => x.id = i.bindid ∧ x.asid = d.asid).map (·.entries)).getD (Vector.ofFn fun _ => 0)
  let id := s.nextLaunch
  let l : Launch := { id := id, past := (kept.map (·.ids)).getD [], queue := q, seq := p.seq, tenant := d.tenant, asid := d.asid, img := { i with codever := ver }
                      imageAddr := BitVec.ofNat 64 (p.fld 0 8), save := BitVec.ofNat 64 (p.fld 8 8)
                      saveSize := BitVec.ofNat 64 (p.fld 16 8), resp := p.resp, cbind := entries, comms := comms
                      next := i.nextidx, ticket := if i.resumed then first else 0, gangs := gangs }
  let (s1, run) := s.beginPacket q p
  let s2 := s1.onRunning q run.id fun r => { r with launch := some id }
  let m := if ver = (s.mem.versOf d.asid).newest then s2.mem.closeNewest d.asid else s2.mem
  ({ s2 with launches := s2.launches ++ [l], nextLaunch := id + 1, mem := m }).onTenant d.tenant fun t => t

/-- The descriptors with V = 1 on pages of peers (R315), read for the LAUNCH_IMAGE packet at the head: the first sector of each slot, then
the slots in use. -/
def State.farDescriptors (s : State) (q : Nat) (asid : BitVec 16) : Except QReads (List (Nat × List Byte)) :=
  let slots := s.slotsOn asid true
  match s.qpFetchAll q (slots.map fun i => (descriptorAddr i, 32)) with
  | .ready heads =>
    let used := ((slots.zip heads).filter fun x => fieldOf x.2 4 1 = 1).map (·.1)
    match s.qpFetchAll q (used.map fun i => (descriptorAddr i, 2048)) with
    | .ready all => .ok (used.zip all)
    | r => .error r
  | r => .error r

/-- LAUNCH_IMAGE (R294, R298, R319). -/
def execLaunchImage (q : Nat) (p : Packet) (s : State) : Host.Outcome State Fault Refusal :=
  .next (packetEvent q p (fun s =>
    let asid := (s.queueOf q).desc.asid
    let addr := p.fld 0 8 % 2 ^ 56
    match s.qpFetch q addr 640 with
    | .bad c => s.failPacket q p c
    | .wait s1 => s1
    | .ready head =>
      let i := imageOf head
      match s.rejects asid head (p.fld 16 8) with
      | some c => s.failPacket q p c
      | none =>
        match s.qpFetch q addr (640 + i.nrec * i.recordStride) with
        | .bad c => s.failPacket q p c
        | .wait s1 => s1
        | .ready all =>
          let rs := recordsIn i all
          if !recordsOk i rs then s.failPacket q p 8
          else match s.farDescriptors q asid with
            | .error (.bad c) => s.failPacket q p c
            | .error (.wait s1) => s1
            | .error (.ready _) => s
            | .ok far =>
              let comms := s.register asid far
              if s.commBusy asid comms then s else s.beginLaunch q p i rs comms) s)

/-! ## Batches and placement (R264, R265) -/

/-- Gangs of a batch: floor(64 / B). -/
def Image.batch (i : Image) : Nat := 64 / i.bdim

/-- Every live die logs a grant. -/
def State.logGrant (s : State) (launch die first last : Nat) : State :=
  { s with dies := s.dies.map fun d => if d.alive then { d with grants := d.grants ++ [(launch, die, first, last)] } else d }

/-- The first live die other than `d` that has a cluster free for the gang, or `d` (R282). -/
def State.otherDie (s : State) (l : Launch) (k : Gang) (d : Nat) : Nat :=
  ((List.range s.dies.length).find? fun x => x ≠ d && s.dieAlive x && (s.pickCluster l k (dieClusters x)).isSome).getD d

/-- The gangs that wait to be granted again, the lowest first. -/
def Launch.waitingGangs (l : Launch) : List Gang :=
  (List.range (min l.img.gangs l.next)).flatMap fun g => l.gangs.filter fun k => k.index = g ∧ k.st = .waiting

/-- Grants some waiting gangs to a die. -/
def State.grantAgain (s : State) (launch die : Nat) (ks : List Gang) : State :=
  ks.foldl (fun s k =>
    let l := s.lch launch
    let bs := l.img.gangBlocks k.index
    (s.onLaunch launch fun l => l.onGang k.index k.run fun k => { k with st := .granted, die := die }).logGrant launch die
      (bs.headD 0) (bs.getLastD 0)) s

/-- The first gang that C has not passed. -/
def Launch.nextGang (l : Launch) : Nat := (l.next + l.img.bdim - 1) / l.img.bdim

/-- The dispatcher of a die has room for a gang: none that it was granted waits, and a cluster takes it (R264). -/
def State.dieRoom (s : State) (l : Launch) (k : Gang) (die : Nat) : Bool :=
  !(l.gangs.any fun x => x.st = .granted && decide (x.die = die)) && (s.pickCluster l k (dieClusters die)).isSome

/-- Grants the next batch from C to a die; a verify run's gangs have a second run on another die (R282). -/
def State.grantNext (s : State) (launch die : Nat) : State :=
  let l := s.lch launch
  let first := l.nextGang
  let n := min l.img.batch (l.img.gangs - first)
  if n = 0 then s
  else
    let new := (List.range n).flatMap fun i =>
      let k : Gang := { index := first + i, st := .granted, die := die }
      if l.img.verify then [k, { k with run := 2, die := s.otherDie l { k with run := 2 } die }] else [k]
    let last := min ((first + n) * l.img.bdim) l.img.griddim.toNat
    (s.onLaunch launch fun l => { l with gangs := l.gangs ++ new, next := last }).logGrant launch die (first * l.img.bdim) (last - 1)

/-- BATCH_GRANT (R264): the die's dispatcher has room and asks; replays go ahead of the ungranted blocks (R332), and a resumed launch first places the gangs whose
records its image carries (R263). -/
def execBatchGrant (launch die : Nat) (s : State) : Host.Outcome State Fault Refusal :=
  .next <| match s.launch? launch with
    | none => s
    | some l =>
      if l.aborted || s.inRecovery || !s.dieAlive die then s
      else match l.waitingGangs with
        | k :: ks => if s.dieRoom l k die then s.grantAgain launch die ((k :: ks).take l.img.batch) else s
        | [] =>
          if (l.gangs.any fun k => k.st = .preempted && !k.gridWait) || !s.dieRoom l { index := l.nextGang, st := .granted, die := die } die
          then s
          else s.grantNext launch die

/-- The next run of a gang that is granted and not placed. -/
def Launch.grantedRun (l : Launch) (gang : Nat) : Option Gang := l.gangs.find? fun k => k.index = gang ∧ k.st = .granted

/-- A lower gang of the launch, granted to the same die, has not been placed. -/
def Launch.lowerWaits (l : Launch) (k : Gang) : Bool :=
  l.gangs.any fun x => x.st = .granted && x.die = k.die && x.index < k.index

/-- GANG_PLACE (R265). -/
def execGangPlace (launch gang : Nat) (s : State) : Host.Outcome State Fault Refusal :=
  .next <| match s.launch? launch with
    | none => s
    | some l =>
      match l.grantedRun gang with
      | none => s
      | some k =>
        if l.aborted || s.inRecovery || !s.dieAlive k.die || l.lowerWaits k || !s.mayUse l.tenant then s
        else match s.pickCluster l k (dieClusters k.die) with
          | some c => s.placeOn l k c
          | none => s

/-- GANG_REPLAY (R265, R331, R332): the gang is granted to the die of the lowest-numbered cluster of the part that takes it, and placed
there where no lower gang of the launch waits on the die (DESIGN CHOICE, log 163); it waits on while none takes it. -/
def execGangReplay (launch gang : Nat) (s : State) : Host.Outcome State Fault Refusal :=
  .next <| match s.launch? launch with
    | none => s
    | some l =>
      match l.gangs.find? fun k => k.index = gang ∧ k.st = .waiting with
      | none => s
      | some k =>
        if l.aborted || s.inRecovery then s
        else match s.pickCluster l k (List.range (Config.clusters s.part)) with
          | none => s
          | some c =>
            let s1 := s.grantAgain launch (dieOfCluster c) [k]
            if l.lowerWaits { k with die := dieOfCluster c } || !s1.mayUse l.tenant then s1
            else s1.placeOn l { k with st := .granted } c

/-! ## Pre-emption (R161, R207, R273, R297, R298) -/

/-- The resident groups of a gang run. -/
def State.gangGroups (s : State) (launch gang run : Nat) : List Group :=
  let l := s.lch launch
  s.groups.filter fun g => l.inGang gang run g.ref

/-- Repeats a change. -/
def times {α : Type} : Nat → (α → α) → α → α
  | 0, _, x => x
  | n + 1, f, x => times n f (f x)

/-- Part of a copy that counts into a barrier has been written: a second issue of it would count those bytes again. -/
def CopyOp.counted (c : CopyOp) : Bool :=
  c.dab.isSome && (!c.sent.isEmpty || decide (c.left.length ≠ (sectorSet (byteLocs c.dst c.count)).length))

/-- Some k-steps of an operation have been applied. -/
def MatOp.begun : MatOp → Bool
  | .mma o => o.steps ≠ 0 | .zero _ _ => false | .load _ => false

/-- What a second issue would do twice is finished first: local accesses, which no record has room for, copies that have counted
into a barrier, with those ahead of them, and an `MMA` of which k-steps are applied (log 93). -/
def State.settleGroup (s : State) (r : GRef) : State :=
  let s1 := s.flushGroup r
  match s1.group? r with
  | none => s1
  | some g =>
    let s2 := if g.pend.cp.any CopyOp.counted then
        times 64 (fun s => s.retireCopy r) (g.pend.cp.foldl (fun s c => c.left.foldl (fun s x => s.copyPiece r c.id x) s) s1)
      else s1
    if ((g.pend.mx.head?).map MatOp.begun).getD false then s2.retireMatrix r else s2

/-- Every group of a gang is ready to be saved, or waits for a peer. -/
def State.settleGang (s : State) (launch gang run : Nat) : State :=
  ((s.gangGroups launch gang run).map Group.ref).foldl (fun s r => s.settleGroup r) s

/-- The group can be saved: what it has outstanding is remote accesses and operations that can be issued again. -/
def State.quiet (s : State) (g : Group) : Bool :=
  !(g.pend.cp.any CopyOp.counted) && !(g.pend.mx.any MatOp.begun) && g.pend.mem.all fun o => o.left.all fun x => (s.remoteOf g x).isSome

/-- A group that stands in the page-fault handler, parked or not, is saved at its faulting instruction (R230). -/
def Group.outOfHandler (g : Group) : Group :=
  match g.sup with
  | some sv => { g.setEntry sv.split { g.entry sv.split with pc := alignPc sv.fault.pc } with sup := none, parked := none }
  | none => { g with parked := none }

/-- The gang's groups and blocks leave the cores; the stacks stay. -/
def State.evict (s : State) (launch gang run : Nat) : State :=
  let l := s.lch launch
  let mine := fun (b : Block) => decide (b.launch = launch) && decide (b.run = run) && decide (l.gangOf b.index = gang)
  let stks := (s.blocks.filter mine).map fun b => (b.index, b.stack)
  let s1 := s.dropGroups fun g => l.inGang gang run g.ref
  ({ s1 with blocks := s1.blocks.filter (fun b => !mine b)
             awaited := s1.awaited.filter fun a => match a.group with
               | some r => !l.inGang gang run r
               | none => true }).onLaunch launch fun x => x.onGang gang run fun k => { k with stks := stks }

/-- Writes bytes where a launch's SAVE lies, sector by sector. What cannot be written is not. -/
def State.saveBytes (s : State) (q : Nat) (asid : BitVec 16) (va : Nat) (bytes : List Byte) : State :=
  (sectorsOf va bytes.length).foldl (fun s x =>
    let lo := max va (x * 32)
    let hi := min (va + bytes.length) (x * 32 + 32)
    match s.qpWrite .nobody q asid lo ((bytes.drop (lo - va)).take (hi - lo)) with
    | .ok (s1, _) => s1
    | .error _ => s) s

/-- Writes the image of a launch to SAVE: the header, and the records that its gangs keep, by block (R298). The stacks of the gangs
stay in the memory that was reserved for them (R213). -/
def State.writeSave (sA : State) (launch : Nat) : State :=
  let l := sA.lch launch
  let recs := (List.range (min l.img.gangs l.next)).flatMap fun g =>
    ((l.gangs.find? fun k => decide (k.index = g) && !k.record.isEmpty).map (·.record)).getD []
  let out := l.gangs.filter (·.st = .preempted)
  let here : SavedStacks := { asid := l.asid, image := l.save.toNat % 2 ^ 56, codever := l.img.codever, ids := l.id :: l.past
                              records := recs, stks := out.flatMap (·.stks), groups := out.flatMap (·.saved)
                              blocks := out.flatMap (·.savedBlocks) }
  let s := { sA with laneStacks := putWhere (fun x => x.asid = here.asid ∧ x.image = here.image) here sA.laneStacks }
  s.saveBytes l.queue l.asid (l.save.toNat % 2 ^ 56) (l.header recs.length ++ recs.flatten)

/-- Pre-empts a gang run to the image once its engines have finished; otherwise the event must come again. -/
def State.preempt (s : State) (launch gang run : Nat) (grid : Bool) : State :=
  let s1 := s.settleGang launch gang run
  let gs := s1.gangGroups launch gang run
  if gs.isEmpty || !gs.all s1.quiet then s1
  else
    let l := s1.lch launch
    let s2 := gs.foldl (fun s g => (s.onGroup g.ref Group.outOfHandler)) s1
    let s3 := gs.foldl (fun s g => (s.focus g.ref).syncWaits) s2
    let idx := l.img.gangBlocks gang
    let blocks := idx.filterMap fun b => s3.block? launch run b
    let recs := blocks.map fun b => s3.blockRecord l.img b
    let saved := (s3.gangGroups launch gang run).map fun g => SavedGroup.mk g.ref g.pend g.iss g.regs.vpoison
    let marks := blocks.map fun b => SavedBlock.mk b.index b.poison (b.tiles.toList.map fun t => (t.poison, t.epoch))
    let s4 := s3.evict launch gang run
    (s4.onLaunch launch fun x => x.onGang gang run fun k =>
      { k with st := .preempted, record := recs, saved := saved, savedBlocks := marks, gridWait := grid }).writeSave launch

/-- The group waits at a grid barrier: each of its splits stands at an arrival or a wait, and lanes of it stand in a round that has not
ended (R159). -/
def State.waitsAtGrid (s : State) (g : Group) : Bool :=
  g.ended || (!g.validNums.isEmpty && g.ovf = 0 && g.validNums.all fun n =>
    let e := g.entry n
    match s.fetchInstr g e.mask e.pc with
    | .words ws _ => match decode ws with
      | some (.bar f) => inRound g e f
      | some (.bararv f) => inRound g e f
      | some (.barwt f) => inRound g e f
      | _ => false
    | _ => false)
where
  /-- lanes of the split stand in a round of the grid barrier -/
  inRound (g : Group) (e : Split) (f : Fields) : Bool :=
    decide (barLevel f = .grid) && decide (e.lanes &&& g.arr.get .grid (barNum f) ≠ 0)

/-- GRID_BARRIER_PREEMPT (R161): every group of the resident gang waits at a grid barrier while blocks have not started. A gang with
a parked group may be pre-empted too (R230, R298). -/
def execGridBarrierPreempt (launch gang : Nat) (s : State) : Host.Outcome State Fault Refusal :=
  .next <| match s.launch? launch with
    | none => s
    | some l =>
      let unstarted := decide (l.next < l.img.griddim.toNat) || l.gangs.any fun k => k.st = .granted || k.st = .waiting
      match l.gangs.find? fun k => k.index = gang ∧ k.st = .placed with
      | none => s
      | some k =>
        let gs := s.gangGroups launch gang k.run
        let waits := unstarted && gs.all s.waitsAtGrid
        if !l.aborted && (waits || gs.any (·.parked.isSome)) then s.preempt launch gang k.run waits else s

/-- The gangs that run over budget, each with what its tenant uses above its budget. -/
def State.lentGangs (s : State) : List (Nat × Nat × Launch × Gang) :=
  s.launches.flatMap fun l =>
    let t := s.tenant l.tenant
    if s.withinBudget t || l.aborted then []
    else (l.gangs.filter (·.st = .placed)).map fun k => (t.used - s.budget t * unitsPerUs, l.tenant, l, k)

/-- The gang that a recall takes first: of the borrower with the most usage above its budget, the most recently placed. -/
def pickLent (l : List (Nat × Nat × Launch × Gang)) : Option (Launch × Gang) :=
  (l.foldl (fun (r : Option (Nat × Nat × Launch × Gang)) x => match r with
    | none => some x
    | some y =>
      let more := decide (y.1 < x.1) || (decide (y.1 = x.1) && (decide (x.2.1 < y.2.1) ||
        (decide (x.2.1 = y.2.1) && decide (y.2.2.2.placeOrder < x.2.2.2.placeOrder))))
      if more then some x else some y) none).map fun x => (x.2.2.1, x.2.2.2)

/-- The gangs of a launch that could be placed: those that wait, and the next one that no die has been granted. -/
def Launch.placeable (l : Launch) : List Gang :=
  (l.gangs.filter fun k => k.st = .granted || k.st = .waiting || (k.st = .preempted && !k.gridWait)) ++
  if l.next < l.img.griddim.toNat then [{ index := l.nextGang, st := .waiting }] else []

/-- A gang of the tenant could be placed, and no cluster takes it. -/
def State.starved (s : State) (tenant : Nat) : Bool :=
  s.launches.any fun l => decide (l.tenant = tenant) && !l.aborted &&
    l.placeable.any fun k => (s.pickCluster l k (if k.st = .granted then dieClusters k.die else List.range (Config.clusters s.part))).isNone

/-- RECALL (R273): one gang of a borrower is pre-empted; the event comes again while more room is needed. -/
def execRecall (tenant : Nat) (s : State) : Host.Outcome State Fault Refusal :=
  .next <|
    if s.withinBudget (s.tenant tenant) && s.starved tenant then
      match pickLent s.lentGangs with
      | some (l, k) => s.preempt l.id k.index k.run false
      | none => s
    else s

/-- GANG_RESUME (R265, R298): on any cluster of any die, the lowest-numbered that takes it (DESIGN CHOICE, log 163). A gang that waits at a grid barrier resumes when the round has
ended (R161). -/
def execGangResume (launch gang : Nat) (s : State) : Host.Outcome State Fault Refusal :=
  .next <| match s.launch? launch with
    | none => s
    | some l =>
      match l.gangs.find? fun k => decide (k.index = gang) && decide (k.st = .preempted) && !k.gridWait with
      | none => s
      | some k =>
        if l.aborted || s.inRecovery || !s.mayUse l.tenant then s
        else match s.pickCluster l k (List.range (Config.clusters s.part)) with
          | some c => s.placeOn l k c
          | none => s

/-! ## Completion (R264, R294) -/

/-- Nothing of the group is outstanding. -/
def Pending.isEmpty (p : Pending) : Bool := p.mem.isEmpty && p.cp.isEmpty && p.ga.isEmpty && p.mx.isEmpty && p.co.isEmpty

/-- Every live die logs a completion. -/
def State.logComplete (s : State) (launch gang : Nat) : State :=
  { s with dies := s.dies.map fun d => if d.alive then { d with completes := d.completes ++ [(launch, gang)] } else d }

/-- GANG_COMPLETE (R264): every group has ended and nothing is outstanding; the gang's units are free. A verify run then
waits for its verdict. -/
def execGangComplete (launch gang : Nat) (s : State) : Host.Outcome State Fault Refusal :=
  .next <| match s.launch? launch with
    | none => s
    | some l =>
      match l.gangs.find? fun k => decide (k.index = gang) && decide (k.st = .ended) && !(s.gangGroups launch gang k.run).isEmpty with
      | none => s
      | some k =>
        if (s.gangGroups launch gang k.run).all fun g => g.pend.isEmpty then
          let s1 := s.evict launch gang k.run
          if l.img.verify then s1
          else (s1.onLaunch launch fun l => l.onGang gang k.run fun k => { k with st := .complete, record := [], saved := [], savedBlocks := [] }).logComplete launch gang
        else s

/-- Every block of the launch has run to its end, and what it staged has been released. -/
def Launch.allDone (l : Launch) : Bool :=
  decide (l.img.griddim.toNat ≤ l.next) && l.gangs.all (fun k => k.st = .complete || k.st = .unresolved) && l.staged.isEmpty &&
  (!l.img.det || decide (l.img.griddim.toNat ≤ l.ticket))

/-- What is kept of images that the runtime may still hold when a launch ends: its own images, and that from which it was resumed,
are of use only where it was cut short. -/
def State.keptStacks (s : State) (l : Launch) : List SavedStacks :=
  if l.aborted then s.laneStacks
  else s.laneStacks.filter fun x => ¬ (x.asid = l.asid ∧ (x.image = l.save.toNat % 2 ^ 56 ∨ x.ids.headD 0 ∈ l.id :: l.past))

/-- LAUNCH_COMPLETE (R293, R294): the launch has ended and its writes are performed. Its slots and its hold on a code
version end with it. -/
def execLaunchComplete (launch : Nat) (s : State) : Host.Outcome State Fault Refusal :=
  .next <| match s.launch? launch with
    | none => s
    | some l =>
      if (l.aborted || l.allDone) && s.acked launch then
        let s1 := ({ s with launches := s.launches.filter (·.id ≠ launch), laneStacks := s.keptStacks l }).releaseVers l.asid
        match (s1.queueOf l.queue).running.find? fun r => r.opcode = 4 ∧ r.launch = some launch with
        | some r => s1.completePacket l.queue { r with status := if l.aborted then 3 else 0, detail := if l.replayed then 1 else 0 }
        | none => s1
      else s

/-- WALL_TIME_EXPIRY (R337). -/
def execWallTimeExpiry (launch : Nat) (s : State) : Host.Outcome State Fault Refusal :=
  .next <| match s.launch? launch with
    | none => s
    | some l =>
      if !l.aborted && l.img.wall ≠ 0 && l.img.wall * cyclesPerUs ≤ l.wallUsed then s.endLaunch launch 0x0105 {} false else s

/-! ## The death of a die (R266, R337) -/

/-- The lost gangs of a die: granted to it and not logged complete. -/
def State.lostGangs (s : State) (die : Nat) : List (Nat × Nat × Nat) :=
  s.launches.flatMap fun l => if l.aborted then [] else
    (l.gangs.filter fun k => k.die = die && (k.st = .granted || k.st = .placed || k.st = .ended)).map fun k => (l.id, k.index, k.run)

/-- The sectors that may have been written: those of the frames that are mapped or hold bytes, and in the stack memory of resident
blocks those that were. -/
def State.heldSectors (s : State) : List SectorAt :=
  ((setAddAll (setAddAll [] (s.mem.bytes.map fun p => frameOf p.1)) ((s.mem.ipt.filter fun p => p.2.valid && !p.2.rem).map (·.1))).flatMap
    frameSectors).map SectorAt.mem ++
  s.blocks.flatMap fun b => (setAddAll [] (b.stack.bytes.map fun p => p.1 / 32)).map (SectorAt.stack b.launch b.run b.index)

/-- The sectors whose home was a dead die, of which its L2 may have held the newest: each is marked by a free choice, whatever its
bytes. -/
def State.markDirty (s : State) (die : Nat) : State :=
  (s.heldSectors.filter fun x => s.homeDie (s.sectorAddr x / 32) = die).foldl (fun (s : State) x =>
    let (dirty, s1) := s.drawBool
    if dirty then s1.markSector x else s1) s

/-- A die dies: its dirty L2 sectors are written poisoned, its gangs are lost, and the lowest-numbered live die leads. The first
lost gang that may not be replayed ends its launch, and the others of the launch with it (R331). -/
def State.dieLost (s0 : State) (die : Nat) : State :=
  let s := s0.markDirty die
  let s1 := { s with dies := s.dies.modify die fun d => { d with alive := false } }
  let s2 := { s1 with leader := ((List.range s1.dies.length).find? s1.dieAlive).getD s1.leader }
  (s2.lostGangs die).foldl (fun s x => s.killGang x.1 x.2.1 x.2.2 { code := 0x0104, source := 9 }) s2

/-- Cycles between two exchanges of heartbeats: 10 µs. -/
def heartbeatCycles : Nat := 9400

/-- A die misses the heartbeat of an exchange: one more in a row, where it missed the exchange before (R266). -/
def Die.miss (d : Die) (n : Nat) : Die :=
  if d.missed ≠ 0 ∧ d.lastMiss = n then d
  else { d with missed := if d.lastMiss + 1 = n then d.missed + 1 else 1, lastMiss := n }

/-- The base logic of a die reports it failed: the next exchange of heartbeats takes it for dead (R266, log 97). -/
def State.noteDieFails (s : State) (die : Nat) : State :=
  match s.dies[die]? with
  | some d => { s with dies := s.dies.set die { d with failed := true } }
  | none => s

/-- HEARTBEAT_MISS (R266): the third in a row kills the die, and so does the first where its base logic has reported it failed. The
manual names no leader once no die is left. -/
def execHeartbeatMiss (die : Nat) (s : State) : Host.Outcome State Fault Refusal :=
  match s.dies[die]? with
  | none => .next s
  | some d =>
    if !d.alive then .next s
    else
      let d1 := if d.failed then d else d.miss (s.cycle.toNat / heartbeatCycles)
      let s1 := { s with dies := s.dies.set die d1 }
      if !d.failed && decide (d1.missed < 3) then .next s1
      else if (s.dies.filter (·.alive)).length ≤ 1 then .fault .noLiveDie
      else .next (s1.dieLost die)

/-! ## Periods (R270 to R272) -/

/-- The debts of one tenant at the end of a period: recorded against the tenants below their budgets, in proportion. -/
def State.newDebts (s : State) (t : Tenant) : List Debt :=
  let above := t.used - s.budget t * unitsPerUs
  let unused := fun (x : Tenant) => s.budget x * unitsPerUs - x.used
  let total := s.tenants.foldl (fun n x => n + unused x) 0
  if above = 0 ∨ total = 0 then []
  else (s.tenants.filter fun x => unused x ≠ 0).filterMap fun x =>
    let amount := above * unused x / total / unitsPerUs
    if amount = 0 then none else some ⟨t.slot, x.slot, amount⟩

/-- Repays from the oldest records of a borrower: the records that stay, and what each lender gets. -/
def repayFrom (borrower : Nat) : Nat → List Debt → List Debt × List (Nat × Nat)
  | _, [] => ([], [])
  | left, d :: ds =>
    if d.borrower ≠ borrower ∨ left = 0 then
      let r := repayFrom borrower left ds
      (d :: r.1, r.2)
    else
      let x := min left d.amount
      let r := repayFrom borrower (left - x) ds
      ((if d.amount - x = 0 then r.1 else { d with amount := d.amount - x } :: r.1), (d.lender, x) :: r.2)

/-- PERIOD_START (R270 to R272): `$cycle` has passed the next multiple of 940,000; the period before is closed. -/
def execPeriodStart (s : State) : Host.Outcome State Fault Refusal :=
  .next <|
    if s.cycle.toNat < (s.period + 1) * periodCycles then s
    else
      let debts := s.debts ++ s.tenants.flatMap s.newDebts
      let next := fun (t : Tenant) => { t with used := 0, repay := 0, credit := 0, weight := t.nextWeight }
      let s1 : State := { s with period := s.period + 1, debts := debts, tenants := s.tenants.map next }
      s1.tenants.foldl (fun (s : State) t =>
        let pay := min (s.debtOf t.slot) (s.share t / 2)
        let (rest, got) := repayFrom t.slot pay s.debts
        let s2 := State.onTenant { s with debts := rest } t.slot fun x => { x with repay := pay }
        got.foldl (fun (s : State) p => s.onTenant p.1 fun x => { x with credit := x.credit + p.2 }) s2) s1

/-! ## The ticket unit (R279, R284) -/

/-- The block has ended: its gang is complete, or its groups have ended with nothing outstanding. -/
def State.blockEnded (s : State) (l : Launch) (b : Nat) : Bool :=
  match l.gangs.find? fun k => k.index = l.gangOf b with
  | none => false
  | some k =>
    k.st = .complete || k.st = .unresolved ||
    ((k.st = .placed || k.st = .ended) &&
      let gs := s.groups.filter fun g => decide (g.launch = l.id) && decide (g.block = b)
      !gs.isEmpty && gs.all fun g => g.ended && g.pend.isEmpty)

/-- The verdict on a gang of a launch with verify runs is reached. -/
def Launch.decided (l : Launch) (gang : Nat) : Bool :=
  l.gangs.any fun k => k.index = gang && (k.st = .complete || k.st = .unresolved)

/-- Writes a sector of a launch as poison, or sends poison to the peer that holds it (R284, R328). -/
def State.poisonSector (s : State) (l : Launch) (sector : Nat) : State :=
  match s.stagedPlace l sector with
  | none => s
  | some (i, e) =>
    if e.rem then (s.sendReq { id := 0, owner := .launch l.id, asid := l.asid, queue := l.queue, peer := e.peer, pframe := e.pframe
                               off := sector * 32 % 65536, va := BitVec.ofNat 64 (sector * 32), acc := 1, mark := true }).2
    else { s with mem := s.mem.mark (i * 2048 + sector % 2048) }

/-- The sectors that an UNRESOLVED gang's run 1 staged are written as poison (R284). -/
def State.poisonSectors (s : State) (l : Launch) (gang : Nat) : State :=
  match l.gangs.find? fun k => k.index = gang ∧ k.st = .unresolved with
  | none => s
  | some k =>
    let s1 := k.sectors.foldl (fun s x => s.poisonSector l x) s
    s1.onLaunch l.id fun x => { x with gangs := x.gangs.map fun k => if k.index = gang then { k with sectors := [] } else k }

/-- Releases block T. -/
def State.releaseTurn (s : State) (launch b : Nat) : State :=
  let l := s.lch launch
  let s1 := s.poisonSectors l (l.gangOf b)
  (setAddAll [] (((s1.lch launch).staged.filter (·.block = b)).map (·.run))).foldl (fun s r => s.releaseBlock launch b r) s1

/-- T moves on while blocks have ended; the entries of a running block T are released at once. -/
def State.ticketRun (launch : Nat) : Nat → State → State
  | 0, s => s
  | n + 1, s =>
    let l := s.lch launch
    let b := l.ticket
    if l.aborted || decide (l.img.griddim.toNat ≤ b) then s
    else if l.img.verify && !l.decided (l.gangOf b) then s
    else
      let done := s.blockEnded l b
      let s1 := s.releaseTurn launch b
      let l1 := s1.lch launch
      if l1.aborted || l1.staged.any (·.block = b) || !s1.acked launch then s1
      else if done && s1.blockEnded l1 b then State.ticketRun launch n (s1.onLaunch launch fun l => { l with ticket := b + 1 })
      else s1

/-- TICKET_ADVANCE (R279). -/
def execTicketAdvance (launch : Nat) (s : State) : Host.Outcome State Fault Refusal :=
  .next <| match s.launch? launch with
    | none => s
    | some l => if l.img.det then State.ticketRun launch (l.next - l.ticket + 1) s else s

/-! ## Verify runs (R282 to R284) -/

/-- A run of a gang that has ended and waits for the verdict. -/
def State.endedRun (s : State) (l : Launch) (gang run : Nat) : Option Gang :=
  match l.gang? gang run with
  | some k => if k.st = .ended ∧ (s.gangGroups l.id gang run).isEmpty then some k else none
  | none => none

/-- Sectors that a run of a gang staged. -/
def Launch.stagedSectors (l : Launch) (gang run : Nat) : List Nat :=
  setAddAll [] ((l.staged.filter fun e => e.run = run ∧ l.gangOf e.block = gang).map (·.sector))

/-- Discards what a run of a gang staged. -/
def Launch.discard (l : Launch) (gang run : Nat) : Launch :=
  { l with staged := l.staged.filter fun e => ¬ (e.run = run ∧ l.gangOf e.block = gang) }

/-- A run stands: the entries of the others are discarded. -/
def State.runStands (s : State) (launch gang run : Nat) : State :=
  (s.onLaunch launch fun l =>
    let l1 := ([1, 2, 3, 4].filter (· ≠ run)).foldl (fun (l : Launch) r => l.discard gang r) l
    { l1 with gangs := l1.gangs.map fun k => if k.index = gang then { k with st := .complete, record := [], saved := [], savedBlocks := [] } else k }).logComplete launch gang

/-- A further run is to be granted. -/
def State.runAgain (s : State) (launch gang run : Nat) : State :=
  s.onLaunch launch fun l => { l with gangs := l.gangs ++ [{ index := gang, run := run, st := .waiting }] }

/-- The gang is UNRESOLVED (R284): a KIND 6 record with three digests awaits an answer and stops the queue. -/
def State.unresolved (s : State) (launch gang : Nat) (d1 d2 d3 : DWord) : State :=
  let l := s.lch launch
  let s1 := s.onLaunch launch fun l =>
    let secs := setAddAll (((l.gang? gang 1).map (·.sectors)).getD []) (l.stagedSectors gang 1)
    let l1 := [1, 2, 3, 4].foldl (fun (l : Launch) r => l.discard gang r) l
    { l1 with gangs := l1.gangs.map fun k => if k.index = gang then
        { k with st := .unresolved, sectors := if k.run = 1 then secs else [] } else k }
  let s2 := s1.onQueue l.queue fun q => { q with stopped := true }
  let low := gang * l.img.bdim
  let place := ((l.gang? gang 1).map fun k => l.placeOf k low).getD 0xFFFF
  let (code, s3) := s2.drawCode
  ((s3.emitAwait { kind := 6, code := code, queue := l.queue, tenant := l.tenant, flags := 2, seq := l.seq, asid := l.asid
                   place := place, block := low
                   detail := leBytes 8 d1.toNat ++ leBytes 8 d2.toNat ++ leBytes 8 d3.toNat } none launch gang).2).syncHeader l.queue

/-- VERIFY_VERDICT (R283). -/
def execVerifyVerdict (launch gang : Nat) (s : State) : Host.Outcome State Fault Refusal :=
  .next <| match s.launch? launch with
    | none => s
    | some l =>
      if !l.img.verify || l.aborted then s
      else match s.endedRun l gang 1, s.endedRun l gang 2 with
        | some r1, some r2 =>
          match l.gang? gang 3, l.gang? gang 4 with
          | none, _ => if r1.digest = r2.digest then s.runStands launch gang 1 else s.runAgain launch gang 3
          | some _, none =>
            match s.endedRun l gang 3 with
            | none => s
            | some r3 =>
              if r3.digest = r1.digest then s.runStands launch gang 1
              else if r3.digest = r2.digest then
                let s1 := s.onLaunch launch fun l =>
                  (l.onGang gang 1 fun k => { k with sectors := l.stagedSectors gang 1 }).discard gang 1
                s1.runAgain launch gang 4
              else s.unresolved launch gang r1.digest r2.digest r3.digest
          | some r3, some _ =>
            match s.endedRun l gang 4 with
            | none => s
            | some r4 =>
              if r4.digest = r2.digest then s.runStands launch gang 4
              else s.unresolved launch gang r1.digest r4.digest r3.digest
        | _, _ => s

end Sys2Proof.Machine
end

