-- ==== Sys2Proof/Machine/Damage.lean ====
section
/-! DEFINITION. Errors that the device cannot correct (R326, R327), and the kill of a gang as an event of its own (R330). -/

namespace Sys2Proof.Machine

/-- The run of a gang that stands on the machine. -/
def Launch.standingRun (l : Launch) (gang : Nat) : Option Gang :=
  l.gangs.find? fun k => k.index = gang ∧ (k.st = .granted ∨ k.st = .placed ∨ k.st = .ended)

/-- GANG_KILL (R330, R331). -/
def execGangKill (launch gang : Nat) (why : KillWhy) (s : State) : Host.Outcome State Fault Refusal :=
  .next <| match s.launch? launch with
    | none => s
    | some l =>
      match l.standingRun gang with
      | some k => if l.aborted then s else s.killGang launch gang k.run why
      | none => s

/-- Counts an uncorrectable event of a core's pool, of a die, of a stack. -/
def State.countPool (s : State) (core : Nat) : State := { s with errs := { s.errs with pool := bump s.errs.pool core } }
def State.countDie (s : State) (die : Nat) : State := { s with errs := { s.errs with die := bump s.errs.die die } }
def State.countStack (s : State) (stack : Nat) : State := { s with errs := { s.errs with hbm := bump s.errs.hbm stack } }

/-- POOL_WORD_ERROR (R326): the word is marked; an error in group state kills the gang. -/
def execPoolWordError (e : PoolError) (s : State) : Host.Outcome State Fault Refusal :=
  .next <| match e with
    | .scratch launch run block offset =>
      match s.block? launch run block with
      | some b =>
        if offset < (s.lch launch).img.scratchSize then
          (s.onBlock launch run block fun b => { b with poison := setAdd b.poison (offset / 8) }).countPool (s.blockCore b)
        else s
      | none => s
    | .vreg r reg word =>
      match s.group? r with
      | some g =>
        if reg.toNat < (s.lchOf g).img.nv then
          (s.onGroup r fun g => { g with regs := { g.regs with
            vpoison := (reg.toNat, word.val) :: g.regs.vpoison.filter (· ≠ (reg.toNat, word.val)) } }).countPool (s.coreOf g)
        else s
      | none => s
    | .tile launch run block tile word =>
      match s.block? launch run block with
      | some b =>
        if tile < (s.lch launch).img.na ∧ word < 6144 then
          (s.onBlock launch run block fun b => { b with tiles := Vector.ofFn fun i =>
            if i.val = tile then { b.tiles[i] with poison := setAdd b.tiles[i].poison word } else b.tiles[i] }).countPool (s.blockCore b)
        else s
      | none => s
    | .groupState r =>
      match s.group? r with
      | some g => (s.countPool (s.coreOf g)).killGroupGang g { code := 0x0101, source := 1 }
      | none => s

/-- Sectors of the part's device memory. -/
def State.sectorCount (s : State) : Nat := Config.frames s.part * 2048

/-- The sector exists: in a frame of the part, or in the stack memory of a lane of a resident block (R213). -/
def State.hasSector (s : State) : SectorAt → Bool
  | .mem x => decide (x < s.sectorCount)
  | .stack launch run block x =>
    let i := (s.lch launch).img
    (s.block? launch run block).isSome && decide (x < 2 ^ 20 * i.gdim) && decide (x * 32 % 2 ^ 20 < i.stack)

/-- The request of an atomic that stands at the atomic service: an operation of a group with a piece that is still outstanding. -/
def Group.asks (g : Group) (id piece : Nat) : Bool :=
  g.pend.mem.any fun o => decide (o.id = id) && o.left.contains piece && match o.kind with
    | .atomic _ _ => true
    | _ => false

/-- UNCORRECTABLE_ERROR (R326): each is counted on the die where it strikes, one of an L2 sector on the sector's home (R327). -/
def execUncorrectableError (e : CacheError) (s : State) : Host.Outcome State Fault Refusal :=
  .next <| match e with
    | .l1 cluster core sector =>
      let n := 4 * cluster + core % 4
      ({ s with mem := { s.mem with l1 := s.mem.l1.filter fun c => ¬ (c.core = n ∧ c.sector = sector) } } : State).countDie (dieOfCluster cluster)
    | .icache cluster => s.countDie (dieOfCluster cluster)
    | .l2Clean x => if s.hasSector x then s.countDie (s.homeDie (s.sectorAddr x / 32)) else s
    | .l2Dirty x => if s.hasSector x then (s.markSector x).countDie (s.homeDie (s.sectorAddr x / 32)) else s
    | .staging launch block index =>
      let l := s.lch launch
      match (l.staged.filter (·.block = block))[index]? with
      | some x => (s.countDie (dieOfCluster (x.core / 4))).killGang launch (l.gangOf block) x.run
          { code := 0x0101, source := 4, block := some block
            addr := s.stagedAddr l x.sector }
      | none => s
    | .atomicService die lost => lost.foldl (fun s x => match s.group? x.1 with
        | some g =>
          if g.asks x.2.1 x.2.2 then
            s.killGang g.launch (s.gangOf g) g.run { code := 0x0101, source := 4, addr := (s.poisonAt g (x.2.2 * 32)).2 }
          else s
        | none => s) (s.countDie die)

/-- HBM_SECTOR_ERROR (R327). -/
def execHbmSectorError (x : SectorAt) (s : State) : Host.Outcome State Fault Refusal :=
  .next <| if s.hasSector x then (s.markSector x).countStack (s.mem.stackAt s.s0 (s.sectorAddr x / 512)) else s

/-- A corrected error is written back in place: nothing that is visible changes but a counter (R326, R327). -/
def State.noteCorrected (s : State) : CorrectedAt → State
  | .stack n => { s with errs := { s.errs with hbmCorrected := bump s.errs.hbmCorrected n } }
  | .die n => { s with errs := { s.errs with dieCorrected := bump s.errs.dieCorrected n } }
  | .pool core => { s with errs := { s.errs with poolCorrected := bump s.errs.poolCorrected core } }

/-- HBM_SCRUB (R327): every sector of the stack is read and rewritten, which changes nothing that is visible; the count of
corrected events rises by a free value. -/
def execHbmScrub (stack : Nat) (s : State) : Host.Outcome State Fault Refusal :=
  .next <|
    if stack < s.s0 then
      let n := (assoc s.errs.hbmCorrected stack).getD 0 + (Config.freeWord s.fresh).toNat
      { s with errs := { s.errs with hbmCorrected := assocSet s.errs.hbmCorrected stack n }, fresh := s.fresh + 1 }
    else s

end Sys2Proof.Machine
end

