-- ==== Sys2Proof/Machine/Paging.lean ====
section
/-! DEFINITION. First-touch pages (R229) and the page-fault handler by its contract (R228, R230). -/

namespace Sys2Proof.Machine

/-- The demand-zero range of an ASID that holds a page (R229). -/
def Mem.zeroRange (m : Mem) (asid : BitVec 16) (vpn : Nat) : Option ZeroRange :=
  m.zero.find? fun z => z.asid = asid ∧ z.base ≤ vpn * 65536 ∧ vpn * 65536 < z.base + z.size

/-- Some entry maps the page, in whatever version. -/
def Mem.hasEntry (m : Mem) (asid : BitVec 16) (vpn : Nat) : Bool :=
  m.ipt.any fun p => p.2.valid && decide (p.2.asid = asid) && decide (p.2.vpn = vpn)

/-- Serves a first-touch fault on a page; none when the fault is not one (R229). -/
def State.firstTouch (s : State) (asid : BitVec 16) (vpn : Nat) : Option State :=
  match s.mem.zeroRange asid vpn with
  | none => none
  | some z =>
    if s.mem.hasEntry asid vpn ∨ s.mem.pool.length ≤ s.mem.reserve then none
    else match s.mem.takeFrame with
      | none => none
      | some (f, m) =>
        let s1 := { s with mem := m }.zeroFrame f
        some { s1 with mem := s1.mem.link f { vpn := vpn, asid := asid, wr := z.wr } }

/-- The address that a lane faulted at, from the trap registers. -/
def TrapRegs.faultAddr (t : TrapRegs) (l : Fin 32) : Nat :=
  ((t.val[0]).get l).toNat + ((t.val[1]).get l).toNat % 2 ^ 24 * 2 ^ 32

/-- The lanes that faulted. A fetch has no lanes: its fault stands in every one, whatever `$exec` holds (R32). -/
def TrapRegs.faultLanes (t : TrapRegs) : List (Fin 32) :=
  if (t.val[2]).get 0 = 15 then [0] else laneList.filter (maskBit t.mask)

/-- Serves the fault of one lane; the lane stays in the list of those that the runtime must serve when the fault is not a
first touch and the page is still unmapped. -/
def State.serveLane (g : Group) (x : State × List (Fin 32)) (l : Fin 32) : State × List (Fin 32) :=
  let a := g.trapView.faultAddr l
  let served := if (g.trapView.val[2]).get l = 15 then (x.1.codePage g a).isSome else (x.1.xlate g a).isSome
  if served then x
  else match x.1.firstTouch (x.1.lchOf g).asid (a / 65536) with
    | some s1 => (s1, x.2)
    | none => (x.1, x.2 ++ [l])

/-- Hands the fault to the runtime: a KIND 3 record for the lowest lane left, and the whole group parks (R230). -/
def State.handOver (s : State) (l : Fin 32) : State :=
  let g := s.cur
  let la := s.lchOf g
  let (t, s1) := s.emitAwait
    { kind := 3, code := g.trapView.cause.toNat % 256, queue := la.queue, tenant := la.tenant, seq := la.seq, asid := la.asid
      place := placeCode g.cluster (s.coreOf g), block := g.block, pc := g.trapView.pc.toNat
      detail := leBytes 8 (g.trapView.faultAddr l) ++ leBytes 4 ((g.trapView.val[2]).get l).toNat } (some g.ref) g.launch (s.gangOf g)
  s1.onGroup g.ref fun h => { h with parked := some t, sup := h.sup.map fun x => { x with handed := true } }

/-- The running split is at the handler, and the fault has not been handed over. -/
def Group.serving (g : Group) : Bool :=
  match g.sup with
  | some x => decide (x.split = g.running) && !x.handed
  | none => false

/-- The handler (R228 to R230): every fault of the instruction is served and the split returns to it, or the group parks. -/
def State.serveFault (s : State) : State :=
  let g := s.cur
  match g.trapView.faultLanes.foldl (State.serveLane g) (s, []) with
  | (s1, []) => s1.trapReturn g.trapView.pc
  | (s1, l :: _) => s1.handOver l

end Sys2Proof.Machine
end

