-- ==== Sys2Proof/Machine/Retire.lean ====
section
/-! DEFINITION. The retirement of a stack (R233 to R243): its request, its stages, and the death of stacks. -/

namespace Sys2Proof.Machine

/-- Regions below a capacity: 256 frames each (R221). -/
def regionsOf (capacity : Nat) : Nat := capacity / 256

/-- The stack still serves: it is fitted and was not retired. -/
def State.serves (s : State) (stack : Nat) : Bool :=
  decide (stack < s.s0) && !s.mem.ret.history.any (fun h => h.1 = stack)

/-- The KIND 5 record of a state; in VACATE it carries the doomed frames still in use (R233, R235). -/
def State.reportRetire (s : State) (code : Nat) : State :=
  s.emitRetire code (if code = 2 then s.mem.doomed.length else 0)

/-- Announce (R233): the capacity falls by one stack and the phase becomes odd; frames at or above the new capacity leave
the pool (R231). Vacate begins when its one cycle ends. -/
def State.beginRetire (s : State) (stack : Nat) : State :=
  let cap := s.mem.capacity - Config.stackFrames
  let r := s.mem.ret
  let s1 := { s with mem := { s.mem with
    capacity := cap, phase := s.mem.phase + 1, pool := s.mem.pool.filter (· < cap)
    ret := { r with st := .vacate, stack := stack, oldCap := s.mem.capacity, watermark := 0, waiting := false, swept := false
                    queued := r.queued.filter (· ≠ stack) } } }
  (s1.reportRetire 1).reportRetire 2

/-- A stack begins to fail, or its retirement is requested: it is retired at once, or after Close (R233). -/
def State.askRetire (s : State) (stack : Nat) : State :=
  if !s.serves stack then s
  else if s.mem.ret.st = .idle then s.beginRetire stack
  else if s.mem.ret.stack = stack ∨ s.mem.ret.queued.contains stack then s
  else { s with mem := { s.mem with ret := { s.mem.ret with queued := s.mem.ret.queued ++ [stack] } } }

/-- Close (R233, R235): the map is the new one for good, the contents of frames beyond the capacity are lost, the stack loses
its power; a stack that waits is announced at once, a dead one first (R243). -/
def State.closeRetire (s : State) : State :=
  let r := s.mem.ret
  let m := s.mem
  let s1 := { s with
    mem := { m with
      phase := m.phase + 1
      bytes := m.bytes.filter fun p => frameOf p.1 < m.capacity
      poison := m.poison.filter fun x => x / 2048 < m.capacity
      lost := m.lost.map fun (l : Lost) => { l with below := none, refuseFrom := if l.stack = r.stack then none else l.refuseFrom }
      ret := { r with st := .idle, swept := false, history := (r.stack, r.oldCap, m.capacity) :: r.history
                      dead := r.dead.filter (· ≠ r.stack) } }
    power := { s.power with islands := s.power.islands.setIfInBounds (80 + r.stack) .off } }
  let s2 := (s1.reportRetire 4).reportRetire 0
  match r.queued.find? (r.dead.contains ·), r.queued with
  | some d, _ => s2.beginRetire d
  | none, d :: _ => s2.beginRetire d
  | none, [] => s2

/-- Sweep begins (R233); a map that was switched at once leaves nothing to sweep (R242). -/
def State.beginSweep (s : State) : State :=
  let s1 := ({ s with mem := { s.mem with
    phase := s.mem.phase + 2, ret := { s.mem.ret with st := .sweep, waiting := false, nextSweep := s.cycle.toNat } } }).reportRetire 3
  if regionsOf s.mem.capacity ≤ s.mem.ret.watermark then s1.closeRetire else s1

/-- A store into a code page, once the page stands in another frame: caches are tagged by virtual address (R217). -/
def CodeStore.moved (c : CodeStore) (i f : Nat) : CodeStore :=
  let at' := fun (p : Nat × Byte) => (p.1 - i * 65536 + f * 65536, p.2)
  { c with sector := c.sector - i * 2048 + f * 2048, old := c.old.map at', new := c.new.map at' }

/-- Moves one doomed frame into a frame of the pool (R234). -/
def State.vacateFrame (s : State) (i : Nat) : State :=
  match s.mem.takeFrame with
  | none => s
  | some (f, m) =>
    let s1 := { s with mem := m }.copyFrame i f
    let m1 := (s1.mem.linkMoved i f).unlink i
    { s1 with mem := { m1 with code := m1.code ++ (s.mem.code.filter fun c => c.sector / 2048 = i).map fun c => c.moved i f } }

/-- The frames of the next batch, ascending (R234). -/
def Mem.batch (m : Mem) : List Nat := (setAddAll [] m.doomed).take (min 64 m.pool.length)

/-- ANNOUNCE (R233). -/
def execAnnounce (stack : Nat) (s : State) : Host.Outcome State Fault Refusal := .next (s.askRetire stack)

/-- VACATE_BATCH (R234, R235). -/
def execVacateBatch (s : State) : Host.Outcome State Fault Refusal :=
  .next <|
    if s.mem.ret.st ≠ .vacate then s
    else if s.mem.doomed = [] then s.beginSweep
    else match s.mem.batch with
      | [] =>
        if s.mem.ret.waiting then s
        else ({ s with mem := { s.mem with ret := { s.mem.ret with waiting := true } } }).reportRetire 2
      | b =>
        let s1 := b.foldl (fun s i => s.vacateFrame i) s
        let s2 := { s1 with mem := { s1.mem with phase := s1.mem.phase + 2, ret := { s1.mem.ret with waiting := false } } }
        if s2.mem.doomed = [] then s2.beginSweep else s2

/-- SWEEP_REGION (R238, R243): region W is moved to the new map. Physical addresses name the same bytes
before and after; a granule whose new place lies on a dead stack is lost with it. -/
def execSweepRegion (s : State) : Host.Outcome State Fault Refusal :=
  .next <|
    let r := s.mem.ret
    if r.st ≠ .sweep ∨ s.cycle.toNat < r.nextSweep then s
    else
      let w := r.watermark
      let s1 : State := { s with mem := { s.mem with
        lost := s.mem.lost.map fun (l : Lost) => { l with
          below := if l.below.isSome then some (w + 1) else none
          refuseFrom := if l.stack = r.stack && l.refuseFrom.isSome then some (w + 1) else l.refuseFrom }
        ret := { r with watermark := w + 1, nextSweep := s.cycle.toNat + 2 ^ r.interval } } }
      if regionsOf s1.mem.capacity ≤ w + 1 then s1.closeRetire else s1

/-! ## The death of a stack (R242, R243) -/

/-- The dying stack stops answering: what has not been moved is poisoned, and the whole map switches (R242). -/
def State.loseDying (s : State) : State :=
  let r := s.mem.ret
  if r.swept ∨ r.dead.contains r.stack then s
  else
    let from' := if r.st = .sweep then r.watermark else 0
    let s1 := { s with mem := { s.mem with
      lost := { stack := r.stack, history := r.history, fromRegion := from' } ::
        s.mem.lost.map fun (l : Lost) => { l with below := if l.below.isSome then some (regionsOf s.mem.capacity) else none }
      ret := { r with swept := true, watermark := regionsOf s.mem.capacity } } }
    -- every frame from the first region not moved has granules on the stack: the record names the first and their count (log 32)
    let first := from' * 256
    let s2 := s1.emitRetire (if r.st = .sweep then 3 else 2) r.stack (leBytes 4 first ++ leBytes 4 (r.oldCap - first))
    if r.st = .sweep then s2.closeRetire else s2

/-- STACK_DEATH (R242). -/
def execStackDeath (stack : Nat) (s : State) : Host.Outcome State Fault Refusal :=
  .next <|
    if !s.serves stack then s
    else if s.mem.ret.st = .idle then (s.beginRetire stack).loseDying
    else if s.mem.ret.stack = stack then s.loseDying
    else s

/-- SECOND_STACK_DEATH (R243). -/
def execSecondStackDeath (stack : Nat) (s : State) : Host.Outcome State Fault Refusal :=
  .next <|
    let r := s.mem.ret
    if !s.serves stack ∨ r.st = .idle ∨ r.stack = stack ∨ r.dead.contains stack then s
    else
      let newMap := (r.stack, r.oldCap, s.mem.capacity) :: r.history
      let done := if r.st = .sweep ∨ r.swept then r.watermark else 0
      let s1 := { s with mem := { s.mem with
        lost := { stack := stack, history := r.history, fromRegion := 0, refuseFrom := some 0 } ::
          { stack := stack, history := newMap, fromRegion := 0, below := some done, refuseFrom := some 0 } :: s.mem.lost
        ret := { r with dead := stack :: r.dead, queued := r.queued.filter (· ≠ stack) ++ [stack] } } }
      s1.emitRetire (if r.st = .sweep then 3 else 2) stack

/-! ## CONFIG RETIRE (R294) -/

/-- CONFIG_RETIRE_REQUEST (R233, R294). -/
def execConfigRetireRequest (q : Nat) (p : Packet) (s : State) : Host.Outcome State Fault Refusal :=
  .next (packetEvent q p (fun s => s.runNow q p fun s => .ok (s.askRetire (p.fld 9 1))) s)

/-- CONFIG_RETIRE_INTERVAL (R238, R294). -/
def execConfigRetireInterval (q : Nat) (p : Packet) (s : State) : Host.Outcome State Fault Refusal :=
  .next (packetEvent q p (fun s => s.runNow q p fun s =>
    .ok { s with mem := { s.mem with ret := { s.mem.ret with interval := p.fld 10 1 } } }) s)

/-- The ASIDs that CONFIG RETIRE names. -/
def dropAsids (p : Packet) : List Nat := (List.range (p.fld 11 1)).map fun i => p.fld (16 + 2 * i) 2

/-- CONFIG_RETIRE_DROP (R235, R294). -/
def execConfigRetireDrop (q : Nat) (p : Packet) (s : State) : Host.Outcome State Fault Refusal :=
  .next (packetEvent q p (fun s => s.runNow q p fun s =>
    let gone := s.mem.doomed.filter fun i => (dropAsids p).contains (s.mem.entry i).asid.toNat
    .ok { s with mem := { s.mem with ret := { s.mem.ret with drops := setAddAll s.mem.ret.drops gone } } }) s)

end Sys2Proof.Machine
end

