-- ==== Sys2Proof/Machine/Setup.lean ====
section
/-! DEFINITION. The CONFIG packets of queues, tenants, address spaces, mappings, the pool, ports and the scale-out engine
(R294, R323, R349). Those of retirement stand in Retire. -/

namespace Sys2Proof.Machine

/-! ## Queues (R285, R294) -/

/-- The descriptor that a CONFIG QUEUE packet gives. -/
def queueDesc (p : Packet) : QDesc :=
  { base := BitVec.ofNat 64 (p.fld 8 8), rlog := p.fld 18 1, tenant := p.fld 19 1, asid := BitVec.ofNat 16 (p.fld 20 2)
    exq := p.fld 22 2, enabled := p.fld 24 4 % 2 = 1, devlaunch := p.fld 24 4 / 2 % 2 = 1, exc := p.fld 24 4 / 4 % 2 = 1 }

/-- Enables a queue with a descriptor: the header takes its reset values and the next packet carries SEQ 0. Its
tenant slot has counters from then on. -/
def State.enableQueue (s : State) (q : Nat) (d : QDesc) : State :=
  let s1 := s.onQueue q fun x => { x with
    desc := d, ridx := 0, expect := 0, doneSeq := 0xFFFFFFFF, doneSet := [], held := none, stopped := false, skip := 0
    got := [], asked := [], failed := none, running := x.running.map fun (r : Running) => { r with stale := true } }
  -- what stopped the queue before awaits no answer any longer
  let s2 := ({ s1 with awaited := s1.awaited.filter fun a => !(decide (a.queue = q) && (decide (a.kind = 1) || decide (a.kind = 6))) } : State).resetHeader d
  if s2.tenants.any (·.slot = d.tenant) then s2 else { s2 with tenants := s2.tenants ++ [{ slot := d.tenant }] }

/-- What a descriptor does to a queue: a disabled one ends its launches first (R294). -/
def State.setQueue (s : State) (q : Nat) (d : QDesc) : State :=
  if d.enabled then s.enableQueue q d
  else (if (s.queueOf q).desc.enabled then s.disableQueue q else s).onQueue q fun x => { x with desc := d }

/-- CONFIG_QUEUE (R294): it takes effect when the packet completes (R286). -/
def execConfigQueue (q : Nat) (p : Packet) (s : State) : Host.Outcome State Fault Refusal :=
  .next (packetEvent q p (fun s => (s.runNow q p .ok).setQueue (p.fld 16 2) (queueDesc p)) s)

/-! ## Tenants and address spaces -/

/-- CONFIG_TENANT (R271, R294): the weight of the next period. -/
def execConfigTenant (q : Nat) (p : Packet) (s : State) : Host.Outcome State Fault Refusal :=
  .next (packetEvent q p (fun s => s.runNow q p fun s =>
    let slot := p.fld 8 1
    let w := p.fld 10 2
    .ok (if s.tenants.any (·.slot = slot)
      then { s with tenants := replaceFirst (·.slot = slot) (fun (t : Tenant) => { t with nextWeight := w }) s.tenants }
      else { s with tenants := s.tenants ++ [{ slot := slot, nextWeight := w }] })) s)

/-- CONFIG_ASID (R229, R294): a demand-zero range; a size of 0 removes it. -/
def execConfigAsid (q : Nat) (p : Packet) (s : State) : Host.Outcome State Fault Refusal :=
  .next (packetEvent q p (fun s => s.runNow q p fun s =>
    let asid : BitVec 16 := BitVec.ofNat 16 (p.fld 8 2)
    let i := p.fld 10 1
    let rest := s.mem.zero.filter fun z => ¬ (z.asid = asid ∧ z.index = i)
    let z : ZeroRange := { asid := asid, index := i, base := p.fld 16 8, size := p.fld 24 8, wr := p.fld 11 1 % 2 = 1 }
    .ok { s with mem := { s.mem with zero := if z.size = 0 then rest else z :: rest } }) s)

/-! ## Mappings -/

/-- The entry that a CONFIG MAP packet gives (R223): a remote entry carries CODE 0, and only a code page has versions. -/
def mapEntry (p : Packet) : IptEntry :=
  let flags := p.fld 10 1
  let rem : Bool := flags / 8 % 2 = 1
  let code : Bool := !rem && flags % 2 = 1
  { vpn := p.fld 16 8 / 65536 % 2 ^ 40, asid := BitVec.ofNat 16 (p.fld 8 2), code := code, sm := flags / 2 % 2 = 1
    wr := flags / 4 % 2 = 1, rem := rem, vspan := if code then BitVec.ofNat 8 (p.fld 11 1) else 0
    vfirst := if code then BitVec.ofNat 32 (p.fld 12 4) else 0
    peer := if rem then p.fld 28 2 else 0, pframe := if rem then p.fld 24 4 else 0 }

/-- The lowest remote entry that maps nothing; the array has 65,536 (R222). -/
def Mem.freeRemote (m : Mem) : Option Nat :=
  ((List.range (m.ipt.length + 1)).map (remoteBase + ·)).find? fun i => !(m.entry i).valid && decide (i < remoteBase + 65536)

/-- The frame of the port status table (R306, log 114): in use as long as the part runs. -/
def State.tableFrame (s : State) : Option Nat := s.power.report.map (·.ports / 65536)

/-- CONFIG_MAP (R294). A full remote-entry array ends the packet with PROT (log 33), and so does a frame that is not in the pool, the
port status table's among them. -/
def execConfigMap (q : Nat) (p : Packet) (s : State) : Host.Outcome State Fault Refusal :=
  .next (packetEvent q p (fun s => s.runNow q p fun s =>
    let e := mapEntry p
    if e.rem then match s.mem.freeRemote with
      | some i => .ok { s with mem := s.mem.link i e }
      | none => .error 10
    else
      let f := p.fld 24 4
      if s.mem.capacity ≤ f then .error 11
      else if f < s.heldFrames ∨ s.mem.mapped f ∨ !s.mem.pool.contains f then .error 10
      else .ok { s with mem := { s.mem with pool := setDel s.mem.pool f }.link f e }) s)

/-- The entry of a page in an ASID and a version, for the firmware. -/
def State.entryFor (s : State) (asid : BitVec 16) (va : Nat) (ver : Word) : Option (Nat × IptEntry) :=
  s.mem.walk asid (va / 65536 % 2 ^ 40) ver

/-- CONFIG_UNMAP (R226, R294): accesses already translated are performed first. -/
def execConfigUnmap (q : Nat) (p : Packet) (s : State) : Host.Outcome State Fault Refusal :=
  .next (packetEvent q p (fun s => s.runNow q p fun s0 =>
    let s := s0.flushLocal
    match s.entryFor (BitVec.ofNat 16 (p.fld 8 2)) (p.fld 16 8) (BitVec.ofNat 32 (p.fld 12 4)) with
    | none => .error 9
    | some (i, e) =>
      let m := s.mem.unlink i
      .ok { s with mem := if p.fld 10 1 % 2 = 1 && !e.rem then m.giveFrame i else m }) s)

/-! ## The pool -/

/-- The code with which frames `lo` to `lo + n - 1` may not be given to the pool, by the lowest that may not (R294). -/
def State.giveError (s : State) (lo n : Nat) : Option Nat :=
  let used := (s.mem.ipt.filter fun p => p.2.valid && !p.2.rem && decide (lo ≤ p.1) && decide (p.1 < lo + n)).map (·.1)
  let held := (if n ≠ 0 ∧ lo < s.heldFrames then [lo] else []) ++
    (s.tableFrame.toList.filter fun f => decide (lo ≤ f) && decide (f < lo + n))
  let past := if n ≠ 0 ∧ s.mem.capacity < lo + n then [max lo s.mem.capacity] else []
  match lowest (used ++ held), lowest past with
  | some a, some b => some (if a < b then 10 else 11)
  | some _, none => some 10
  | none, some _ => some 11
  | none, none => none

/-- CONFIG_POOL_GIVE (R231, R294). -/
def execConfigPoolGive (q : Nat) (p : Packet) (s : State) : Host.Outcome State Fault Refusal :=
  .next (packetEvent q p (fun s => s.runNow q p fun s =>
    let lo := p.fld 16 4
    let n := p.fld 12 4
    match s.giveError lo n with
    | some c => .error c
    | none => .ok { s with mem := { s.mem with pool := setAddAll s.mem.pool (span lo (lo + n)) } }) s)

/-- The frames that an operation 1 takes: the lowest, beyond the vacate reserve. -/
def Mem.takeable (m : Mem) (n : Nat) : List Nat := m.pool.take (min n (m.pool.length - m.reserve))

/-- CONFIG_POOL_TAKE (R294): it completes when its writes are performed. Frames whose report cannot be written stay. -/
def execConfigPoolTake (q : Nat) (p : Packet) (s : State) : Host.Outcome State Fault Refusal :=
  .next (packetEvent q p (fun s =>
    let fs := s.mem.takeable (p.fld 12 4)
    let (s1, r) := s.beginPacket q p
    match s1.qpPut q r.id (p.fld 24 8 % 2 ^ 56) (leBytes 4 fs.length ++ fs.flatMap (leBytes 4)) with
    | (s2, _, some c) => s2.failRunning q r c
    | (s2, ids, none) =>
      ({ s2 with mem := { s2.mem with pool := s2.mem.pool.filter (!fs.contains ·) } }).onRunning q r.id fun x => { x with waits := ids }) s)

/-- CONFIG_EVICT (R235, R294): the page is copied out piece by piece (PACKET_COMPLETION); then its entry goes. -/
def execConfigEvict (q : Nat) (p : Packet) (s : State) : Host.Outcome State Fault Refusal :=
  .next (packetEvent q p (fun s0 =>
    let asid : BitVec 16 := BitVec.ofNat 16 (p.fld 8 2)
    let s := s0.flushLocal
    match s.entryFor asid (p.fld 16 8) (s.mem.versOf asid).newest with
    | none => s.failPacket q p 9
    | some (i, e) =>
      if e.rem then s.failPacket q p 9
      else if s.mem.beyond i then s.failPacket q p 11
      else
        let (s1, r) := s.beginPacket q p
        s1.onRunning q r.id fun x => { x with
          copy := some { src := 0, dst := p.fld 24 8 % 2 ^ 56, count := 65536, evict := some (asid, p.fld 16 8 % 2 ^ 56 / 65536 * 65536) } }) s)

/-! ## Ports (R306, R307) -/

/-- The bytes of the port status table (R306). -/
def portTable (f : Fabric) : List Byte :=
  let code := fun (p : PortSt) => match p with
    | .down => 0 | .train => 1 | .active => 2 | .fenced => 3 | .disabled => 4
  leBytes 16 f.changes.toNat ++ f.ports.flatMap fun p =>
    leBytes 4 (code p.st * 2 ^ 28 + p.partner % 512 * 2 ^ 19 + p.pport % 256 * 2 ^ 11) ++ leBytes 4 0 ++
    leBytes 4 p.epoch.toNat ++ leBytes 4 p.retries.toNat

/-- The firmware writes the port status table, once it has reported where it lies. -/
def State.publish (s : State) : State :=
  match s.power.report with
  | some r => { s with mem := { s.mem with bytes := s.mem.bytes.writeN r.ports (portTable s.fabric) } }
  | none => s

/-- A port as another state leaves it: a new STATE carries the epoch, and training starts its time (R306, R307). -/
def Fabric.setPort (x : Fabric) (now i : Nat) (f : Port → Port) : Fabric :=
  match x.ports[i]? with
  | none => x
  | some p =>
    let p1 := f p
    if p1.st = p.st then { x with ports := x.ports.set i p1 }
    else { x with ports := x.ports.set i { p1 with epoch := x.epoch, tried := if p1.st = .train then now else p1.tried }
                  changes := x.changes + 1 }

/-- Changes a port; a new STATE raises CHANGES, and the table shows it (R306). -/
def State.setPort (s : State) (i : Nat) (f : Port → Port) : State :=
  ({ s with fabric := s.fabric.setPort s.cycle.toNat i f } : State).publish

/-- The part has the port (R2). -/
def State.hasPort (s : State) (i : Nat) : Bool := decide (i < Config.ports s.part)

/-- CONFIG_PORT_REINSTATE (R294, R307): a FENCED or DOWN port trains. -/
def execConfigPortReinstate (q : Nat) (p : Packet) (s : State) : Host.Outcome State Fault Refusal :=
  .next (packetEvent q p (fun s => s.runNow q p fun s =>
    .ok (s.setPort (p.fld 8 2) fun x => if x.st = .fenced ∨ x.st = .down then { x with st := .train } else x)) s)

/-- CONFIG_PORT_DISABLE (R294). -/
def execConfigPortDisable (q : Nat) (p : Packet) (s : State) : Host.Outcome State Fault Refusal :=
  .next (packetEvent q p (fun s => s.runNow q p fun s => .ok (s.setPort (p.fld 8 2) fun x => { x with st := .disabled })) s)

/-- The island of a port is not OFF (R346). -/
def State.portPowered (s : State) (i : Nat) : Bool := (s.power.islands.toList)[92 + i % 32]? ≠ some .off

/-- CONFIG_PORT_ENABLE (R294): a DISABLED port is DOWN, and is tried again (R307); on an island that is OFF it stays. -/
def execConfigPortEnable (q : Nat) (p : Packet) (s : State) : Host.Outcome State Fault Refusal :=
  .next (packetEvent q p (fun s => s.runNow q p fun s =>
    .ok (s.setPort (p.fld 8 2) fun x => if x.st = .disabled ∧ s.hasPort (p.fld 8 2) ∧ s.portPowered (p.fld 8 2) then { x with st := .down } else x)) s)

/-! ## The scale-out engine (R323) -/

/-- CONFIG_SCOUT_LOCAL (R323). -/
def execConfigScoutLocal (q : Nat) (p : Packet) (s : State) : Host.Outcome State Fault Refusal :=
  .next (packetEvent q p (fun s => s.runNow q p fun s =>
    let port := p.fld 10 2
    let addr := (p.bytes.drop 24).take 16
    .ok { s with scout := { s.scout with locals := (port, p.fld 12 2, addr) :: s.scout.locals.filter (·.1 ≠ port) } }) s)

/-- Installs a key slot; a size of 0 removes it (R323). -/
def Scout.setKey (x : Scout) (k : ScoutKey) : Scout :=
  let rest := x.keys.filter (·.slot ≠ k.slot)
  { x with keys := if k.size = 0 then rest else k :: rest }

/-- CONFIG_SCOUT_KEY (R323): a size of 0 removes the slot. -/
def execConfigScoutKey (q : Nat) (p : Packet) (s : State) : Host.Outcome State Fault Refusal :=
  .next (packetEvent q p (fun s => s.runNow q p fun s =>
    let k : ScoutKey := { slot := p.fld 10 2, rkey := BitVec.ofNat 64 (p.fld 16 8), asid := BitVec.ofNat 16 (p.fld 12 2)
                          base := p.fld 24 8, size := p.fld 32 8, rd := p.fld 14 1 % 2 = 1, wr := p.fld 14 1 / 2 % 2 = 1 }
    .ok { s with scout := s.scout.setKey k }) s)

/-- CONFIG_SCOUT_TIMEOUT (R323). -/
def execConfigScoutTimeout (q : Nat) (p : Packet) (s : State) : Host.Outcome State Fault Refusal :=
  .next (packetEvent q p (fun s => s.runNow q p fun s => .ok { s with scout := { s.scout with timeout := p.fld 12 4 } }) s)

end Sys2Proof.Machine
end

