-- ==== Sys2Proof/Machine/Fabric.lean ====
section
/-! DEFINITION. The Stook fabric: inbound accesses (R232, R309, R310), answers to outbound requests and their timeouts
(R309 to R312), ports and link states (R306, R307, R313), and inbound scale-out transfers (R323). -/

namespace Sys2Proof

/-- The access kind in a record (R138). -/
def InKind.acc : InKind → Nat
  | .load => 0 | .store => 1 | .atomic _ _ => 2 | .reduction _ _ => 3

/-- The request writes memory. -/
def InKind.writes : InKind → Bool
  | .load => false | _ => true

/-- The request reads memory. -/
def InKind.reads : InKind → Bool
  | .store => false | _ => true

end Sys2Proof

namespace Sys2Proof.Machine

/-- The queue that a fault of an ASID is reported for: the lowest-numbered enabled queue of the ASID, otherwise queue 0
(R286, R311). -/
def State.faultQueue (s : State) (asid : BitVec 16) : Nat :=
  (lowest ((s.queues.filter fun q => q.desc.enabled && decide (q.desc.asid = asid)).map (·.num))).getD 0

/-! ## Inbound accesses (R232, R309) -/

/-- Where an inbound access goes: an offset in device memory, with the entry; or a NACK code. -/
abbrev InPlace := Except Nat (Nat × IptEntry)

/-- The place of a virtual address in the newest code version; a demand-zero page is served first (R218, R232). -/
def State.inVirt (s : State) (asid : BitVec 16) (va : Nat) : InPlace × State :=
  let vpn := va / 65536 % 2 ^ 40
  let look := fun (s : State) => match s.mem.walk asid vpn (s.mem.versOf asid).newest with
    | none => Except.error 1
    | some (i, e) => if e.rem then .error 1 else if s.mem.beyond i then .error 3 else .ok (i * 65536 + va % 65536, e)
  match s.mem.walk asid vpn (s.mem.versOf asid).newest with
  | some _ => (look s, s)
  | none => match s.firstTouch asid vpn with
    | some s1 => (look s1, s1)
    | none => (.error 1, s)

/-- The place of a frame and a page offset; a code page is reached in its newest version (R218, R309, R310). -/
def State.inFrame (s : State) (asid : BitVec 16) (f off : Nat) : InPlace :=
  let e := s.mem.entry f
  if f < s.heldFrames then .error 2
  else if !e.valid || e.rem || e.asid ≠ asid then .error 1
  else if s.mem.beyondPhys f then .error 3
  else if e.code then match s.mem.walk asid e.vpn (s.mem.versOf asid).newest with
    | some (i, e) => if s.mem.beyondPhys i then .error 3 else .ok (i * 65536 + off % 65536, e)
    | none => .error 1
  else .ok (f * 65536 + off % 65536, e)

/-- The operands of an inbound atomic: `b`, and `c` of a compare and swap. -/
def inOperands (typ : BitVec 6) (data : List Byte) : Nat × Nat :=
  let w := atomWidth typ
  (leNat (data.take w), leNat ((data.drop w).take w))

/-- Stores bytes at a place: into a code page by R219, otherwise where they stand. Data with a mark marks what it reaches (R328). -/
def State.inStore (s : State) (asid : BitVec 16) (pa : Nat) (e : IptEntry) (bytes : List Byte) (mark : Bool) : Except Nat State :=
  if e.code then
    let va := e.vpn * 65536 + pa % 65536
    match s.vwrite asid va bytes (if mark then (sectorsOf va bytes.length).map (32 * ·) else []) with
    | .ok s1 => .ok s1
    | .error _ => .error 5
  else
    let s1 := s.putBytes (((List.range bytes.length).map (pa + ·)).zip bytes)
    .ok (if mark then { s1 with mem := (sectorsOf pa bytes.length).foldl Mem.mark s1.mem } else s1)

/-- Performs an inbound access at its place: the bytes of the answer, or a NACK code. -/
def State.inPerform (s : State) (asid : BitVec 16) (kind : InKind) (size : Nat) (data : List Byte) (mark : Bool) (pa : Nat)
    (e : IptEntry) : Except Nat (List Byte × State) :=
  let atom := fun (op : BitVec 4) (typ : BitVec 6) =>
    let old := s.mem.bytes.readN pa (atomWidth typ)
    let (b, c) := inOperands typ data
    (s.inStore asid pa e (leBytes (atomWidth typ) (atomNew op typ (leNat old) b c)) mark).map fun s1 => (old, s1)
  let secs := sectorsOf pa (match kind with
    | .load => size
    | .store => data.length
    | .atomic _ typ => atomWidth (typ.setWidth 6)
    | .reduction _ typ => atomWidth (typ.setWidth 6))
  if kind.writes && !e.code && !e.wr then .error 2
  else if secs.any fun x => s.marked x || s.mem.refuses s.s0 x then .error 4
  else match kind with
    | .load => .ok (s.mem.bytes.readN pa size, s)
    | .store => (s.inStore asid pa e data mark).map fun s1 => ([], s1)
    | .atomic op typ => atom op (typ.setWidth 6)
    | .reduction op typ => (atom op (typ.setWidth 6)).map fun r => ([], r.2)

/-- One inbound access: the answer, with the target's record of a NACK (R311). Its bytes count for the tenant of the ASID (R275). -/
def State.inbound (sA : State) (asid : BitVec 16) (target : InTarget) (kind : InKind) (size : Nat) (data : List Byte) (other : Nat)
    (mark : Bool := false) : Reply × State :=
  let s := sA.countFabric (sA.faultQueue asid) data.length
  let (place, s1) := match target with
    | .frame f off => (s.inFrame asid f off, s)
    | .virt va => s.inVirt asid va.toNat
  let addr := match target with
    | .frame f off => f * 65536 + off % 65536
    | .virt va => va.toNat
  match place.bind fun p => s1.inPerform asid kind size data mark p.1 p.2 with
  | .ok (b, s2) => (.done b, s2.countFabric (s2.faultQueue asid) b.length)
  | .error c => (.nack c, s1.fabricRec (s1.faultQueue asid) asid addr kind.acc 0 c other 0)

/-- INBOUND_ACCESS (R232, R309, R310). A package in recovery answers every request with NACK FENCED (R341), and so does one that has
drained the request's epoch (R313, log 165); nothing reaches one without an ACTIVE port (R307). -/
def execInboundAccess (x : Inbound) (s : State) : Host.Outcome State Fault Refusal :=
  .next <|
    if !s.fabric.up then s else
    let (r, s1) := if s.inRecovery || s.fabric.drained x.epoch then (Reply.nack 6, s) else s.inbound x.asid x.target x.kind x.size x.data x.peer x.mark
    { s1 with fabric := { s1.fabric with replies := s1.fabric.replies ++ [⟨x.peer, s1.fabric.epoch, r⟩] } }

/-! ## Answers to outbound requests (R309 to R312) -/

/-- What is saved of a pre-empted group beside its section. -/
def State.savedGroup (s : State) (r : GRef) : Option SavedGroup := (s.lch r.launch).gangs.findSome? fun k => k.saved.find? (·.ref = r)

/-- Changes that. -/
def State.onSaved (s : State) (r : GRef) (f : SavedGroup → SavedGroup) : State :=
  s.onLaunch r.launch fun l => { l with gangs := l.gangs.map fun (k : Gang) => { k with saved := k.saved.map fun x => if x.ref = r then f x else x } }

/-- The answer to a remote piece of a memory operation of a pre-empted group: it comes to what is saved of the group as it would to the
group (R150, R273, R282, R329). -/
def State.savedReply (s : State) (r : GRef) (op sector : Nat) (e : PieceEnd) : State :=
  match (s.savedGroup r).bind fun x => x.pend.mem.find? fun o => decide (o.id = op) && o.left.contains sector with
  | none => s
  | some o =>
    let g : Group := { launch := r.launch, run := r.run, block := r.block, index := r.group }
    match s.cameMarked g o sector e with
    | some a => s.killAt g a o.split o.pc
    | none =>
      let o1 := o.reply sector (s.overlaid g o.order sector e)
      s.onSaved r fun x =>
        let p := { x.pend with mem := replaceFirst (fun o => o.id = op ∧ o.left.contains sector) (fun _ => o1) x.pend.mem }
        { x with pend := match o1.heldOf sector with
            | some h => p.withHeld h
            | none => p }

/-- The code of a packet's record for a request that failed (log 28): NACK codes as PAGE, PROT, CAPACITY, PROT, REFUSED;
a dropped or unanswered request as PAGE. -/
def PieceEnd.packetCode : PieceEnd → Nat
  | .nack 2 => 10 | .nack 3 => 11 | .nack 4 => 10 | .nack 5 => 15 | _ => 9

/-- The bytes of a sector that came from a peer, by virtual address. -/
def arrived (sector : Nat) (bytes : List Byte) : List (Nat × Byte) := ((List.range 32).map (sector * 32 + ·)).zip bytes

/-- A request is over: what that does to who waits for it. -/
def State.requestEnd (s : State) (r : OutReq) (e : PieceEnd) : State :=
  match r.owner with
  | .mem g op sector => if (s.group? g).isSome then s.memReply g op sector e else s.savedReply g op sector e
  | .copyRead g op sector => s.copyReadReply g op sector e
  | .copyWrite g op piece => s.copyWriteReply g op piece e
  | .gatherRead g op sector => s.gatherReply g op sector e
  | .fetch q sector => s.onQueue q fun x =>
      if x.asked.contains sector then match e with
        | .data b => { x with got := arrived sector b ++ x.got }
        | _ => { x with failed := some (x.failed.getD e.packetCode) }
      else x
  | .packet q id => match s.running? q id with
      | none => s
      | some k =>
        if !k.waits.contains r.id then s
        else match e with
          | .data _ => s.onRunning q id fun k => { k with waits := k.waits.filter (· ≠ r.id) }
          | _ => s.failRunning q k e.packetCode
  | .packetRead q id sector => match s.running? q id with
      | none => s
      | some k =>
        if !k.waits.contains r.id then s
        else match e with
          | .data b => s.onRunning q id fun k => { k with
              waits := k.waits.filter (· ≠ r.id), copy := k.copy.map fun (c : PkCopy) => { c with got := arrived sector b ++ c.got } }
          | _ => s.failRunning q k e.packetCode
  | .launch _ => s
  | .nobody => s

/-- The request leaves the list of those that wait. -/
def State.dropReq (s : State) (id : Nat) : State :=
  { s with fabric := { s.fabric with reqs := s.fabric.reqs.filter (·.id ≠ id) } }

/-- T_REMOTE in cycles (R312). -/
def Fabric.limit (f : Fabric) : Nat := f.tRemote * 47000

/-- REMOTE_REPLY (R309, R310): over an ACTIVE port (R307). The answer to a request whose timer has expired is discarded (R312). -/
def execRemoteReply (req : Nat) (x : Reply) (s : State) : Host.Outcome State Fault Refusal :=
  .next <| match s.fabric.reqs.find? (·.id = req) with
    | none => s
    | some r =>
      if !s.fabric.up ∨ r.sent + s.fabric.limit ≤ s.cycle.toNat then s
      else match x with
      | .done b => ((s.dropReq req).countFabric r.queue b.length).requestEnd r (.data (fitBytes 32 b))
      | .nack c =>
        if c = 0 ∨ 6 < c then s
        else ((s.dropReq req).initiatorRec r c).requestEnd r (.nack c)

/-- T_REMOTE_EXPIRY (R312). -/
def execTRemoteExpiry (req : Nat) (s : State) : Host.Outcome State Fault Refusal :=
  .next <| match s.fabric.reqs.find? (·.id = req) with
    | none => s
    | some r =>
      if s.cycle.toNat < r.sent + s.fabric.limit then s
      else ((s.dropReq req).initiatorRec r 0).requestEnd r .timeout

/-! ## Ports and link states (R306, R307, R313) -/

/-- An endpoint applies a link-state update (R313): the named ports are fenced, routes change, CHANGES is raised, and the drain
begins. -/
def State.applyUpdate (s : State) (u : LinkUpdate) : State :=
  let s1 := { s with fabric := { s.fabric with epoch := u.epoch, drain := 1, drainAt := s.cycle.toNat, dead := setAddAll s.fabric.dead u.deadPackages } }
  let s2 := u.fenced.foldl (fun s i => s.setPort i fun p => if p.st = .active then { p with st := .fenced } else p) s1
  if s2.fabric.changes = s.fabric.changes then ({ s2 with fabric := { s2.fabric with changes := s2.fabric.changes + 1 } } : State).publish else s2

/-- The package that detects a failure raises the epoch by one, floods the update to the stook, and applies it (R313). -/
def State.flood (s : State) (fenced dead : List Nat) : State :=
  let u : LinkUpdate := { epoch := s.fabric.epoch + 1, fenced := fenced, deadPackages := dead, own := true }
  ({ s with fabric := { s.fabric with updates := s.fabric.updates ++ [u] } } : State).applyUpdate u

/-- A port's retries rise by a free amount and saturate (R306). -/
def State.countRetries (s : State) (port : Nat) : State :=
  let n := (Config.freeWord s.fresh).toNat
  { s.setPort port (fun p => { p with retries := BitVec.ofNat 32 (min (p.retries.toNat + n) 0xFFFFFFFF) }) with fresh := s.fresh + 1 }

/-- PORT_FENCE (R307, R313). -/
def execPortFence (port : Nat) (s : State) : Host.Outcome State Fault Refusal :=
  .next <| match s.fabric.ports[port]? with
    | some p => if p.st = .active then (s.countRetries port).flood [port] [] else s
    | none => s

/-- Cycles in which a port trains, and after which it is tried again: 100 ms (R307). -/
def trainCycles : Nat := 94000000

/-- PORT_TRAIN_RETRY (R307): a port that has not reached ACTIVE within 100 ms of its training is DOWN again, and a DOWN port is tried
again every 100 ms. -/
def execPortTrainRetry (port : Nat) (s : State) : Host.Outcome State Fault Refusal :=
  .next (s.setPort port fun p =>
    if s.cycle.toNat < p.tried + trainCycles then p
    else if p.st = .train then { p with st := .down }
    else if p.st = .down then { p with st := .train } else p)

/-- PORT_TRAINING_COMPLETE (R307). -/
def execPortTrainingComplete (port partner pport : Nat) (s : State) : Host.Outcome State Fault Refusal :=
  .next (s.setPort port fun p => if p.st = .train then { p with st := .active, partner := partner, pport := pport } else p)

/-- LINK_STATE_UPDATE (R313): one that this package declares itself, or one from outside; an update of an epoch that is not newer has
been applied before. -/
def execLinkStateUpdate (u : LinkUpdate) (s : State) : Host.Outcome State Fault Refusal :=
  .next <|
    if u.own then s.flood u.fenced u.deadPackages
    else if !s.fabric.up then s
    else if u.epoch = s.fabric.epoch ∨ 2 ^ 31 ≤ (u.epoch - s.fabric.epoch).toNat then s
    else s.applyUpdate u

/-- Cycles of a drain round: 50 µs. -/
def drainCycles : Nat := 47000

/-- Packets of older epochs that this package still holds are dropped: whether it holds one is a free choice (log 165). A request that
is dropped is answered by a NACK FENCED; a reply or a message is not. -/
def State.dropHeld (s : State) : State :=
  let f := s.fabric
  let n := f.replies.length
  let m := f.sent.length
  let lost := fun (e : Word) (i : Nat) => f.older e && Config.freeBool (s.fresh + i)
  let numbered := f.reqs.zip (List.range f.reqs.length)
  let s1 : State := { s with
    fresh := s.fresh + n + m + f.reqs.length
    fabric := { f with
      replies := ((f.replies.zip (List.range n)).filter fun p => !lost p.1.epoch p.2).map (·.1)
      sent := ((f.sent.zip (List.range m)).filter fun p => !lost p.1.epoch (n + p.2)).map (·.1) } }
  (numbered.filter fun p => lost p.1.epoch (n + m + p.2)).foldl (fun (s : State) p =>
    if s.fabric.reqs.any fun r => r.id = p.1.id then ((s.dropReq p.1.id).initiatorRec p.1 6).requestEnd p.1 (.nack 6) else s) s1

/-- DRAIN_ROUND_END (R313): a round of 50 µs is over, and packets of older epochs have been dropped in it; after round 3 none is left. -/
def execDrainRoundEnd (s : State) : Host.Outcome State Fault Refusal :=
  .next <|
    let f := s.fabric
    if f.drain = 0 ∨ s.cycle.toNat < f.drainAt + f.drain * drainCycles then s
    else
      let s1 := s.dropHeld
      { s1 with fabric := { s1.fabric with drain := if 3 ≤ f.drain then 0 else f.drain + 1 } }

/-! ## Inbound scale-out transfers (R323) -/

/-- The key slot that lets a transfer in. -/
def Scout.keyFor (x : Scout) (t : ScoutInbound) : Option ScoutKey :=
  x.keys.find? fun k => k.rkey = t.rkey ∧ (if t.write then k.wr else k.rd) ∧ k.base ≤ t.addr.toNat ∧
    t.addr.toNat + t.size ≤ k.base + k.size

/-- Performs a transfer sector by sector, until one is answered with a NACK. -/
def State.scoutMove (s : State) (k : ScoutKey) (t : ScoutInbound) : Reply × State :=
  (sectorsOf t.addr.toNat t.size).foldl (fun x sec => match x.1 with
    | .nack _ => x
    | .done got =>
      let lo := max t.addr.toNat (sec * 32)
      let n := min (t.addr.toNat + t.size) (sec * 32 + 32) - lo
      match x.2.inbound k.asid (.virt (BitVec.ofNat 56 lo)) (if t.write then .store else .load) n
          ((t.data.drop (lo - t.addr.toNat)).take n) 0 t.mark with
      | (.done b, s1) => (.done (got ++ b), s1)
      | (.nack c, s1) => (.nack c, s1)) (Reply.done [], s)

/-- SCOUT_INBOUND (R323): a transfer that no key slot lets in is refused, which ends the remote packet with PROT. -/
def execScoutInbound (x : ScoutInbound) (s : State) : Host.Outcome State Fault Refusal :=
  .next <|
    if !Config.hasScout s.part || s.scout.locals.isEmpty then s
    else
      let (r, s1) := match s.scout.keyFor x with
        | some k => s.scoutMove k x
        | none => (.nack 2, s)
      { s1 with scout := { s1.scout with replies := s1.scout.replies ++ [r] } }

end Sys2Proof.Machine
end

