-- ==== Sys2Proof/Machine/Time.lean ====
section
/-! DEFINITION. Ready groups and splits, the issue order of a quadrant (R267, R268), the passing of time (R85, R270), and the
bookkeeping of an issue. -/

namespace Sys2Proof.Machine

/-! ## Ready groups and splits (R267) -/

/-- fydb lets a split issue (R98). -/
def Fydb.lets (x : Fydb) (n : BitVec 3) : Bool :=
  match x with
  | .off => true
  | .attached => true
  | .stopped => false
  | .stepping left => left.head? == some n

/-- Bytes that the split's last instruction writes must be performed before its next one (R177). -/
def Group.gated (g : Group) (n : BitVec 3) : Bool := g.pend.mem.any fun o => o.gate && decide (o.split = .entry n)

/-- The entry is there and ready, in a group that runs. -/
def Group.hasReady (g : Group) (n : BitVec 3) : Bool :=
  g.resident && !g.ended && g.parked.isNone && (g.entry n).v && decide ((g.entry n).st = .ready) && !g.gated n

/-- The group may issue for split `n`: the split is ready, and neither a handler of another split nor fydb freezes it. -/
def Group.mayIssue (g : Group) (n : BitVec 3) : Bool := g.hasReady n && g.fydb.lets n && g.unfrozen n

/-- The split may issue, and its instruction was not found waiting. -/
def Group.readySplit (g : Group) (n : BitVec 3) : Bool := g.mayIssue n && !(g.entry n).stall

/-- The running split was chosen for this cycle and may issue. A freeze that the first instruction of its pair brought begins with
the next cycle (R51). -/
def State.canIssue (s : State) : Bool :=
  s.turn.live && if s.turn.second then s.cur.hasReady s.cur.running else s.cur.mayIssue s.cur.running

/-- Ready splits in circular order from the round-robin pointer, those that yielded last (R84, R268). -/
def Group.order (g : Group) : List (BitVec 3) :=
  let l := (List.range 8).map (fun i => BitVec.ofNat 3 (g.iss.rr + i)) |>.filter g.readySplit
  l.filter (fun n => !g.iss.last.contains n) ++ l.filter (fun n => g.iss.last.contains n)

/-- The quadrant of a group: group number mod 4 on its core (R265), numbered over the package. -/
def State.quadrant (s : State) (g : Group) : Nat := 4 * s.coreOf g + g.index % 4

/-- Port A takes `g` rather than `h`: promoted groups first, then the smaller age stamp (R268). -/
def Group.ahead (g h : Group) : Bool :=
  let pro := fun (x : Group) => x.iss.promoted || decide (256 ≤ x.iss.readyFor)
  if pro g = pro h then decide (g.iss.age < h.iss.age) else pro g

/-- The first of some groups in the order of port A. -/
def firstGroup (gs : List Group) : Option Group :=
  gs.foldl (fun r g => match r with
    | none => some g
    | some h => if g.ahead h then some g else some h) none

/-- Port A's choice among the ready groups of a quadrant (R268): a group that yielded gives way if another is ready (R84). -/
def pickGroup (ready : List Group) : Option Group :=
  (firstGroup (ready.filter fun g => !g.iss.yielded)).or (firstGroup ready)

/-- The two splits that the ports issue for a group, and the pointer that they leave: the first ready split, and the next one in
the same order; the debugger steps one at a time (R98, R268). -/
def Group.pair (g : Group) : Option (BitVec 3 × Option (BitVec 3)) :=
  match g.order with
  | [] => none
  | [a] => some (a, none)
  | a :: b :: _ => some (a, some b)

/-- The issues of a group in split order (R88). -/
def Group.issues (g : Group) : List IssueSlot :=
  match g.pair with
  | none => []
  | some (a, none) => [⟨g.ref, a, false, false⟩]
  | some (a, some b) =>
    let (lo, hi) := if a < b then (a, b) else (b, a)
    [⟨g.ref, lo, true, false⟩, ⟨g.ref, hi, false, true⟩]

/-- The issue state of a group for which port A issues: the pointer stands one past the last split issued, and the group is no
longer promoted (R268); what YIELD asked for has been done (R84). -/
def Group.chosen (g : Group) : Group :=
  match g.pair with
  | none => g
  | some (a, b) => { g with iss := { g.iss with
      rr := ((b.getD a).toNat + 1) % 8, issued := true, promoted := false, yielded := false, last := [] } }

/-- The group gave up its port A opportunity to `h` (R84). -/
def Group.gaveUp (g h : Group) : Bool := g.iss.yielded && g.ahead h

/-- Inserts a number into a rising list. -/
def insertNum (n : Nat) : List Nat → List Nat
  | [] => [n]
  | m :: l => if n < m then n :: m :: l else if n = m then m :: l else m :: insertNum n l

/-- The ports of a quadrant choose (R268). -/
def State.chooseIn (s : State) (q : Nat) : State :=
  let here := s.groups.filter fun g => decide (s.quadrant g = q) && !g.order.isEmpty
  match pickGroup here with
  | none => s
  | some h =>
    let f := fun (g : Group) => if g.ref = h.ref then g.chosen
      else if decide (s.quadrant g = q) && !g.order.isEmpty && g.gaveUp h then { g with iss := { g.iss with yielded := false } } else g
    let s1 := s.mapGroups (fun _ => true) f
    { s1 with turn := { s1.turn with slots := s1.turn.slots ++ h.issues } }

/-- The ports of every quadrant choose the issues of a cycle (R268). -/
def State.chooseAll (s : State) : State :=
  (s.groups.foldl (fun l g => insertNum (s.quadrant g) l) []).foldl State.chooseIn { s with turn := {} }

/-! ## Time -/

/-- `n` cycles pass for a waiting entry (R85). -/
def Split.pass (n : Nat) (e : Split) : Split := if e.v && e.st = .waiting then { e with wait := e.wait + n } else e

/-- The issue state after `n` cycles, in the first of which the group may have issued: the others count to its promotion while it is
ready (R268, R348), but not while the debugger holds it (R98). -/
def Group.passIssue (n : Nat) (g : Group) : IssueSt :=
  let count := if g.order.isEmpty then 0 else if g.iss.issued then n - 1 else g.iss.readyFor + n
  { g.iss with readyFor := if g.fydb.holds then g.iss.readyFor else count, issued := false }

/-- `n` cycles pass for a group: wait counts rise unless it is frozen or parked (R85, R98, R230). -/
def Group.pass (n : Nat) (g : Group) : Group :=
  let g1 := { g with iss := g.passIssue n }
  if g.frozen then g1
  else { g1 with splits := Vector.ofFn fun i => (g.splits[i]).pass n, ovfWait := g.ovfWait.map (· + n) }

/-- Partition units that a tenant's resident blocks hold. -/
def State.unitsOf (s : State) (slot : Nat) : Nat :=
  s.blocks.foldl (fun n b => let l := s.lch b.launch; if l.tenant = slot then n + l.img.units else n) 0

/-- The launch's wall time runs: not while recall has pre-empted all that it had placed (R273). -/
def Launch.wallRuns (l : Launch) : Bool :=
  (l.gangs.any fun k => k.st = .placed) || !(l.gangs.any fun k => decide (k.st = .preempted) && !k.gridWait)

/-- A cluster that was asked to go OFF and holds no gang goes OFF (R347). -/
def State.settleIslands (s : State) : State :=
  let busy := fun (c : Nat) => s.groups.any fun g => g.resident && decide (g.cluster = c)
  { s with power := { s.power with islands := Vector.ofFn fun i =>
      if s.power.islands[i] = .goingOff ∧ !busy i.val then .off else s.power.islands[i] } }

/-- `n` cycles pass (R16, R85, R270, R275). -/
def State.pass (s : State) (n : Nat) : State :=
  State.settleIslands { s with
    cycle := s.cycle + BitVec.ofNat 64 n
    cur := s.cur.pass n
    others := s.others.map (Group.pass n)
    launches := s.launches.map fun (l : Launch) => { l with wallUsed := if l.wallRuns then l.wallUsed + n else l.wallUsed }
    tenants := s.tenants.map fun (t : Tenant) =>
      let u := n * s.unitsOf t.slot
      { t with used := t.used + u, units := t.units + BitVec.ofNat 64 u, ran := t.ran || decide (u ≠ 0) } }

/-- Cycles of the next 16 in which nothing issues, because power is gated to a duty (R348, log 35). -/
def State.gated (s : State) : Nat :=
  let c := s.cycle.toNat % 16
  if c < s.power.duty then 0 else 16 - c

/-- The running split was found waiting. -/
def State.isStalled (s : State) : Bool := s.cur.sp.stall

/-- Takes a split of a group as the running one. -/
def State.focusSplit (s : State) (r : GRef) (n : BitVec 3) : State :=
  let s1 := s.focus r
  { s1 with cur := { s1.cur with running := n } }

end Sys2Proof.Machine
end

