-- ==== Sys2Proof/Machine/Power.lean ====
section
/-! DEFINITION. Power-up and recovery (R339 to R341), SPDM and the attestation reports (R342 to R345), power islands and the
power limit (R346 to R348). -/

namespace Sys2Proof.Machine

/-! ## Power-up (R339, R340) -/

/-- The islands after power-up: those that the part lacks are OFF (R346). -/
def freshIslands (p : Part) : Vector Island 128 := Vector.ofFn fun i =>
  let n := i.val
  let here :=
    if n < 64 then decide (n < Config.clusters p)
    else if n < 80 then decide ((n - 64) / 4 < Config.dies p)
    else if n < 92 then decide (n - 80 < Config.stackCount p)
    else if n = 126 then Config.hasScout p
    else true
  if here then .on else .off

/-- The image is accepted (R340): both signatures verify and the version is at least the fused value. -/
def Power.accepts (p : Power) : Bool := p.flash.rsaOk && p.flash.slhOk && decide (p.fuse ≤ p.flash.version)

/-- The part enters recovery at a stage. -/
def State.recover (s : State) (stage : Nat) (stack : Option Nat) : State :=
  { s with power := { s.power with recovery := some (stage, stack) } }

/-- Stage 3: the ports that trained are ACTIVE, and the package knows its position (R307, R308). -/
def State.trainPorts (s : State) : State :=
  let s1 := s.power.outcome.trained.foldl (fun s x => s.setPort x.1 fun p =>
    if p.st = .disabled then p else { p with st := .active, partner := x.2.1, pport := x.2.2 }) s
  { s1 with fabric := { s1.fabric with position := s.power.outcome.position } }

/-- The two queues of power-up (R286). -/
def ownerDesc : QDesc := { base := 0x10000, rlog := 15, exq := 1, enabled := true }
def recordDesc : QDesc := { base := 0x20000, rlog := 15, enabled := true, exc := true }

/-- Stage 5: the queue processor starts, and the firmware reports what it holds and where the port status table lies (R222, R286, R306,
R339, log 114). -/
def State.startQueues (s : State) : State :=
  let f := s.heldFrames
  let m1 : Mem := { s.mem with capacity := Config.frames s.part, phase := 0 }
  let m2 := (m1.link f { vpn := 1, wr := true }).link (f + 1) { vpn := 2, wr := true }
  let s1 : State := { s with cycle := 0, mem := m2, queues := [] }
  let s2 := (s1.enableQueue 0 ownerDesc).enableQueue 1 recordDesc
  ({ s2 with power := { s2.power with report := some ⟨f, f, f + 1, (f + 2) * 65536⟩ } } : State).publish

/-- Stage 4: the image of the flash runs, with the T_REMOTE of its configuration; one outside 50 µs to 12.75 ms leaves the default
(R312, R340). -/
def State.runImage (s : State) : State :=
  let n := s.power.flash.tRemote
  { s with
    power := { s.power with running := s.power.flash }
    fabric := { s.fabric with tRemote := if 1 ≤ n ∧ n ≤ 255 then n else 10 } }

/-- The attestation keys that the running image gives (R342). -/
def Power.derived (p : Power) : AttestKey := ⟨Config.deviceSecret, Config.firmwareHash p.running.number⟩

/-- Stage 6: the keys are derived. -/
def State.deriveKeys (s : State) : State := { s with power := { s.power with key := some s.power.derived } }

/-- The stage after those that have ended (R339). -/
def State.powerStage (s : State) : State :=
  if s.power.recovery.isSome then s
  else
    let o := s.power.outcome
    let done := fun (s : State) => { s with power := { s.power with stage := s.power.stage + 1 } }
    match s.power.stage with
    | 0 =>
      let s1 := { s with power := { s.power with islands := freshIslands s.part } }
      if o.failedStage = 1 ∧ o.failedStack.isSome then s1.recover 1 o.failedStack else done s1
    | 1 => if o.failedStage = 2 ∧ o.failedStack.isSome then s.recover 2 o.failedStack else done s
    | 2 => done s.trainPorts
    | 3 => if o.failedStage ≠ 4 ∧ s.power.accepts then done s.runImage else s.recover 4 none
    | 4 => done s.startQueues
    | 5 => if o.failedStage = 6 then s.recover 6 none else done s.deriveKeys
    | _ => s

/-! ## Messages (R344) -/

/-- The fragments of a message: header and at most 4,096 bytes each. -/
def fragments (src dst : Nat) (xfer : Word) (secured : Bool) : Nat → Nat → List Byte → List (List Byte)
  | 0, _, _ => []
  | n + 1, frag, bytes =>
    let part := bytes.take 4096
    let last := decide (bytes.length ≤ 4096)
    let head := leBytes 2 src ++ leBytes 2 dst ++ leBytes 4 xfer.toNat ++ leBytes 2 frag ++ leBytes 2 part.length ++
      leBytes 1 ((if last then 1 else 0) + if secured then 2 else 0) ++ leBytes 3 0
    (head ++ part) :: if last then [] else fragments src dst xfer secured n (frag + 1) (bytes.drop 4096)

/-- Sends an SPDM message in answer to a request, secured as the request was. -/
def State.answerTo (s : State) (m : Mgmt) (msg : List Byte) : State :=
  let secured := m.secured && (s.spdm.session || s.spdm.handshake.isSome)
  let wire := if secured then Config.sealed s.fresh msg else msg
  let s1 : State := { s with
    fresh := s.fresh + 1
    spdm := { s.spdm with out := s.spdm.out ++ [(m.src, m.xfer, secured, msg)] } }
  (fragments s.fabric.position m.src m.xfer secured (wire.length / 4096 + 1) 0 wire).foldl (fun s f => s.sendOut m.src (.mgmt f)) s1

/-- Answers the message in the receive buffer. -/
def State.answer (s : State) (msg : List Byte) : State := s.answerTo s.spdm.inbox msg

/-- The kinds of answer whose bytes SPDM 1.3 gives: the answer to a request code, an ERROR of code UnsupportedRequest, and a
refusal. -/
def errUnsupported : Nat := 0
def errRefused : Nat := 1

/-- An answer of a kind. -/
def State.reply (s : State) (kind : Nat) : State := s.answer (Config.spdmBody s.power.key kind s.spdm.inbox.payload)

/-- The request is refused. -/
def State.refuse (s : State) : State := s.reply errRefused

/-- The event that serves a request: nothing happens when the message in the receive buffer asks for something else (R343). -/
def serve (r : SpdmRequest) (f : State → State) (s : State) : Host.Outcome State Fault Refusal :=
  .next (if s.spdm.inbox.asks = r then f s else s)

/-- The message came inside a session. -/
def State.inSession (s : State) : Bool := s.spdm.session && s.spdm.inbox.secured

/-- The message came inside the owner's session: the requester's root is the one in the fuses. -/
def State.inOwner (s : State) : Bool := s.inSession && decide (s.spdm.ownerRoot = some s.spdm.peerRoot)

/-- The message came inside the owner's session, and the part is not in recovery: there the session gives the three things of R341. -/
def State.ownerRuns (s : State) : Bool := s.inOwner && s.power.recovery.isNone

/-! ## SPDM requests (R343, R344) -/

/-- GET_VERSION. -/
def execGetVersion (s : State) : Host.Outcome State Fault Refusal :=
  serve .getVersion (fun s => ({ s with spdm := { s.spdm with negotiated := 1 } } : State).reply 2) s

/-- GET_CAPABILITIES. -/
def execGetCapabilities (s : State) : Host.Outcome State Fault Refusal :=
  serve .getCapabilities (fun s => ({ s with spdm := { s.spdm with negotiated := 2 } } : State).reply 3) s

/-- NEGOTIATE_ALGORITHMS: SHA-384, secp384r1, AES-256-GCM, RSASSA-3072. -/
def execNegotiateAlgorithms (s : State) : Host.Outcome State Fault Refusal :=
  serve .negotiateAlgorithms (fun s => ({ s with spdm := { s.spdm with negotiated := 3 } } : State).reply 4) s

/-- GET_CERTIFICATE: the slot-0 chain. -/
def execGetCertificate (s : State) : Host.Outcome State Fault Refusal := serve .getCertificate (fun s => s.reply 5) s

/-- KEY_EXCHANGE: only with mutual authentication. -/
def execKeyExchange (s : State) : Host.Outcome State Fault Refusal :=
  serve .keyExchange (fun s =>
    if s.spdm.inbox.mutualAuth then ({ s with spdm := { s.spdm with handshake := some 0, session := false, peerRoot := 0 } } : State).reply 6
    else s.refuse) s

/-- FINISH: the session begins when both encapsulated requests have been answered. -/
def execFinish (s : State) : Host.Outcome State Fault Refusal :=
  serve .finish (fun s =>
    if s.spdm.handshake = some 2 ∧ s.spdm.inbox.authentic then
      ({ s.reply 7 with spdm := { (s.reply 7).spdm with handshake := none, session := true } })
    else s.refuse) s

/-- END_SESSION. -/
def execEndSession (s : State) : Host.Outcome State Fault Refusal :=
  serve .endSession (fun s =>
    if s.inSession then
      let s1 := s.reply 8
      { s1 with spdm := { s1.spdm with session := false, peerRoot := 0 } }
    else s.refuse) s

/-- GET_ENCAPSULATED_REQUEST: GET_CERTIFICATE, then CHALLENGE. -/
def execGetEncapsulatedRequest (s : State) : Host.Outcome State Fault Refusal :=
  serve .getEncapsulatedRequest (fun s => match s.spdm.handshake with
    | some 0 => s.reply 9
    | some 1 => s.reply 10
    | _ => s.refuse) s

/-- DELIVER_ENCAPSULATED_RESPONSE: the requester's chain, then its answer to the challenge. -/
def execDeliverEncapsulatedResponse (s : State) : Host.Outcome State Fault Refusal :=
  serve .deliverEncapsulatedResponse (fun s => match s.spdm.handshake with
    | some 0 => ({ s with spdm := { s.spdm with handshake := some 1, peerRoot := s.spdm.inbox.root } } : State).reply 11
    | some 1 =>
      if s.spdm.inbox.authentic then ({ s with spdm := { s.spdm with handshake := some 2 } } : State).reply 11 else s.refuse
    | _ => s.refuse) s

/-- UNSUPPORTED_REQUEST: a request code, an algorithm or a slot that the part does not support. -/
def execUnsupportedRequest (s : State) : Host.Outcome State Fault Refusal := serve .other (fun s => s.reply errUnsupported) s

/-! ## Reports (R343, R345) -/

/-- Bytes 0 to 111 of a report. -/
def State.reportHead (s : State) (kind : Nat) (nonce : BitVec 256) : List Byte :=
  leBytes 4 0x52415946 ++ leBytes 2 kind ++ leBytes 2 0 ++ leBytes 32 nonce.toNat ++
  leBytes 48 (Config.firmwareHash s.power.running.number).toNat ++ leBytes 4 (Config.cap0 s.part).toNat ++
  leBytes 4 (Config.cap1 s.part).toNat ++ leBytes 4 Config.binderVersion.toNat ++ leBytes 4 0 ++ leBytes 8 s.cycle.toNat

/-- A report: head, body, and both signatures over them, with the keys of stage 6 and nothing else (R342). -/
def Power.signed (p : Power) (bytes : List Byte) : List Byte :=
  match p.key with
  | some k => bytes ++ leBytes 384 (Config.rsaSign k bytes).toNat ++ leBytes 16224 (Config.slhSign k bytes).toNat
  | none => []

/-- The body of a device report. -/
def State.deviceBody (s : State) : List Byte :=
  leBytes 4 s.mem.capacity ++ leBytes 4 s.mem.phase.toNat ++ leBytes 8 (Config.retiredField (s.mem.ret.history.map (·.1))).toNat

/-- The body of a usage report: the three counters of every slot (R275). -/
def State.usageBody (s : State) : List Byte :=
  (List.range 256).flatMap fun i =>
    let t := s.tenant i
    leBytes 8 t.units.toNat ++ leBytes 8 t.hbm.toNat ++ leBytes 8 t.fabric.toNat

/-- Bytes have moved between the stacks and the L2s for the launches that ran since: the counters of HBM bytes rise by free amounts
(R275, log 27). -/
def countBytes : Nat → List Tenant → List Tenant
  | _, [] => []
  | n, t :: ts => (if t.ran then { t with hbm := t.hbm + (Config.freeWord n).zeroExtend 64, ran := false } else t) :: countBytes (n + 1) ts

/-- A report of a kind is signed; each report is signed in a cycle of its own (R345). -/
def State.report (s : State) (usage : Bool) (m : Mgmt) : State :=
  let s1 := s.pass 1
  let s2 := if usage then { s1 with tenants := countBytes s1.fresh s1.tenants, fresh := s1.fresh + s1.tenants.length } else s1
  s2.answerTo m (Config.vendorHead ++ s2.power.signed (if usage then s2.reportHead 1 m.nonce ++ s2.usageBody else s2.reportHead 0 m.nonce ++ s2.deviceBody))

/-- A request for a report: it waits for stage 6 (R339), and a part in recovery gives none (R341). -/
def State.askReport (s : State) (usage : Bool) : State :=
  if s.power.recovery.isSome then s.refuse
  else if s.power.stage < 6 then { s with spdm := { s.spdm with waiting := s.spdm.waiting ++ [(usage, s.spdm.inbox)] } }
  else s.report usage s.spdm.inbox

/-- DEVICE_REPORT (R343). -/
def execDeviceReport (s : State) : Host.Outcome State Fault Refusal := serve .deviceReport (fun s => s.askReport false) s

/-- USAGE_REPORT (R345). -/
def execUsageReport (s : State) : Host.Outcome State Fault Refusal := serve .usageReport (fun s => s.askReport true) s

/-- POWER_UP (R339): the stages that have not ended, in order, up to stage 5, after which the queue processor works; then stage 6 and
the reports that waited for it. -/
def execPowerUp (s : State) : Host.Outcome State Fault Refusal :=
  .next <|
    let s1 := if s.power.stage < 5 then (List.range 5).foldl (fun s _ => if s.power.stage < 5 then s.powerStage else s) s else s.powerStage
    if s1.power.stage = 6 then
      s1.spdm.waiting.foldl (fun s x => s.report x.1 x.2) { s1 with spdm := { s1.spdm with waiting := [] } }
    else s1

/-! ## Messages that change the part (R341, R344, R347) -/

/-- SET_OWNER (R344): only inside a session and while the fuses are blank. -/
def execSetOwner (s : State) : Host.Outcome State Fault Refusal :=
  serve .setOwner (fun s =>
    if s.inSession ∧ s.spdm.ownerRoot = none then
      ({ s with spdm := { s.spdm with ownerRoot := some s.spdm.inbox.root } } : State).reply 12
    else s.refuse) s

/-- Sets an island. -/
def State.setIsland (s : State) (i : Nat) (x : Island) : State :=
  { s with power := { s.power with islands := s.power.islands.setIfInBounds i x } }

/-- CLUSTER_POWER (R347). -/
def execClusterPower (s : State) : Host.Outcome State Fault Refusal :=
  serve .clusterPower (fun s =>
    let c := s.spdm.inbox.index
    if !s.ownerRuns ∨ Config.clusters s.part ≤ c then s.refuse
    else (if s.spdm.inbox.on then s.setIsland c .on else (s.setIsland c .goingOff).settleIslands).reply 12) s

/-- CHANGES is raised. -/
def State.raiseChanges (s : State) : State := ({ s with fabric := { s.fabric with changes := s.fabric.changes + 1 } } : State).publish

/-- FABRIC_ISLAND_POWER (R347): the island's ports go DISABLED, then the island OFF. Ports of an island that is switched ON
stay DISABLED until CONFIG PORT enables them (log 35). -/
def execFabricIslandPower (s : State) : Host.Outcome State Fault Refusal :=
  serve .fabricIslandPower (fun s =>
    let i := s.spdm.inbox.index
    if !s.ownerRuns ∨ i < 92 ∨ 124 ≤ i then s.refuse
    else if s.spdm.inbox.on then (s.setIsland i .on).raiseChanges.reply 12
    else
      let ports := (List.range (Config.ports s.part)).filter fun p => p % 32 = i - 92
      let s1 := ports.foldl (fun s p => s.setPort p fun x => { x with st := .disabled }) s
      (s1.setIsland i .off).raiseChanges.reply 12) s

/-- POWER_LIMIT (R347). -/
def execPowerLimit (s : State) : Host.Outcome State Fault Refusal :=
  serve .powerLimit (fun s =>
    let w := s.spdm.inbox.watts
    if !s.ownerRuns ∨ w < 400 ∨ Config.maxPower s.part < w then s.refuse
    else ({ s with power := { s.power with limit := w } } : State).reply 12) s

/-- POWER_LIMIT_EXCEEDED (R348): the duty is never below 8. -/
def execPowerLimitExceeded (duty : Nat) (s : State) : Host.Outcome State Fault Refusal :=
  .next { s with power := { s.power with duty := max 8 (min 16 duty) } }

/-- A scale-out key outside CONFIG (R344): installed as the CONFIG packet installs one (R323), for the owner, on a part with the
engine. -/
def State.ownerKey (s : State) : State :=
  if s.ownerRuns ∧ Config.hasScout s.part then ({ s with scout := s.scout.setKey s.spdm.inbox.key } : State).reply 12 else s.refuse

/-- The recovery cause (R341): the stage number, and the failed stack where there is one. -/
def State.giveCause (s : State) : State :=
  match s.power.recovery with
  | some (stage, stack) => if s.inOwner then s.answer (Config.recoveryBody stage stack) else s.refuse
  | none => s.refuse

/-- RECOVERY_IMAGE (R341): verified at the next power-up. -/
def execRecoveryImage (s : State) : Host.Outcome State Fault Refusal :=
  serve .recoveryImage (fun s =>
    if s.inOwner ∧ s.power.recovery.isSome then ({ s with power := { s.power with flash := s.spdm.inbox.image } } : State).reply 12
    else s.refuse) s

/-- The part as it stands before a power-up: fuses and flash stay, and the islands that the part lacks are OFF (R346). -/
def State.restarted (s : State) : State :=
  { State.reset with
    part := s.part
    fabric := { ports := initialPorts s.part }
    dies := List.replicate (Config.dies s.part) {}
    mem := { capacity := Config.frames s.part }
    spdm := { ownerRoot := s.spdm.ownerRoot }
    power := { flash := s.power.flash, fuse := s.power.fuse, outcome := s.power.outcome, limit := Config.maxPower s.part
               islands := freshIslands s.part }
    agenda := s.agenda
    fresh := s.fresh
    nextLaunch := s.nextLaunch }

/-- RESET (R341). -/
def execReset (s : State) : Host.Outcome State Fault Refusal := serve .reset (fun s => if s.inOwner then s.restarted else s.refuse) s

/-! ## Messages that arrive (R344) -/

/-- The header of a management message and its payload; none where a field does not hold what R344 gives it, or the message is for
another package. -/
def State.mgmtHeader (s : State) (b : List Byte) : Option (MsgPart × Bool × List Byte) :=
  let fld := fun (off n : Nat) => leNat ((b.drop off).take n)
  let len := fld 10 2
  let flags := fld 12 1
  if 1 ≤ len ∧ len ≤ 4096 ∧ b.length = 16 + len ∧ fld 2 2 = s.fabric.position ∧ flags < 4 ∧ fld 13 3 = 0 then
    some (⟨fld 0 2, BitVec.ofNat 32 (fld 4 4), decide (2 ≤ flags), fld 8 2, []⟩, decide (flags % 2 = 1), b.drop 16)
  else none

/-- The message that stands complete in the receive buffer: what its bytes say, and where it came from. -/
def State.opened (s : State) (p : MsgPart) : Mgmt :=
  let m := if p.secured then Config.spdmOpen s.fresh p.bytes else Config.spdmParse p.bytes
  { m with src := p.src, xfer := p.xfer, secured := p.secured, payload := p.bytes }

/-- A fragment arrives: fragment 0 begins a message, each further one in order continues it, and the one with LAST completes it. A
fragment that does not fit is dropped, with what stood of its message (log 152); none comes without an ACTIVE port (R307). -/
def State.receive (s : State) (b : List Byte) : Option Mgmt × State :=
  match (if s.fabric.up then s.mgmtHeader b else none) with
  | none => (none, s)
  | some (h, last, data) =>
    let mine := fun (p : MsgPart) => decide (p.src = h.src) && decide (p.xfer = h.xfer)
    let rest := s.spdm.parts.filter fun p => !mine p
    let before := if h.next = 0 then some { h with next := 0 } else (s.spdm.parts.find? mine).filter fun p => p.next = h.next && p.secured = h.secured
    let keep := fun (l : List MsgPart) => { s with spdm := { s.spdm with parts := l }, fresh := s.fresh + 1 }
    match before with
    | none => (none, keep rest)
    | some p =>
      let p1 := { p with next := p.next + 1, bytes := p.bytes ++ data }
      if last then (some (s.opened p1), keep rest) else (none, keep (p1 :: rest))

/-- The event that answers a request; the two vendor-defined messages that have no row of their own are answered where they arrive. -/
def requestInstr : SpdmRequest → Option Instr
  | .getVersion => some .getVersion
  | .getCapabilities => some .getCapabilities
  | .negotiateAlgorithms => some .negotiateAlgorithms
  | .getCertificate => some .getCertificate
  | .keyExchange => some .keyExchange
  | .finish => some .finish
  | .endSession => some .endSession
  | .getEncapsulatedRequest => some .getEncapsulatedRequest
  | .deliverEncapsulatedResponse => some .deliverEncapsulatedResponse
  | .deviceReport => some .deviceReport
  | .usageReport => some .usageReport
  | .setOwner => some .setOwner
  | .clusterPower => some .clusterPower
  | .fabricIslandPower => some .fabricIslandPower
  | .powerLimit => some .powerLimit
  | .recoveryImage => some .recoveryImage
  | .reset => some .reset
  | .other => some .unsupportedRequest
  | .recoveryCause | .scaleOutKey => none

end Sys2Proof.Machine
end

