-- ==== Sys2Proof/Machine/Dispatch.lean ====
section
/-! DEFINITION. The meaning of every step: one arm per constructor. -/

namespace Sys2Proof.Machine

/-- The meaning of a step of the package. -/
def exec (i : Instr) (s : State) : Host.Outcome State Fault Refusal :=
  match i with
  | .bra f => Sys2Proof.Machine.execBra f s
  | .brc f => Sys2Proof.Machine.execBrc f s
  | .brx f => Sys2Proof.Machine.execBrx f s
  | .call f => Sys2Proof.Machine.execCall f s
  | .callx f => Sys2Proof.Machine.execCallx f s
  | .ret f => Sys2Proof.Machine.execRet f s
  | .jset f => Sys2Proof.Machine.execJset f s
  | .jarv f => Sys2Proof.Machine.execJarv f s
  | .jqry f => Sys2Proof.Machine.execJqry f s
  | .splq f => Sys2Proof.Machine.execSplq f s
  | .trap f => Sys2Proof.Machine.execTrap f s
  | .tret f => Sys2Proof.Machine.execTret f s
  | .tretNext f => Sys2Proof.Machine.execTretNext f s
  | .sigchk f => Sys2Proof.Machine.execSigchk f s
  | .sigrd f => Sys2Proof.Machine.execSigrd f s
  | .kand f => Sys2Proof.Machine.execKand f s
  | .kor f => Sys2Proof.Machine.execKor f s
  | .kxor f => Sys2Proof.Machine.execKxor f s
  | .kandn f => Sys2Proof.Machine.execKandn f s
  | .knot f => Sys2Proof.Machine.execKnot f s
  | .kmov f => Sys2Proof.Machine.execKmov f s
  | .kpopc f => Sys2Proof.Machine.execKpopc f s
  | .kffs f => Sys2Proof.Machine.execKffs f s
  | .kvote f => Sys2Proof.Machine.execKvote f s
  | .ktov f => Sys2Proof.Machine.execKtov f s
  | .iadd f => Sys2Proof.Machine.execIadd f s
  | .iaddExt f => Sys2Proof.Machine.execIaddExt f s
  | .isub f => Sys2Proof.Machine.execIsub f s
  | .isubExt f => Sys2Proof.Machine.execIsubExt f s
  | .iadd3 f => Sys2Proof.Machine.execIadd3 f s
  | .imul f => Sys2Proof.Machine.execImul f s
  | .imulExt f => Sys2Proof.Machine.execImulExt f s
  | .imulh f => Sys2Proof.Machine.execImulh f s
  | .imulhExt f => Sys2Proof.Machine.execImulhExt f s
  | .imad f => Sys2Proof.Machine.execImad f s
  | .imin f => Sys2Proof.Machine.execImin f s
  | .iminExt f => Sys2Proof.Machine.execIminExt f s
  | .imax f => Sys2Proof.Machine.execImax f s
  | .imaxExt f => Sys2Proof.Machine.execImaxExt f s
  | .and f => Sys2Proof.Machine.execAnd f s
  | .andExt f => Sys2Proof.Machine.execAndExt f s
  | .or f => Sys2Proof.Machine.execOr f s
  | .orExt f => Sys2Proof.Machine.execOrExt f s
  | .xor f => Sys2Proof.Machine.execXor f s
  | .xorExt f => Sys2Proof.Machine.execXorExt f s
  | .andn f => Sys2Proof.Machine.execAndn f s
  | .andnExt f => Sys2Proof.Machine.execAndnExt f s
  | .shl f => Sys2Proof.Machine.execShl f s
  | .shlExt f => Sys2Proof.Machine.execShlExt f s
  | .shr f => Sys2Proof.Machine.execShr f s
  | .shrExt f => Sys2Proof.Machine.execShrExt f s
  | .sar f => Sys2Proof.Machine.execSar f s
  | .sarExt f => Sys2Proof.Machine.execSarExt f s
  | .rotl f => Sys2Proof.Machine.execRotl f s
  | .rotlExt f => Sys2Proof.Machine.execRotlExt f s
  | .bfx f => Sys2Proof.Machine.execBfx f s
  | .bfi f => Sys2Proof.Machine.execBfi f s
  | .not f => Sys2Proof.Machine.execNot f s
  | .notExt f => Sys2Proof.Machine.execNotExt f s
  | .iabs f => Sys2Proof.Machine.execIabs f s
  | .ineg f => Sys2Proof.Machine.execIneg f s
  | .popc f => Sys2Proof.Machine.execPopc f s
  | .clz f => Sys2Proof.Machine.execClz f s
  | .ctz f => Sys2Proof.Machine.execCtz f s
  | .brev f => Sys2Proof.Machine.execBrev f s
  | .icmp f => Sys2Proof.Machine.execIcmp f s
  | .isel f => Sys2Proof.Machine.execIsel f s
  | .mov f => Sys2Proof.Machine.execMov f s
  | .movExt f => Sys2Proof.Machine.execMovExt f s
  | .movi f => Sys2Proof.Machine.execMovi f s
  | .movl f => Sys2Proof.Machine.execMovl f s
  | .lea f => Sys2Proof.Machine.execLea f s
  | .shfl f => Sys2Proof.Machine.execShfl f s
  | .bcast f => Sys2Proof.Machine.execBcast f s
  | .ired f => Sys2Proof.Machine.execIred f s
  | .ipsum f => Sys2Proof.Machine.execIpsum f s
  | .bmix f => Sys2Proof.Machine.execBmix f s
  | .fadd f => Sys2Proof.Machine.execFadd f s
  | .faddExt f => Sys2Proof.Machine.execFaddExt f s
  | .fsub f => Sys2Proof.Machine.execFsub f s
  | .fsubExt f => Sys2Proof.Machine.execFsubExt f s
  | .fmul f => Sys2Proof.Machine.execFmul f s
  | .fmulExt f => Sys2Proof.Machine.execFmulExt f s
  | .ffma f => Sys2Proof.Machine.execFfma f s
  | .fmin f => Sys2Proof.Machine.execFmin f s
  | .fminExt f => Sys2Proof.Machine.execFminExt f s
  | .fmax f => Sys2Proof.Machine.execFmax f s
  | .fmaxExt f => Sys2Proof.Machine.execFmaxExt f s
  | .fcmp f => Sys2Proof.Machine.execFcmp f s
  | .frcp f => Sys2Proof.Machine.execFrcp f s
  | .frcpExt f => Sys2Proof.Machine.execFrcpExt f s
  | .frsq f => Sys2Proof.Machine.execFrsq f s
  | .frsqExt f => Sys2Proof.Machine.execFrsqExt f s
  | .fsqrt f => Sys2Proof.Machine.execFsqrt f s
  | .fsqrtExt f => Sys2Proof.Machine.execFsqrtExt f s
  | .fexp2 f => Sys2Proof.Machine.execFexp2 f s
  | .fexp2Ext f => Sys2Proof.Machine.execFexp2Ext f s
  | .flog2 f => Sys2Proof.Machine.execFlog2 f s
  | .flog2Ext f => Sys2Proof.Machine.execFlog2Ext f s
  | .fsinp f => Sys2Proof.Machine.execFsinp f s
  | .fsinpExt f => Sys2Proof.Machine.execFsinpExt f s
  | .fcosp f => Sys2Proof.Machine.execFcosp f s
  | .fcospExt f => Sys2Proof.Machine.execFcospExt f s
  | .frint f => Sys2Proof.Machine.execFrint f s
  | .frintExt f => Sys2Proof.Machine.execFrintExt f s
  | .fclass f => Sys2Proof.Machine.execFclass f s
  | .fclassExt f => Sys2Proof.Machine.execFclassExt f s
  | .fcvt f => Sys2Proof.Machine.execFcvt f s
  | .fpack f => Sys2Proof.Machine.execFpack f s
  | .funpk f => Sys2Proof.Machine.execFunpk f s
  | .cadd f => Sys2Proof.Machine.execCadd f s
  | .csub f => Sys2Proof.Machine.execCsub f s
  | .cmul f => Sys2Proof.Machine.execCmul f s
  | .cfma f => Sys2Proof.Machine.execCfma f s
  | .cmin f => Sys2Proof.Machine.execCmin f s
  | .cmax f => Sys2Proof.Machine.execCmax f s
  | .ccvt f => Sys2Proof.Machine.execCcvt f s
  | .cred f => Sys2Proof.Machine.execCred f s
  | .cqnt f => Sys2Proof.Machine.execCqnt f s
  | .cdq f => Sys2Proof.Machine.execCdq f s
  | .cchk f => Sys2Proof.Machine.execCchk f s
  | .clea f => Sys2Proof.Machine.execClea f s
  | .ld f => Sys2Proof.Machine.execLd f s
  | .loadSectorArrival g op sector => Sys2Proof.Machine.execLoadSectorArrival g op sector s
  | .st f => Sys2Proof.Machine.execSt f s
  | .cld f => Sys2Proof.Machine.execCld f s
  | .cst f => Sys2Proof.Machine.execCst f s
  | .atom f => Sys2Proof.Machine.execAtom f s
  | .red f => Sys2Proof.Machine.execRed f s
  | .fence f => Sys2Proof.Machine.execFence f s
  | .fenceExt f => Sys2Proof.Machine.execFenceExt f s
  | .cpasync f => Sys2Proof.Machine.execCpasync f s
  | .copyPieceWritten g op piece => Sys2Proof.Machine.execCopyPieceWritten g op piece s
  | .copyRetire g => Sys2Proof.Machine.execCopyRetire g s
  | .gather f => Sys2Proof.Machine.execGather f s
  | .gatherRetire g => Sys2Proof.Machine.execGatherRetire g s
  | .pref f => Sys2Proof.Machine.execPref f s
  | .waitcnt f => Sys2Proof.Machine.execWaitcnt f s
  | .cntrd f => Sys2Proof.Machine.execCntrd f s
  | .remoteStoreFailure g op nack => Sys2Proof.Machine.execRemoteStoreFailure g op nack s
  | .bar f => Sys2Proof.Machine.execBar f s
  | .bararv f => Sys2Proof.Machine.execBararv f s
  | .barwt f => Sys2Proof.Machine.execBarwt f s
  | .tbinit f => Sys2Proof.Machine.execTbinit f s
  | .tbexp f => Sys2Proof.Machine.execTbexp f s
  | .tbarv f => Sys2Proof.Machine.execTbarv f s
  | .tbwait f => Sys2Proof.Machine.execTbwait f s
  | .crput f => Sys2Proof.Machine.execCrput f s
  | .contributionAccepted g => Sys2Proof.Machine.execContributionAccepted g s
  | .crget f => Sys2Proof.Machine.execCrget f s
  | .crgetRetire g => Sys2Proof.Machine.execCrgetRetire g s
  | .nodeInputArrival r node input => Sys2Proof.Machine.execNodeInputArrival r node input s
  | .routerTimeout r => Sys2Proof.Machine.execRouterTimeout r s
  | .roundClose r node => Sys2Proof.Machine.execRoundClose r node s
  | .rngc f => Sys2Proof.Machine.execRngc f s
  | .srseed f => Sys2Proof.Machine.execSrseed f s
  | .caprd f => Sys2Proof.Machine.execCaprd f s
  | .mfs f => Sys2Proof.Machine.execMfs f s
  | .mts f => Sys2Proof.Machine.execMts f s
  | .mtsExec f => Sys2Proof.Machine.execMtsExec f s
  | .launch f => Sys2Proof.Machine.execLaunch f s
  | .mbeg f => Sys2Proof.Machine.execMbeg f s
  | .mend f => Sys2Proof.Machine.execMend f s
  | .mma f => Sys2Proof.Machine.execMma f s
  | .mmaUnfold f => Sys2Proof.Machine.execMmaUnfold f s
  | .matrixRetire g => Sys2Proof.Machine.execMatrixRetire g s
  | .munf f => Sys2Proof.Machine.execMunf f s
  | .mzero f => Sys2Proof.Machine.execMzero f s
  | .mdrn f => Sys2Proof.Machine.execMdrn f s
  | .mdrnScratch f => Sys2Proof.Machine.execMdrnScratch f s
  | .mlda f => Sys2Proof.Machine.execMlda f s
  | .mqnt f => Sys2Proof.Machine.execMqnt f s
  | .mstat f => Sys2Proof.Machine.execMstat f s
  | .splitSwap g => Sys2Proof.Machine.execSplitSwap g s
  | .joinWatchdogRelease g slot => Sys2Proof.Machine.execJoinWatchdogRelease g slot s
  | .joinWatchdogTrap g slot => Sys2Proof.Machine.execJoinWatchdogTrap g slot s
  | .groupPromote g => Sys2Proof.Machine.execGroupPromote g s
  | .qpPass pass => Sys2Proof.Machine.execQpPass pass s
  | .widxWrite q widx => Sys2Proof.Machine.execWidxWrite q widx s
  | .answerResume q ticket => Sys2Proof.Machine.execAnswerResume q ticket s
  | .answerSkip q ticket => Sys2Proof.Machine.execAnswerSkip q ticket s
  | .answerAbort q ticket => Sys2Proof.Machine.execAnswerAbort q ticket s
  | .pktNop q p => Sys2Proof.Machine.execPktNop q p s
  | .timestamp q p => Sys2Proof.Machine.execTimestamp q p s
  | .signalWrite q p => Sys2Proof.Machine.execSignalWrite q p s
  | .signalWait q p => Sys2Proof.Machine.execSignalWait q p s
  | .signalWaitTimeout q p => Sys2Proof.Machine.execSignalWaitTimeout q p s
  | .launchImage q p => Sys2Proof.Machine.execLaunchImage q p s
  | .launchComplete launch => Sys2Proof.Machine.execLaunchComplete launch s
  | .copy q p => Sys2Proof.Machine.execCopy q p s
  | .bind q p => Sys2Proof.Machine.execBind q p s
  | .scout q p => Sys2Proof.Machine.execScout q p s
  | .scoutTransportTimeout transfer => Sys2Proof.Machine.execScoutTransportTimeout transfer s
  | .scoutInbound x => Sys2Proof.Machine.execScoutInbound x s
  | .configQueue q p => Sys2Proof.Machine.execConfigQueue q p s
  | .configTenant q p => Sys2Proof.Machine.execConfigTenant q p s
  | .configAsid q p => Sys2Proof.Machine.execConfigAsid q p s
  | .configMap q p => Sys2Proof.Machine.execConfigMap q p s
  | .configUnmap q p => Sys2Proof.Machine.execConfigUnmap q p s
  | .configPoolGive q p => Sys2Proof.Machine.execConfigPoolGive q p s
  | .configPoolTake q p => Sys2Proof.Machine.execConfigPoolTake q p s
  | .configEvict q p => Sys2Proof.Machine.execConfigEvict q p s
  | .configRetireRequest q p => Sys2Proof.Machine.execConfigRetireRequest q p s
  | .configRetireInterval q p => Sys2Proof.Machine.execConfigRetireInterval q p s
  | .configRetireDrop q p => Sys2Proof.Machine.execConfigRetireDrop q p s
  | .configPortReinstate q p => Sys2Proof.Machine.execConfigPortReinstate q p s
  | .configPortDisable q p => Sys2Proof.Machine.execConfigPortDisable q p s
  | .configPortEnable q p => Sys2Proof.Machine.execConfigPortEnable q p s
  | .configScoutLocal q p => Sys2Proof.Machine.execConfigScoutLocal q p s
  | .configScoutKey q p => Sys2Proof.Machine.execConfigScoutKey q p s
  | .configScoutTimeout q p => Sys2Proof.Machine.execConfigScoutTimeout q p s
  | .batchGrant launch die => Sys2Proof.Machine.execBatchGrant launch die s
  | .gangPlace launch gang => Sys2Proof.Machine.execGangPlace launch gang s
  | .gangComplete launch gang => Sys2Proof.Machine.execGangComplete launch gang s
  | .heartbeatMiss die => Sys2Proof.Machine.execHeartbeatMiss die s
  | .recall tenant => Sys2Proof.Machine.execRecall tenant s
  | .gridBarrierPreempt launch gang => Sys2Proof.Machine.execGridBarrierPreempt launch gang s
  | .gangResume launch gang => Sys2Proof.Machine.execGangResume launch gang s
  | .wallTimeExpiry launch => Sys2Proof.Machine.execWallTimeExpiry launch s
  | .ticketAdvance launch => Sys2Proof.Machine.execTicketAdvance launch s
  | .verifyVerdict launch gang => Sys2Proof.Machine.execVerifyVerdict launch gang s
  | .gangKill launch gang why => Sys2Proof.Machine.execGangKill launch gang why s
  | .gangReplay launch gang => Sys2Proof.Machine.execGangReplay launch gang s
  | .poolWordError e => Sys2Proof.Machine.execPoolWordError e s
  | .hbmSectorError x => Sys2Proof.Machine.execHbmSectorError x s
  | .hbmScrub stack => Sys2Proof.Machine.execHbmScrub stack s
  | .announce stack => Sys2Proof.Machine.execAnnounce stack s
  | .stackDeath stack => Sys2Proof.Machine.execStackDeath stack s
  | .secondStackDeath stack => Sys2Proof.Machine.execSecondStackDeath stack s
  | .inboundAccess x => Sys2Proof.Machine.execInboundAccess x s
  | .remoteReply req r => Sys2Proof.Machine.execRemoteReply req r s
  | .tRemoteExpiry req => Sys2Proof.Machine.execTRemoteExpiry req s
  | .portFence port => Sys2Proof.Machine.execPortFence port s
  | .portTrainRetry port => Sys2Proof.Machine.execPortTrainRetry port s
  | .linkStateUpdate u => Sys2Proof.Machine.execLinkStateUpdate u s
  | .powerLimitExceeded duty => Sys2Proof.Machine.execPowerLimitExceeded duty s
  | .illegalOpcode ws => Sys2Proof.Machine.execIllegalOpcode ws s
  | .illegalForm ws reason => Sys2Proof.Machine.execIllegalForm ws reason s
  | .storePerformed g op piece => Sys2Proof.Machine.execStorePerformed g op piece s
  | .packetCompletion q id => Sys2Proof.Machine.execPacketCompletion q id s
  | .portTrainingComplete port partner pport => Sys2Proof.Machine.execPortTrainingComplete port partner pport s
  | .uncorrectableError e => Sys2Proof.Machine.execUncorrectableError e s
  | .fydbStep g all => Sys2Proof.Machine.execFydbStep g all s
  | .fydbContinue g => Sys2Proof.Machine.execFydbContinue g s
  | .nop => Sys2Proof.Machine.execNop s
  | .exit => Sys2Proof.Machine.execExit s
  | .yield => Sys2Proof.Machine.execYield s
  | .bkpt => Sys2Proof.Machine.execBkpt s
  | .codesync => Sys2Proof.Machine.execCodesync s
  | .periodStart => Sys2Proof.Machine.execPeriodStart s
  | .vacateBatch => Sys2Proof.Machine.execVacateBatch s
  | .sweepRegion => Sys2Proof.Machine.execSweepRegion s
  | .drainRoundEnd => Sys2Proof.Machine.execDrainRoundEnd s
  | .powerUp => Sys2Proof.Machine.execPowerUp s
  | .getVersion => Sys2Proof.Machine.execGetVersion s
  | .getCapabilities => Sys2Proof.Machine.execGetCapabilities s
  | .negotiateAlgorithms => Sys2Proof.Machine.execNegotiateAlgorithms s
  | .getCertificate => Sys2Proof.Machine.execGetCertificate s
  | .keyExchange => Sys2Proof.Machine.execKeyExchange s
  | .finish => Sys2Proof.Machine.execFinish s
  | .endSession => Sys2Proof.Machine.execEndSession s
  | .getEncapsulatedRequest => Sys2Proof.Machine.execGetEncapsulatedRequest s
  | .deliverEncapsulatedResponse => Sys2Proof.Machine.execDeliverEncapsulatedResponse s
  | .deviceReport => Sys2Proof.Machine.execDeviceReport s
  | .usageReport => Sys2Proof.Machine.execUsageReport s
  | .setOwner => Sys2Proof.Machine.execSetOwner s
  | .clusterPower => Sys2Proof.Machine.execClusterPower s
  | .fabricIslandPower => Sys2Proof.Machine.execFabricIslandPower s
  | .powerLimit => Sys2Proof.Machine.execPowerLimit s
  | .recoveryImage => Sys2Proof.Machine.execRecoveryImage s
  | .reset => Sys2Proof.Machine.execReset s
  | .unsupportedRequest => Sys2Proof.Machine.execUnsupportedRequest s

end Sys2Proof.Machine
end

