-- ==== Sys2Proof/Machine/Run.lean ====
section
/-! DEFINITION. What the step does around an instruction: time (R85), the issue order of a quadrant (R267, R268), the
page-fault handler (R228 to R230), and what happens by default when the agenda is empty (log 3). -/

namespace Sys2Proof.Machine

/-- The join watchdog of a group acts on the slots on which a count has reached LIMIT: policy TRAP on splits of the table, policy
RELEASE on the overflow area as well (R85 to R87). -/
def watchdogEvents (s : State) (g : Group) : List Instr :=
  let due := fun (e : Split) => decide (e.st = .waiting) && decide (g.jwdLimit ≤ e.wait)
  let slot := fun (e : Split) => (⟨e.jslot.toNat, e.jslot.isLt⟩ : Fin 8)
  if g.jwdLimit = 0 || g.frozen then []
  else if g.jwdTrap then ((g.validNums.map g.entry).filter due).map fun e => .joinWatchdogTrap g.ref (slot e)
  else ((g.validNums.map g.entry ++ if g.ovf = 0 then [] else s.ovfEntries g).filter due).map fun e => .joinWatchdogRelease g.ref (slot e)

/-- What time brings between two cycles: passes of the queue processor, 64 of them within 50 µs (R291), the begin of a period
(R270), and now and then what can happen of itself (log 3). -/
def clockItems (a b : Nat) : List Agenda :=
  (if a / 734 < b / 734 then [.event (.qpPass (b / 734 % 64))] else []) ++
  (if a / 940000 < b / 940000 then [.event .periodStart] else []) ++
  (if a / 64 < b / 64 then [.settle 64] else [])

/-- Cycles until the next wait count of a group reaches LIMIT. -/
def State.untilDue (s : State) (g : Group) : List Nat :=
  if g.jwdLimit = 0 || g.frozen then []
  else ((g.validNums.map g.entry ++ if g.ovf = 0 then [] else s.ovfEntries g).filter fun e =>
    decide (e.st = .waiting) && decide (e.wait < g.jwdLimit)).map fun e => g.jwdLimit - e.wait

/-- `n` cycles pass, with what they bring. They stop at the begin of a period, which is charged for the rest (R270), and where a wait
count reaches LIMIT (R85). -/
def State.advance (s : State) (n : Nat) : State :=
  let m := (s.groups.flatMap s.untilDue).foldl min (min n (940000 - s.cycle.toNat % 940000))
  let t := s.pass m
  t.pushAgenda ((t.groups.flatMap (watchdogEvents t)).map .event ++ clockItems s.cycle.toNat t.cycle.toNat ++
    if m < n then [.elapse (n - m)] else [])

/-- The cycle ends: it passes, and with it those in which power gates issue as well. -/
def State.afterCycle (s : State) : State := { (s.advance (1 + (s.pass 1).gated)) with turn := {} }

/-- What follows the instruction of one issue slot: the next one of the cycle, or the cycle's end. An instruction that completed
was the step of a stepping group; one that faulted has not completed, and the page-fault handler's work is no step (R98). -/
def State.afterIssue (s : State) (served : Bool := false) : State :=
  let s1 := if s.isStalled || s.cur.supervisor || served then s else { s with cur := s.cur.stepped }
  if s1.turn.slots.isEmpty then s1.afterCycle else { s1 with turn := { s1.turn with live := false } }

/-! ## Running -/

/-- The instruction at the running split's program counter, or what its fetch raises. -/
def State.fetched (s : State) : Fetched := s.fetchInstr s.cur s.cur.exec s.cur.sp.pc

/-! ## The order that other agents bring between the splits of a group (R197, R199, R200) -/

/-- What an instruction orders at a scope wider than the group: earlier accesses, by a release, and later ones, by an acquire. -/
def orders : Instr → Bool × Bool
  | .fenceExt f => if memScope f = .grp then (false, false) else (decide (f.sub ≠ 0), decide (f.sub ≠ 1))
  | .bar f => (decide (barLevel f ≠ .grp), decide (barLevel f ≠ .grp))
  | .bararv f => (decide (barLevel f ≠ .grp), false)
  | .barwt f => (false, decide (barLevel f ≠ .grp))
  | .tbarv _ => (true, false)
  | .tbwait _ => (false, true)
  | .launch _ => (true, false)
  | .codesync => (true, false)
  | _ => (false, false)

/-- Changes what the splits of a group may miss of each other's writes. -/
def State.onShadows (s : State) (p : GRef → Bool) (f : Shadow → Shadow) : State :=
  s.mapGroups (fun g => p g.ref && !g.shadow.isEmpty) fun g => { g with shadow := g.shadow.map f }

/-- The order through another agent comes from one place to another. -/
def Shadow.comes (a b : Nat) (x : Shadow) : Shadow := if x.phase = a then { x with phase := b } else x

/-- A split of a group has released: its own writes, and those of other groups that its group has come to know. -/
def State.hasReleased (s : State) (r : GRef) (w : Owner) : State :=
  (s.onShadows (· = r) fun x => if x.writer = w then x.comes 0 1 else x).onShadows (· ≠ r) (Shadow.comes 2 3)

/-- A split of a group has acquired: it no longer misses what another agent's release has ordered. -/
def State.hasAcquired (s : State) (r : GRef) (w : Owner) : State :=
  (s.onShadows (· = r) fun x => if x.phase = 3 then { x with seen := w :: x.seen } else x).onShadows (· ≠ r) (Shadow.comes 1 2)

/-- What an instruction of the running split of `s` that led to `t` has ordered. A barrier releases as it arrives, and a child launch
acquires what its parent released. -/
def State.noteOrder (s : State) (i : Instr) (t : State) : State :=
  let r := s.cur.ref
  let n := s.cur.running
  let done := t.cur.isRef r && decide ((t.cur.entry n).pc = s.cur.sp.pc + BitVec.ofNat 56 i.size)
  let (rel, acq) := orders i
  let t1 := if rel && (done || (t.cur.isRef r && (t.cur.entry n).half && !s.cur.sp.half)) then t.hasReleased r (.entry n) else t
  let t2 := match i with
    | .launch _ => if done then t1.onShadows (· = r) (Shadow.comes 1 2) else t1
    | _ => t1
  if acq && done then t2.hasAcquired r (.entry n) else t2

/-- The event is an access of an agent that is no group: it may have acquired what was released, and releases it (R200, R206). -/
def fromOutside : Instr → Bool
  | .inboundAccess .. => true
  | .packetCompletion .. => true
  | .signalWait .. => true
  | .signalWrite .. => true
  | .launchImage .. => true
  | .copy .. => true
  | _ => false

/-- The running split issues the instruction at its program counter; at the page-fault handler, the handler acts (R228). -/
def State.issueNow (s : State) : Host.Outcome State Fault Refusal :=
  if s.cur.serving then .next s.serveFault else
  match s.fetched with
  | .trap t => .next (finish .nop (.trap s t))
  | .poison a => .next (s.killPoison s.cur 6 a s.cur.running.toNat s.cur.sp.pc)
  | .words ws s1 =>
    match decode ws with
    | none => .next s1
    | some i => match exec i s1 with
      | .next t => .next (s1.noteOrder i t)
      | r => r

/-- The split's instruction raises a cause that a handler takes (R51): seen by issuing it with a handler present. -/
def State.raises (s : State) : Bool :=
  let g := s.cur
  let n := g.running
  let s1 := { s with cur := { g with ctl := { g.ctl with utvec := 4 } } }
  match s1.issueNow with
  | .next t => t.cur.isRef g.ref && (((t.cur.entry n).inh && !g.sp.inh) || (t.cur.isSup n && !g.isSup n) ||
      (!decide (g.fydb = .stopped) && decide (t.cur.fydb = .stopped)))
  | _ => false

/-- The group-scoped registers as the second instruction of a pair finds them: without what the first one wrote in this cycle
(R171). -/
def State.atCycleStart (s : State) : State :=
  match s.turn.second, s.turn.ctl with
  | true, some (c, r) => { s with cur := { s.cur with
      trap := r, ctl := { s.cur.ctl with jwd := c.jwd, lostrc := c.lostrc, fpctl := c.fpctl, utvec := c.utvec } } }
  | _, _ => s

/-- The system register that the running split's instruction writes, and the lanes of a per-lane one. The page-fault handler writes
none. -/
def State.writesSys (s : State) : Option (BitVec 12 × Word) :=
  if s.cur.serving then none else
  match s.fetched with
  | .words ws _ => match decode ws with
    | some (.mts f) => some (sysIdx f, if f.u then 0xFFFFFFFF else s.cur.exec)
    | _ => none
  | _ => none

/-- The state `t` after the second instruction of a pair: what the first wrote to group-scoped registers, as `s` before it holds them,
stands where the second wrote nothing (R18, R171). -/
def State.rejoin (s t : State) : State :=
  if !s.turn.second || s.turn.ctl.isNone || !t.cur.isRef s.cur.ref then t
  else
    let e := t.cur.entry s.cur.running
    let trapped := e.inh && !s.cur.sp.inh
    let w := if trapped || e.stall then none else s.atCycleStart.writesSys
    let pick := fun {α : Type} (i : BitVec 12) (a b : α) => if w.any (fun p => p.1 = i) then b else a
    let c := s.cur.ctl
    let d := t.cur.ctl
    let x := s.cur.trap
    let y := t.cur.trap
    let lanes := fun (i : Nat) (a b : Lanes) => Lanes.mk fun l =>
      if w.any fun p => p.1 = BitVec.ofNat 12 (0x034 + i) ∧ maskBit p.2 l then b.get l else a.get l
    { t with cur := { t.cur with
        ctl := { d with jwd := pick 0x012 c.jwd d.jwd, lostrc := pick 0x013 c.lostrc d.lostrc
                        fpctl := pick 0x021 c.fpctl d.fpctl, utvec := pick 0x038 c.utvec d.utvec }
        trap := if trapped then y
          else { x with pc := pick 0x030 x.pc y.pc, val := Vector.ofFn fun i => lanes i.val x.val[i] y.val[i] } } }

/-- The running split issues. Where the first instruction of its pair raised a cause and this one would raise one as well, it is
not issued (R51). -/
def State.run (s : State) : Host.Outcome State Fault Refusal :=
  if s.turn.second && s.turn.trapped && s.atCycleStart.raises then .next (s.afterIssue true)
  else match s.atCycleStart.issueNow with
  | .next t => .next ((s.rejoin t).afterIssue s.cur.serving)
  | .fault r => .fault r
  | .refused r => .refused r

/-! ## The issues of a cycle (R88, R267, R268) -/

/-- A split's instruction would wait: it changes nothing but the mark of the model's scheduler. A `BAR` that arrives, and an
instruction that sends a request for a value, have issued. -/
def State.wouldWait (s : State) (r : GRef) (n : BitVec 3) : Bool :=
  let s1 := (s.focusSplit r n).onSp fun e => { e with stall := false }
  match s1.issueNow with
  | .next t => t.cur.isRef r && (t.cur.entry n).stall && decide ((t.cur.entry n).half = s1.cur.sp.half) && decide (t.cur.pend = s1.cur.pend)
  | _ => false

/-- Each split that may issue is examined: it is ready, or its instruction waits (R267). -/
def State.examineAll (s : State) : State :=
  let look := fun (g : Group) => { g with splits := Vector.ofFn fun (i : Fin 8) =>
    let n := BitVec.ofNat 3 i.val
    { g.splits[i] with stall := g.mayIssue n && s.wouldWait g.ref n } }
  s.mapGroups (fun _ => true) look

/-- The running split takes its turn; the first of a pair leaves what the second must know (R51, R110). -/
def State.takeSlot (s : State) (x : IssueSlot) (rest : List IssueSlot) : State :=
  let s1 := s.focusSplit x.ref x.split
  { s1 with turn := { s.turn with
      slots := rest, live := true, second := x.second
      trapped := if x.first then s1.raises else x.second && s.turn.trapped
      before := if x.first then some s1.cur.regs.v else if x.second then s.turn.before else none
      ctl := if x.first then some (s1.cur.ctl, s1.cur.trap) else if x.second then s.turn.ctl else none } }

/-- The next issue of the cycle that can still be performed. -/
def State.nextSlot (s : State) : List IssueSlot → Option State
  | [] => none
  | x :: rest =>
    let t := s.takeSlot x rest
    if t.cur.isRef x.ref && t.canIssue then some t else s.nextSlot rest

/-! ## What happens by default (log 3) -/

/-- A piece of a copy can be written: its bytes are here. -/
def copyReady (s : State) (g : Group) (c : CopyOp) (piece : Nat) : Bool :=
  !c.sent.contains piece && (s.pieceData g c piece).isSome

/-- The oldest copy, gather, matrix operation and collective of a group can retire. -/
def retireEvents (s : State) (g : Group) : List Instr :=
  let r := g.ref
  (match g.pend.cp with
    | c :: _ => if c.left.isEmpty && c.waitSrc.isEmpty then [Instr.copyRetire r] else []
    | [] => []) ++
  (match g.pend.ga with
    | o :: _ => if o.waitSrc.isEmpty && o.left.isEmpty then [Instr.gatherRetire r] else []
    | [] => []) ++
  (if g.pend.mx.isEmpty then [] else [Instr.matrixRetire r]) ++
  (match g.pend.co with
    | .put .. :: _ => [Instr.contributionAccepted r]
    | .get comm slot tag _ _ _ res _ :: _ =>
      let l := s.lchOf g
      if res.isSome || ((l.comm? comm).bind fun c => l.collected s.fabric.dead c ((l.slotOf comm slot).roundOf c tag)).isSome
      then [.crgetRetire r] else []
    | [] => [])

/-- Swaps and watchdog events of a group (R78, R85). -/
def splitEvents (s : State) (g : Group) : List Instr := (if g.ovf = 0 then [] else [Instr.splitSwap g.ref]) ++ watchdogEvents s g

/-- Events of a group: its outstanding operations, oldest first, and its splits. -/
def groupEvents (s : State) (g : Group) : List Instr :=
  let r := g.ref
  (g.pend.mem.flatMap fun o => (o.left.filter fun x => (s.remoteOf g x).isNone).map fun x =>
    if o.returns then Instr.loadSectorArrival r o.id x else .storePerformed r o.id x) ++
  (g.pend.cp.flatMap fun c => (c.left.filter (copyReady s g c)).map fun x => Instr.copyPieceWritten r c.id x) ++
  (g.pend.ga.flatMap fun o => (o.left.filter o.ready).map fun x => Instr.copyPieceWritten r o.id x) ++
  retireEvents s g ++ splitEvents s g

/-- Results that a round waits for and that stand on packages declared dead: nothing comes from there (R320). -/
def deadInputs (dead : List Nat) (pkg : Nat) (c : Comm) (r : RoundRef) (rd : Round) : List Instr :=
  ((List.range c.nodes.length).filter (c.nodeAt pkg)).flatMap (fun n => match c.nodes[n]?, rd.nodes[n]? with
    | some nd, some st => ((nd.ch.zip st.ch).filter fun p => decide (p.2 = .awaited) && dead.contains (c.pkgOf p.1)).map fun p =>
        Instr.nodeInputArrival r n (.dropped (some p.1))
    | _, _ => []) ++
  if rd.collect && !c.nodeAt pkg c.root && dead.contains (c.pkgOf c.root) then [.nodeInputArrival r c.root (.dropped (some c.root))] else []

/-- Events of the rounds of a launch's communicators. -/
def roundEvents (s : State) (l : Launch) : List Instr :=
  l.slots.flatMap fun x => match l.comm? x.comm with
    | none => []
    | some c =>
      (x.flight.map fun f => Instr.nodeInputArrival ⟨l.id, x.comm, x.slot, f.1⟩ (c.nodeOf f.2.1) .own) ++
      x.rounds.flatMap fun rd =>
        let r : RoundRef := ⟨l.id, x.comm, x.slot, rd.tag⟩
        (((c.nodes.zip (List.range c.nodes.length)).filter fun p => (rd.nodes[p.2]?.bind (·.result)).isSome).map fun p =>
          Instr.nodeInputArrival r p.1.parent (.child p.2)) ++
        deadInputs s.fabric.dead s.fabric.position c r rd ++
        (if rd.collect then [.routerTimeout r] else []) ++
        (if rd.closing then ((List.range c.nodes.length).filter fun n =>
          n = c.root || (((c.nodes[n]?).bind fun x => rd.nodes[x.parent]?).map (·.closed)).getD false).map fun n => .roundClose r n else [])

/-- Events of a gang run, by where it stands. -/
def gangEvents (s : State) (l : Launch) (k : Gang) : List Instr :=
  match k.st with
  | .waiting => [.gangReplay l.id k.index]
  | .granted => [.gangPlace l.id k.index]
  | .placed => if l.img.griddim.toNat ≤ l.next ∧ l.gangs.all (fun k => k.st ≠ .granted ∧ k.st ≠ .waiting ∧ k.st ≠ .preempted) ∨
      (s.gangGroups l.id k.index k.run).any (·.parked.isSome) then []
      else [.gridBarrierPreempt l.id k.index]
  | .preempted => [.gangResume l.id k.index]
  | .ended => if l.img.verify then [.verifyVerdict l.id k.index, .gangComplete l.id k.index] else [.gangComplete l.id k.index]
  | .complete => []
  | .unresolved => []

/-- Events of a launch. -/
def launchEvents (s : State) (l : Launch) : List Instr :=
  roundEvents s l ++ l.gangs.flatMap (gangEvents s l) ++ (if l.img.det then [.ticketAdvance l.id] else []) ++
  (if l.next < l.img.griddim.toNat then (List.range s.dies.length).map fun d => Instr.batchGrant l.id d else []) ++
  (if l.img.wall ≠ 0 ∧ l.img.wall * cyclesPerUs ≤ l.wallUsed then [.wallTimeExpiry l.id] else []) ++
  (if l.aborted || (decide (l.img.griddim.toNat ≤ l.next) && l.gangs.all fun k => decide (k.st = .complete ∨ k.st = .unresolved)) then [.launchComplete l.id] else [])

/-- Events of a queue: the progress of its packets. -/
def queueEvents (s : State) (x : Queue) : List Instr :=
  ((x.running.filter fun r => r.waits.isEmpty && decide (r.opcode ≠ 4)).map fun r => Instr.packetCompletion x.num r.id) ++
  match x.held with
  | some p => if p.opcode = 3 ∧ p.fld 20 4 ≠ 0 ∧ x.heldSince + p.fld 20 4 * 940 ≤ s.cycle.toNat then [.signalWaitTimeout x.num p] else []
  | none => []

/-- Events of the package: recalls, timeouts, dies that are reported failed, the retirement controller. -/
def packageEvents (s : State) : List Instr :=
  let now := s.cycle.toNat
  (if s.launches.isEmpty then [] else s.tenants.map fun t => Instr.recall t.slot) ++
  ((s.fabric.reqs.filter fun r => r.sent + s.fabric.limit ≤ now).map fun r => Instr.tRemoteExpiry r.id) ++
  ((((List.range s.dies.length).zip s.dies).filter fun p => p.2.alive && p.2.failed).map fun p => Instr.heartbeatMiss p.1) ++
  (if s.fabric.drain ≠ 0 ∧ s.fabric.drainAt + s.fabric.drain * drainCycles ≤ now then [.drainRoundEnd] else []) ++
  ((((List.range s.fabric.ports.length).zip s.fabric.ports).filter fun p =>
    (p.2.st = .down || p.2.st = .train) && decide (p.2.tried + trainCycles ≤ now)).map fun p => Instr.portTrainRetry p.1) ++
  ((s.scout.transfers.filter fun t => t.started + s.scout.timeout * 940000 ≤ now).map fun t => Instr.scoutTransportTimeout t.id) ++
  match s.mem.ret.st with
  | .idle => []
  | .vacate => [.vacateBatch]
  | .sweep => if s.mem.ret.nextSweep ≤ now then [.sweepRegion] else []

/-- What may happen in the device of itself, in the order in which the model takes it. -/
def State.candidates (s : State) : List Instr :=
  s.groups.flatMap (groupEvents s) ++ s.launches.flatMap (launchEvents s) ++ s.queues.flatMap (queueEvents s) ++ packageEvents s

/-- An event leads from `s` to `t`: the queue processor sees what it wrote to a WIDX (R288), and where it took a cycle, that brings what
time brings (R270). -/
def State.settleEvent (s : State) (i : Instr) (t : State) : State :=
  let t1 := if fromOutside i then t.onShadows (fun _ => true) (Shadow.comes 1 3) else t
  let t2 := t1.snoop
  if t2.cycle = s.cycle then t2 else t2.pushAgenda (clockItems s.cycle.toNat t2.cycle.toNat)

/-- An event happens. -/
def happen (i : Instr) (s : State) : Host.Outcome State Fault Refusal :=
  match exec i s with
  | .next t => .next (s.settleEvent i t)
  | x => x

/-- The event changes the state. -/
def State.moves (s : State) (i : Instr) : Bool :=
  match exec i s with
  | .next t => decide (t ≠ s)
  | _ => false

/-- The event that happens by default when no split can issue: the first that changes anything. -/
def State.autoEvent (s : State) : Option Instr := s.candidates.find? s.moves

/-- A cycle begins: the ports choose, and the first issue is performed; where nothing can issue, an event happens, or the cycle
passes. -/
def State.beginCycle (s : State) : Host.Outcome State Fault Refusal :=
  let s1 := s.examineAll.chooseAll
  match s1.nextSlot s1.turn.slots with
  | some t => t.run
  | none => match s1.autoEvent with
    | some i => happen i (s1.advance 1)
    | none => .next (s1.advance 1)

/-- The step with an empty agenda. -/
def State.auto (s : State) : Host.Outcome State Fault Refusal :=
  if s.power.stage < 6 ∧ s.power.recovery = none then exec .powerUp s
  else if s.canIssue then s.run
  else match s.nextSlot s.turn.slots with
    | some t => t.run
    | none => if s.turn.slots.isEmpty then s.beginCycle else .next s.afterCycle

/-- A management message stands in the receive buffer and is answered; what it asks for decides which event that is (R343, R344). -/
def State.deliver (s : State) (m : Mgmt) : Host.Outcome State Fault Refusal :=
  let s1 := { s with spdm := { s.spdm with inbox := m } }
  match requestInstr m.asks with
  | some i => happen i s1
  | none => .next (if m.asks = .recoveryCause then s1.giveCause else s1.ownerKey)

/-- The step that an agenda item asks for. -/
def State.perform (s : State) (a : Agenda) : Host.Outcome State Fault Refusal :=
  match a with
  | .event i => happen i s
  | .choose r n =>
    let s1 := s.focusSplit r n
    let s2 := { s1 with turn := { live := true } , cur := { s1.cur with iss := { s1.cur.iss with
      rr := (n.toNat + 1) % 8, issued := true, promoted := false, yielded := false, last := [] } } }
    if s2.cur.isRef r && s2.canIssue then s2.run else .next s
  | .elapse n => .next (s.examineAll.advance n)
  | .deliver m => if s.fabric.up then s.deliver m else .next s
  | .fragment b => match s.receive b with
    | (some m, s1) => s1.deliver m
    | (none, s1) => .next s1
  | .corrected x => .next (s.noteCorrected x)
  | .dieFails n => .next (s.noteDieFails n)
  | .boot o => .next { s with power := { s.power with outcome := o } }
  | .powerCycle => .next s.restarted
  | .settle 0 => .next s
  | .settle (n + 1) => match s.autoEvent with
    | some i => happen i (s.pushAgenda [.settle n])
    | none => .next s
  | .serve qs late c => .next (s.serveClass qs late c)

end Sys2Proof.Machine
end

