-- ==== Sys2Proof/Machine/Step.lean ====
section
/-! DEFINITION. One step of the machine, and the placing of one instruction where the step fetches next. -/

namespace Sys2Proof.Machine

/-- One step: the agenda's head; with an empty agenda the running split's instruction, or what happens by default. -/
def step (s : State) : Host.Outcome State Fault Refusal :=
  match s.agenda with
  | a :: rest => State.perform { s with agenda := rest } a
  | [] => s.auto

/-- The virtual page and frame that `withFetchWord` maps. -/
def fetchVpn : Nat := 0x10000
def fetchFrame : Nat := 0x100000

/-- A state in which the next step fetches and runs the instruction of `nbits` bits: the package has come up, a fresh
one-group launch is resident (log 15), and its entry page, a code page, holds the words. -/
def State.withFetchWord (s : State) (nbits w : Nat) : State :=
  let e : IptEntry := { vpn := fetchVpn, valid := true, code := true, vspan := 0xFF }
  let l : Launch := { id := 1, img := { entry := BitVec.ofNat 56 (fetchVpn * 65536), part := 0x00180101 }
                      gangs := [{ index := 0, st := .placed, placedOnce := true }], next := 1
                      cbind := Vector.ofFn fun _ => 0x800000003F800000 }
  let m := s.mem.link fetchFrame e
  { s with
    agenda := []
    turn := { live := true }
    power := { s.power with stage := 6, recovery := none, key := some s.power.derived }
    launches := l :: s.launches
    blocks := { launch := 1, index := 0 } :: s.blocks
    cur := { resident := true, launch := 1, splits := Vector.ofFn fun i =>
      if i = 0 then { v := true, mask := 0xFFFFFFFF, pc := BitVec.ofNat 56 (fetchVpn * 65536) }
        else { pc := BitVec.ofNat 56 (fetchVpn * 65536) } }
    mem := { m with bytes := m.bytes.writeN (fetchFrame * 65536) (tableBytes nbits w) } }

end Sys2Proof.Machine
end

