-- ==== Sys2Proof/Safety.lean ====
section
/-! DEFINITION. What a safe run is. -/

namespace Sys2Proof

/-- A state from which every one of the next `n` steps answers a next state. -/
def runsFor : Nat → Machine.State → Prop
  | 0, _ => True
  | n + 1, s => ∃ t, Machine.step s = .next t ∧ runsFor n t

/-- The memories of a state are in their canonical form: device memory and the scratchpads list no byte that reads as an unlisted
one does, and the stacks of the blocks, and those that are kept for gangs that are not resident, list each byte once, in order. -/
def memoriesCanonical (s : Machine.State) : Prop :=
  s.mem.bytes.wf = true ∧ (∀ b ∈ s.blocks, b.scratch.wf = true ∧ b.stack.bytes.rises) ∧
  (∀ l ∈ s.launches, ∀ k ∈ l.gangs, ∀ x ∈ k.stks, x.2.bytes.rises) ∧ ∀ y ∈ s.laneStacks, ∀ x ∈ y.stks, x.2.bytes.rises

end Sys2Proof
end

