-- ==== Sys2Proof/WellFormed.lean ====
section
/-! DEFINITION. Which instructions are well-formed: those that some words stand for (R30 to R49). -/

namespace Sys2Proof

/-- The fields that the form does not hold are zero (R33 to R35). -/
def Fields.canonical (f : Fields) : Bool :=
  (f.form.hasExt || (f.cs = false && f.bs = false && f.mod3 = 0 && f.fe = 0 && f.sub = 0 && f.cls = 0 && f.c = 0 &&
    f.b = 0 && f.w2 = 0)) &&
  (f.form.hasLit || f.lit = 0)

/-- Rows that share an OP are told apart by SUB, by the form, or by the field that the table names. -/
def Instr.selected : Instr → Bool
  | .tret f => decide (f.sub = 0)
  | .tretNext f => decide (f.sub = 1)
  | .kand f => decide (f.sub = 0)
  | .kor f => decide (f.sub = 1)
  | .kxor f => decide (f.sub = 2)
  | .kandn f => decide (f.sub = 3)
  | .knot f => decide (f.sub = 4)
  | .kmov f => decide (f.sub = 5)
  | .kpopc f => decide (f.sub = 0)
  | .kffs f => decide (f.sub = 1)
  | .kvote f => decide (f.sub = 2)
  | .ktov f => decide (f.sub = 3)
  | .iadd f => decide (f.form = .b)
  | .iaddExt f => decide (¬ f.form = .b)
  | .isub f => decide (f.form = .b)
  | .isubExt f => decide (¬ f.form = .b)
  | .imul f => decide (f.form = .b)
  | .imulExt f => decide (¬ f.form = .b)
  | .imulh f => decide (f.form = .b)
  | .imulhExt f => decide (¬ f.form = .b)
  | .imin f => decide (f.form = .b)
  | .iminExt f => decide (¬ f.form = .b)
  | .imax f => decide (f.form = .b)
  | .imaxExt f => decide (¬ f.form = .b)
  | .and f => decide (f.form = .b)
  | .andExt f => decide (¬ f.form = .b)
  | .or f => decide (f.form = .b)
  | .orExt f => decide (¬ f.form = .b)
  | .xor f => decide (f.form = .b)
  | .xorExt f => decide (¬ f.form = .b)
  | .andn f => decide (f.form = .b)
  | .andnExt f => decide (¬ f.form = .b)
  | .shl f => decide (f.form = .b)
  | .shlExt f => decide (¬ f.form = .b)
  | .shr f => decide (f.form = .b)
  | .shrExt f => decide (¬ f.form = .b)
  | .sar f => decide (f.form = .b)
  | .sarExt f => decide (¬ f.form = .b)
  | .rotl f => decide (f.form = .b)
  | .rotlExt f => decide (¬ f.form = .b)
  | .not f => decide (f.form = .b)
  | .notExt f => decide (¬ f.form = .b)
  | .iabs f => decide (f.sub = 0)
  | .ineg f => decide (f.sub = 1)
  | .popc f => decide (f.sub = 2)
  | .clz f => decide (f.sub = 3)
  | .ctz f => decide (f.sub = 4)
  | .brev f => decide (f.sub = 5)
  | .mov f => decide (f.form = .b)
  | .movExt f => decide (¬ f.form = .b)
  | .fadd f => decide (f.form = .b)
  | .faddExt f => decide (¬ f.form = .b)
  | .fsub f => decide (f.form = .b)
  | .fsubExt f => decide (¬ f.form = .b)
  | .fmul f => decide (f.form = .b)
  | .fmulExt f => decide (¬ f.form = .b)
  | .fmin f => decide (f.form = .b)
  | .fminExt f => decide (¬ f.form = .b)
  | .fmax f => decide (f.form = .b)
  | .fmaxExt f => decide (¬ f.form = .b)
  | .frcp f => decide (f.form = .b)
  | .frcpExt f => decide (¬ f.form = .b)
  | .frsq f => decide (f.form = .b)
  | .frsqExt f => decide (¬ f.form = .b)
  | .fsqrt f => decide (f.form = .b)
  | .fsqrtExt f => decide (¬ f.form = .b)
  | .fexp2 f => decide (f.form = .b)
  | .fexp2Ext f => decide (¬ f.form = .b)
  | .flog2 f => decide (f.form = .b)
  | .flog2Ext f => decide (¬ f.form = .b)
  | .fsinp f => decide (f.form = .b)
  | .fsinpExt f => decide (¬ f.form = .b)
  | .fcosp f => decide (f.form = .b)
  | .fcospExt f => decide (¬ f.form = .b)
  | .frint f => decide (f.form = .b)
  | .frintExt f => decide (¬ f.form = .b)
  | .fclass f => decide (f.form = .b)
  | .fclassExt f => decide (¬ f.form = .b)
  | .fence f => decide (f.form = .b)
  | .fenceExt f => decide (¬ f.form = .b)
  | .tbinit f => decide (f.sub = 0)
  | .tbexp f => decide (f.sub = 1)
  | .tbarv f => decide (f.sub = 2)
  | .tbwait f => decide (f.sub = 3)
  | .mbeg f => decide (f.sub = 0)
  | .mend f => decide (f.sub = 1)
  | .mmaUnfold f => decide (f.a = 0xFF)
  | .mma f => decide (¬ f.a = 0xFF)
  | .mdrnScratch f => decide (f.d = 0xFF)
  | .mdrn f => decide (¬ f.d = 0xFF)
  | .mtsExec f => decide (f.w2 = 0x10)
  | .mts f => decide (¬ f.w2 = 0x10)
  | .srseed f => decide (f.sub = 0)
  | .caprd f => decide (f.sub = 1)
  | _ => true

/-- The fields pass the checks of R48 step 4. -/
def legalFields (op : BitVec 7) (f : Fields) : Bool :=
  match rowOf op f with
  | some r => formCheck r f (isAtomicOp op) == none
  | none => false

/-- The words have the length that LEN names. -/
def wholeWords (ws : List Word) : Bool :=
  match ws with
  | [] => false
  | w0 :: _ => ws.length == (formOf w0).words

/-- An instruction is well-formed when some words stand for it. An event of the device has no encoding to check. -/
def Instr.wellFormed : Instr → Bool
  | .illegalOpcode ws => wholeWords ws && (match parseWords ws with
      | some (op, f) => rowOf op f == none
      | none => false)
  | .illegalForm ws reason => wholeWords ws && (match parseWords ws with
      | some (op, f) => (match rowOf op f with
          | some r => formCheck r f (isAtomicOp op) == some reason
          | none => false)
      | none => false)
  | i => match i.parts with
         | some (op, f) => f.canonical && legalFields op f && i.selected
         | none => true

end Sys2Proof
end

