-- ==== Sys2Proof/Certificates/Slice0/Obligations.lean ====
section
/-! DEFINITION. Statements about the machine, for the provers. The vocabulary of the statements stands in the namespace
`Sys2Proof.Spec`: when an instruction's operands are in order, what its result is, what it leaves alone. -/

namespace Sys2Proof.Spec

open Sys2Proof.Machine

/-! ## When the operands are in order -/

/-- Every source register is FULL and unmarked (R10, R329). -/
def Readable (s : State) (l : List Src) : Prop :=
  ∀ x ∈ l, s.cur.regs.stOf x.reg = .full ∧ s.cur.regs.poisoned x.reg = false

/-- No destination register has an outstanding producer (R10, R50). -/
def Free (s : State) (l : List Reg) : Prop := ∀ r ∈ l, s.cur.producing r = false

/-- The register and class fields name something of the launch (R37), sources are readable, destinations free. -/
def Ready (op : BitVec 7) (f : Fields) (s : State) : Prop :=
  fieldErr s.limits (rowFor op f) f = none ∧ Readable s (sources (rowFor op f) f) ∧ Free s (dests (rowFor op f) f)

/-- A vector form has lanes to act for (R50, R90). -/
def Acts (f : Fields) (s : State) : Prop := f.u = false → s.cur.exec ≠ 0

/-! ## What an instruction leaves -/

/-- SIG of the running split after an instruction that is folded in user mode outside a handler (R97, R333). -/
def sigAfter (i : Instr) (s : State) : Word :=
  match i.foldBits with
  | some b => if !s.cur.sp.inh && !s.cur.supervisor then foldSig s.cur.sp.sig b else s.cur.sp.sig
  | none => s.cur.sp.sig

/-- Of the group, only the register files, the entry of the running split and `$srstate` may differ; of the package,
nothing else may. -/
def OnlyRegs (s t : State) : Prop :=
  t = { s with cur := t.cur } ∧ t.cur = { s.cur with regs := t.cur.regs, splits := t.cur.splits, ctl := t.cur.ctl } ∧
  t.cur.ctl = { s.cur.ctl with srstate := t.cur.ctl.srstate } ∧
  (∀ n, n ≠ s.cur.running → t.cur.entry n = s.cur.entry n) ∧
  (∀ a, t.mem.bytes.read a = s.mem.bytes.read a) ∧ (∀ b o, (t.blockOf b).scratch.read o = (s.blockOf b).scratch.read o) ∧
  (∀ b o, (t.blockOf b).stackAt o = (s.blockOf b).stackAt o)

/-- The instruction completed: the running split stands at `pc`, SIG is folded, flags `x` and `y` were raised, `$srstate`
is `sr`; nothing but registers and the entry of the running split differs. -/
def Completed (i : Instr) (s t : State) (pc : Pc) (x : BitVec 5) (y : Word) (sr : Word) : Prop :=
  OnlyRegs s t ∧ t.cur.ctl.srstate = sr ∧
  t.cur.sp = { s.cur.sp with pc := pc, half := false, sig := sigAfter i s, fpf := s.cur.sp.fpf ||| x, clsf := s.cur.sp.clsf ||| y }

/-- The program counter past an instruction (R31). -/
def past (i : Instr) (s : State) : Pc := s.cur.sp.pc + BitVec.ofNat 56 i.size

/-- Completed past the instruction, without flags. -/
def Plain (i : Instr) (s t : State) : Prop := Completed i s t (past i s) 0 0 s.cur.ctl.srstate

/-- A v register holds the values of the lanes of `m`, the old ones elsewhere, and is FULL; its other lanes keep theirs. -/
def VHolds (r r' : RegFile) (n : BitVec 8) (m : Word) (x : Fin 32 → Word) : Prop :=
  (∀ l, (r'.getV n).get l = if maskBit m l then x l else (r.getV n).get l) ∧ r'.stOf (.v n) = .full

/-- The v registers but those of a list are the same, states included. -/
def VSame (r r' : RegFile) (l : List (BitVec 8)) : Prop :=
  ∀ n, n ∉ l → r'.getV n = r.getV n ∧ r'.stOf (.v n) = r.stOf (.v n)

/-- The s registers but those of a list are the same, states included. -/
def SSame (r r' : RegFile) (l : List (BitVec 8)) : Prop :=
  ∀ n, n.toNat < 64 → n ∉ l → r'.getS n = r.getS n ∧ r'.stOf (.s n) = r.stOf (.s n)

/-- The k registers but those of a list are the same. -/
def KSame (r r' : RegFile) (l : List (BitVec 8)) : Prop := ∀ n, n.toNat < 16 → n ∉ l → r'.getK n = r.getK n

/-- An s register holds a value and is FULL. -/
def SHolds (r' : RegFile) (n : BitVec 8) (x : Word) : Prop := r'.getS n = x ∧ r'.stOf (.s n) = .full

/-- The result of a form: of a v register or pair in the lanes of exec, of an s register or pair from lane 0 (R100, R101);
every other register is the same. -/
def Result (r r' : RegFile) (u wide : Bool) (d : BitVec 8) (exec : Word) (x : Fin 32 → DWord) : Prop :=
  let lo := fun l => (x l).extractLsb' 0 32
  let hi := fun l => (x l).extractLsb' 32 32
  let ds := if wide then [d, d + 1] else [d]
  KSame r r' [] ∧
  (if u then SHolds r' d (lo 0) ∧ (wide = true → SHolds r' (d + 1) (hi 0)) ∧ SSame r r' ds ∧ VSame r r' []
   else VHolds r r' d exec lo ∧ (wide = true → VHolds r r' (d + 1) exec hi) ∧ VSame r r' ds ∧ SSame r r' [])

/-- The result of a comparison: the bits of exec of a mask with zeros outside, or 1 or 0 in an s register (R89, R106). k0
discards the write (R9). -/
def CmpResult (r r' : RegFile) (u : Bool) (d : BitVec 8) (exec : Word) (p : Fin 32 → Bool) : Prop :=
  VSame r r' [] ∧
  (if u then SHolds r' d (if p 0 then 1 else 0) ∧ SSame r r' [d] ∧ KSame r r' []
   else (d ≠ 0 → r'.getK d = exec &&& maskOf p) ∧ KSame r r' (if d = 0 then [] else [d]) ∧ SSame r r' [])

/-! ## Integer, logic, address and lane movement (R99 to R112) -/

/-- An instruction that writes D by lanes: its opcode, whether D is a pair, the value of each lane. -/
structure LaneOp where
  op : BitVec 7
  f : Fields
  wide : Bool
  val : State → Fin 32 → DWord

/-- Two operands of an integer type. -/
def int2 (op : BitVec 7) (f : Fields) (g : IntType → Int → Int → Int) : LaneOp :=
  let t := typeOf f
  ⟨op, f, t.wide, fun s l => putT t (g t (getT t (rawA f s.cur.regs t.wide l)) (getT t (rawB f s.cur.regs t.wide l)))⟩

/-- Three operands of an integer type. -/
def int3 (op : BitVec 7) (f : Fields) (g : Int → Int → Int → Int) : LaneOp :=
  let t := typeOf f
  ⟨op, f, t.wide, fun s l => putT t (g (getT t (rawA f s.cur.regs t.wide l)) (getT t (rawB f s.cur.regs t.wide l))
    (getT t (rawC f s.cur.regs t.wide l)))⟩

/-- Two operands as bits. -/
def log2 (op : BitVec 7) (f : Fields) (g : DWord → DWord → DWord) : LaneOp :=
  let t := typeOf f
  ⟨op, f, t.wide, fun s l => putT t (g (rawA f s.cur.regs t.wide l) (rawB f s.cur.regs t.wide l)).toNat⟩

/-- A shift by bits [31:0] of B. -/
def shift2 (op : BitVec 7) (f : Fields) (g : IntType → Nat → Nat → Nat) : LaneOp :=
  let t := typeOf f
  ⟨op, f, t.wide, fun s l => putT t (g t (bitsT t (rawA f s.cur.regs t.wide l)) ((rawB f s.cur.regs false l).toNat % 2 ^ 32))⟩

/-- One operand of an integer type. -/
def int1 (f : Fields) (g : IntType → Nat → Int) : LaneOp :=
  let t := typeOf f
  ⟨0x27, f, t.wide, fun s l => putT t (g t (bitsT t (rawA f s.cur.regs t.wide l)))⟩

/-- A count over the bits of one operand: always one register. -/
def cnt1 (f : Fields) (g : IntType → Nat → Nat) : LaneOp :=
  let t := typeOf f
  ⟨0x27, f, false, fun s l => BitVec.ofNat 64 (g t (bitsT t (rawA f s.cur.regs t.wide l)))⟩

/-- The arithmetic instructions (R102, R103). -/
def arith : Instr → Option LaneOp
  | .iadd f => some (int2 0x14 f fun _ a b => a + b)
  | .iaddExt f => some (int2 0x14 f fun _ a b => a + b)
  | .isub f => some (int2 0x15 f fun _ a b => a - b)
  | .isubExt f => some (int2 0x15 f fun _ a b => a - b)
  | .iadd3 f => some (int3 0x16 f fun a b c => a + b + c)
  | .imul f => some (int2 0x17 f fun _ a b => a * b)
  | .imulExt f => some (int2 0x17 f fun _ a b => a * b)
  | .imulh f => some (int2 0x18 f fun t a b => a * b / 2 ^ t.width)
  | .imulhExt f => some (int2 0x18 f fun t a b => a * b / 2 ^ t.width)
  | .imad f => some (int3 0x19 f fun a b c => a * b + c)
  | .imin f => some (int2 0x1A f fun _ a b => min a b)
  | .iminExt f => some (int2 0x1A f fun _ a b => min a b)
  | .imax f => some (int2 0x1B f fun _ a b => max a b)
  | .imaxExt f => some (int2 0x1B f fun _ a b => max a b)
  | .iabs f => some (int1 f fun t a => (signT t a).natAbs)
  | .ineg f => some (int1 f fun t a => -(signT t a))
  | .popc f => some (cnt1 f onesT)
  | .clz f => some (cnt1 f clzT)
  | .ctz f => some (cnt1 f ctzT)
  | .brev f => some (int1 f fun t a => (brevT t a : Int))
  | _ => none

/-- The bitwise instructions, shifts and bit fields (R102 to R105). -/
def logic : Instr → Option LaneOp
  | .and f => some (log2 0x1C f fun a b => a &&& b)
  | .andExt f => some (log2 0x1C f fun a b => a &&& b)
  | .or f => some (log2 0x1D f fun a b => a ||| b)
  | .orExt f => some (log2 0x1D f fun a b => a ||| b)
  | .xor f => some (log2 0x1E f fun a b => a ^^^ b)
  | .xorExt f => some (log2 0x1E f fun a b => a ^^^ b)
  | .andn f => some (log2 0x1F f fun a b => a &&& ~~~b)
  | .andnExt f => some (log2 0x1F f fun a b => a &&& ~~~b)
  | .not f => let t := typeOf f; some ⟨0x26, f, t.wide, fun s l => putT t (~~~(rawA f s.cur.regs t.wide l)).toNat⟩
  | .notExt f => let t := typeOf f; some ⟨0x26, f, t.wide, fun s l => putT t (~~~(rawA f s.cur.regs t.wide l)).toNat⟩
  | .shl f => some (shift2 0x20 f fun t a m => if t.width ≤ m then 0 else a * 2 ^ m)
  | .shlExt f => some (shift2 0x20 f fun t a m => if t.width ≤ m then 0 else a * 2 ^ m)
  | .shr f => some (shift2 0x21 f fun t a m => if t.width ≤ m then 0 else a / 2 ^ m)
  | .shrExt f => some (shift2 0x21 f fun t a m => if t.width ≤ m then 0 else a / 2 ^ m)
  | .sar f => some (shift2 0x22 f sarT)
  | .sarExt f => some (shift2 0x22 f sarT)
  | .rotl f => some (shift2 0x23 f rotlT)
  | .rotlExt f => some (shift2 0x23 f rotlT)
  | .bfx f => let t := typeOf f
    some ⟨0x24, f, t.wide, fun s l => putT t (bfxT t (bitsT t (rawA f s.cur.regs t.wide l))
      ((rawB f s.cur.regs false l).toNat % 256) ((rawC f s.cur.regs false l).toNat % 256))⟩
  | .bfi f => let t := typeOf f
    some ⟨0x25, f, t.wide, fun s l => putT t (bfiT t (bitsT t (rawD f s.cur.regs t.wide l)) (bitsT t (rawA f s.cur.regs t.wide l))
      ((rawB f s.cur.regs false l).toNat % 256) ((rawC f s.cur.regs false l).toNat % 256))⟩
  | _ => none

/-- Source A of a lane as an instruction that moves values between lanes reads it (R110): a lane of another split, of whose group another
instruction issued in the same cycle, supplies the value from before that instruction. -/
def neighbour (f : Fields) (s : State) (l : Fin 32) : DWord :=
  match s.turn.before with
  | some v => if f.u = true ∨ maskBit s.cur.sp.lanes l = true then rawA f s.cur.regs false l else (0 : Word) ++ (v[f.a.toNat]).get l
  | none => rawA f s.cur.regs false l

/-- Moves, selections, addresses, and what moves between lanes (R106 to R112). -/
def moves : Instr → Option LaneOp
  | .isel f => some ⟨0x29, f, false, fun s l =>
      if (if f.u then decide (s.cur.regs.getS f.c ≠ 0) else maskBit (s.cur.regs.getK f.c) l) then rawA f s.cur.regs false l
      else rawB f s.cur.regs false l⟩
  | .mov f => some ⟨0x2A, f, false, fun s l => rawA f s.cur.regs false l⟩
  | .movExt f => some ⟨0x2A, f, false, fun s l =>
      if !f.u && f.bs then rawB f s.cur.regs false l else rawA f s.cur.regs false l⟩
  | .movi f => some ⟨0x2B, f, false, fun _ _ => (0 : Word) ++ f.w2⟩
  | .movl f => some ⟨0x2C, f, true, fun _ _ => f.lit⟩
  | .lea f => some ⟨0x2D, f, true, fun s l => addrOf f s.cur.regs l⟩
  | .shfl f => some ⟨0x2E, f, false, fun s l =>
      neighbour f s (shflSrc f.sub l ((rawB f s.cur.regs false l).toNat % 2 ^ 32))⟩
  | .bcast f => some ⟨0x2F, f, false, fun s l => neighbour f s (Fin.ofNat 32 (rawB f s.cur.regs false l).toNat)⟩
  | .ipsum f => let t := typeOf f
    some ⟨0x31, f, t.wide, fun s l =>
      putT t (((laneList.filter fun m => maskBit s.cur.exec m && (if f.sub = 0 then decide (m ≤ l) else decide (m < l))).map
        fun m => getT t (rawA f s.cur.regs t.wide m)).sum)⟩
  | .clea f => some ⟨0x53, f, true, fun s l =>
      s.cur.regs.getPair f.b + BitVec.ofNat 64 (clsIndex (s.ent f.cls) (if f.a = 0xFF then 0 else (s.cur.regs.raw f.u false f.a l).toNat)) +
        f.w2.signExtend 64⟩
  | _ => none

/-- What the completion of a lane instruction is. -/
def LaneOpHolds (tbl : Instr → Option LaneOp) : Prop :=
  ∀ (i : Instr) (x : LaneOp) (s : State), tbl i = some x → i.wellFormed = true → Acts x.f s → Ready x.op x.f s →
    ∃ t, exec i s = .next t ∧ Plain i s t ∧ Result s.cur.regs t.cur.regs x.f.u x.wide x.f.d s.cur.exec (x.val s)

end Sys2Proof.Spec

/-- R100 to R103: the arithmetic instructions on every type, form and operand kind: the value of each lane of exec, every
other register, flag, special register and byte of memory as before. -/
def Sys2Proof.Spec.IntegerArithmetic : Prop := Sys2Proof.Spec.LaneOpHolds Sys2Proof.Spec.arith

/-- R102, R104, R105: the bitwise instructions, shifts and bit fields. -/
def Sys2Proof.Spec.IntegerLogic : Prop := Sys2Proof.Spec.LaneOpHolds Sys2Proof.Spec.logic

/-- R106 to R112, R135: moves, selections, addresses and movement between lanes. -/
def Obligations.MovesAndLanes : Prop := Sys2Proof.Spec.LaneOpHolds Sys2Proof.Spec.moves

namespace Sys2Proof.Spec

open Sys2Proof.Machine

/-! ## Masks (R89) -/

/-- A mask instruction with a mask destination: the value of k[D]. -/
def maskOf2 : Instr → Option (Fields × (State → Word))
  | .kand f => some (f, fun s => s.cur.regs.getK f.a &&& s.cur.regs.getK f.b)
  | .kor f => some (f, fun s => s.cur.regs.getK f.a ||| s.cur.regs.getK f.b)
  | .kxor f => some (f, fun s => s.cur.regs.getK f.a ^^^ s.cur.regs.getK f.b)
  | .kandn f => some (f, fun s => s.cur.regs.getK f.a &&& ~~~s.cur.regs.getK f.b)
  | .knot f => some (f, fun s => ~~~s.cur.regs.getK f.a)
  | .kmov f => some (f, fun s => s.cur.regs.getK f.a)
  | _ => none

/-- k[D] holds a value (k0 discards it, R9); every other register is the same. -/
def KResult (r r' : RegFile) (d : BitVec 8) (x : Word) : Prop :=
  VSame r r' [] ∧ SSame r r' [] ∧ (d ≠ 0 → r'.getK d = x) ∧ KSame r r' (if d = 0 then [] else [d])

/-- s[D] holds a value; every other register is the same. -/
def SResult (r r' : RegFile) (d : BitVec 8) (x : Word) : Prop :=
  VSame r r' [] ∧ KSame r r' [] ∧ SHolds r' d x ∧ SSame r r' [d]

/-- The pair s[D], s[D + 1] holds a value; every other register is the same. -/
def PairResult (r r' : RegFile) (d : BitVec 8) (x : DWord) : Prop :=
  VSame r r' [] ∧ KSame r r' [] ∧ r'.getPair d = x ∧ SSame r r' [d, d + 1]

/-! ## Floating point (R113 to R124) -/

/-- A floating-point instruction that writes D by lanes: the opcode, whether D is a pair, what a lane computes. -/
structure FpOp where
  op : BitVec 7
  f : Fields
  wide : Bool
  out : State → Fin 32 → FpOut

/-- Elements of the format of SUB. -/
def el (f : Fields) (s : State) (src : Fields → RegFile → Bool → Fin 32 → DWord) (l : Fin 32) (k : Nat) : Nat :=
  elemBits (fpFmt f) (src f s.cur.regs false l) k

/-- Two operands by elements: one element of FP32, two of a packed format. -/
def fp2 (op : BitVec 7) (f : Fields) (g : Fmt → Rnd → Bool → Nat → Nat → Rounded) : FpOp :=
  ⟨op, f, false, fun s l => packOut (fpPacked f) fun k =>
    g (fpFmt f) (Rnd.ofCode f.mod3) (fpFtz f) (el f s rawA l k) (el f s rawB l k)⟩

/-- One operand by elements. -/
def fp1 (op : BitVec 7) (f : Fields) (g : Fmt → Rnd → Bool → Nat → Rounded) : FpOp :=
  ⟨op, f, false, fun s l => packOut (fpPacked f) fun k => g (fpFmt f) (Rnd.ofCode f.mod3) (fpFtz f) (el f s rawA l k)⟩

/-- A value computed exactly and rounded once. -/
def once (g : Fmt → Rnd → Bool → Nat → Nat → Arith) : Fmt → Rnd → Bool → Nat → Nat → Rounded :=
  fun fm mode ftz a b => (g fm mode ftz a b).round fm mode ftz

/-- The floating-point instructions on elements (R117 to R122). -/
def fpArith : Instr → Option FpOp
  | .fadd f => some (fp2 0x34 f (once fun fm m z a b => addV m (fm.operand z a) (fm.operand z b)))
  | .faddExt f => some (fp2 0x34 f (once fun fm m z a b => addV m (fm.operand z a) (fm.operand z b)))
  | .fsub f => some (fp2 0x35 f (once fun fm m z a b => addV m (fm.operand z a) (fm.operand z b).flip))
  | .fsubExt f => some (fp2 0x35 f (once fun fm m z a b => addV m (fm.operand z a) (fm.operand z b).flip))
  | .fmul f => some (fp2 0x36 f (once fun fm _ z a b => mulV (fm.operand z a) (fm.operand z b)))
  | .fmulExt f => some (fp2 0x36 f (once fun fm _ z a b => mulV (fm.operand z a) (fm.operand z b)))
  | .ffma f => some ⟨0x37, f, false, fun s l => packOut (fpPacked f) fun k =>
      (fmaV (Rnd.ofCode f.mod3) ((fpFmt f).operand (fpFtz f) (el f s rawA l k)) ((fpFmt f).operand (fpFtz f) (el f s rawB l k))
        ((fpFmt f).operand (fpFtz f) (el f s rawC l k))).round (fpFmt f) (Rnd.ofCode f.mod3) (fpFtz f)⟩
  | .fmin f => some (fp2 0x38 f (fpickE false))
  | .fminExt f => some (fp2 0x38 f (fpickE false))
  | .fmax f => some (fp2 0x39 f (fpickE true))
  | .fmaxExt f => some (fp2 0x39 f (fpickE true))
  | _ => none

/-- The functions of one operand, correctly rounded to nearest even (R120), FRINT, FCLASS and the conversions. -/
def fpUnary : Instr → Option FpOp
  | .frcp f => some (fp1 0x3B f (fnE rcpV))
  | .frcpExt f => some (fp1 0x3B f (fnE rcpV))
  | .frsq f => some (fp1 0x3C f (fnE rsqV))
  | .frsqExt f => some (fp1 0x3C f (fnE rsqV))
  | .fsqrt f => some (fp1 0x3D f (fnE sqrtV))
  | .fsqrtExt f => some (fp1 0x3D f (fnE sqrtV))
  | .fexp2 f => some (fp1 0x3E f (fnE exp2V))
  | .fexp2Ext f => some (fp1 0x3E f (fnE exp2V))
  | .flog2 f => some (fp1 0x3F f (fnE log2V))
  | .flog2Ext f => some (fp1 0x3F f (fnE log2V))
  | .fsinp f => some (fp1 0x40 f (fnE sinpV))
  | .fsinpExt f => some (fp1 0x40 f (fnE sinpV))
  | .fcosp f => some (fp1 0x41 f (fnE cospV))
  | .fcospExt f => some (fp1 0x41 f (fnE cospV))
  | .frint f => some (fp1 0x42 f rintE)
  | .frintExt f => some (fp1 0x42 f rintE)
  | .fclass f => some (fp1 0x43 f classE)
  | .fclassExt f => some (fp1 0x43 f classE)
  | .fcvt f => some ⟨0x44, f, false, fun s l => packOut false fun _ => fcvtE f (rawA f s.cur.regs false l)⟩
  | .fpack f => some ⟨0x45, f, false, fun s l => packOut true fun k =>
      fcvtFmt fp32 (fpFmt f) (Rnd.ofCode f.mod3) false
        (elemBits fp32 (if k = 0 then rawA f s.cur.regs false l else rawB f s.cur.regs false l) 0)⟩
  | .funpk f => some ⟨0x46, f, true, fun s l =>
      let e := fun k => fcvtFmt (fpFmt f) fp32 .rne false (el f s rawA l k)
      ⟨BitVec.ofNat 32 (e 0).bits, BitVec.ofNat 32 (e 1).bits, (e 0).flags, (e 1).flags⟩⟩
  | _ => none

/-- The flags that the active lanes raise (R116). -/
def fpFlags (x : FpOp) (s : State) : BitVec 5 := orFlags ((activeLanes x.f.u s.cur.exec).map fun l => (l, x.out s l))

/-- What the completion of a floating-point instruction is: no lane raises an enabled flag. -/
def FpOpHolds (tbl : Instr → Option FpOp) : Prop :=
  ∀ (i : Instr) (x : FpOp) (s : State), tbl i = some x → i.wellFormed = true → Acts x.f s → Ready x.op x.f s →
    (∀ l ∈ activeLanes x.f.u s.cur.exec, (x.out s l).flags &&& s.fpEnables = 0) →
    ∃ t, exec i s = .next t ∧ Completed i s t (past i s) (fpFlags x s) 0 s.cur.ctl.srstate ∧
      Result s.cur.regs t.cur.regs x.f.u x.wide x.f.d s.cur.exec fun l => (x.out s l).hi ++ (x.out s l).lo

/-! ## Value classes (R125 to R135) -/

/-- A class instruction that writes D by lanes. -/
structure ClsOp where
  op : BitVec 7
  f : Fields
  out : State → Fin 32 → ClsOut

/-- Two operands by elements, rounded to the class (R126). -/
def cls2 (op : BitVec 7) (f : Fields) (g : Val → Val → Val) : ClsOp :=
  ⟨op, f, fun s l => clsOut (s.ent f.cls) s.cur.ctl.srstate l.val
    (List.zipWith g (clsElems (s.ent f.cls) (rawA f s.cur.regs false l)) (clsElems (s.ent f.cls) (rawB f s.cur.regs false l)))⟩

/-- The class instructions of lanes (R129, R130). -/
def clsArith : Instr → Option ClsOp
  | .cadd f => some (cls2 0x48 f fun a b => (addV .rne a b).v)
  | .csub f => some (cls2 0x49 f fun a b => (addV .rne a b.flip).v)
  | .cmul f => some (cls2 0x4A f fun a b => (mulV a b).v)
  | .cfma f => some ⟨0x4B, f, fun s l => clsOut (s.ent f.cls) s.cur.ctl.srstate l.val
      ((List.zip (clsElems (s.ent f.cls) (rawA f s.cur.regs false l)) (List.zip (clsElems (s.ent f.cls) (rawB f s.cur.regs false l))
        (clsElems (s.ent f.cls) (rawC f s.cur.regs false l)))).map fun p => (fmaV .rne p.1 p.2.1 p.2.2).v)⟩
  | .cmin f => some (cls2 0x4C f (pickV false))
  | .cmax f => some (cls2 0x4D f (pickV true))
  | .ccvt f => some ⟨0x4E, f, fun s l =>
      clsOut (s.ent f.cls) s.cur.ctl.srstate l.val (clsElems (s.ent f.sub) (rawA f s.cur.regs false l))⟩
  | _ => none

/-- `$clsflags` bits of a class: RANGE and UNDERFLOW (R16). -/
def clsBits (c : BitVec 4) (range under : Bool) : Word :=
  BitVec.ofNat 32 ((if range then 2 ^ (2 * c.toNat) else 0) + (if under then 2 ^ (2 * c.toNat + 1) else 0))

/-- `$srstate` after a converting instruction of a class (R59). -/
def srAfter (s : State) (c : BitVec 4) : Word :=
  if entRND (s.ent c) = .sr ∧ s.cur.exec ≠ 0 then (if xorshift32 s.cur.ctl.srstate = 0 then 1 else xorshift32 s.cur.ctl.srstate)
  else s.cur.ctl.srstate

/-- What a trap into the user handler saves and leaves (R93, R94): the cause word, the program counter and the mask; the split stands at
`$utvec` with INH set, and the other entries, device memory and the other groups are as before. -/
def Enters (s t : State) (cause : Nat) (mask : Word) : Prop :=
  t.cur.trap.pc = s.cur.sp.pc ∧ t.cur.trap.cause = causeWord s.cur.running false cause ∧ t.cur.trap.mask = mask ∧
  t.cur.sp.pc = alignPc s.cur.ctl.utvec ∧ t.cur.sp.inh = true ∧
  t.cur.sp.sig = s.cur.sp.sig ∧ (∀ n, n ≠ s.cur.running → t.cur.entry n = s.cur.entry n) ∧ t.mem = s.mem ∧ t.others = s.others

/-- A trap whose values the rule gives in every lane (R49, R77, R95). -/
def Trapped (s t : State) (cause : Nat) (mask : Word) (val : Fin 4 → Fin 32 → Word) : Prop :=
  Enters s t cause mask ∧ ∀ k l, (t.cur.trap.val[k.val]).get l = val k l

/-- A trap whose values the rule gives in the lanes of the mask (R116, R127). -/
def TrappedIn (s t : State) (cause : Nat) (mask : Word) (val : Fin 4 → Fin 32 → Word) : Prop :=
  Enters s t cause mask ∧ ∀ k l, maskBit mask l = true → (t.cur.trap.val[k.val]).get l = val k l

/-- The user handler can be entered: no debugger, no handler running, a handler named. -/
def Handles (s : State) : Prop :=
  s.cur.fydb = .off ∧ s.cur.sp.inh = false ∧ s.cur.ctl.utvec ≠ 0

/-- The lanes that raise an enabled flag (R116). -/
def fpBadLanes (u : Bool) (s : State) (flags : Fin 32 → BitVec 5) : List (Fin 32) :=
  (activeLanes u s.cur.exec).filter fun l => flags l &&& s.fpEnables ≠ 0

/-- The trap of lanes that raise an enabled flag (R116): the lowest code of the flags that they raise; D, the flags and the result in
the trap registers of each; the flags of every active lane stand; the other lanes of exec have their results, and these keep D. -/
def FpOpTraps (tbl : Instr → Option FpOp) : Prop :=
  ∀ (i : Instr) (x : FpOp) (s : State), tbl i = some x → i.wellFormed = true → Acts x.f s → Ready x.op x.f s → Handles s →
    let bad := fpBadLanes x.f.u s fun l => (x.out s l).flags
    bad ≠ [] →
    ∃ t, exec i s = .next t ∧
      TrappedIn s t (fpCause ((bad.foldl (fun y l => y ||| (x.out s l).flags) 0) &&& s.fpEnables)) (maskOf fun l => decide (l ∈ bad))
        (fun k l => if k = 0 then (0 : BitVec 24) ++ x.f.d
          else if k = 1 then (0 : BitVec 19) ++ (x.out s l).f1 ++ (0 : BitVec 3) ++ (x.out s l).f0
          else if k = 2 then (x.out s l).lo else (x.out s l).hi) ∧
      t.cur.sp.fpf = s.cur.sp.fpf ||| fpFlags x s ∧ t.cur.sp.clsf = s.cur.sp.clsf ∧ t.cur.ctl = s.cur.ctl ∧
      (x.f.u = false → ∀ l, (t.cur.regs.getV x.f.d).get l =
        if maskBit s.cur.exec l ∧ l ∉ bad then (x.out s l).lo else (s.cur.regs.getV x.f.d).get l) ∧
      (x.f.u = false → x.wide = true → ∀ l, (t.cur.regs.getV (x.f.d + 1)).get l =
        if maskBit s.cur.exec l ∧ l ∉ bad then (x.out s l).hi else (s.cur.regs.getV (x.f.d + 1)).get l) ∧
      VSame s.cur.regs t.cur.regs (if x.f.u then [] else if x.wide then [x.f.d, x.f.d + 1] else [x.f.d]) ∧
      SSame s.cur.regs t.cur.regs [] ∧ KSame s.cur.regs t.cur.regs []

/-- The operand of a comparison. -/
def fcmpOp (f : Fields) (r : DWord) : Val := fp32.operand (fpFtz f) (elemBits fp32 r 0)

/-- The trap of FCMP (R116, R119): a lane that raises NV while it is enabled keeps its old bit of k[D]. -/
def FcmpTraps : Prop :=
  ∀ (f : Fields) (s : State), Acts f s → Ready 0x3A f s → Handles s →
    let p := fun (l : Fin 32) => condV f.mod3 (fcmpOp f (rawA f s.cur.regs false l)) (fcmpOp f (rawB f s.cur.regs false l))
    let nv := fun (l : Fin 32) => condNv f.mod3 (fcmpOp f (rawA f s.cur.regs false l)) (fcmpOp f (rawB f s.cur.regs false l))
    let bad := fpBadLanes f.u s nv
    bad ≠ [] →
    ∃ t, exec (.fcmp f) s = .next t ∧
      TrappedIn s t 0x10 (maskOf fun l => decide (l ∈ bad))
        (fun k l => if k = 0 then (0 : BitVec 24) ++ f.d else if k = 1 then 16
          else if k = 2 then (if p l then 1 else 0) else 0) ∧
      t.cur.sp.fpf = s.cur.sp.fpf ||| 16 ∧ t.cur.ctl = s.cur.ctl ∧
      (f.u = false → f.d ≠ 0 → t.cur.regs.getK f.d =
        (s.cur.exec &&& maskOf (fun l => p l && decide (l ∉ bad))) ||| (s.cur.regs.getK f.d &&& maskOf fun l => decide (l ∈ bad))) ∧
      VSame s.cur.regs t.cur.regs [] ∧ SSame s.cur.regs t.cur.regs [] ∧ KSame s.cur.regs t.cur.regs (if f.u ∨ f.d = 0 then [] else [f.d])

end Sys2Proof.Spec

/-- R117 to R119: FADD, FSUB, FMUL, FFMA, FMIN and FMAX: exact, rounded once, both elements of packed formats, flags raised,
everything else as before, when no lane raises an enabled flag. -/
def Sys2Proof.Spec.FloatArithmetic : Prop := Sys2Proof.Spec.FpOpHolds Sys2Proof.Spec.fpArith

/-- R120 to R124: the functions of one operand, FRINT, FCLASS, FCVT, FPACK and FUNPK. -/
def Sys2Proof.Spec.FloatUnary : Prop := Sys2Proof.Spec.FpOpHolds Sys2Proof.Spec.fpUnary

/-- R116: where a lane raises an enabled flag the instruction traps with the lowest code, and only the lanes that do not
trap receive their results. -/
def Sys2Proof.Spec.FloatTraps : Prop := Sys2Proof.Spec.FpOpTraps Sys2Proof.Spec.fpArith ∧ Sys2Proof.Spec.FpOpTraps Sys2Proof.Spec.fpUnary ∧
  Sys2Proof.Spec.FcmpTraps

section
open Sys2Proof Sys2Proof.Machine Sys2Proof.Spec

/-- R106, R119, R134: ICMP, FCMP and CCHK write a mask with zeros outside exec, or 1 or 0. -/
def Obligations.Comparisons : Prop :=
  ∀ (f : Fields) (s : State), Acts f s →
    (Ready 0x28 f s → ∃ t, exec (.icmp f) s = .next t ∧ Plain (.icmp f) s t ∧
      CmpResult s.cur.regs t.cur.regs f.u f.d s.cur.exec fun l =>
        condInt f.sub (getT (typeOf f) (rawA f s.cur.regs (typeOf f).wide l)) (getT (typeOf f) (rawB f s.cur.regs (typeOf f).wide l))) ∧
    (Ready 0x3A f s → s.fpEnables.getLsbD 4 = false →
      let x := fun (r : DWord) => fp32.operand (fpFtz f) (elemBits fp32 r 0)
      let nv := (activeLanes f.u s.cur.exec).any fun l => condNv f.mod3 (x (rawA f s.cur.regs false l)) (x (rawB f s.cur.regs false l)) ≠ 0
      ∃ t, exec (.fcmp f) s = .next t ∧
        Completed (.fcmp f) s t (past (.fcmp f) s) (if nv then 16 else 0) 0 s.cur.ctl.srstate ∧
        CmpResult s.cur.regs t.cur.regs f.u f.d s.cur.exec fun l =>
          condV f.mod3 (x (rawA f s.cur.regs false l)) (x (rawB f s.cur.regs false l))) ∧
    (Ready 0x52 f s → ∃ t, exec (.cchk f) s = .next t ∧ Plain (.cchk f) s t ∧
      CmpResult s.cur.regs t.cur.regs f.u f.d s.cur.exec fun l =>
        (clsElems (s.ent f.cls) (rawA f s.cur.regs false l)).all fun v => v.finite && !geBound v (entBound (s.ent f.cls)))

/-- R89: the mask instructions of one and two masks; k0 reads all ones and discards writes. -/
def Sys2Proof.Spec.MaskLogic : Prop :=
  ∀ (i : Instr) (x : Fields × (State → Word)) (s : State), maskOf2 i = some x → i.wellFormed = true → Ready 0x12 x.1 s →
    ∃ t, exec i s = .next t ∧ Plain i s t ∧ KResult s.cur.regs t.cur.regs x.1.d (x.2 s)

/-- R89, R90: KPOPC, KFFS, KVOTE and KTOV. -/
def Sys2Proof.Spec.MaskMoves : Prop :=
  ∀ (f : Fields) (s : State), Ready 0x13 f s →
    (f.sub = 0 → ∃ t, exec (.kpopc f) s = .next t ∧ Plain (.kpopc f) s t ∧
      SResult s.cur.regs t.cur.regs f.d (BitVec.ofNat 32 (laneList.countP (maskBit (s.cur.regs.getK f.a))))) ∧
    (f.sub = 1 → ∃ t, exec (.kffs f) s = .next t ∧ Plain (.kffs f) s t ∧
      SResult s.cur.regs t.cur.regs f.d
        (BitVec.ofNat 32 (((List.range 32).find? fun n => (s.cur.regs.getK f.a).getLsbD n).getD 32))) ∧
    (f.sub = 2 → s.cur.exec ≠ 0 → ∃ t, exec (.kvote f) s = .next t ∧ Plain (.kvote f) s t ∧
      KResult s.cur.regs t.cur.regs f.d (maskOf fun l => maskBit s.cur.exec l && decide ((s.cur.regs.getV f.a).get l ≠ 0))) ∧
    (f.sub = 3 → s.cur.exec ≠ 0 → ∃ t, exec (.ktov f) s = .next t ∧ Plain (.ktov f) s t ∧
      VHolds s.cur.regs t.cur.regs f.d s.cur.exec (fun l => if maskBit (s.cur.regs.getK f.a) l then 1 else 0) ∧
      VSame s.cur.regs t.cur.regs [f.d] ∧ SSame s.cur.regs t.cur.regs [] ∧ KSame s.cur.regs t.cur.regs [])

end

namespace Sys2Proof.Spec

open Sys2Proof.Machine

/-! ## CRED, CQNT and CDQ (R72, R131 to R133) -/

/-- Sources and destinations of an instruction given one by one. -/
def ReadyWith (op : BitVec 7) (f : Fields) (s : State) (srcs : List Src) (dsts : List Reg) : Prop :=
  fieldErr s.limits (rowFor op f) f = none ∧ Readable s srcs ∧ Free s dsts

/-- Element `k` of the lanes of exec of source A: what CRED reduces (R131). -/
def credLanes (f : Fields) (s : State) (k : Nat) : List (Option Val) :=
  laneList.map fun l => if maskBit s.cur.exec l then (clsElems (s.ent f.cls) (rawA f s.cur.regs false l))[k]? else none

/-- The reduction of element `k`: an exact sum of an exact class, otherwise the pairwise tree of R72. -/
def credElem (f : Fields) (s : State) (k : Nat) : ClsRes :=
  let e := s.ent f.cls
  let srs := s.cur.ctl.srstate
  if f.sub = 0 then
    if entExact e then clsExactSum e srs k (credLanes f s k)
    else clsTree e srs k (.zero true) (fun a b => (addV .rne a b).v) (credLanes f s k)
  else if f.sub = 1 then clsTree e srs k (.inf false) (pickV false) (credLanes f s k)
  else clsTree e srs k (.inf true) (pickV true) (credLanes f s k)

/-- Element 1 of CRED: reduced for a packed register format. -/
def credHigh (f : Fields) (s : State) : ClsRes := if entPacked (s.ent f.cls) then credElem f s 1 else { bits := 0 }

/-- The values of a quantised block: element 0 of each lane of exec, +0 elsewhere (R132). -/
def quantLanes (f : Fields) (s : State) : List Val :=
  laneList.map fun l =>
    if maskBit s.cur.exec l then (clsElems (s.ent f.cls) (rawA f s.cur.regs false l)).headD (.zero false) else .zero false

/-- The quantised block of CQNT (R57, R58). -/
def quantOf (f : Fields) (s : State) : Quant :=
  let e := s.ent f.cls
  if entMKIND e = 3 then quantBlock e s.cur.ctl.srstate (entMPL e) (quantLanes f s)
  else quantTensor e s.cur.ctl.srstate (entMPL e) ((s.cur.regs.getS f.b).toNat % 256) (quantLanes f s)

/-- The s registers of a run of planes, and of its scale code (R132, R133). -/
def runRegs (e : DWord) (first : BitVec 8) : List (BitVec 8) := (List.range (planeRun e)).map fun i => first + BitVec.ofNat 8 i

/-- The words that CQNT writes to its run. -/
def runWords (f : Fields) (s : State) : List Word :=
  let e := s.ent f.cls
  let q := quantOf f s
  planesOf (entMPL e) q.qs ++ (if entMKIND e = 3 then [BitVec.ofNat 32 q.code] else [])

/-! ## Control flow (R73 to R98) -/

/-- The target of a direct branch (R74). -/
def target (f : Fields) (s : State) : Pc := s.cur.sp.pc + f.w2.signExtend 56

/-- The registers are the same. -/
def SameRegs (s t : State) : Prop := t.cur.regs = s.cur.regs

/-- Of the package only the running group's split table, join slots and register files may differ. -/
def OnlyGroupControl (s t : State) : Prop :=
  t = { s with cur := t.cur } ∧
  t.cur = { s.cur with splits := t.cur.splits, joins := t.cur.joins, pend := t.cur.pend, ovf := t.cur.ovf, ovfWait := t.cur.ovfWait }

/-- Of the package only the running group may differ, and of the group its split table, join slots, the splits that its outstanding
operations belong to, and the focus of a debugger. -/
def OnlyMerged (s t : State) : Prop :=
  t = { s with cur := t.cur } ∧
  t.cur = { s.cur with splits := t.cur.splits, joins := t.cur.joins, pend := t.cur.pend, ovf := t.cur.ovf, ovfWait := t.cur.ovfWait,
                       shadow := t.cur.shadow, fydb := t.cur.fydb, fydbFocus := t.cur.fydbFocus }

/-- No lane stands in two entries, and every live lane in one (R13). -/
def Partitioned (s : State) : Prop := s.partition = 0

/-- The entry as SPLQ reads it (R12, R82, R98, R230): a ready or waiting one that a debugger holds, or of a parked group, is halted. -/
def asRead (g : Group) (n : BitVec 3) : Split :=
  let e := g.entry n
  let stopped : Bool := match g.fydb with
    | .stopped => true
    | .stepping l => !decide (l.head? = some n)
    | _ => false
  if e.v = true ∧ (e.st = .ready ∨ e.st = .waiting) ∧ (g.parked.isSome = true ∨ stopped = true) then { e with st := .halted } else e

/-- Nothing that a block sees of its own stores still stands before its home (R139). -/
def Homed (s : State) : Prop := ∀ g ∈ s.groups, ∀ o ∈ g.pend.mem, o.near = []

/-- The entry of a split after an instruction that was folded. -/
def foldedEntry (i : Instr) (s : State) : Split := { s.cur.sp with sig := sigAfter i s }

end Sys2Proof.Spec

section
open Sys2Proof Sys2Proof.Machine Sys2Proof.Spec

/-- R126 to R130: the class instructions of lanes: each element rounded to the class, flags raised, `$srstate` advanced for
a stochastic class, when no lane traps. -/
def Sys2Proof.Spec.ClassArithmetic : Prop :=
  ∀ (i : Instr) (x : ClsOp) (s : State), clsArith i = some x → i.wellFormed = true → Acts x.f s → Ready x.op x.f s →
    (∀ l ∈ activeLanes x.f.u s.cur.exec, (x.out s l).trapping = false) →
    ∃ t, exec i s = .next t ∧
      Completed i s t (past i s) 0 (clsBits x.f.cls ((activeLanes x.f.u s.cur.exec).any fun l => (x.out s l).range)
        ((activeLanes x.f.u s.cur.exec).any fun l => (x.out s l).under)) (srAfter s x.f.cls) ∧
      Result s.cur.regs t.cur.regs x.f.u false x.f.d s.cur.exec fun l => (0 : Word) ++ (x.out s l).bits

/-- R127: a class instruction with trapping lanes enters the handler with CLASS_RANGE or CLASS_UNDERFLOW; D, the reasons and
the offending bits stand in the trap registers; `$srstate` does not advance. -/
def Obligations.ClassTraps : Prop :=
  ∀ (i : Instr) (x : ClsOp) (s : State), clsArith i = some x → i.wellFormed = true → Acts x.f s → Ready x.op x.f s → Handles s →
    let bad := (activeLanes x.f.u s.cur.exec).filter fun l => (x.out s l).trapping
    bad ≠ [] →
    ∃ t, exec i s = .next t ∧
      TrappedIn s t (clsCause (bad.flatMap fun l => [(x.out s l).r0, (x.out s l).r1])) (maskOf fun l => decide (l ∈ bad))
        (fun k l => if k = 0 then (0 : BitVec 24) ++ x.f.d
          else if k = 1 then BitVec.ofNat 32 ((x.out s l).r0 + 256 * (x.out s l).r1) else if k = 2 then (x.out s l).bits else 0) ∧
      t.cur.ctl = s.cur.ctl

/-- R131 to R133: CRED, CQNT and CDQ. -/
def Sys2Proof.Spec.ClassReductions : Prop :=
  (∀ (f : Fields) (s : State), Acts f s → Ready 0x4F f s →
    (credElem f s 0).reason = 0 → (credHigh f s).reason = 0 →
    ∃ t, exec (.cred f) s = .next t ∧
      Completed (.cred f) s t (past (.cred f) s) 0
        (clsBits f.cls ((credElem f s 0).range || (credHigh f s).range) ((credElem f s 0).under || (credHigh f s).under)) (srAfter s f.cls) ∧
      SResult s.cur.regs t.cur.regs f.d (BitVec.ofNat 32 ((credElem f s 0).bits + (credHigh f s).bits * 65536))) ∧
  (∀ (f : Fields) (s : State), Acts f s → entPlanes (s.ent f.cls) = true → f.d.toNat + planeRun (s.ent f.cls) ≤ 64 →
    ReadyWith 0x50 f s ((sources (rowFor 0x50 f) f).filter fun x => x.field ≠ 2 ∨ entMKIND (s.ent f.cls) = 4)
      (dests (rowFor 0x50 f) f ++ (runRegs (s.ent f.cls) f.d).map Reg.s) →
    (quantOf f s).reason = 0 →
    ∃ t, exec (.cqnt f) s = .next t ∧
      Completed (.cqnt f) s t (past (.cqnt f) s) 0 (clsBits f.cls (quantOf f s).range (quantOf f s).under) (srAfter s f.cls) ∧
      (∀ n < (runWords f s).length, SHolds t.cur.regs (f.d + BitVec.ofNat 8 n) ((runWords f s).getD n 0)) ∧
      SSame s.cur.regs t.cur.regs (runRegs (s.ent f.cls) f.d) ∧ VSame s.cur.regs t.cur.regs [] ∧ KSame s.cur.regs t.cur.regs []) ∧
  (∀ (f : Fields) (s : State), Acts f s → entPlanes (s.ent f.cls) = true → f.a.toNat + planeRun (s.ent f.cls) ≤ 64 →
    ReadyWith 0x51 f s (((sources (rowFor 0x51 f) f).filter fun x => x.field ≠ 2 ∨ entMKIND (s.ent f.cls) = 4) ++
      (runRegs (s.ent f.cls) f.a).map fun n => Src.mk (.s n) 1 (f.fe.getLsbD 0)) (dests (rowFor 0x51 f) f) →
    let n := entMPL (s.ent f.cls)
    let w := (List.range n).map fun i => s.cur.regs.getS (f.a + BitVec.ofNat 8 i)
    let code := (if entMKIND (s.ent f.cls) = 3 then s.cur.regs.getS (f.a + BitVec.ofNat 8 n) else s.cur.regs.getS f.b).toNat % 256
    let out := fun (l : Fin 32) => clsOut (s.ent f.cls) s.cur.ctl.srstate l.val [planeElem w code n l.val]
    (∀ l ∈ activeLanes f.u s.cur.exec, (out l).trapping = false) →
    ∃ t, exec (.cdq f) s = .next t ∧
      Completed (.cdq f) s t (past (.cdq f) s) 0 (clsBits f.cls ((activeLanes f.u s.cur.exec).any fun l => (out l).range)
        ((activeLanes f.u s.cur.exec).any fun l => (out l).under)) (srAfter s f.cls) ∧
      Result s.cur.regs t.cur.regs f.u false f.d s.cur.exec fun l => (0 : Word) ++ (out l).bits)

/-- R74, R75: NOP, the branches, the calls with their links, and RET. -/
def Sys2Proof.Spec.BranchesAndCalls : Prop :=
  (∀ s, ∃ t, exec .nop s = .next t ∧ Plain .nop s t ∧ SameRegs s t) ∧
  ∀ (f : Fields) (s : State),
    (Ready 0x01 f s → ∃ t, exec (.bra f) s = .next t ∧ Completed (.bra f) s t (target f s) 0 0 s.cur.ctl.srstate ∧ SameRegs s t) ∧
    (Ready 0x03 f s → (s.cur.regs.getPair f.a).extractLsb' 0 2 = 0 → ∃ t, exec (.brx f) s = .next t ∧
      Completed (.brx f) s t ((s.cur.regs.getPair f.a).extractLsb' 0 56) 0 0 s.cur.ctl.srstate ∧ SameRegs s t) ∧
    (Ready 0x04 f s → ∃ t, exec (.call f) s = .next t ∧ Completed (.call f) s t (target f s) 0 0 s.cur.ctl.srstate ∧
      PairResult s.cur.regs t.cur.regs f.d ((0 : BitVec 8) ++ (s.cur.sp.pc + 12))) ∧
    (Ready 0x05 f s → (s.cur.regs.getPair f.a).extractLsb' 0 2 = 0 → ∃ t, exec (.callx f) s = .next t ∧
      Completed (.callx f) s t ((s.cur.regs.getPair f.a).extractLsb' 0 56) 0 0 s.cur.ctl.srstate ∧
      PairResult s.cur.regs t.cur.regs f.d ((0 : BitVec 8) ++ (s.cur.sp.pc + 4))) ∧
    (Ready 0x06 f s → (s.cur.regs.getPair f.a).extractLsb' 0 2 = 0 → ∃ t, exec (.ret f) s = .next t ∧
      Completed (.ret f) s t ((s.cur.regs.getPair f.a).extractLsb' 0 56) 0 0 s.cur.ctl.srstate ∧ SameRegs s t)

/-- R77: BRC runs on, branches, or divides the split: the taken lanes become a split of the lowest free number, with the
flags and SIG of the parent. -/
def Sys2Proof.Spec.BrcDivides : Prop :=
  ∀ (f : Fields) (s : State), Ready 0x02 f s →
    let i := Instr.brc f
    let taken := s.cur.regs.getK f.a &&& s.cur.exec
    let rest := s.cur.exec &&& ~~~s.cur.regs.getK f.a
    (taken = 0 → ∃ t, exec i s = .next t ∧ Plain i s t ∧ SameRegs s t) ∧
    (taken ≠ 0 → rest = 0 → ∃ t, exec i s = .next t ∧ Completed i s t (target f s) 0 0 s.cur.ctl.srstate ∧ SameRegs s t) ∧
    (taken ≠ 0 → rest ≠ 0 → s.cur.sp.v = true → Partitioned s → s.cur.sp.mask &&& s.cur.sp.park = 0 →
      ∀ n, s.cur.freeNum = some n → ∃ t, exec i s = .next t ∧ OnlyGroupControl s t ∧
        t.cur.sp = { foldedEntry i s with mask := rest, pc := s.cur.sp.pc + 12 } ∧
        t.cur.entry n = { v := true, st := .ready, pc := target f s, mask := taken, fpf := s.cur.sp.fpf, clsf := s.cur.sp.clsf,
                          sig := sigAfter i s } ∧
        (∀ m, m ≠ n → m ≠ s.cur.running → t.cur.entry m = s.cur.entry m) ∧ t.cur.joins = s.cur.joins ∧ t.cur.ovf = s.cur.ovf) ∧
    (taken ≠ 0 → rest ≠ 0 → s.cur.freeNum = none → 16 ≤ s.cur.ovf → Handles s → ∃ t, exec i s = .next t ∧
      Trapped s t Cause.splitOverflow s.cur.exec (fun k _ => if k = 0 then taken else if k = 1 then 16 else 0) ∧ SameRegs s t)

/-- R79 to R82: JSET loads a slot; JARV passes an unarmed slot, and otherwise waits on it when the arrival does not complete
the join; JQRY and SPLQ read. -/
def Sys2Proof.Spec.JoinsAndQueries : Prop :=
  ∀ (f : Fields) (s : State),
    (Ready 0x08 f s → s.waitsOn (f.d.extractLsb' 0 3) = false → ∃ t, exec (.jset f) s = .next t ∧ OnlyGroupControl s t ∧ SameRegs s t ∧
      t.cur.join (f.d.extractLsb' 0 3) = { rejoin := s.cur.regs.getK f.a, arrived := 0, pc := target f s, armed := true } ∧
      (∀ j, j ≠ f.d.extractLsb' 0 3 → t.cur.join j = s.cur.join j) ∧
      t.cur.sp = { foldedEntry (.jset f) s with pc := past (.jset f) s, half := false }) ∧
    (Ready 0x09 f s → (s.cur.join (f.d.extractLsb' 0 3)).armed = false → ∃ t, exec (.jarv f) s = .next t ∧
      Completed (.jarv f) s t (s.cur.join (f.d.extractLsb' 0 3)).pc 0 0 s.cur.ctl.srstate ∧ SameRegs s t) ∧
    (Ready 0x09 f s → Partitioned s →
      let j := f.d.extractLsb' 0 3
      let x := s.cur.join j
      x.armed = true → s.cur.sp.v = true → (s.cur.sp.mask ||| s.cur.sp.park) &&& ~~~x.rejoin = 0 →
      x.arrived ||| (s.cur.sp.mask ||| s.cur.sp.park) ≠ x.rejoin &&& s.cur.ctl.live →
      ∃ t, exec (.jarv f) s = .next t ∧ OnlyGroupControl s t ∧ SameRegs s t ∧
        t.cur.sp = { s.cur.sp with st := .waiting, jslot := j, wait := 0 } ∧
        t.cur.join j = { x with arrived := x.arrived ||| (s.cur.sp.mask ||| s.cur.sp.park) } ∧
        (∀ n, n ≠ s.cur.running → t.cur.entry n = s.cur.entry n)) ∧
    (Ready 0x0A f s → ∃ t, exec (.jqry f) s = .next t ∧ Plain (.jqry f) s t ∧
      SResult s.cur.regs t.cur.regs f.d (let x := s.cur.join (f.a.extractLsb' 0 3)
        if x.armed then x.rejoin &&& s.cur.ctl.live &&& ~~~x.arrived else 0)) ∧
    (Ready 0x0B f s → f.w2 &&& ~~~0x77#32 = 0 → ∃ t, exec (.splq f) s = .next t ∧ Plain (.splq f) s t ∧
      SResult s.cur.regs t.cur.regs f.d (let n := f.w2.extractLsb' 0 3
        let w := f.w2.extractLsb' 4 3
        if w = 6 then (s.cur.entry n).park else if w = 7 then s.cur.ctl.live else (asRead s.cur n).words.getD w.toNat 0))

/-- R80, R83, R98: an arrival that completes a join, with no entry in the overflow area, merges the waiting splits under the
lowest of their numbers, at the join program counter, and frees the others; a debugger's step that completes it stops with the
merged split as focus. -/
def Sys2Proof.Spec.JoinMerges : Prop :=
  ∀ (f : Fields) (s : State), Ready 0x09 f s → Partitioned s → s.cur.ovf = 0 →
    let j := f.d.extractLsb' 0 3
    let x := s.cur.join j
    x.armed = true → s.cur.sp.v = true → s.cur.sp.lanes &&& ~~~x.rejoin = 0 →
    x.arrived ||| s.cur.sp.lanes = x.rejoin &&& s.cur.ctl.live →
    let member := fun (n : BitVec 3) => n = s.cur.running ∨ ((s.cur.entry n).v = true ∧ (s.cur.entry n).st = .waiting ∧ (s.cur.entry n).jslot = j)
    ∃ t m, exec (.jarv f) s = .next t ∧ OnlyMerged s t ∧ SameRegs s t ∧ member m ∧ (∀ n, member n → m.toNat ≤ n.toNat) ∧
      (t.cur.entry m).v = true ∧ (t.cur.entry m).st = .ready ∧ (t.cur.entry m).pc = x.pc ∧
      (∀ l : Fin 32, (t.cur.entry m).mask.getLsbD l.val = true ↔ ∃ n, member n ∧ (s.cur.entry n).mask.getLsbD l.val = true) ∧
      (∀ n, member n → n ≠ m → (t.cur.entry n).v = false) ∧ (∀ n, ¬ member n → t.cur.entry n = s.cur.entry n) ∧
      (t.cur.join j).armed = false ∧ (t.cur.join j).arrived = 0 ∧ (∀ k, k ≠ j → t.cur.join k = s.cur.join k) ∧
      (∀ l, s.cur.fydb = .stepping l → t.cur.fydb = .stopped ∧ t.cur.fydbFocus = some m) ∧
      ((∀ l, s.cur.fydb ≠ .stepping l) → t.cur.fydb = s.cur.fydb ∧ t.cur.fydbFocus = s.cur.fydbFocus)

/-- R83: EXIT takes the split's lanes out of LIVE and frees its entry; the other entries go on. -/
def Sys2Proof.Spec.ExitFreesTheSplit : Prop :=
  ∀ (s : State), Partitioned s → s.cur.resident = true → s.cur.ovf = 0 → (∀ j, (s.cur.join j).armed = false) → s.cur.sp.v = true →
    (∃ n, n ≠ s.cur.running ∧ (s.cur.entry n).v = true) →
    ∃ t, exec .exit s = .next t ∧ t.cur.ctl = { s.cur.ctl with live := s.cur.ctl.live &&& ~~~(s.cur.sp.mask ||| s.cur.sp.park) } ∧
      t.cur.sp.v = false ∧ (∀ n, n ≠ s.cur.running → t.cur.entry n = s.cur.entry n) ∧ t.cur.regs = s.cur.regs ∧
      t.cur.joins = s.cur.joins ∧ t.cur.ended = s.cur.ended ∧ t.mem = s.mem ∧ t.blocks = s.blocks

/-- R83: EXIT of a group's last split ends the group. -/
def Sys2Proof.Spec.ExitEndsTheGroup : Prop :=
  ∀ (s : State), Partitioned s → s.cur.resident = true → s.cur.ovf = 0 → (∀ j, (s.cur.join j).armed = false) → s.cur.sp.v = true →
    (∀ n, n ≠ s.cur.running → (s.cur.entry n).v = false) →
    ∃ t, exec .exit s = .next t ∧ t.cur.ended = true ∧ t.cur.ctl.live = 0 ∧ t.cur.validNums = [] ∧ t.cur.regs = s.cur.regs ∧
      t.mem = s.mem ∧ t.blocks = s.blocks

/-- R95, R93, R94: TRAP and BKPT enter the user handler, BKPT where no debugger is attached; TRET executes the instruction
at `$xpc` again. -/
def Sys2Proof.Spec.TrapsAndReturns : Prop :=
  (∀ (f : Fields) (s : State), Handles s → Ready 0x0D f s → ∃ t, exec (.trap f) s = .next t ∧
    Trapped s t Cause.userTrap s.cur.exec (fun k _ => if k = 0 then f.w2 else 0) ∧ SameRegs s t ∧ t.cur.ctl = s.cur.ctl) ∧
  (∀ (s : State), Handles s → ∃ t, exec .bkpt s = .next t ∧
    Trapped s t Cause.bkpt s.cur.exec (fun _ _ => 0) ∧ SameRegs s t ∧ t.cur.ctl = s.cur.ctl) ∧
  (∀ (f : Fields) (s : State), Ready 0x0E f s → s.cur.sup = none → s.cur.sp.inh = true → ∃ t, exec (.tret f) s = .next t ∧
    t.cur.sp = { s.cur.sp with pc := alignPc s.cur.trap.pc, inh := false } ∧ SameRegs s t ∧ t.cur.ctl = s.cur.ctl ∧
    t.cur.trap = { s.cur.trap with cause := s.cur.trap.cause &&& ~~~0x1000#32 } ∧
    (∀ n, n ≠ s.cur.running → t.cur.entry n = s.cur.entry n) ∧ t.mem = s.mem ∧ t.blocks = s.blocks) ∧
  (∀ (f : Fields) (s s1 : State) (w : Word), Ready 0x0E f s → s.cur.sup = none → s.cur.sp.inh = true →
    s.fetchWord s.cur s.cur.exec s.cur.trap.pc = .words [w] s1 →
    ∃ t, exec (.tretNext f) s = .next t ∧ t.cur.trap = { s.cur.trap with cause := s.cur.trap.cause &&& ~~~0x1000#32 } ∧
      t.cur.sp = { s.cur.sp with pc := alignPc (s.cur.trap.pc + BitVec.ofNat 56 (formOf w).bytes), inh := false } ∧
      SameRegs s t ∧ t.cur.ctl = s.cur.ctl ∧ (∀ n, n ≠ s.cur.running → t.cur.entry n = s.cur.entry n) ∧ t.mem = s.mem ∧ t.blocks = s.blocks)

/-- R95, R96: TRET outside a handler raises ILLEGAL_CONVERGENCE. -/
def Sys2Proof.Spec.TretOutsideHandler : Prop :=
  ∀ (f : Fields) (s : State), Handles s → s.cur.sup = none → Ready 0x0E f s →
    (∃ t, exec (.tret f) s = .next t ∧ Trapped s t Cause.convergence s.cur.exec (fun _ _ => 0)) ∧
    (∃ t, exec (.tretNext f) s = .next t ∧ Trapped s t Cause.convergence s.cur.exec (fun _ _ => 0))

/-- R84, R97, R156: SIGRD reads SIG; SIGCHK of the right value sets SIG to all ones and is not folded; YIELD gives way; CODESYNC,
where no access of the split is outstanding, makes its launch, and the cores that run a group of it, see every store into the code pages of its address space (R217). -/
def Sys2Proof.Spec.SignaturesAndYield : Prop :=
  (∀ (f : Fields) (s : State), Ready 0x11 f s → ∃ t, exec (.sigrd f) s = .next t ∧ Plain (.sigrd f) s t ∧
    SResult s.cur.regs t.cur.regs f.d s.cur.sp.sig) ∧
  (∀ (f : Fields) (s : State), Ready 0x10 f s → s.cur.sp.sig = f.w2 → ∃ t, exec (.sigchk f) s = .next t ∧ OnlyRegs s t ∧ SameRegs s t ∧
    t.cur.sp = { s.cur.sp with sig := 0xFFFFFFFF, pc := s.cur.sp.pc + 12, half := false }) ∧
  (∀ (s : State), ∃ t, exec .yield s = .next t ∧ t.cur.iss.yielded = true ∧ t.cur.iss.last.getLast? = some s.cur.running ∧
    SameRegs s t ∧ t.cur.sp = { foldedEntry .yield s with pc := past .yield s, half := false } ∧ t.cur.ctl = s.cur.ctl ∧
    (∀ n, n ≠ s.cur.running → t.cur.entry n = s.cur.entry n) ∧ t.mem = s.mem ∧ t.blocks = s.blocks ∧ t.others = s.others) ∧
  (∀ (s : State), Homed s → s.relPending .dev = false →
    let cores := (s.groups.filter fun g => g.launch = s.cur.launch).map s.coreOf
    ∃ t, exec .codesync s = .next t ∧ SameRegs s t ∧
    t.mem = { s.mem with code := s.mem.code.map fun c =>
      if (s.mem.entry (c.sector / 2048)).asid = (s.lchOf s.cur).asid then { c with synced := setAdd c.synced s.cur.launch, cores := setAddAll c.cores cores } else c } ∧
    t.cur.sp = { foldedEntry .codesync s with pc := past .codesync s, half := false } ∧ t.cur.ctl = s.cur.ctl ∧
    (∀ n, n ≠ s.cur.running → t.cur.entry n = s.cur.entry n) ∧ t.blocks = s.blocks)

end

namespace Sys2Proof.Spec

open Sys2Proof.Machine

/-! ## BMIX, IRED, random numbers, system registers (R16, R109, R112, R168 to R172) -/

/-- A byte of copies of bit 7. -/
def spread (b : Byte) : Byte := if b.getLsbD 7 then 0xFF else 0

/-- The table of R109: the byte of a code, given the pool and the result byte before. -/
def mixByte (a b : Word) (before : Byte) (code : Nat) : Byte :=
  let pool := fun (n : Nat) => (b ++ a).extractLsb' (8 * n) 8
  if code ≤ 7 then pool code else if code = 8 then 0 else if code = 9 then 0xFF
  else if code = 10 then spread (pool 1) else if code = 11 then spread (pool 3)
  else if code = 12 then spread (pool 5) else if code = 13 then spread (pool 7) else spread before

/-- The codes of word 2 are legal (R109). -/
def mixCodes (w : Word) : Prop := w.extractLsb' 16 16 = 0 ∧ ∀ i : Fin 4, w.extractLsb' (4 * i.val) 4 ≠ 15

/-- The 32 bits of BMIX (R109). -/
def mixed (a b w : Word) : Word :=
  let code := fun (i : Nat) => (w.extractLsb' (4 * i) 4).toNat
  let b0 := mixByte a b 0 (code 0)
  let b1 := mixByte a b b0 (code 1)
  let b2 := mixByte a b b1 (code 2)
  mixByte a b b2 (code 3) ++ b2 ++ b1 ++ b0

/-- rngc_mix with the rounds written out (R168). -/
def rngc (k : DWord) (t c : Word) : Word :=
  let f := fun (x y : Word) => ((x ^^^ (x >>> 16)) * 0x7FEB352D#32) ^^^ y
  let g := fun (y z : Word) => y.rotateLeft 13 + z
  let y1 := t ^^^ k.extractLsb' 32 32
  let y2 := g y1 0x9E3779B9#32
  let y3 := g y2 0x3C6EF372#32
  let y4 := g y3 0xDAA66D2B#32
  let x := f (f (f (f (c ^^^ k.extractLsb' 0 32) y1) y2) y3) y4
  let z := (x ^^^ (x >>> 15)) * 0x846CA68B#32
  z ^^^ (z >>> 16)

/-- The result of a reduction of the lanes of exec, by what characterises it: a sum, an extreme that some lane holds, or the
bits (R112). -/
def Reduced (sub : BitVec 4) (t : IntType) (exec : Word) (x : Fin 32 → DWord) (y : DWord) : Prop :=
  let on := laneList.filter (maskBit exec)
  (sub = 0 → y = putT t ((on.map fun l => getT t (x l)).sum)) ∧
  (sub = 1 → (∃ l ∈ on, y = putT t (bitsT t (x l))) ∧ ∀ l ∈ on, getT t y ≤ getT t (x l)) ∧
  (sub = 2 → (∃ l ∈ on, y = putT t (bitsT t (x l))) ∧ ∀ l ∈ on, getT t (x l) ≤ getT t y) ∧
  (3 ≤ sub.toNat → ∀ b, b < t.width → y.getLsbD b =
    if sub = 3 then on.all (fun l => (bitsT t (x l)).testBit b)
    else if sub = 4 then on.any (fun l => (bitsT t (x l)).testBit b)
    else decide ((on.filter fun l => (bitsT t (x l)).testBit b).length % 2 = 1))

/-- The trap registers that the running split sees (R19, R228): in the page-fault handler those of the fault, otherwise the user's. -/
def trapsSeen (g : Group) : TrapRegs :=
  match g.sup with
  | some sv => if sv.split = g.running then sv.fault else g.trap
  | none => g.trap

/-- The group with other trap registers where the running split sees them. -/
def seeTraps (g : Group) (x : TrapRegs) : Group :=
  match g.sup with
  | some sv => if sv.split = g.running then { g with sup := some { sv with fault := x } } else { g with trap := x }
  | none => { g with trap := x }

/-- The registers of R16 that read the same in every lane but `$lane`, `$xval0` to `$xval3` and the binding entries: index,
64 bits wide, value. -/
def uniformRegs : List (Nat × Bool × (State → DWord)) :=
  let w := fun (x : Word) => (0 : Word) ++ x
  let n := fun (x : Nat) => BitVec.ofNat 64 x
  [(0x001, false, fun s => n s.cur.index), (0x002, false, fun s => n s.cur.block),
   (0x003, false, fun s => n ((s.lchOf s.cur).gangOf s.cur.block)),
   (0x004, false, fun s => n ((s.lchOf s.cur).posOf s.cur.block % 4)), (0x005, false, fun s => n s.cur.cluster),
   (0x006, false, fun s => n (dieOfCluster s.cur.cluster)), (0x007, false, fun s => w (s.lchOf s.cur).img.blockdim),
   (0x008, false, fun s => w (s.lchOf s.cur).img.griddim), (0x010, false, fun s => w s.cur.sp.mask),
   (0x012, false, fun s => w s.cur.ctl.jwd), (0x013, false, fun s => w s.cur.ctl.lostrc),
   (0x020, false, fun s => (0 : BitVec 59) ++ s.cur.sp.fpf), (0x021, false, fun s => w s.cur.ctl.fpctl),
   (0x022, false, fun s => w s.cur.sp.clsf), (0x023, false, fun s => w s.cur.ctl.srstate),
   (0x030, true, fun s => (0 : BitVec 8) ++ (trapsSeen s.cur).pc), (0x031, false, fun s => w (trapsSeen s.cur).cause),
   (0x032, false, fun s => w (trapsSeen s.cur).mask), (0x038, true, fun s => (0 : BitVec 8) ++ s.cur.ctl.utvec),
   (0x040, true, fun s => s.cycle),
   (0x050, false, fun s => n s.mem.capacity), (0x051, false, fun s => w s.mem.phase),
   (0x052, false, fun s => w (s.lchOf s.cur).img.bindid), (0x053, false, fun s => w (s.lchOf s.cur).img.codever),
   (0x054, false, fun s => (0 : BitVec 48) ++ (s.lchOf s.cur).asid), (0x055, false, fun s => n (s.lchOf s.cur).tenant),
   (0x056, false, fun s => w (Config.cap0 s.part)), (0x057, false, fun s => w (Config.cap1 s.part))]

/-- MFS of a register of some width completes: its destination is in range, the instruction acts, its operands are free. -/
def MfsReady (f : Fields) (s : State) (wide : Bool) : Prop :=
  (Instr.mfs f).wellFormed = true ∧ Acts f s ∧ kindOk s.limits f.u f.u (.r (if wide then 2 else 1)) f.d = true ∧
  Free s (kindRegs f.u f.u (.r (if wide then 2 else 1)) f.d)

/-- MFS answers a value per lane. -/
def MfsGives (f : Fields) (s : State) (wide : Bool) (x : Fin 32 → DWord) : Prop :=
  ∃ t, exec (.mfs f) s = .next t ∧ Plain (.mfs f) s t ∧ Result s.cur.regs t.cur.regs f.u wide f.d s.cur.exec x

/-- MTS of a register of some width completes: its source is in range and readable, the instruction acts. -/
def MtsReady (i : Instr) (f : Fields) (s : State) (wide : Bool) : Prop :=
  i.wellFormed = true ∧ Acts f s ∧ kindOk s.limits f.u f.u (.r (if wide then 2 else 1)) f.a = true ∧
  Readable s ((kindRegs f.u f.u (.r (if wide then 2 else 1)) f.a).map fun r => ⟨r, 1, f.fe.getLsbD 0⟩)

/-- The value of a vector MTS is that of the lowest lane of exec (R170). -/
def LowestLane (f : Fields) (s : State) (l : Fin 32) : Prop :=
  (f.u = true → l = 0) ∧ (f.u = false → maskBit s.cur.exec l = true ∧ ∀ m : Fin 32, maskBit s.cur.exec m = true → l ≤ m)

/-- MTS completes and leaves group-scoped registers, trap registers, sticky flags and `$stvec` as given; nothing else but the
entry of the running split differs. -/
def Wrote (f : Fields) (s : State) (c : GroupRegs) (x : TrapRegs) (fpf : BitVec 5) (clsf : Word) (sv : Option Pc) : Prop :=
  ∃ t, exec (.mts f) s = .next t ∧
    t = { s with cur := { seeTraps s.cur x with ctl := c, splits := t.cur.splits }, stvec := sv } ∧
    t.cur.sp = { s.cur.sp with pc := past (.mts f) s, half := false, sig := sigAfter (.mts f) s, fpf := fpf, clsf := clsf } ∧
    ∀ n, n ≠ s.cur.running → t.cur.entry n = s.cur.entry n

end Sys2Proof.Spec

section
open Sys2Proof Sys2Proof.Machine Sys2Proof.Spec

/-- R109, R112, R168: BMIX, IRED and RNGC. -/
def Sys2Proof.Spec.MixReduceDraw : Prop :=
  ∀ (f : Fields) (s : State), Acts f s →
    ((Instr.bmix f).wellFormed = true → Ready 0x32 f s → mixCodes f.w2 → ∃ t, exec (.bmix f) s = .next t ∧ Plain (.bmix f) s t ∧
      Result s.cur.regs t.cur.regs f.u false f.d s.cur.exec fun l =>
        (0 : Word) ++ mixed ((rawA f s.cur.regs false l).extractLsb' 0 32) ((rawB f s.cur.regs false l).extractLsb' 0 32) f.w2) ∧
    ((Instr.ired f).wellFormed = true → Ready 0x30 f s → ∃ t x, exec (.ired f) s = .next t ∧ Plain (.ired f) s t ∧
      Result s.cur.regs t.cur.regs true (typeOf f).wide f.d 0 (fun _ => x) ∧
      Reduced f.sub (typeOf f) s.cur.exec (rawA f s.cur.regs (typeOf f).wide) x) ∧
    ((Instr.rngc f).wellFormed = true → Ready 0x7A f s → ∃ t, exec (.rngc f) s = .next t ∧ Plain (.rngc f) s t ∧
      Result s.cur.regs t.cur.regs f.u false f.d s.cur.exec fun l =>
        (0 : Word) ++ rngc (s.cur.regs.getPair f.b) f.w2 ((rawA f s.cur.regs false l).extractLsb' 0 32))

/-- R109: BMIX with a reserved code or a reserved bit set raises ILLEGAL_OPERAND with field code 6. -/
def Sys2Proof.Spec.BmixReserved : Prop :=
  ∀ (f : Fields) (s : State), (Instr.bmix f).wellFormed = true → Acts f s → Handles s → fieldErr s.limits (rowFor 0x32 f) f = none →
    ¬ mixCodes f.w2 →
    ∃ t, exec (.bmix f) s = .next t ∧ SameRegs s t ∧
      Trapped s t Cause.illegalOperand s.cur.exec fun k _ =>
        if k = 0 then (encode (.bmix f)).getD 0 0 else if k = 1 then (encode (.bmix f)).getD 1 0 else if k = 2 then 6 else f.w2

/-- R169, R172: SRSEED seeds `$srstate`, never with zero; CAPRD reads the capability words of the part. -/
def Sys2Proof.Spec.SeedAndCapabilities : Prop :=
  ∀ (f : Fields) (s : State), Acts f s → Ready 0x7B f s →
    (f.sub = 0 → ∃ t, exec (.srseed f) s = .next t ∧ SameRegs s t ∧
      Completed (.srseed f) s t (past (.srseed f) s) 0 0
        (let x := rngc (s.cur.regs.getPair f.a) f.w2 (BitVec.ofNat 32 (32 * s.cur.block + s.cur.index)); if x = 0 then 1 else x)) ∧
    (f.sub = 1 → f.w2 = 0 ∨ f.w2 = 1 → ∃ t, exec (.caprd f) s = .next t ∧ Plain (.caprd f) s t ∧
      Result s.cur.regs t.cur.regs f.u false f.d s.cur.exec fun _ =>
        (0 : Word) ++ (if f.w2 = 0 then Config.cap0 s.part else Config.cap1 s.part))

/-- R16, R170: what MFS reads, register by register. -/
def Obligations.SystemRegisterReads : Prop :=
  ∀ (f : Fields) (s : State),
    (∀ e ∈ uniformRegs, f.w2 = BitVec.ofNat 32 e.1 → MfsReady f s e.2.1 → MfsGives f s e.2.1 fun _ => e.2.2 s) ∧
    (∀ c : Fin 16, f.w2 = BitVec.ofNat 32 (0x100 + c.val) → MfsReady f s true → MfsGives f s true fun _ => (s.lchOf s.cur).cbind[c.val]) ∧
    (f.w2 = 0x000 → f.u = false → MfsReady f s false → MfsGives f s false fun l => BitVec.ofNat 64 l.val) ∧
    (f.w2 = 0x011 → MfsReady f s false → s.cur.ovf ≤ 16 → MfsGives f s false fun _ => BitVec.ofNat 64
      (65536 * (s.cur.sp.inh).toNat + 256 * s.cur.ovf + 16 * (s.cur.validNums.length) + s.cur.running.toNat)) ∧
    (f.w2 = 0x041 → MfsReady f s false → (∀ n < 4, s.cur.count n < 256) → MfsGives f s false fun _ => BitVec.ofNat 64
      (s.cur.count 0 + 256 * s.cur.count 1 + 65536 * s.cur.count 2 + 16777216 * s.cur.count 3)) ∧
    (∀ k : Fin 4, f.w2 = BitVec.ofNat 32 (0x034 + k.val) → MfsReady f s false → MfsGives f s false fun l => (0 : Word) ++ ((trapsSeen s.cur).val[k.val]).get l) ∧
    (f.w2 = 0x039 → MfsReady f s true → s.cur.supervisor = true → MfsGives f s true fun _ => (0 : BitVec 8) ++ s.stvec.getD Config.stvec)

/-- R16, R170: what MTS writes, register by register; read-only registers ignore it. -/
def Sys2Proof.Spec.SystemRegisterWrites : Prop :=
  ∀ (f : Fields) (s : State) (l : Fin 32), LowestLane f s l →
    let g := s.cur
    let y := trapsSeen g
    let x := rawA f g.regs true l
    let w := (rawA f g.regs false l).extractLsb' 0 32
    let same := Wrote f s g.ctl y g.sp.fpf g.sp.clsf s.stvec
    (MtsReady (.mts f) f s false →
      (f.w2 = 0x012 → Wrote f s { g.ctl with jwd := w &&& 0x83FFFFFF } y g.sp.fpf g.sp.clsf s.stvec) ∧
      (f.w2 = 0x013 → Wrote f s { g.ctl with lostrc := w } y g.sp.fpf g.sp.clsf s.stvec) ∧
      (f.w2 = 0x020 → Wrote f s g.ctl y (w.extractLsb' 0 5) g.sp.clsf s.stvec) ∧
      (f.w2 = 0x021 → Wrote f s { g.ctl with fpctl := w } y g.sp.fpf g.sp.clsf s.stvec) ∧
      (f.w2 = 0x022 → Wrote f s g.ctl y g.sp.fpf w s.stvec) ∧
      (f.w2 = 0x023 → Wrote f s { g.ctl with srstate := if w = 0 then 1 else w } y g.sp.fpf g.sp.clsf s.stvec) ∧
      (∀ k : Fin 4, f.w2 = BitVec.ofNat 32 (0x034 + k.val) → ∃ t, exec (.mts f) s = .next t ∧
        Wrote f s g.ctl { y with val := (trapsSeen t.cur).val } g.sp.fpf g.sp.clsf s.stvec ∧
        (∀ j : Fin 4, j ≠ k → (trapsSeen t.cur).val[j.val] = y.val[j.val]) ∧
        ∀ m, ((trapsSeen t.cur).val[k.val]).get m = if f.u then w
          else if maskBit g.exec m then (rawA f g.regs false m).extractLsb' 0 32 else (y.val[k.val]).get m) ∧
      (∀ e ∈ uniformRegs, e.2.1 = false → f.w2 = BitVec.ofNat 32 e.1 → e.1 ∉ [0x010, 0x012, 0x013, 0x020, 0x021, 0x022, 0x023] → same) ∧
      (f.w2 = 0x000 ∨ f.w2 = 0x011 ∨ f.w2 = 0x041 → same)) ∧
    (MtsReady (.mts f) f s true →
      (f.w2 = 0x030 → Wrote f s g.ctl { y with pc := x.extractLsb' 0 56 } g.sp.fpf g.sp.clsf s.stvec) ∧
      (f.w2 = 0x038 → Wrote f s { g.ctl with utvec := x.extractLsb' 0 56 } y g.sp.fpf g.sp.clsf s.stvec) ∧
      (f.w2 = 0x039 → g.supervisor = true → Wrote f s g.ctl y g.sp.fpf g.sp.clsf (some (x.extractLsb' 0 56))) ∧
      (f.w2 = 0x040 → same) ∧ (∀ c : Fin 16, f.w2 = BitVec.ofNat 32 (0x100 + c.val) → same))

/-- R76: MTS to `$exec` moves lanes of the split between its mask and the parked ones; lanes that are not the split's are
discarded. -/
def Sys2Proof.Spec.ExecWrites : Prop :=
  ∀ (f : Fields) (s : State) (l : Fin 32), LowestLane f s l → f.w2 = 0x010 → MtsReady (.mtsExec f) f s false → Partitioned s →
    let x := (rawA f s.cur.regs false l).extractLsb' 0 32
    let own := s.cur.sp.mask ||| s.cur.sp.park
    ∃ t, exec (.mtsExec f) s = .next t ∧ t = { s with cur := { s.cur with splits := t.cur.splits } } ∧
      t.cur.sp = { s.cur.sp with mask := own &&& x, park := own &&& ~~~x, pc := past (.mtsExec f) s, half := false, sig := sigAfter (.mtsExec f) s } ∧
      (∀ n, n ≠ s.cur.running → t.cur.entry n = s.cur.entry n)

/-- R16, R21, R170: `$stvec` in user mode raises PRIVILEGE, read or written. -/
def Sys2Proof.Spec.StvecIsPrivileged : Prop :=
  ∀ (f : Fields) (s : State), f.w2 = 0x039 → s.cur.supervisor = false → Handles s → Acts f s →
    ((Instr.mfs f).wellFormed = true → kindOk s.limits f.u f.u (.r 2) f.d = true → ∃ t, exec (.mfs f) s = .next t ∧ SameRegs s t ∧
      Trapped s t Cause.privilege s.cur.exec fun k _ =>
        if k = 0 then (encode (.mfs f)).getD 0 0 else if k = 1 then (encode (.mfs f)).getD 1 0 else if k = 2 then 6 else f.w2) ∧
    ((Instr.mts f).wellFormed = true → kindOk s.limits f.u f.u (.r 2) f.a = true → ∃ t, exec (.mts f) s = .next t ∧ SameRegs s t ∧ t.stvec = s.stvec ∧
      Trapped s t Cause.privilege s.cur.exec fun k _ =>
        if k = 0 then (encode (.mts f)).getD 0 0 else if k = 1 then (encode (.mts f)).getD 1 0 else if k = 2 then 6 else f.w2)

/-- R48, R49, R93: words of no allocated opcode raise ILLEGAL_OPCODE, words that break the rules of their form ILLEGAL_FORM with
the reason, words of a unit that the part lacks UNIT_ABSENT first; the handler finds the words in the trap registers. -/
def Sys2Proof.Spec.IllegalWords : Prop :=
  ∀ (ws : List Word) (s : State), Handles s →
    (∃ t, exec (.illegalOpcode ws) s = .next t ∧ SameRegs s t ∧
      Trapped s t Cause.illegalOpcode s.cur.exec fun k _ => if k.val < 3 then ws.getD k.val 0 else 0) ∧
    ∀ r, let w := ws.getD 0 0
      let absent := Config.hasUnfold s.part = false ∧ (opOf w = 0x72 ∨ opOf w = 0x71 ∧ w.extractLsb' 17 8 = 0xFF#8)
      (¬ absent → ∃ t, exec (.illegalForm ws r) s = .next t ∧ SameRegs s t ∧
        Trapped s t Cause.illegalForm s.cur.exec fun k _ => if k.val < 3 then ws.getD k.val 0 else BitVec.ofNat 32 r.code) ∧
      (absent → ∃ t, exec (.illegalForm ws r) s = .next t ∧ SameRegs s t ∧
        Trapped s t Cause.unitAbsent s.cur.exec fun k _ => if k.val < 3 then ws.getD k.val 0 else 0)

end

namespace Sys2Proof.Spec

open Sys2Proof.Machine

/-! ## Memory accesses (R136 to R156) -/

/-- The lanes of an access of `w` bytes: lane, location of its address operand, width (R137). -/
def lanesAt (f : Fields) (s : State) (w : Nat) : List LaneReq :=
  (activeLanes f.u s.cur.exec).map fun l => ⟨l, locOf l (addrOf f s.cur.regs l), w⟩

/-- A list holds the sectors of some lanes, each once. -/
def SectorsOf (l : List LaneReq) (x : List Nat) : Prop :=
  x.Nodup ∧ ∀ n, n ∈ x ↔ ∃ r ∈ l, ∃ a ∈ r.locs, a / 32 = n

/-- The byte that a write gives a location: that of the highest lane whose bytes cover it (R141). -/
def storeByte (l : List (LaneReq × List Byte)) (a : Nat) : Option Byte :=
  l.reverse.findSome? fun p => byteAt (p.1.locs.zip p.2) a

/-- An instruction has issued operations: the group holds them as its newest, their destinations are EMPTY, no value of a
register and no byte of memory has changed, the split has moved on. -/
def IssuesAll (i : Instr) (s t : State) (os : List MemOp) (flags sr : Word) : Prop :=
  t.cur.pend = { s.cur.pend with
    nextId := s.cur.pend.nextId + os.length
    mem := s.cur.pend.mem ++ (os.zip (List.range os.length)).map fun p =>
      { p.1 with id := s.cur.pend.nextId + p.2, split := .entry s.cur.running, pc := s.cur.sp.pc, order := (s.lchOf s.cur).orders } } ∧
  t.cur.sp = { s.cur.sp with pc := past i s, half := false, sig := sigAfter i s, clsf := s.cur.sp.clsf ||| flags } ∧
  (∀ n, n ≠ s.cur.running → t.cur.entry n = s.cur.entry n) ∧ t.cur.ctl = { s.cur.ctl with srstate := sr } ∧
  t.cur.regs.v = s.cur.regs.v ∧ t.cur.regs.s = s.cur.regs.s ∧ t.cur.regs.k = s.cur.regs.k ∧
  (∀ o ∈ os, ∀ x ∈ o.dst, t.cur.regs.stOf x = .empty) ∧
  (∀ n, (∀ o ∈ os, Reg.v n ∉ o.dst) → t.cur.regs.stOf (.v n) = s.cur.regs.stOf (.v n)) ∧
  (∀ n, n.toNat < 64 → (∀ o ∈ os, Reg.s n ∉ o.dst) → t.cur.regs.stOf (.s n) = s.cur.regs.stOf (.s n)) ∧
  t.blocks = s.blocks ∧ t.launches = s.launches ∧ t.mem.bytes = s.mem.bytes ∧ t.mem.poison = s.mem.poison ∧
  ((∀ o ∈ os, ∀ x ∈ o.left, isGlobal (x * 32) = false ∧ s.remoteOf s.cur x = none) → t.mem = s.mem ∧ t.fabric = s.fabric)

/-- An instruction has issued one operation. -/
def Issues (i : Instr) (s t : State) (o : MemOp) (flags sr : Word) : Prop := IssuesAll i s t [o] flags sr

/-- The access passes the check of R138 in every lane that acts. -/
def Allowed (f : Fields) (s : State) (acc w : Nat) : Prop :=
  s.checkLanes s.cur acc ((activeLanes f.u s.cur.exec).map fun l => (l, addrOf f s.cur.regs l, w)) = none

/-- A memory operation before it is entered. -/
def memOp (f : Fields) (kind : OpKind) (acc : Nat) (lanes : List LaneReq) (left : List Nat) : MemOp :=
  { id := 0, split := .entry 0, pc := 0, kind := kind, acc := acc, scope := Scope.ofCode f.mod3, lanes := lanes, left := left }

/-- Nothing that the access writes passes through the ticket unit (R277). -/
def Unticketed (s : State) (l : List LaneReq) : Prop :=
  ∀ r ∈ l, ∀ a ∈ r.locs, (s.lchOf s.cur).ticketed (a / 32 * 32) = false

/-- Bytes per lane of a class access in the formats of MKIND 0 to 2. -/
def clsWidth (e : DWord) : Nat := (if entPacked e then 2 else 1) * (if entMKIND e = 0 then 4 else 2)

/-- The scale pair of a class access of planes is an s pair (R143, R144). -/
def ScalePair (n : BitVec 8) : Prop := n.toNat % 2 = 0 ∧ n.toNat + 2 ≤ 64

/-- What the instruction reads or writes at once lies in the core, none of it carries a mark, nothing that the group has issued or
its block sees is outstanding, and no split of the group may miss a write of another. -/
def NearBy (s : State) (locs : List Nat) : Prop :=
  s.cur.resident = true ∧ s.cur.pend.mem = [] ∧ Homed s ∧ s.cur.shadow = [] ∧
  ∀ a ∈ locs, isGlobal (a / 32 * 32) = false ∧ s.remoteOf s.cur (a / 32) = none ∧ s.markedAt s.cur a = false ∧
    ∀ p e, s.placeOf s.cur (a / 32 * 32) ≠ .mem p e

end Sys2Proof.Spec

section
open Sys2Proof Sys2Proof.Machine Sys2Proof.Spec

/-- R140, R143, R144, R146: LD, CLD and ATOM issue a read: their destinations become EMPTY until the pieces have arrived. -/
def Sys2Proof.Spec.ReadsIssue : Prop :=
  ∀ (f : Fields) (s : State), Acts f s →
    ((Instr.ld f).wellFormed = true → Ready 0x58 f s → Allowed f s 0 (sizeBytes f.sub) →
      ∃ t x, SectorsOf (lanesAt f s (sizeBytes f.sub)) x ∧ exec (.ld f) s = .next t ∧
        Issues (.ld f) s t { memOp f (.load f.sub) 0 (lanesAt f s (sizeBytes f.sub)) x with dst := dests (rowFor 0x58 f) f } 0 s.cur.ctl.srstate) ∧
    ((Instr.atom f).wellFormed = true → Ready 0x5C f s → Allowed f s 2 (atomWidth f.b6) → Unticketed s (lanesAt f s (atomWidth f.b6)) →
      s.cur.resident = true →
      ∃ t x, SectorsOf (lanesAt f s (atomWidth f.b6)) x ∧ exec (.atom f) s = .next t ∧
        Issues (.atom f) s t { memOp f (.atomic f.sub f.b6) 2 (lanesAt f s (atomWidth f.b6)) x with
          dst := dests (rowFor 0x5C f) f
          args := (activeLanes f.u s.cur.exec).map fun l =>
            (l.val, s.cur.regs.raw f.cs (decide (atomWidth f.b6 = 8)) f.c l,
              if f.sub = 7 then s.cur.regs.raw f.cs (decide (atomWidth f.b6 = 8)) (f.c + BitVec.ofNat 8 (atomWidth f.b6 / 4)) l else 0) }
          0 s.cur.ctl.srstate) ∧
    (let e := s.ent f.cls
     (Instr.cld f).wellFormed = true → Ready 0x5A f s → entTRG e = false → entTUF e = false → entTNAN e = false →
      (entPlanes e = false → f.c = 0 → f.cs = false → Allowed f s 4 (clsWidth e) →
        ∃ t x, SectorsOf (lanesAt f s (clsWidth e)) x ∧ exec (.cld f) s = .next t ∧
          Issues (.cld f) s t { memOp f (.cload f.cls s.cur.ctl.srstate) 4 (lanesAt f s (clsWidth e)) x with
            dst := dests (rowFor 0x5A f) f } 0 (srAfter s f.cls)) ∧
      (entPlanes e = true → f.u = false → f.a = 0xFF → f.cs = true → ScalePair f.c →
        Readable s [⟨.s f.c, 3, f.fe.getLsbD 2⟩, ⟨.s (f.c + 1), 3, f.fe.getLsbD 2⟩] →
        (addrOf f s.cur.regs 0).toNat % 4 = 0 → Allowed f s 4 (4 * entMPL e) →
        s.checkLanes s.cur 4 ((activeLanes f.u s.cur.exec).map fun l => (l, s.cur.regs.getPair f.c, 1)) = none →
        ∃ t x, exec (.cld f) s = .next t ∧
          SectorsOf (lanesAt f s (4 * entMPL e) ++ (activeLanes f.u s.cur.exec).map fun l => ⟨l, locOf l (s.cur.regs.getPair f.c), 1⟩) x ∧
          Issues (.cld f) s t { memOp f (.cplane f.cls s.cur.ctl.srstate (s.cur.regs.getPair f.c)) 4 (lanesAt f s (4 * entMPL e)) x with
            dst := dests (rowFor 0x5A f) f } 0 (srAfter s f.cls)))

/-- R145: a CLD of a class that traps has read its data when it completes: the values, the flags, and the class trap with its
lanes. -/
def Sys2Proof.Spec.TrappingClassLoads : Prop :=
  ∀ (f : Fields) (s : State), Acts f s → (Instr.cld f).wellFormed = true → Ready 0x5A f s → f.c = 0 → f.cs = false →
    let e := s.ent f.cls
    entPlanes e = false → (entTRG e = true ∨ entTUF e = true ∨ entTNAN e = true) → Allowed f s 4 (clsWidth e) →
    (s.lchOf s.cur).img.det = false →
    NearBy s ((lanesAt f s (clsWidth e)).flatMap LaneReq.locs) →
    let out := fun (l : Fin 32) =>
      cloadOut e s.cur.ctl.srstate l.val ((byteLocs (locOf l (addrOf f s.cur.regs l)) (clsWidth e)).map (s.byteOf s.cur))
    let on := activeLanes f.u s.cur.exec
    ((∀ l ∈ on, (out l).trapping = false) → ∃ t, exec (.cld f) s = .next t ∧
      Completed (.cld f) s t (past (.cld f) s) 0 (clsBits f.cls (on.any fun l => (out l).range) (on.any fun l => (out l).under)) (srAfter s f.cls) ∧
      Result s.cur.regs t.cur.regs f.u false f.d s.cur.exec fun l => (0 : Word) ++ (out l).bits) ∧
    (let bad := on.filter fun l => (out l).trapping
     bad ≠ [] → Handles s → ∃ t, exec (.cld f) s = .next t ∧
      TrappedIn s t (clsCause (bad.flatMap fun l => [(out l).r0, (out l).r1])) (maskOf fun l => decide (l ∈ bad))
        (fun k l => if k = 0 then (0 : BitVec 24) ++ f.d
          else if k = 1 then BitVec.ofNat 32 ((out l).r0 + 256 * (out l).r1) else if k = 2 then (out l).bits else 0) ∧
      ∀ l, f.u = false → l ∉ bad → (t.cur.regs.getV f.d).get l =
        if maskBit s.cur.exec l then (out l).bits else (s.cur.regs.getV f.d).get l)

/-- R141, R143, R144, R147: ST, CST and RED of a launch that does not stage them issue a write of the bytes of their lanes; of two lanes that
write one byte the higher gives it. A plane block and its scale byte are pieces of their own; the code of a per-tensor class is the byte in
memory. Under MKIND 4 the scale byte is that of the lowest active lane's stack, checked with kind 4, and each lane has a block of its own in
the stack window: the model's reading (log 56). The writes that a deterministic launch stages are not stated here. -/
def Obligations.WritesIssue : Prop :=
  ∀ (f : Fields) (s : State), Acts f s →
    ((Instr.st f).wellFormed = true → Ready 0x59 f s →
      let w := sizeBytes f.sub
      let lanes := lanesAt f s w
      let data := lanes.map fun r => (r, ((List.range 4).flatMap fun k =>
        bytesOfWord (if f.cs then s.cur.regs.getS (f.c + BitVec.ofNat 8 k) else (s.cur.regs.getV (f.c + BitVec.ofNat 8 k)).get r.lane)).take w)
      Allowed f s 1 w → Unticketed s lanes →
      ∃ t x d, SectorsOf lanes x ∧ (∀ a, byteAt d a = storeByte data a) ∧ exec (.st f) s = .next t ∧
        Issues (.st f) s t { memOp f .store 1 lanes x with data := d } 0 s.cur.ctl.srstate) ∧
    ((Instr.red f).wellFormed = true → Ready 0x5D f s →
      let w := atomWidth f.b6
      let lanes := lanesAt f s w
      Allowed f s 3 w → Unticketed s lanes →
      ∃ t x, SectorsOf lanes x ∧ exec (.red f) s = .next t ∧
        Issues (.red f) s t { memOp f (.atomic f.sub f.b6) 3 lanes x with
          args := (activeLanes f.u s.cur.exec).map fun l => (l.val, s.cur.regs.raw f.cs (decide (w = 8)) f.c l, 0) }
          0 s.cur.ctl.srstate) ∧
    (let e := s.ent f.cls
     let srs := s.cur.ctl.srstate
     (Instr.cst f).wellFormed = true → Ready 0x5B f s →
      (entPlanes e = false → f.d = 0 →
        let lanes := lanesAt f s (clsWidth e)
        let out := fun (l : Fin 32) => cstOut e srs l.val (clsElems e (rawC f s.cur.regs false l))
        let on := activeLanes f.u s.cur.exec
        Allowed f s 5 (clsWidth e) → Unticketed s lanes → (∀ l ∈ on, (out l).r0 = 0 ∧ (out l).r1 = 0) →
        ∃ t x d, SectorsOf lanes x ∧ (∀ a, byteAt d a = storeByte (lanes.map fun r => (r, (out r.lane).bytes)) a) ∧
          exec (.cst f) s = .next t ∧ Issues (.cst f) s t { memOp f .store 5 lanes x with data := d }
            (clsBits f.cls (on.any fun l => (out l).range) (on.any fun l => (out l).under)) (srAfter s f.cls)) ∧
      (entPlanes e = true → 0 < entMPL e → f.u = false → f.a = 0xFF → ScalePair f.d →
        Readable s [⟨.s f.d, 0, false⟩, ⟨.s (f.d + 1), 0, false⟩] →
        let base := addrOf f s.cur.regs 0
        let scale := s.cur.regs.getPair f.d
        let n := entMPL e
        let on := activeLanes f.u s.cur.exec
        let xs := laneList.map fun l =>
          if maskBit s.cur.exec l then (clsElems e (rawC f s.cur.regs false l)).headD (.zero false) else .zero false
        -- one block; in the stack window one in each lane's own stack (R137)
        let at' := fun (x : DWord) (w : Nat) => (if window (x.toNat % 2 ^ 56) = 0xFD then on else on.take 1).map fun l => (⟨l, locOf l x, w⟩ : LaneReq)
        let blocks := at' base (4 * n)
        let codes := at' scale 1
        let words := fun (q : Quant) => blocks.map fun r => (r, (planesOf n q.qs).flatMap bytesOfWord)
        base.toNat % 4 = 0 → Allowed f s 5 (4 * n) → Unticketed s blocks →
        (entMKIND e = 3 →
          let q := quantBlock e srs n xs
          q.reason = 0 → s.checkLanes s.cur 5 (on.map fun l => (l, scale, 1)) = none → Unticketed s codes →
          ∃ t x y d c, SectorsOf blocks x ∧ SectorsOf codes y ∧ exec (.cst f) s = .next t ∧
            (∀ a, byteAt d a = storeByte (words q) a) ∧ (∀ a, byteAt c a = storeByte (codes.map fun r => (r, [BitVec.ofNat 8 q.code])) a) ∧
            IssuesAll (.cst f) s t [{ memOp f .store 5 blocks x with data := d },
              { memOp f .store 5 codes y with data := c, first := some s.cur.pend.nextId }]
              (clsBits f.cls q.range q.under) (srAfter s f.cls)) ∧
        (entMKIND e = 4 → s.checkLanes s.cur 4 (on.map fun l => (l, scale, 1)) = none → (s.lchOf s.cur).img.det = false →
          ∀ l, on.head? = some l → NearBy s [locOf l scale] →
          let q := quantTensor e srs n (s.byteOf s.cur (locOf l scale)).toNat xs
          q.reason = 0 →
          ∃ t x d, SectorsOf blocks x ∧ exec (.cst f) s = .next t ∧ (∀ a, byteAt d a = storeByte (words q) a) ∧
            Issues (.cst f) s t { memOp f .store 5 blocks x with data := d } (clsBits f.cls q.range q.under) (srAfter s f.cls))))

end

namespace Sys2Proof.Spec

open Sys2Proof.Machine

/-! ## Operations in flight (R139 to R142, R149 to R156) -/

/-- The operation is the group's own, with unique numbers, and no older operation of its split that has a piece left in the sector
touches a byte of it (R142). -/
def Next (s : State) (o : MemOp) (x : Nat) : Prop :=
  s.cur.resident = true ∧ o ∈ s.cur.pend.mem ∧ (s.cur.pend.mem.map (·.id)).Nodup ∧ x ∈ o.left ∧
  ∀ p ∈ s.cur.pend.mem, p.split = o.split → p.id < o.id → x ∈ p.left → ∀ a ∈ p.locs, a / 32 = x → a ∉ o.locs

/-- The group's other operations, registers, splits and the memories of the package are the same. -/
def OnlyOp (s t : State) (id : Nat) : Prop :=
  (t.cur.pend.mem.filter fun o => o.id ≠ id) = (s.cur.pend.mem.filter fun o => o.id ≠ id) ∧
  t.cur.pend.cp = s.cur.pend.cp ∧ t.cur.pend.ga = s.cur.pend.ga ∧ t.cur.pend.held = s.cur.pend.held ∧
  t.cur.ctl = s.cur.ctl ∧ t.others = s.others

/-- The words that lane `r` of a load receives (R140). -/
def loaded (sub : BitVec 4) (bytes : List Byte) : List Word :=
  let n := leNat bytes
  if sub = 0 ∨ sub = 2 ∨ sub = 4 then [BitVec.ofNat 32 n] else if sub = 1 then [(BitVec.ofNat 8 n).signExtend 32]
  else if sub = 3 then [(BitVec.ofNat 16 n).signExtend 32]
  else (List.range (if sub = 5 then 2 else 4)).map fun k => BitVec.ofNat 32 (n / 2 ^ (32 * k))

/-- The words that a lane of a read receives, from the bytes as they stand: of a load, of a class load, of a plane block. -/
def arrived (s : State) (o : MemOp) (r : LaneReq) : List Word :=
  let bytes := r.locs.map (s.byteOf s.cur)
  match o.kind with
  | .load sub => loaded sub bytes
  | .cload c srs => [(cloadOut (s.ent c) srs r.lane.val bytes).bits]
  | .cplane c srs scale => [(cplaneOut (s.ent c) srs r.lane.val (wordsOf bytes (entMPL (s.ent c)))
      (s.byteOf s.cur (locOf r.lane scale)).toNat).bits]
  | _ => []

/-- The `$clsflags` that a lane of a read raises. -/
def arrivedFlags (s : State) (o : MemOp) (r : LaneReq) : Word :=
  let bytes := r.locs.map (s.byteOf s.cur)
  match o.kind with
  | .cload c srs => let x := cloadOut (s.ent c) srs r.lane.val bytes; clsBits c x.range x.under
  | .cplane c srs scale =>
    let x := cplaneOut (s.ent c) srs r.lane.val (wordsOf bytes (entMPL (s.ent c))) (s.byteOf s.cur (locOf r.lane scale)).toNat
    clsBits c x.range x.under
  | _ => 0

/-- The bytes of a sector are read as they stand: it is no part of device memory, or the core holds no copy of it, or the
access is wider than the core; and neither does the block see pieces before their home, nor may a split miss a write of another. -/
def Fresh (s : State) (o : MemOp) (x : Nat) : Prop :=
  (∀ e n, s.placeOf s.cur (x * 32) ≠ .remote e n) ∧ s.placeOf s.cur (x * 32) ≠ .absent ∧
  (s.lchOf s.cur).img.det = false ∧ Homed s ∧ s.cur.shadow = [] ∧
  (o.scope.wide = true ∨ ∀ pa e, s.placeOf s.cur (x * 32) = .mem pa e → ∀ c ∈ s.mem.l1, c.core = s.coreOf s.cur → c.sector ≠ pa / 32)

/-- Nothing of the group but its counter, engine lists and the entry of the running split has changed, and nothing of the
package's memories, and of its launches at most the order of staged writes. -/
def Engaged (i : Instr) (s t : State) : Prop :=
  t.cur.sp = { s.cur.sp with pc := past i s, half := false, sig := sigAfter i s } ∧
  (∀ n, n ≠ s.cur.running → t.cur.entry n = s.cur.entry n) ∧ t.cur.ctl = s.cur.ctl ∧
  t.cur.regs.v = s.cur.regs.v ∧ t.cur.regs.s = s.cur.regs.s ∧ t.cur.regs.k = s.cur.regs.k ∧ t.cur.pend.mem = s.cur.pend.mem ∧
  t.blocks = s.blocks ∧ (t.launches.map fun l => { l with orders := 0 }) = (s.launches.map fun l => { l with orders := 0 }) ∧
  t.mem.bytes = s.mem.bytes ∧ t.mem.poison = s.mem.poison

/-- The instruction waits at issue: nothing but the scheduler's mark on the split has changed. -/
def Waits (s t : State) : Prop := t = s.onSp fun e => { e with stall := true }

/-- A release of a scope waits for a piece of a write (R139, R149, R195, R206): of a peer's memory at `.sys` alone; of device memory
at `.dev` or wider, at `.grp`, of which the group itself is the whole instance, for none, and between for reductions alone, since the block
or the gang sees stores that are written through L1; of the core's own memories always. -/
def ReleaseWaits (s : State) (sc : Scope) (o : MemOp) (x : Nat) : Prop :=
  match s.placeOf s.cur (x * 32) with
  | .remote _ _ => sc = .sys
  | .mem _ _ => sc = .dev ∨ sc = .sys ∨ ((sc = .blk ∨ sc = .gang) ∧ o.kind ≠ .store)
  | _ => True

/-- The running split's outstanding accesses that a fence waits for (R149): earlier reads, and for release what its scope covers
of the writes. -/
def Outstanding (s : State) (acq rel : Bool) (sc : Scope) : Prop :=
  ∃ o ∈ s.cur.pend.mem, o.split = .entry s.cur.running ∧
    ((acq = true ∨ rel = true) ∧ o.returns = true ∨ rel = true ∧ ∃ x ∈ o.left, ReleaseWaits s sc o x)

/-- Outstanding operations are the same but for which pieces their block or gang sees. -/
def SamePending (s t : State) : Prop :=
  t.cur.pend = { s.cur.pend with mem := t.cur.pend.mem } ∧
  (t.cur.pend.mem.map fun o => { o with near := [], nearAt := 0, nearSc := .blk }) = s.cur.pend.mem.map fun o => { o with near := [], nearAt := 0, nearSc := .blk }

/-- The core's copies of sectors are the same but for the bytes of its own stores. -/
def SameCopies (s t : State) : Prop :=
  (t.mem.l1.map fun c => (c.core, c.sector)) = (s.mem.l1.map fun c => (c.core, c.sector)) ∧
  ∀ c, c.core ≠ s.coreOf s.cur → (c ∈ t.mem.l1 ↔ c ∈ s.mem.l1)

/-- A fence waits: nothing but the scheduler's mark on the split has changed, and what its block or gang sees of its stores. -/
def FenceWaits (s t : State) : Prop :=
  t = { s with fresh := t.fresh, mem := { s.mem with l1 := t.mem.l1 }
               cur := { s.cur with splits := t.cur.splits, pend := t.cur.pend, shadow := t.cur.shadow } } ∧ SamePending s t ∧ SameCopies s t ∧
  t.cur.sp = { s.cur.sp with stall := true } ∧ ∀ n, n ≠ s.cur.running → t.cur.entry n = s.cur.entry n

/-- The sources of PREF raise nothing (R154): each holds data that carries no mark, or what a read of it would raise is no cause of
PREF's. -/
def Unmarked (s : State) (l : List Src) : Prop :=
  ∀ x ∈ l, s.cur.regs.poisoned x.reg = false ∧ (s.cur.regs.stOf x.reg = .empty → x.fe = true ∨ s.cur.producing x.reg = false)

/-- The lowest byte address of a lane in a sector (R138). -/
def lowestIn (r : LaneReq) (x : Nat) : Nat := (r.locs.find? fun a => decide (a / 32 = x)).getD r.loc

/-- No failure is held for the running split (R150). -/
def NoneHeld (s : State) : Prop := ∀ h ∈ s.cur.pend.held, h.split ≠ .entry s.cur.running

/-- The check of R138 of `n` bytes at an address by one lane. -/
def RangeOk (s : State) (acc : Nat) (a : DWord) (n : Nat) : Prop := s.checkLanes s.cur acc [(0, a, n)] = none

/-- The bytes of an operand range stand in the scratchpad of one block, in order from an offset. -/
def InScratch (s : State) (loc n block off : Nat) : Prop :=
  (s.block? s.cur.launch s.cur.run block).isSome = true ∧
  ∀ k < n, s.placeOf s.cur (loc + k) = .scratch block (off + k)

/-- A byte of a block's scratchpad in the launch and run of the running group. -/
def scratchByte (s : State) (block off : Nat) : Byte :=
  ((s.block? s.cur.launch s.cur.run block).map fun b => b.scratch.read off).getD 0

/-- Every byte of the scratchpads of a launch and run but those of a range is the same. -/
def ScratchSame (s t : State) (block off n : Nat) : Prop :=
  ∀ b o, ¬ (b = block ∧ off ≤ o ∧ o < off + n) → scratchByte t b o = scratchByte s b o

end Sys2Proof.Spec

section
open Sys2Proof Sys2Proof.Machine Sys2Proof.Spec

/-- R10, R140, R143, R144, R146: an arrival leaves the destinations EMPTY while every lane misses a piece. When the last piece of a read whose
lanes lie in one sector arrives, each lane holds its value and the destinations are FULL; a returning atomic has changed memory and delivers
the old value; everything else is the same. That the flags of a class load appear in CLSFLAGS of its split as the data arrive is the model's
reading (log 137). Reads over several sectors of which some lanes are refused are not stated here. -/
def Obligations.ReadsDeliver : Prop :=
  ∀ (s : State) (o : MemOp) (x : Nat), Next s o x → Fresh s o x → o.hold = false → o.nacked = 0 → o.timed = 0 → o.done = 0 →
    (∀ a, a / 32 = x → s.markedAt s.cur a = false) → (o.lanes.map (·.lane)).Nodup →
    (∀ sub, o.kind = .load sub → o.lanes ≠ [] → (∀ r ∈ o.lanes, ∃ a ∈ r.locs, ∃ y ∈ o.left, y ≠ x ∧ a / 32 = y) →
      ∃ t, exec (.loadSectorArrival s.cur.ref o.id x) s = .next t ∧ OnlyOp s t o.id ∧ t.cur.regs = s.cur.regs ∧ t.cur.splits = s.cur.splits ∧
        ∃ p ∈ t.cur.pend.mem, p.id = o.id ∧ p.left = o.left.filter (· ≠ x) ∧
          ∀ a, a / 32 = x → byteAt p.got a = some (s.byteOf s.cur a)) ∧
    (∀ u d k, o.kind.loads = true → o.left = [x] → (∀ a ∈ o.locs, a / 32 = x) → k ≤ 4 → o.dst = regsFrom u k d → d.toNat + k ≤ (if u then 64 else 256) →
      (u = true → o.lanes.length = 1) → (∀ r ∈ o.lanes, (arrived s o r).length = k) →
      ∃ t, exec (.loadSectorArrival s.cur.ref o.id x) s = .next t ∧ OnlyOp s t o.id ∧ (∀ p ∈ t.cur.pend.mem, p.id ≠ o.id) ∧
        (∀ y ∈ o.dst, t.cur.regs.stOf y = .full) ∧
        (∀ j < k, if u then ∀ r ∈ o.lanes, t.cur.regs.getS (d + BitVec.ofNat 8 j) = (arrived s o r).getD j 0
          else ∀ l, (t.cur.regs.getV (d + BitVec.ofNat 8 j)).get l = match o.lanes.find? (fun r => r.lane = l) with
            | some r => (arrived s o r).getD j 0
            | none => (s.cur.regs.getV (d + BitVec.ofNat 8 j)).get l) ∧
        (let ds := (List.range k).map fun j => d + BitVec.ofNat 8 j
         VSame s.cur.regs t.cur.regs (if u then [] else ds) ∧ SSame s.cur.regs t.cur.regs (if u then ds else []) ∧ KSame s.cur.regs t.cur.regs []) ∧
        (∀ n, o.split = .entry n → t.blocks = s.blocks ∧
          (t.cur.entry n).clsf = (s.cur.entry n).clsf ||| o.lanes.foldl (fun w r => w ||| arrivedFlags s o r) 0) ∧
        (∀ n, t.cur.entry n = { s.cur.entry n with clsf := (t.cur.entry n).clsf }) ∧ (∀ n, o.split ≠ .entry n → t.cur.entry n = s.cur.entry n) ∧
        ∀ a, t.mem.bytes.read a = s.mem.bytes.read a) ∧
    (∀ op typ u d l a b c, o.kind = .atomic op typ → o.left = [x] → o.lanes = [⟨l, a, atomWidth typ⟩] → a / 32 = x → a % 32 + atomWidth typ ≤ 32 →
      o.dst = regsFrom u (atomWidth typ / 4) d → d.toNat + atomWidth typ / 4 ≤ (if u then 64 else 256) → o.args = [(l.val, b, c)] →
      ∀ bl off, InScratch s a (atomWidth typ) bl off →
      (∃ n, s.placeOf s.cur (x * 32) = .scratch bl n) →
      let old := leNat ((byteLocs a (atomWidth typ)).map (s.byteOf s.cur))
      ∃ t, exec (.loadSectorArrival s.cur.ref o.id x) s = .next t ∧ OnlyOp s t o.id ∧ (∀ p ∈ t.cur.pend.mem, p.id ≠ o.id) ∧
        (∀ y ∈ o.dst, t.cur.regs.stOf y = .full) ∧ t.cur.splits = s.cur.splits ∧
        (∀ j < atomWidth typ / 4, if u then t.cur.regs.getS (d + BitVec.ofNat 8 j) = BitVec.ofNat 32 (old / 2 ^ (32 * j))
          else ∀ m, (t.cur.regs.getV (d + BitVec.ofNat 8 j)).get m =
            if m = l then BitVec.ofNat 32 (old / 2 ^ (32 * j)) else (s.cur.regs.getV (d + BitVec.ofNat 8 j)).get m) ∧
        leNat ((List.range (atomWidth typ)).map fun k => scratchByte t bl (off + k)) = atomNew op typ old b.toNat c.toNat % 2 ^ (8 * atomWidth typ) ∧
        ScratchSame s t bl off (atomWidth typ) ∧ t.mem = s.mem)

/-- R139, R141: a piece of a store is performed whole with its bytes; every other byte is the same. -/
def Obligations.StoresPerform : Prop :=
  ∀ (s : State) (o : MemOp) (x : Nat), Next s o x → o.kind = .store → o.dst = [] → o.hold = false → o.bad = [] → Homed s →
    (s.lchOf s.cur).img.det = false →
    let byte := fun (a : Nat) => (o.data.reverse.find? fun p => p.1 = a).map (·.2)
    (∀ bl off, InScratch s (x * 32) 32 bl off →
      ∃ t, exec (.storePerformed s.cur.ref o.id x) s = .next t ∧ OnlyOp s t o.id ∧ t.cur.splits = s.cur.splits ∧ t.cur.regs = s.cur.regs ∧ t.mem = s.mem ∧
        (∀ k < 32, scratchByte t bl (off + k) = (byte (x * 32 + k)).getD (scratchByte s bl (off + k))) ∧ ScratchSame s t bl off 32 ∧
        (o.left = [x] → ∀ p ∈ t.cur.pend.mem, p.id ≠ o.id)) ∧
    (∀ pa e, s.placeOf s.cur (x * 32) = .mem pa e → pa % 32 = 0 → s.mem.refuses s.s0 (pa / 32) = false →
      (∀ k < 32, s.placeOf s.cur (x * 32 + k) = .mem (pa + k) e) →
      ∃ t, exec (.storePerformed s.cur.ref o.id x) s = .next t ∧ OnlyOp s t o.id ∧ t.cur.splits = s.cur.splits ∧ t.cur.regs = s.cur.regs ∧ t.blocks = s.blocks ∧
        (∀ k < 32, t.mem.bytes.read (pa + k) = (byte (x * 32 + k)).getD (s.mem.bytes.read (pa + k))) ∧
        (∀ a, ¬ (pa ≤ a ∧ a < pa + 32) → t.mem.bytes.read a = s.mem.bytes.read a) ∧
        (o.left = [x] → ∀ p ∈ t.cur.pend.mem, p.id ≠ o.id))

/-- R149, R150, R153, R154: FENCE completes when what it waits for has completed, and waits otherwise; a fence that acquires at a wide scope
drops the core's L1; WAITCNT waits for its counter; CNTRD reads one; PREF changes no register and no byte, raises nothing for a register
that holds no data, and what it brings are copies of memory. That FENCE itself waits at issue is the model's reading (log 40), and that a
release narrower than .dev makes stores visible to its scope and waits for none of them that is, its choice (log 148). -/
def Obligations.FencesAndCounters : Prop :=
  ∀ (f : Fields) (s : State),
    ((Instr.fence f).wellFormed = true →
      (¬ Outstanding s true false .grp → ∃ t, exec (.fence f) s = .next t ∧ Plain (.fence f) s t ∧ SameRegs s t) ∧
      (Outstanding s true false .grp → ∃ t, exec (.fence f) s = .next t ∧ Waits s t)) ∧
    ((Instr.fenceExt f).wellFormed = true →
      let acq := decide (f.sub = 0 ∨ f.sub = 2)
      let rel := decide (f.sub = 1 ∨ f.sub = 2)
      let sc := Scope.ofCode f.mod3
      (rel = true → Homed s) →
      (Outstanding s acq rel sc → ∃ t, exec (.fenceExt f) s = .next t ∧ FenceWaits s t) ∧
      (¬ Outstanding s acq rel sc → (rel = true → sc = .sys → NoneHeld s) → ∃ t, exec (.fenceExt f) s = .next t ∧ SameRegs s t ∧
        SamePending s t ∧ t.cur.sp = { s.cur.sp with pc := past (.fenceExt f) s, half := false, sig := sigAfter (.fenceExt f) s } ∧
        (∀ n, n ≠ s.cur.running → t.cur.entry n = s.cur.entry n) ∧ t.cur.ctl = s.cur.ctl ∧ t.blocks = s.blocks ∧
        t.mem = { s.mem with l1 := t.mem.l1 } ∧ (acq = true → sc.wide = true → ∀ c ∈ t.mem.l1, c.core ≠ s.coreOf s.cur) ∧
        (∀ c, c.core ≠ s.coreOf s.cur → (c ∈ t.mem.l1 ↔ c ∈ s.mem.l1)) ∧ (acq = false ∨ sc.wide = false → SameCopies s t) ∧
        (rel = false ∨ sc = .grp ∨ sc = .dev ∨ sc = .sys →
          ∀ c, c ∈ t.mem.l1 ↔ c ∈ s.mem.l1 ∧ ¬ (acq = true ∧ sc.wide = true ∧ c.core = s.coreOf s.cur)))) ∧
    ((Instr.waitcnt f).wellFormed = true → Ready 0x63 f s → f.d.toNat ≤ 63 → NoneHeld s →
      (s.cur.count f.a.toNat ≤ f.d.toNat → ∃ t, exec (.waitcnt f) s = .next t ∧ Plain (.waitcnt f) s t ∧ SameRegs s t) ∧
      (f.d.toNat < s.cur.count f.a.toNat → ∃ t, exec (.waitcnt f) s = .next t ∧ t.cur.sp = { s.cur.sp with half := true, stall := true } ∧
        t.cur.regs = s.cur.regs ∧ t.cur.pend = s.cur.pend ∧ t.mem = s.mem ∧ t.blocks = s.blocks)) ∧
    ((Instr.cntrd f).wellFormed = true → Ready 0x64 f s → ∃ t, exec (.cntrd f) s = .next t ∧ Plain (.cntrd f) s t ∧
      SResult s.cur.regs t.cur.regs f.d (BitVec.ofNat 32 (s.cur.count f.a.toNat))) ∧
    ((Instr.pref f).wellFormed = true → Acts f s → fieldErr s.limits (rowFor 0x61 f) f = none → Unmarked s (sources (rowFor 0x61 f) f) → ∃ t, exec (.pref f) s = .next t ∧ SameRegs s t ∧
      t.cur.sp = { s.cur.sp with pc := past (.pref f) s, half := false, sig := sigAfter (.pref f) s } ∧
      (∀ n, n ≠ s.cur.running → t.cur.entry n = s.cur.entry n) ∧ t.cur.ctl = s.cur.ctl ∧ t.cur.pend = s.cur.pend ∧
      t.blocks = s.blocks ∧ t.mem = { s.mem with l1 := t.mem.l1 } ∧ (f.sub = 0 → t.mem.l1 = s.mem.l1) ∧
      ∀ c ∈ t.mem.l1, c ∈ s.mem.l1 ∨ (c.core = s.coreOf s.cur ∧ c.bytes = s.mem.bytes.readN (c.sector * 32) 32))

/-- R150: a remote store that fails leaves its failure held for the split; a covering WAITCNT or releasing FENCE at `.sys` raises the oldest
one as REMOTE_ACCESS with the peer's code, or as REMOTE_TIMEOUT, and it is held no longer. -/
def Obligations.RemoteFailuresAreHeld : Prop :=
  (∀ (s : State) (o : MemOp) (x nack : Nat), s.cur.resident = true → o ∈ s.cur.pend.mem → (s.cur.pend.mem.map (·.id)).Nodup →
    o.kind = .store → o.dst = [] → o.hold = false → o.left = [x] → o.nacked = 0 → o.timed = 0 → o.bad = [] → o.nackCode = 0 → o.lanes ≠ [] →
    o.first = none → (∀ h ∈ s.cur.pend.held, h.id ≠ o.id) →
    (∀ r ∈ o.lanes, ∃ a ∈ r.locs, a / 32 = x) → (s.remoteOf s.cur x).isSome = true →
    ∃ t, exec (.remoteStoreFailure s.cur.ref o.id nack) s = .next t ∧ (∀ p ∈ t.cur.pend.mem, p.id ≠ o.id) ∧
      t.cur.pend.held = s.cur.pend.held ++ [⟨o.id, o.split, o.lanes.map (fun r => (r.lane, lowestIn r x)), o.acc, nack⟩] ∧
      t.cur.regs = s.cur.regs ∧ t.cur.splits = s.cur.splits ∧ t.blocks = s.blocks ∧
      (∀ r ∈ t.fabric.reqs, ∀ y, r.owner ≠ .mem s.cur.ref o.id y) ∧
      ((∀ r ∈ s.fabric.reqs, ∀ y, r.owner ≠ .mem s.cur.ref o.id y) → t.mem = s.mem)) ∧
  (∀ (i : Instr) (f : Fields) (s : State) (h : HeldFail) (l : Fin 32) (loc : Nat), i.wellFormed = true → Handles s →
    (i = .waitcnt f ∧ Ready 0x63 f s ∧ f.d.toNat ≤ 63 ∧ s.cur.sp.half = false) ∨
      (i = .fenceExt f ∧ (f.sub = 1 ∨ f.sub = 2) ∧ Scope.ofCode f.mod3 = .sys ∧ ¬ Outstanding s true true .sys ∧ Homed s ∧ h.acc ≠ 8) →
    h ∈ s.cur.pend.held → h.split = .entry s.cur.running → (∀ y ∈ s.cur.pend.held, y ≠ h → y.split = .entry s.cur.running → h.id < y.id) →
    h.lanes = [(l, loc)] →
    ∃ t, exec i s = .next t ∧ SameRegs s t ∧ t.cur.pend.held = s.cur.pend.held.filter (· ≠ h) ∧
      TrappedIn s t (if h.nack = 0 then Cause.remoteTimeout else Cause.remoteAccess) (maskOf fun m => decide (m = l)) fun k _ =>
        if k = 0 then addrLo (addrOfLoc loc) else if k = 1 then addrHi (addrOfLoc loc)
        else if k = 2 then BitVec.ofNat 32 h.acc else BitVec.ofNat 32 h.nack)

/-- R24, R151, R152: CPASYNC and GATHER enter their engine with the ranges of their operands; the copy's token becomes EMPTY. They
wait while 63 of their class are outstanding. -/
def Sys2Proof.Spec.EnginesTakeWork : Prop :=
  ∀ (f : Fields) (s : State), s.cur.resident = true → s.cur.pend.mem = [] → Homed s →
    ((Instr.cpasync f).wellFormed = true → Ready 0x5F f s →
      let dst := s.cur.regs.getPair f.a
      let src := s.cur.regs.getPair f.b
      let n := f.w2.toNat
      let obj := s.cur.regs.getPair f.c
      dst.toNat % 4 = 0 → src.toNat % 4 = 0 → n % 4 = 0 → 4 ≤ n → n ≤ 65536 → RangeOk s 6 src n → RangeOk s 7 dst n →
      (f.sub = 1 → obj.toNat % 16 = 0 ∧ RangeOk s 10 obj 16) →
      (s.cur.pend.cp.length < 63 → ∃ t c, exec (.cpasync f) s = .next t ∧ Engaged (.cpasync f) s t ∧ t.cur.pend.ga = s.cur.pend.ga ∧
        t.cur.pend.cp = s.cur.pend.cp ++ [c] ∧ c.id = s.cur.pend.nextId ∧ c.src = src.toNat % 2 ^ 56 ∧ c.dst = dst.toNat % 2 ^ 56 ∧ c.count = n ∧
        c.token = f.d ∧ c.dab = (if f.sub = 1 then some (obj.toNat % 2 ^ 56) else none) ∧ c.left = sectorSet (byteLocs (dst.toNat % 2 ^ 56) n) ∧
        c.sent = [] ∧ c.fail = .full ∧ t.cur.regs.stOf (.s f.d) = .empty) ∧
      (63 ≤ s.cur.pend.cp.length → ∃ t, exec (.cpasync f) s = .next t ∧ Waits s t)) ∧
    ((Instr.gather f).wellFormed = true → Acts f s → Ready 0x60 f s → f.a ≠ 0xFF →
      let n := f.w2.toNat
      let dst := s.cur.regs.getPair f.c
      let src := fun (l : Fin 32) => s.cur.regs.getPair f.b + ((0 : Word) ++ (s.cur.regs.getV f.a).get l)
      let on := laneList.filter (maskBit s.cur.exec)
      dst.toNat % 4 = 0 → n % 4 = 0 → 4 ≤ n → n ≤ 4096 → s.checkLanes s.cur 8 (on.map fun l => (l, src l, n)) = none →
      s.checkLanes s.cur 9 (on.map fun l => (l, dst + BitVec.ofNat 64 (l.val * n), n)) = none →
      (s.cur.pend.ga.length < 63 → ∃ t o, exec (.gather f) s = .next t ∧ Engaged (.gather f) s t ∧ t.cur.pend.cp = s.cur.pend.cp ∧
        t.cur.pend.ga = s.cur.pend.ga ++ [o] ∧ o.id = s.cur.pend.nextId ∧ o.rows = n ∧ o.dst = dst.toNat % 2 ^ 56 ∧
        o.srcs = on.map (fun l => (l, (src l).toNat % 2 ^ 56)) ∧ o.failed = []) ∧
      (63 ≤ s.cur.pend.ga.length → ∃ t, exec (.gather f) s = .next t ∧ Waits s t))

/-- R151, R152, R163: a copy's piece moves the source bytes of a destination sector; the oldest copy retires with the count in its
token, or with the failure as the token's state; a gather's piece brings the bytes of the rows that reach it; the oldest gather
retires when its pieces are written. A peer that refuses, or does not answer, a read of a gather's rows leaves the failure of those rows
held from then on (R150); that several failed sectors of one gather are held as one failure, a timeout as soon as one is, is log 50. -/
def Sys2Proof.Spec.EnginesComplete : Prop :=
  ∀ (s : State), s.cur.resident = true → (s.lchOf s.cur).img.det = false →
    (∀ (c : CopyOp) (x bl off : Nat), c ∈ s.cur.pend.cp → (s.cur.pend.cp.map (·.id)).Nodup → x ∈ c.left → x ∉ c.sent → c.dab = none →
      (∀ o ∈ s.cur.pend.ga, o.id ≠ c.id) → c.orig = [] → c.waitSrc = [] → c.got = [] → c.marked = [] → InScratch s (x * 32) 32 bl off → x * 32 + 32 ≤ 2 ^ 56 → c.src < 2 ^ 56 → c.dst < 2 ^ 56 →
      (∀ d ∈ c.dstLocs x, (s.remoteOf s.cur (c.srcLoc d / 32)) = none ∧ s.markedAt s.cur (c.srcLoc d) = false) →
      ∃ t, exec (.copyPieceWritten s.cur.ref c.id x) s = .next t ∧ t.mem = s.mem ∧ t.cur.regs = s.cur.regs ∧ t.cur.splits = s.cur.splits ∧
        (∀ k < 32, scratchByte t bl (off + k) =
          if x * 32 + k ∈ c.dstLocs x then s.byteOf s.cur (c.srcLoc (x * 32 + k)) else scratchByte s bl (off + k)) ∧
        ScratchSame s t bl off 32 ∧
        t.cur.pend.cp = s.cur.pend.cp.map fun p => if p.id = c.id then { p with left := p.left.filter (· ≠ x) } else p) ∧
    (∀ (c : CopyOp) (cs : List CopyOp), s.cur.pend.cp = c :: cs → c.left = [] → c.waitSrc = [] → c.token.toNat < 64 →
      ∃ t, exec (.copyRetire s.cur.ref) s = .next t ∧ t.cur.pend = { s.cur.pend with cp := cs } ∧ t.cur.regs.stOf (.s c.token) = c.fail ∧
        t.cur.regs.getS c.token = (if c.fail = .full then BitVec.ofNat 32 c.count else s.cur.regs.getS c.token) ∧
        SSame s.cur.regs t.cur.regs [c.token] ∧ VSame s.cur.regs t.cur.regs [] ∧ KSame s.cur.regs t.cur.regs [] ∧
        t.cur.splits = s.cur.splits ∧ t.mem = { s.mem with l1 := t.mem.l1 } ∧ (∀ x ∈ t.mem.l1, x ∈ s.mem.l1) ∧ t.blocks = s.blocks) ∧
    (∀ (o : GatherOp) (x bl off : Nat), o ∈ s.cur.pend.ga → (s.cur.pend.ga.map (·.id)).Nodup → (∀ c ∈ s.cur.pend.cp, c.id ≠ o.id) →
      x ∈ o.left → o.waitSrc = [] → o.failed = [] → o.marked = [] →
      (o.srcs.map (·.1)).Nodup → (∀ p ∈ o.srcs, p.2 < 2 ^ 56) → o.dst + 32 * o.rows < 2 ^ 56 → InScratch s (x * 32) 32 bl off →
      (∀ p ∈ o.srcs, ∀ a ∈ byteLocs p.2 o.rows, s.markedAt s.cur a = false) →
      ∃ t, exec (.copyPieceWritten s.cur.ref o.id x) s = .next t ∧ t.cur.regs = s.cur.regs ∧ t.cur.splits = s.cur.splits ∧ t.mem = s.mem ∧
        (∀ p ∈ o.srcs, ∀ k < o.rows, (o.dst + p.1.val * o.rows + k) / 32 = x →
          scratchByte t bl (off + (o.dst + p.1.val * o.rows + k) % 32) =
            (byteAt o.got ((p.2 + k) % 2 ^ 56)).getD (s.byteOf s.cur ((p.2 + k) % 2 ^ 56))) ∧
        (∀ k < 32, (∀ p ∈ o.srcs, ¬ (o.dst + p.1.val * o.rows ≤ x * 32 + k ∧ x * 32 + k < o.dst + (p.1.val + 1) * o.rows)) →
          scratchByte t bl (off + k) = scratchByte s bl (off + k)) ∧ ScratchSame s t bl off 32 ∧
        t.cur.pend.ga = s.cur.pend.ga.map fun p => if p.id = o.id then { p with left := p.left.filter (· ≠ x) } else p) ∧
    (∀ (o : GatherOp) (os : List GatherOp), s.cur.pend.ga = o :: os → o.waitSrc = [] → o.left = [] →
      exec (.gatherRetire s.cur.ref) s = .next { s with cur := { s.cur with pend := { s.cur.pend with ga := os } } }) ∧
    (∀ (o : GatherOp) (r : OutReq) (x : Nat), o ∈ s.cur.pend.ga → (s.cur.pend.ga.map (·.id)).Nodup → r ∈ s.fabric.reqs →
      (s.fabric.reqs.map (·.id)).Nodup → r.owner = .gatherRead s.cur.ref o.id x → o.timed = false → o.nackCode = 0 →
      (∀ h ∈ s.cur.pend.held, h.id ≠ o.id) →
      let rows := o.srcs.filterMap fun p => ((byteLocs p.2 o.rows).find? fun a => a / 32 = x).map fun a => (p.1, a)
      let due := r.sent + s.fabric.tRemote * 47000 ≤ s.cycle.toNat
      rows ≠ [] →
      (∀ c, 1 ≤ c → c ≤ 6 → ¬ due → (∃ p ∈ s.fabric.ports, p.st = .active) → ∃ t, exec (.remoteReply r.id (.nack c)) s = .next t ∧
        t.cur.regs = s.cur.regs ∧ t.cur.splits = s.cur.splits ∧ t.cur.pend.held = s.cur.pend.held ++ [⟨o.id, o.split, rows, 8, c⟩]) ∧
      (due → ∃ t, exec (.tRemoteExpiry r.id) s = .next t ∧
        t.cur.regs = s.cur.regs ∧ t.cur.splits = s.cur.splits ∧ t.cur.pend.held = s.cur.pend.held ++ [⟨o.id, o.split, rows, 8, 0⟩]))

end

namespace Sys2Proof.Spec

open Sys2Proof.Machine

/-! ## Barriers (R158 to R164) -/

/-- MASK or PARK of the running split. -/
def ownLanes (s : State) : Word := s.cur.sp.mask ||| s.cur.sp.park

/-- An arrival may be made: no lane of the split stands in an unfinished round, and above `.grp` a release at the level's scope waits
for no access of the split (R158, R159). -/
def MayArrive (s : State) (lvl : Level) (n : Nat) : Prop :=
  ownLanes s &&& s.cur.arr.get lvl n = 0 ∧ (lvl ≠ .grp → ¬ Outstanding s false true (levelScope lvl))

/-- A wait may end: no lane of the split stands in an unfinished round, and above `.grp` the split's reads have completed. -/
def MayPass (s : State) (lvl : Level) (n : Nat) : Prop :=
  ownLanes s &&& s.cur.arr.get lvl n = 0 ∧ (lvl ≠ .grp → ∀ o ∈ s.cur.pend.mem, o.split = .entry s.cur.running → o.returns = false)

/-- A group of the running group's unit at a level below the grid (R158). -/
def Member (s : State) (lvl : Level) (h : Group) : Prop :=
  h.resident = true ∧ h.launch = s.cur.launch ∧ h.run = s.cur.run ∧
  match lvl with
  | .grp => h.block = s.cur.block ∧ h.index = s.cur.index
  | .blk => h.block = s.cur.block
  | .gang => s.gangOf h = s.gangOf s.cur
  | .grid => True

/-- A member is complete at the barrier (R159). -/
def AllIn (h : Group) (arr : Word) : Prop := h.ended = true ∨ (h.ctl.live &&& ~~~arr = 0 ∧ h.ctl.live ≠ 0)

/-- The arrival of the running split ends the round: every other member is complete, and so is the group with it. -/
def EndsRound (s : State) (lvl : Level) (n : Nat) : Prop :=
  AllIn s.cur (s.cur.arr.get lvl n ||| ownLanes s) ∧ ∀ h ∈ s.others, Member s lvl h → AllIn h (h.arr.get lvl n)

/-- Nothing of a group but its arrival masks, its issue state and what an instruction does to its own entry differs. -/
def SameGroup (g h : Group) : Prop :=
  h = { g with arr := h.arr, iss := h.iss, splits := h.splits }

/-- The same of the group that arrives: its block or gang may see more of its stores. -/
def SameSelf (s t : State) : Prop := SameGroup { s.cur with pend := t.cur.pend, shadow := t.cur.shadow } t.cur ∧ SamePending s t

/-- After an arrival that ends no round: ARR has gained the split's lanes, every other mask is the same. -/
def Arrived (s t : State) (lvl : Level) (n : Nat) : Prop :=
  t.cur.arr = s.cur.arr.set lvl n (s.cur.arr.get lvl n ||| ownLanes s) ∧ SameSelf s t ∧ t.others = s.others ∧
  t.mem = { s.mem with l1 := t.mem.l1 } ∧ SameCopies s t ∧ t.blocks = s.blocks ∧ t.launches = s.launches

/-- After an arrival that ends the round: ARR is 0 for every member; every other mask and every other group is the same. -/
def RoundEnded (s t : State) (lvl : Level) (n : Nat) : Prop :=
  t.cur.arr = s.cur.arr.set lvl n 0 ∧ SameSelf s t ∧ t.mem = { s.mem with l1 := t.mem.l1 } ∧ t.blocks = s.blocks ∧
  t.others.length = s.others.length ∧
  ∀ (k : Nat) (h : Group), s.others[k]? = some h → ∃ h', t.others[k]? = some h' ∧ SameGroup h h' ∧ h'.splits = h.splits ∧
    (Member s lvl h → h'.arr = h.arr.set lvl n 0) ∧ (¬ Member s lvl h → h' = h)

/-- The entry of the running split after an instruction that completed. -/
def Passed (i : Instr) (s t : State) : Prop :=
  t.cur.sp = { s.cur.sp with pc := past i s, half := false, sig := sigAfter i s } ∧
  (∀ m, m ≠ s.cur.running → t.cur.entry m = s.cur.entry m)

/-- What a data-arrival object becomes once its update may have completed a round (R163). -/
def rounded (phase : BitVec 12) (reserved : BitVec 20) (reload pend : BitVec 16) (bytes : DWord) : TbObj :=
  if pend = 0 ∧ bytes = 0 then ⟨(phase + 1) ++ reserved ++ reload ++ reload, 0⟩ else ⟨phase ++ reserved ++ reload ++ pend, bytes⟩

/-- Word 0 of an object has these fields (R162). -/
def HasFields (o : TbObj) (phase : BitVec 12) (reserved : BitVec 20) (reload pend : BitVec 16) (bytes : DWord) : Prop :=
  o.w0 = phase ++ reserved ++ reload ++ pend ∧ o.w1 = bytes

/-- The object of a TB instruction stands in a block's scratchpad, where the check of R164 lets the instruction act, and the
group has no access outstanding. -/
def TbReady (f : Fields) (s : State) (loc bl off : Nat) : Prop :=
  Acts f s ∧ Ready 0x6B f s ∧ s.cur.resident = true ∧ s.cur.pend.mem = [] ∧ Homed s ∧ loc = (s.cur.regs.getPair f.a).toNat ∧ loc < 2 ^ 56 ∧ loc % 16 = 0 ∧
  s.checkLanes s.cur 10 ((activeLanes f.u s.cur.exec).map fun l => (l, s.cur.regs.getPair f.a, 16)) = none ∧ InScratch s loc 16 bl off

/-- An object in the scratchpad. -/
def objAt (s : State) (bl off : Nat) : TbObj :=
  ⟨BitVec.ofNat 64 (leNat ((List.range 8).map fun k => scratchByte s bl (off + k))),
   BitVec.ofNat 64 (leNat ((List.range 8).map fun k => scratchByte s bl (off + 8 + k)))⟩

/-- After an instruction that wrote an object: the other bytes of the scratchpads, device memory and the other registers are the
same. -/
def WroteObj (i : Instr) (s t : State) (bl off : Nat) (o : TbObj) : Prop :=
  objAt t bl off = o ∧ ScratchSame s t bl off 16 ∧ Passed i s t ∧ t.mem = s.mem ∧ t.cur.ctl = s.cur.ctl ∧ t.cur.pend = s.cur.pend ∧
  VSame s.cur.regs t.cur.regs [] ∧ KSame s.cur.regs t.cur.regs []

/-! ## Collectives (R165 to R167, R319 to R321) -/

/-- The communicator, position, slot and tag that an instruction names pass the checks of R165. -/
def Names (f : Fields) (s : State) (c : Comm) (pos slot : Nat) (tag : BitVec 16) : Prop :=
  let b := s.cur.regs.getS f.b
  b.toNat < 65536 ∧ (s.lchOf s.cur).comm? (b.toNat % 4096) = some c ∧ slot = b.toNat / 4096 ∧ f.w2 = (0 : BitVec 16) ++ tag ∧
  c.posOf s.fabric.position s.cur = some pos ∧ c.cls = f.cls

/-- A launch holds a round of a communicator. -/
def HoldsRound (s : State) (r : RoundRef) (l : Launch) (c : Comm) (x : Slot) (rd : Round) : Prop :=
  s.launch? r.launch = some l ∧ l.comm? r.comm = some c ∧ l.slots.find? (fun y => y.comm = r.comm ∧ y.slot = r.slot) = some x ∧
  x.rounds.find? (·.tag = r.tag) = some rd

/-- A contribution that reaches its node now comes before the root's timer has run out on a round that its root has not combined
(R320, R325). -/
def InTime (s : State) (c : Comm) (rd : Round) : Prop :=
  rd.collect = false ∨ (∃ st, rd.nodes[c.root]? = some st ∧ st.result ≠ none) ∨
  s.cycle.toNat ≤ rd.started + (if c.tmo = 0 then 200 else c.tmo) * 940

/-- The round of a launch after a step: every other launch, slot and round is the same. -/
def RoundIs (s t : State) (r : RoundRef) (rd : Round) : Prop :=
  (∃ l c x, HoldsRound t r l c x rd) ∧ (∀ id, id ≠ r.launch → t.launch? id = s.launch? id) ∧
  t.cur = s.cur ∧ t.others = s.others ∧ t.mem = s.mem ∧ t.blocks = s.blocks

end Sys2Proof.Spec

section
open Sys2Proof Sys2Proof.Machine Sys2Proof.Spec

/-- R158, R159: BARARV and the first half of BAR put the split's lanes into ARR, and the arrival that completes the round clears
ARR for every member; below the grid. -/
def Sys2Proof.Spec.BarrierArrivals : Prop :=
  ∀ (f : Fields) (s : State) (lvl : Level), f.mod3 = BitVec.ofNat 3 (levelCode lvl) → lvl ≠ .grid → f.w2.toNat < levelCount lvl →
    s.cur.resident = true → Homed s →
    let n := f.w2.toNat
    ((Instr.bararv f).wellFormed = true →
      (MayArrive s lvl n → EndsRound s lvl n → ∃ t, exec (.bararv f) s = .next t ∧ RoundEnded s t lvl n ∧ Passed (.bararv f) s t ∧ SameCopies s t) ∧
      (MayArrive s lvl n → ¬ EndsRound s lvl n → ∃ t, exec (.bararv f) s = .next t ∧ Arrived s t lvl n ∧ Passed (.bararv f) s t) ∧
      (¬ MayArrive s lvl n → ∃ t, exec (.bararv f) s = .next t ∧ FenceWaits s t)) ∧
    ((Instr.bar f).wellFormed = true → s.cur.sp.half = false →
      (MayArrive s lvl n → EndsRound s lvl n → ∃ t, exec (.bar f) s = .next t ∧ RoundEnded s t lvl n ∧ Passed (.bar f) s t ∧
        (lvl = .gang → ∀ c, c ∈ t.mem.l1 ↔ c ∈ s.mem.l1 ∧ c.core ≠ s.coreOf s.cur) ∧ (lvl ≠ .gang → SameCopies s t)) ∧
      (MayArrive s lvl n → ¬ EndsRound s lvl n → ownLanes s ≠ 0 → ∃ t, exec (.bar f) s = .next t ∧ Arrived s t lvl n ∧
        t.cur.sp = { s.cur.sp with half := true, stall := true }) ∧
      (¬ MayArrive s lvl n → ∃ t, exec (.bar f) s = .next t ∧ FenceWaits s t))

/-- R159, R161: at grid level a round cannot end while blocks of the grid have not started; when every block has started and every
member is complete it ends, and the launch counts it. So for BARARV and for the first half of BAR, which then waits in the round, or
goes on and drops the core's L1. -/
def Sys2Proof.Spec.GridRounds : Prop :=
  ∀ (f : Fields) (s : State) (l : Launch), f.mod3 = 3 → f.w2.toNat < 4 → s.cur.resident = true → Homed s →
    s.launch? s.cur.launch = some l →
    let n := f.w2.toNat
    let counted := fun (t : State) => ∃ l', t.launch? s.cur.launch = some l' ∧ l'.gridRounds = l.gridRounds + 1
    let full := l.img.griddim.toNat ≤ l.next ∧ (∀ k ∈ l.gangs, k.st = .placed ∨ k.st = .complete) ∧ EndsRound s .grid n ∧
      s.cur.arr.get .grid n ||| ownLanes s ≠ 0
    ((Instr.bararv f).wellFormed = true → MayArrive s .grid n →
      (l.next < l.img.griddim.toNat → ∃ t, exec (.bararv f) s = .next t ∧ Arrived s t .grid n ∧ Passed (.bararv f) s t) ∧
      (full → ∃ t, exec (.bararv f) s = .next t ∧ RoundEnded s t .grid n ∧ Passed (.bararv f) s t ∧ counted t)) ∧
    ((Instr.bar f).wellFormed = true → s.cur.sp.half = false →
      (MayArrive s .grid n → l.next < l.img.griddim.toNat → ownLanes s ≠ 0 → ∃ t, exec (.bar f) s = .next t ∧ Arrived s t .grid n ∧
        t.cur.sp = { s.cur.sp with half := true, stall := true }) ∧
      (MayArrive s .grid n → full → ∃ t, exec (.bar f) s = .next t ∧ RoundEnded s t .grid n ∧ Passed (.bar f) s t ∧ counted t ∧
        ∀ c, c ∈ t.mem.l1 ↔ c ∈ s.mem.l1 ∧ c.core ≠ s.coreOf s.cur) ∧
      (¬ MayArrive s .grid n → ∃ t, exec (.bar f) s = .next t ∧ FenceWaits s t))

/-- R159, R149: BARWT and the second half of BAR end when no lane of the split stands in the round and its reads have completed; at
`.gang` and `.grid` they drop the core's L1. -/
def Sys2Proof.Spec.BarrierWaits : Prop :=
  ∀ (i : Instr) (f : Fields) (s : State) (lvl : Level), (i = .barwt f ∨ (i = .bar f ∧ s.cur.sp.half = true)) → i.wellFormed = true →
    f.mod3 = BitVec.ofNat 3 (levelCode lvl) → f.w2.toNat < levelCount lvl →
    let n := f.w2.toNat
    (MayPass s lvl n → ∃ t, exec i s = .next t ∧ Passed i s t ∧ t.cur.regs = s.cur.regs ∧ t.cur.arr = s.cur.arr ∧ t.cur.ctl = s.cur.ctl ∧
      t.others = s.others ∧ t.blocks = s.blocks ∧ t.launches = s.launches ∧ t.mem = { s.mem with l1 := t.mem.l1 } ∧
      ∀ c, c ∈ t.mem.l1 ↔ c ∈ s.mem.l1 ∧ ¬ ((lvl = .gang ∨ lvl = .grid) ∧ c.core = s.coreOf s.cur)) ∧
    (¬ MayPass s lvl n → ∃ t, exec i s = .next t ∧ Waits s t)

/-- R162, R163: TBINIT, TBEXP, TBARV and TBWAIT on the object, in one update; the round that they complete raises PHASE and reloads
PEND. -/
def Sys2Proof.Spec.DataArrival : Prop :=
  ∀ (f : Fields) (s : State) (loc bl off : Nat) (phase : BitVec 12) (res : BitVec 20) (reload pend : BitVec 16) (bytes : DWord),
    TbReady f s loc bl off → HasFields (objAt s bl off) phase res reload pend bytes →
    let k := if f.u then 1 else (laneList.filter (maskBit s.cur.exec)).length
    ((Instr.tbinit f).wellFormed = true → 1 ≤ f.w2.toNat → f.w2.toNat ≤ 65535 → ∃ t, exec (.tbinit f) s = .next t ∧
      WroteObj (.tbinit f) s t bl off ⟨(0 : Word) ++ f.w2.extractLsb' 0 16 ++ f.w2.extractLsb' 0 16, 0⟩ ∧ SSame s.cur.regs t.cur.regs []) ∧
    ((Instr.tbexp f).wellFormed = true → f.w2.toNat < 2 ^ 31 → ∃ t, exec (.tbexp f) s = .next t ∧
      WroteObj (.tbexp f) s t bl off (rounded phase res reload pend (bytes + ((0 : Word) ++ f.w2))) ∧ SSame s.cur.regs t.cur.regs []) ∧
    ((Instr.tbarv f).wellFormed = true →
      (k ≤ pend.toNat → ∃ t, exec (.tbarv f) s = .next t ∧
        WroteObj (.tbarv f) s t bl off (rounded phase res reload (pend - BitVec.ofNat 16 k) bytes) ∧
        SHolds t.cur.regs f.d ((0 : BitVec 20) ++ phase) ∧ SSame s.cur.regs t.cur.regs [f.d]) ∧
      (pend.toNat < k → Handles s → s.cur.ovf = 0 → ∃ t, exec (.tbarv f) s = .next t ∧ t.blocks = s.blocks ∧ SameRegs s t ∧
        Trapped s t Cause.illegalOperand s.cur.exec fun j _ =>
          if j = 0 then (encode (.tbarv f)).getD 0 0 else if j = 1 then (encode (.tbarv f)).getD 1 0
          else if j = 2 then 1 else (0 : BitVec 16) ++ pend)) ∧
    ((Instr.tbwait f).wellFormed = true →
      (phase ≠ (s.cur.regs.getS f.b).extractLsb' 0 12 → ∃ t, exec (.tbwait f) s = .next t ∧ Passed (.tbwait f) s t ∧
        t.cur.regs = s.cur.regs ∧ t.blocks = s.blocks ∧ t.cur.ctl = s.cur.ctl ∧ t.mem = { s.mem with l1 := t.mem.l1 } ∧
        ∀ c, c ∈ t.mem.l1 ↔ c ∈ s.mem.l1 ∧ c.core ≠ s.coreOf s.cur) ∧
      (phase = (s.cur.regs.getS f.b).extractLsb' 0 12 → ∃ t, exec (.tbwait f) s = .next t ∧ Waits s t))

/-- R151, R163: a destination piece of a copy that is bound to an object lowers BYTES by its bytes, and may complete the round. -/
def Sys2Proof.Spec.CopiesCountDown : Prop :=
  ∀ (s : State) (c : CopyOp) (x bl off loc bl2 off2 : Nat) (phase : BitVec 12) (res : BitVec 20) (reload pend : BitVec 16) (bytes : DWord),
    s.cur.resident = true → (s.lchOf s.cur).img.det = false → c ∈ s.cur.pend.cp → (s.cur.pend.cp.map (·.id)).Nodup → x ∈ c.left → x ∉ c.sent →
    (∀ o ∈ s.cur.pend.ga, o.id ≠ c.id) → c.dab = some loc → c.orig = [] → c.waitSrc = [] → c.got = [] → c.marked = [] → InScratch s (x * 32) 32 bl off → x * 32 + 32 ≤ 2 ^ 56 →
    c.src < 2 ^ 56 → c.dst < 2 ^ 56 → c.dstLocs x ≠ [] →
    (∀ d ∈ c.dstLocs x, (s.remoteOf s.cur (c.srcLoc d / 32)) = none ∧ s.markedAt s.cur (c.srcLoc d) = false) →
    loc + 16 ≤ 2 ^ 56 → InScratch s loc 16 bl2 off2 → (bl2 ≠ bl ∨ off2 + 16 ≤ off ∨ off + 32 ≤ off2) →
    HasFields (objAt s bl2 off2) phase res reload pend bytes →
    ∃ t, exec (.copyPieceWritten s.cur.ref c.id x) s = .next t ∧ t.mem = s.mem ∧ t.cur.regs = s.cur.regs ∧ t.cur.splits = s.cur.splits ∧
      objAt t bl2 off2 = rounded phase res reload pend (bytes - BitVec.ofNat 64 (c.dstLocs x).length) ∧
      (∀ k < 32, scratchByte t bl (off + k) =
        if x * 32 + k ∈ c.dstLocs x then s.byteOf s.cur (c.srcLoc (x * 32 + k)) else scratchByte s bl (off + k)) ∧
      ∀ b o, ¬ (b = bl ∧ off ≤ o ∧ o < off + 32) → ¬ (b = bl2 ∧ off2 ≤ o ∧ o < off2 + 16) → scratchByte t b o = scratchByte s b o

/-- R165, R166: CRPUT sends the vector of the lanes of exec, −0 in the others; CRGET asks for the round and makes its registers
EMPTY; they wait while 63 collectives are outstanding. -/
def Sys2Proof.Spec.CollectivesIssue : Prop :=
  ∀ (f : Fields) (s : State) (c : Comm) (pos slot : Nat) (tag : BitVec 16), Acts f s → Names f s c pos slot tag →
    ((Instr.crput f).wellFormed = true → Ready 0x6C f s →
      (s.cur.pend.co.length < 63 → ∃ t data, exec (.crput f) s = .next t ∧ Passed (.crput f) s t ∧ SameRegs s t ∧
        t.cur.pend = { s.cur.pend with co := s.cur.pend.co ++ [.put c.index slot tag pos data s.cur.exec (encode (.crput f))] } ∧
        (∀ l, data.get l = if maskBit s.cur.exec l then (s.cur.regs.getV f.a).get l
          else if entPacked (s.ent f.cls) then 0x80008000 else 0x80000000) ∧
        t.mem = s.mem ∧ t.blocks = s.blocks ∧ t.launches = s.launches) ∧
      (63 ≤ s.cur.pend.co.length → ∃ t, exec (.crput f) s = .next t ∧ Waits s t)) ∧
    ((Instr.crget f).wellFormed = true → Ready 0x6D f s → pos = c.rootPos → s.cur.pend.co.length < 63 →
      ∃ t, exec (.crget f) s = .next t ∧ Passed (.crget f) s t ∧
        t.cur.pend = { s.cur.pend with co := s.cur.pend.co ++ [.get c.index slot tag s.cur.exec f.d f.a none (encode (.crget f))] } ∧
        t.cur.regs.stOf (.v f.d) = .empty ∧ (∀ k < 4, t.cur.regs.stOf (.s (f.a + BitVec.ofNat 8 k)) = .empty) ∧
        t.cur.regs.v = s.cur.regs.v ∧ t.cur.regs.s = s.cur.regs.s ∧ t.mem = s.mem ∧ t.blocks = s.blocks ∧
        ∀ l, s.launch? s.cur.launch = some l → ∃ l' x rd, t.launch? s.cur.launch = some l' ∧
          l'.slots.find? (fun y => y.comm = c.index ∧ y.slot = slot) = some x ∧ x.rounds.find? (·.tag = tag) = some rd ∧ rd.collect = true)

/-- R165, R167, R320, R321, R325: a contribution leaves its group for its node, and is left out where it comes after the root's timer
has run out; a node that has its own input and its children's results
combines them, own input first; a late round is closed from the root; a node that the close reaches takes its missing input as
identity. -/
def Sys2Proof.Spec.RoundsCombine : Prop :=
  (∀ (s : State) (l : Launch) (c : Comm) (slot pos : Nat) (tag : BitVec 16) (data : Lanes) (ex : Word) (ws : List Word) (rest : List CollOp),
    s.cur.resident = true → s.launch? s.cur.launch = some l → l.comm? c.index = some c →
    s.cur.pend.co = .put c.index slot tag pos data ex ws :: rest → c.nodeAt s.fabric.position (c.nodeOf pos) = true →
    ∃ t l' x, exec (.contributionAccepted s.cur.ref) s = .next t ∧ t.cur.pend = { s.cur.pend with co := rest } ∧
      t.cur.regs = s.cur.regs ∧ t.launch? s.cur.launch = some l' ∧ l'.slots.find? (fun y => y.comm = c.index ∧ y.slot = slot) = some x ∧
      x.flight = (l.slotOf c.index slot).flight ++ [(tag, pos, data)] ∧ x.rounds = (l.slotOf c.index slot).rounds ∧ t.mem = s.mem) ∧
  (∀ (s : State) (r : RoundRef) (l : Launch) (c : Comm) (x : Slot) (rd : Round) (n pos : Nat) (data : Lanes) (st : NodeSt) (nd : CommNode),
    HoldsRound s r l c x rd → c.index = r.comm → x.remembered ≠ some r.tag → rd.opened = true → InTime s c rd →
    c.nodes[n]? = some nd → nd.own = some pos → c.nodeAt s.fabric.position n = true → rd.nodes[n]? = some st →
    st.own = .awaited → st.closed = false → st.result = none → st.ch = [] → (r.tag, pos, data) ∈ x.flight →
    (x.flight.filter fun q => q.1 = r.tag ∧ q.2.1 = pos) = [(r.tag, pos, data)] →
    entExact (l.cbind[c.cls.toNat]'c.cls.isLt) = false →
    ∃ t rd', exec (.nodeInputArrival r n .own) s = .next t ∧ RoundIs s t r rd' ∧
      ∃ st' p, rd'.nodes[n]? = some st' ∧ st'.result = some p ∧ p.words = data ∧ p.flags = 0 ∧ p.posns = BitVec.ofNat 64 (2 ^ pos) ∧
        ∀ m, m ≠ n → rd'.nodes[m]? = rd.nodes[m]?) ∧
  (∀ (s : State) (r : RoundRef) (l : Launch) (c : Comm) (x : Slot) (rd : Round) (n pos : Nat) (data : Lanes) (nd : CommNode),
    HoldsRound s r l c x rd → c.index = r.comm → c.nodes[n]? = some nd → nd.own = some pos → (r.tag, pos, data) ∈ x.flight →
    (x.flight.filter fun q => q.1 = r.tag ∧ q.2.1 = pos) = [(r.tag, pos, data)] → ¬ InTime s c rd →
    ∃ t, exec (.nodeInputArrival r n .own) s = .next t ∧ RoundIs s t r rd) ∧
  (∀ (s : State) (r : RoundRef) (l : Launch) (c : Comm) (x : Slot) (rd : Round) (n ch : Nat) (own p : Partial) (st cs : NodeSt) (nd : CommNode),
    HoldsRound s r l c x rd → c.index = r.comm → x.remembered ≠ some r.tag → rd.opened = true → c.nodeAt s.fabric.position n = true →
    c.nodes[n]? = some nd → nd.ch = [ch] → rd.nodes[n]? = some st → n ≠ ch → rd.nodes[ch]? = some cs →
    cs.result = some p → st.own = .here own → st.ch = [.awaited] → st.result = none →
    entExact (l.cbind[c.cls.toNat]'c.cls.isLt) = false → c.cls = 0 →
    ∃ t rd', exec (.nodeInputArrival r n (.child ch)) s = .next t ∧ RoundIs s t r rd' ∧
      ∃ st' q, rd'.nodes[n]? = some st' ∧ st'.result = some q ∧ q.posns = own.posns ||| p.posns ∧
        (∀ k, q.words.get k = BitVec.ofNat 32
          (fp32.round .rne 0 false (addV .rne (fp32.decode (own.words.get k).toNat) (fp32.decode (p.words.get k).toNat)).v).bits) ∧
        ∀ m, m ≠ n → rd'.nodes[m]? = rd.nodes[m]?) ∧
  (∀ (s : State) (r : RoundRef) (l : Launch) (c : Comm) (x : Slot) (rd : Round) (st : NodeSt), HoldsRound s r l c x rd → c.index = r.comm → rd.collect = true →
    c.nodeAt s.fabric.position c.root = true →
    rd.nodes[c.root]? = some st → st.result = none → rd.started + (if c.tmo = 0 then 200 else c.tmo) * 940 ≤ s.cycle.toNat →
    ∃ t, exec (.routerTimeout r) s = .next t ∧ RoundIs s t r { rd with closing := true }) ∧
  (∀ (s : State) (r : RoundRef) (l : Launch) (c : Comm) (x : Slot) (rd : Round) (st : NodeSt), HoldsRound s r l c x rd → c.index = r.comm → rd.closing = true →
    c.nodeAt s.fabric.position c.root = true → st.closed = false →
    rd.nodes[c.root]? = some st → st.result = none → st.own = .awaited → (∃ y ∈ st.ch, y = .awaited) →
    ∃ t, exec (.roundClose r c.root) s = .next t ∧
      RoundIs s t r { rd with nodes := rd.nodes.set c.root { st with closed := true, own := .missing } }) ∧
  (∀ (s : State) (l : Launch) (c : Comm) (x : Slot) (rd : Round) (p : Partial) (st : NodeSt) (slot : Nat) (tag : BitVec 16) (exec0 : Word)
      (d sA : BitVec 8) (ws : List Word) (rest : List CollOp),
    s.cur.resident = true → s.others = [] → s.cur.pend.co = .get c.index slot tag exec0 d sA none ws :: rest →
    (∀ o ∈ rest, ∃ a b e g h x w, o = .put a b e g h x w) → sA.toNat + 4 ≤ 64 →
    HoldsRound s ⟨s.cur.launch, c.index, slot, tag⟩ l c x rd → rd.nodes[c.root]? = some st → st.result = some p → p.posns ≠ 0 →
    entExact (l.cbind[c.cls.toNat]'c.cls.isLt) = false → rd.aborted = false → s.fabric.dead = [] →
    (∀ k < c.pos.length, p.posns.getLsbD k = true) → c.pos ≠ [] →
    ∃ t, exec (.crgetRetire s.cur.ref) s = .next t ∧ t.cur.pend = { s.cur.pend with co := rest } ∧
      (∀ k, (t.cur.regs.getV d).get k = if maskBit exec0 k then p.words.get k else (s.cur.regs.getV d).get k) ∧
      t.cur.regs.stOf (.v d) = .full ∧
      SHolds t.cur.regs sA ((0 : BitVec 2) ++ BitVec.ofBool rd.dup ++ p.flags ++ (0 : BitVec 8) ++ rd.tag) ∧
      SHolds t.cur.regs (sA + 1) (BitVec.ofNat 32 c.pos.length) ∧ SHolds t.cur.regs (sA + 2) 0 ∧ SHolds t.cur.regs (sA + 3) 0 ∧
      VSame s.cur.regs t.cur.regs [d] ∧ SSame s.cur.regs t.cur.regs [sA, sA + 1, sA + 2, sA + 3] ∧ t.mem = s.mem)

end

namespace Sys2Proof.Spec

open Sys2Proof.Machine

/-! ## The matrix engine (R175 to R189) -/

/-- The group is converged (R176). -/
def Converged (s : State) : Prop :=
  s.cur.validNums.length = 1 ∧ s.cur.ovf = 0 ∧ s.cur.sp.mask = 0xFFFFFFFF ∧ s.cur.sp.park = 0

/-- The running group's block stands in its core. -/
def HasBlock (s : State) : Prop := s.cur.resident = true ∧ (s.block? s.cur.launch s.cur.run s.cur.block).isSome = true

/-- The ranges pass the checks of R176 step 3: aligned bases, bytes of the own core that pass R138. -/
def RangesOk (s : State) (l : List MRange) : Prop :=
  ∀ r ∈ l, (r.aligned = true → r.base.toNat % 4 = 0) ∧ ∀ p ∈ r.parts, s.checkOwn s.cur r.acc p.1 p.2 = none

/-- Every tile of the running group's block but one is the same, and its scratchpad and stacks are. -/
def OtherTiles (s t : State) (n : BitVec 3) : Prop :=
  (∀ m, m ≠ n → t.tileOf t.cur m = s.tileOf s.cur m) ∧ (t.blockOf t.cur).scratch = (s.blockOf s.cur).scratch ∧
  (t.blockOf t.cur).stack = (s.blockOf s.cur).stack

/-- The split has passed an instruction; registers, system registers and device memory are the same. -/
def PassedOnly (i : Instr) (s t : State) : Prop :=
  Passed i s t ∧ SameRegs s t ∧ t.cur.ctl = s.cur.ctl ∧ t.mem = s.mem ∧ t.launches = s.launches

/-- The engine holds one operation more; the tiles and memories have not changed. -/
def Entered (i : Instr) (s t : State) (o : MatOp) : Prop :=
  PassedOnly i s t ∧ t.blocks = s.blocks ∧ t.cur.unfold = s.cur.unfold ∧ t.cur.pend = { s.cur.pend with mx := s.cur.pend.mx ++ [o] }

/-- The class is declared in plane form with a number of planes for the engine (R175). -/
def PlaneClass (e : DWord) : Prop := (entMKIND e = 3 ∨ entMKIND e = 4) ∧ entXPL e ≠ 0

/-- The fields of an `MMA` are in order (R175). -/
def MmaFields (f : Fields) (s : State) : Prop :=
  PlaneClass (s.ent f.cls) ∧ PlaneClass (s.ent f.sub) ∧ 1 ≤ f.w2.toNat % 65536 ∧ f.w2.toNat % 65536 ≤ 1024

/-- A descriptor of R183 is in order: the fields in range, the reserved words zero, an output of at least one pixel. -/
def GoodDescriptor (w : List Word) : Prop :=
  let x := fun (i lo n : Nat) => (w.getD i 0).toNat / 2 ^ lo % 2 ^ n
  0 < x 0 16 16 ∧ 0 < x 0 0 16 ∧ 0 < x 1 24 8 ∧ 0 < x 1 16 8 ∧ 0 < x 1 0 16 ∧ x 1 0 16 % 32 = 0 ∧
  0 < x 2 24 8 ∧ 0 < x 2 16 8 ∧ 0 < x 2 8 8 ∧ 0 < x 2 0 8 ∧ w.getD 5 0 = 0 ∧ w.getD 6 0 = 0 ∧ w.getD 7 0 = 0 ∧
  (x 2 16 8 : Int) * (x 1 16 8 - 1) + 1 ≤ x 0 0 16 + 2 * x 3 0 16 ∧ (x 2 24 8 : Int) * (x 1 24 8 - 1) + 1 ≤ x 0 16 16 + 2 * x 3 16 16

/-- The product of two finite plane elements in units of 2^LSB (R62). -/
def product (lsb qa qb : Int) (ea eb na nb : Nat) : Int :=
  ⌊(qa * qb : ℚ) * (2 : ℚ) ^ ((ea : Int) + eb - 254 - (na - 1) - (nb - 1) - lsb)⌋

/-- The count and GUARD of a tile after one k-step (R64). -/
def Stepped (x y : Tile) (glog : Nat) : Prop :=
  y.steps = (if x.steps = 0xFFFFFFFF then x.steps else x.steps + 1) ∧ y.guard = (x.guard || decide (2 ^ glog < y.steps.toNat)) ∧ y.chain = x.chain

/-- No other group shares the block, the engine's oldest operation of the group is this one, and no operand carries a mark. -/
def Alone (s : State) (o : MatOp) (rest : List MatOp) : Prop :=
  HasBlock s ∧ s.others = [] ∧ s.cur.pend.mx = o :: rest ∧ ∀ a ∈ s.matLocs s.cur o, s.markedAt s.cur a = false

/-- After the oldest operation has retired. -/
def RetiredOp (s t : State) (rest : List MatOp) : Prop :=
  t.cur = { s.cur with pend := { s.cur.pend with mx := rest } } ∧ t.mem = s.mem ∧ t.launches = s.launches

/-- A drain may act at once: the group's operations have retired, no other group's are in the engine, no mark in the tile. -/
def DrainReady (f : Fields) (s : State) : Prop :=
  HasBlock s ∧ s.others = [] ∧ s.cur.pend.mx = [] ∧ (s.tileOf s.cur (f.a.extractLsb' 0 3)).chain = false ∧
  (s.tileOf s.cur (f.a.extractLsb' 0 3)).poison = []

/-- Word 2 of a drain (R175). -/
def DrainFields (f : Fields) (s : State) : Prop :=
  let r0 := f.w2.toNat % 256
  let rows := f.w2.toNat / 256 % 256
  f.w2.toNat < 2 ^ 20 ∧ 1 ≤ rows ∧ r0 + rows ≤ 64 ∧
  entV (s.ent (f.w2.extractLsb' 16 4)) = true ∧ entXPL (s.ent (f.w2.extractLsb' 16 4)) ≠ 0

/-- The class and word 2 of an `MLDA` (R175). -/
def LoadFields (f : Fields) (s : State) : Prop :=
  entMKIND (s.ent f.cls) ≤ 2 ∧ f.w2 &&& ~~~0xF0000#32 = 0 ∧
  entV (s.ent (f.w2.extractLsb' 16 4)) = true ∧ entXPL (s.ent (f.w2.extractLsb' 16 4)) ≠ 0

/-- The class and word 2 of an `MQNT` (R175, R188). -/
def QuantFields (f : Fields) (s : State) : Prop :=
  (entMKIND (s.ent f.cls) = 3 ∨ entMKIND (s.ent f.cls) = 4) ∧ f.w2.toNat / 65536 = 0 ∧ f.w2.toNat % 256 ≤ 1 ∧
  (entMKIND (s.ent f.cls) = 3 → f.w2.toNat / 256 = 0)

/-- The element of row `r` of a drain and column `c`, in a format: the special readings, the guard, the rounding (R65). -/
def drained (f : Fields) (s : State) (fm : Fmt) (r c : Fin 64) : ClsRes :=
  let e := s.ent f.cls
  let t := s.tileOf s.cur (f.a.extractLsb' 0 3)
  let x := (t.el[r.val])[c.val]
  let v := x.val (entLSB (s.ent (f.w2.extractLsb' 16 4)))
  if v.finite && t.guard then
    { bits := fm.signed (x.v.getLsbD 79) (maxBelow fm (entBound e)), reason := if entTGD e then 4 else 0, range := !entTGD e }
  else clsRound e fm (srDraw s.cur.ctl.srstate c.val) v

/-- The instruction leaves a store of its results, the pieces of which are performed before the split's next instruction (R177, R194);
nothing has been written yet. -/
def LeavesStore (s t : State) (o : MemOp) : Prop :=
  t.cur.pend = { s.cur.pend with nextId := s.cur.pend.nextId + 1, mem := s.cur.pend.mem ++ [o] } ∧ o.id = s.cur.pend.nextId ∧
  o.kind = .store ∧ o.dst = [] ∧ o.hold = false ∧ o.bad = [] ∧ o.near = [] ∧ o.split = .entry s.cur.running ∧
  o.left.Nodup ∧ (∀ n, n ∈ o.left ↔ ∃ p ∈ o.data, p.1 / 32 = n) ∧ t.cur.hasReady s.cur.running = false ∧ t.blocks = s.blocks

/-- The rows that a drain takes. -/
def inDrain (f : Fields) (r : Fin 64) : Prop := f.w2.toNat % 256 ≤ r.val ∧ r.val < f.w2.toNat % 256 + f.w2.toNat / 256 % 256

/-- `$clsflags` that a drain raises. -/
def DrainFlags (f : Fields) (s : State) (fm : Fmt) (y : Word) : Prop :=
  ∃ range under, y = clsBits f.cls range under ∧ (range = true ↔ ∃ r c, inDrain f r ∧ (drained f s fm r c).range = true) ∧
    (under = true ↔ ∃ r c, inDrain f r ∧ (drained f s fm r c).under = true)

/-- The entry of the running split after an instruction that raised class flags and may have drawn. -/
def PassedFlags (i : Instr) (s t : State) (y sr : Word) : Prop :=
  t.cur.sp = { s.cur.sp with pc := past i s, half := false, sig := sigAfter i s, clsf := s.cur.sp.clsf ||| y } ∧
  (∀ m, m ≠ s.cur.running → t.cur.entry m = s.cur.entry m) ∧ t.cur.ctl = { s.cur.ctl with srstate := sr } ∧ t.mem = s.mem

end Sys2Proof.Spec

section
open Sys2Proof Sys2Proof.Machine Sys2Proof.Spec

/-- R176: every matrix instruction of a group that is not converged, its fields in order (the checks of R48 steps 2 to 6 come first),
raises ILLEGAL_CONVERGENCE with `$split` and `$exec`, and has no effect. -/
def Sys2Proof.Spec.MatrixNeedsConvergence : Prop :=
  ∀ (f : Fields) (s : State), ¬ Converged s → Handles s →
    let v : Fin 4 → Fin 32 → Word := fun k _ => if k = 0 then s.cur.splitReg else if k = 1 then s.cur.sp.mask else 0
    (∀ i, i = .mbeg f ∨ i = .mend f → i.wellFormed = true → Ready 0x70 f s → ∃ t, exec i s = .next t ∧ SameRegs s t ∧ Trapped s t Cause.convergence s.cur.exec v) ∧
    ((Instr.mma f).wellFormed = true → Ready 0x71 f s → MmaFields f s → f.w2.toNat < 65536 →
      ∃ t, exec (.mma f) s = .next t ∧ SameRegs s t ∧ Trapped s t Cause.convergence s.cur.exec v) ∧
    ((Instr.mzero f).wellFormed = true → Ready 0x73 f s → ∃ t, exec (.mzero f) s = .next t ∧ SameRegs s t ∧ Trapped s t Cause.convergence s.cur.exec v) ∧
    ((Instr.mmaUnfold f).wellFormed = true → Config.hasUnfold s.part = true → Ready 0x71 f s → MmaFields f s →
      ∃ t, exec (.mmaUnfold f) s = .next t ∧ SameRegs s t ∧ Trapped s t Cause.convergence s.cur.exec v) ∧
    ((Instr.munf f).wellFormed = true → Config.hasUnfold s.part = true → Ready 0x72 f s →
      ∃ t, exec (.munf f) s = .next t ∧ SameRegs s t ∧ Trapped s t Cause.convergence s.cur.exec v) ∧
    (let n := f.w2.toNat / 256 % 256 * (if entPacked (s.ent f.cls) then 1 else 2)
     (Instr.mdrn f).wellFormed = true → Ready 0x74 f s → DrainFields f s → f.d.toNat + n ≤ s.limits.nv → f.d.toNat + n ≤ 256 →
      (∀ k < n, s.cur.producing (.v (f.d + BitVec.ofNat 8 k)) = false) →
      ∃ t, exec (.mdrn f) s = .next t ∧ SameRegs s t ∧ Trapped s t Cause.convergence s.cur.exec v) ∧
    ((Instr.mdrnScratch f).wellFormed = true → Ready 0x74 f s → DrainFields f s → entMKIND (s.ent f.cls) ≤ 2 →
      ∃ t, exec (.mdrnScratch f) s = .next t ∧ SameRegs s t ∧ Trapped s t Cause.convergence s.cur.exec v) ∧
    ((Instr.mlda f).wellFormed = true → Ready 0x75 f s → LoadFields f s →
      ∃ t, exec (.mlda f) s = .next t ∧ SameRegs s t ∧ Trapped s t Cause.convergence s.cur.exec v) ∧
    ((Instr.mqnt f).wellFormed = true → Ready 0x76 f s → QuantFields f s →
      ∃ t, exec (.mqnt f) s = .next t ∧ SameRegs s t ∧ Trapped s t Cause.convergence s.cur.exec v) ∧
    ((Instr.mstat f).wellFormed = true → Ready 0x77 f s → ∃ t, exec (.mstat f) s = .next t ∧ SameRegs s t ∧ Trapped s t Cause.convergence s.cur.exec v)

/-- R177, R180, R182 to R185, R187: MBEG and MEND open and close a tile's chain at issue; MUNF takes the descriptor; MMA, MZERO and
MLDA enter the engine, which holds at most 63 operations of a group. MBEG and MEND raise the tile's epoch by one, and an operation
carries its tile's: the model's numbering of chains, read from R182 (log 65). -/
def Sys2Proof.Spec.MatrixIssues : Prop :=
  ∀ (f : Fields) (s : State), Converged s → HasBlock s → s.cur.pend.mem = [] →
    let ta := f.a.extractLsb' 0 3
    let td := f.d.extractLsb' 0 3
    ((Instr.mbeg f).wellFormed = true → Ready 0x70 f s → (s.tileOf s.cur ta).chain = false → ∃ t, exec (.mbeg f) s = .next t ∧
      PassedOnly (.mbeg f) s t ∧ OtherTiles s t ta ∧ t.cur.pend = s.cur.pend ∧
      t.tileOf t.cur ta = { s.tileOf s.cur ta with chain := true, epoch := (s.tileOf s.cur ta).epoch + 1 }) ∧
    ((Instr.mend f).wellFormed = true → Ready 0x70 f s → (s.tileOf s.cur ta).chain = true → ∃ t, exec (.mend f) s = .next t ∧
      PassedOnly (.mend f) s t ∧ OtherTiles s t ta ∧ t.cur.pend = s.cur.pend ∧
      t.tileOf t.cur ta = { s.tileOf s.cur ta with chain := false, epoch := (s.tileOf s.cur ta).epoch + 1 }) ∧
    ((Instr.mma f).wellFormed = true → Ready 0x71 f s → MmaFields f s → f.w2.toNat < 65536 →
      let r := s.cur.regs
      RangesOk s (tensorRanges (s.ent f.cls) (r.getPair f.a) (r.getPair (f.a + 2)) 1 12 f.w2.toNat ++
        tensorRanges (s.ent f.sub) (r.getPair f.b) (r.getPair (f.b + 2)) 2 12 f.w2.toNat) →
      (s.cur.pend.mx.length < 63 → ∃ t o, exec (.mma f) s = .next t ∧ Entered (.mma f) s t (.mma o) ∧ o.tile = td ∧ o.ca = f.cls ∧ o.cb = f.sub ∧
        o.a = some (r.getPair f.a, r.getPair (f.a + 2)) ∧ o.bp = r.getPair f.b ∧ o.bs = r.getPair (f.b + 2) ∧ o.m = f.w2.toNat ∧ o.k0 = 0 ∧
        o.steps = 0 ∧ o.pc = s.cur.sp.pc ∧ o.epoch = (s.tileOf s.cur td).epoch) ∧
      (63 ≤ s.cur.pend.mx.length → ∃ t, exec (.mma f) s = .next t ∧ Waits s t)) ∧
    ((Instr.mmaUnfold f).wellFormed = true → Config.hasUnfold s.part = true → Ready 0x71 f s → MmaFields f s → s.cur.unfold.valid = true →
      let r := s.cur.regs
      let m := f.w2.toNat % 65536
      let k0 := f.w2.toNat / 65536
      let d := Conv.ofWords s.cur.unfold.desc
      k0 + m ≤ d.kh * d.kw * (d.c / 32) →
      RangesOk s (aRanges (s.ent f.cls) none s.cur.unfold k0 m ++ tensorRanges (s.ent f.sub) (r.getPair f.b) (r.getPair (f.b + 2)) 2 12 m) →
      s.cur.pend.mx.length < 63 → ∃ t o, exec (.mmaUnfold f) s = .next t ∧ Entered (.mmaUnfold f) s t (.mma o) ∧ o.tile = td ∧ o.ca = f.cls ∧ o.cb = f.sub ∧
        o.a = none ∧ o.u = s.cur.unfold ∧ o.bp = r.getPair f.b ∧ o.bs = r.getPair (f.b + 2) ∧ o.m = m ∧ o.k0 = k0 ∧ o.steps = 0) ∧
    ((Instr.munf f).wellFormed = true → Config.hasUnfold s.part = true → Ready 0x72 f s →
      let r := s.cur.regs
      let at' := (r.getPair f.b).toNat % 2 ^ 56
      let desc := (List.range 8).map fun k => BitVec.ofNat 32 (leNat ((List.range 4).map fun j => s.byteOf s.cur ((at' + 4 * k + j) % 2 ^ 56)))
      (r.getPair f.a).toNat % 4 = 0 → RangesOk s [MRange.one (r.getPair f.b) true 2 14 32] → at' < 0xFF * 2 ^ 48 →
      (∀ k < 32, s.markedAt s.cur ((at' + k) % 2 ^ 56) = false) → GoodDescriptor desc →
      ∃ t, exec (.munf f) s = .next t ∧ PassedOnly (.munf f) s t ∧ t.blocks = s.blocks ∧ t.cur.pend = s.cur.pend ∧
        t.cur.unfold = { valid := true, planes := r.getPair f.a, scales := r.getPair (f.a + 2), desc := desc }) ∧
    ((Instr.mzero f).wellFormed = true → Ready 0x73 f s → (s.tileOf s.cur ta).chain = false → s.cur.pend.mx.length < 63 →
      ∃ t, exec (.mzero f) s = .next t ∧ Entered (.mzero f) s t (.zero ta (s.tileOf s.cur ta).epoch)) ∧
    ((Instr.mlda f).wellFormed = true → Ready 0x75 f s → LoadFields f s → (s.tileOf s.cur td).chain = false →
      RangesOk s [MRange.one (s.cur.regs.getPair f.b) false 2 12 (4096 * (if entMKIND (s.ent f.cls) = 0 then 4 else 2))] →
      s.cur.pend.mx.length < 63 → ∃ t o, exec (.mlda f) s = .next t ∧ Entered (.mlda f) s t (.load o) ∧ o.tile = td ∧ o.cn = f.cls ∧
        o.ck = f.w2.extractLsb' 16 4 ∧ o.addr = s.cur.regs.getPair f.b ∧ o.count = s.cur.regs.getS f.c ∧ o.epoch = (s.tileOf s.cur td).epoch)

/-- R62 to R64, R180, R185, R187: what the engine makes of a tile: MZERO clears it; a k-step adds the truncated products of the rows and
columns modulo 2^80, sets SQ where a block is NaN, and counts; MLDA takes 4096 elements. -/
def Obligations.MatrixOperations : Prop :=
  ∀ (s : State) (rest : List MatOp),
    (∀ tile ep, Alone s (.zero tile ep) rest → ∃ t, exec (.matrixRetire s.cur.ref) s = .next t ∧ RetiredOp s t rest ∧ OtherTiles s t tile ∧
      (∀ r c : Fin 64, ((t.tileOf t.cur tile).el[r.val])[c.val] = {}) ∧ (t.tileOf t.cur tile).steps = 0 ∧ (t.tileOf t.cur tile).guard = false ∧
      (t.tileOf t.cur tile).chain = (s.tileOf s.cur tile).chain ∧ (t.tileOf t.cur tile).poison = []) ∧
    (∀ (o : MmaOp) (ap aq : DWord), Alone s (.mma o) rest → o.m = 1 → o.steps = 0 → o.k0 = 0 → o.got = [] → o.marks = [] → o.a = some (ap, aq) →
      let ea := s.mmaEnts s.cur o
      let a := fun (r : Nat) => readBlock ea.1 ap aq r (s.byteOf s.cur)
      let b := fun (c : Nat) => readBlock ea.2 o.bp o.bs c (s.byteOf s.cur)
      let old := s.tileOf s.cur o.tile
      ∃ t, exec (.matrixRetire s.cur.ref) s = .next t ∧ RetiredOp s t rest ∧ OtherTiles s t o.tile ∧
        Stepped old (t.tileOf t.cur o.tile) (entGLOG ea.1) ∧ ∀ r c : Fin 64,
        let x := (old.el[r.val])[c.val]
        let y := ((t.tileOf t.cur o.tile).el[r.val])[c.val]
        (1 ≤ (a r.val).2 → (a r.val).2 ≤ 0xFD → 1 ≤ (b c.val).2 → (b c.val).2 ≤ 0xFD →
          y = { x with v := x.v + BitVec.ofInt 80 (∑ i ∈ Finset.range 32, product (entLSB ea.1) (planeInt (a r.val).1 (entXPL ea.1) i)
            (planeInt (b c.val).1 (entXPL ea.2) i) (a r.val).2 (b c.val).2 (entXPL ea.1) (entXPL ea.2)) }) ∧
        ((a r.val).2 = 0xFF ∨ (b c.val).2 = 0xFF → y = { x with sq := true }) ∧
        ((a r.val).2 = 0 → (b c.val).2 ≤ 0xFD → y = x)) ∧
    (∀ (o : MldOp), Alone s (.load o) rest → o.got = [] → o.marks = [] →
      let en := (s.lchOf s.cur).cbind[o.cn.toNat]'o.cn.isLt
      let ck := (s.lchOf s.cur).cbind[o.ck.toNat]'o.ck.isLt
      let n := if entMKIND en = 0 then 4 else 2
      let elem := fun (i : Nat) => (fmtOf (entMKIND en)).decode (leNat ((List.range n).map fun k =>
        s.byteOf s.cur ((o.addr.toNat + i * n + k) % 2 ^ 56)))
      let z := fun (i : Nat) => (elem i).floor (-(entLSB ck))
      ∃ t, exec (.matrixRetire s.cur.ref) s = .next t ∧ RetiredOp s t rest ∧ OtherTiles s t o.tile ∧
        (t.tileOf t.cur o.tile).steps = o.count ∧ (t.tileOf t.cur o.tile).chain = (s.tileOf s.cur o.tile).chain ∧
        ((t.tileOf t.cur o.tile).guard = true ↔ 2 ^ entGLOG ck < o.count.toNat ∨
          ∃ i < 4096, (elem i).finite = true ∧ ¬ (-(2 ^ 79 : Int) ≤ z i ∧ z i < 2 ^ 79)) ∧
        ∀ r c : Fin 64,
          let i := 64 * r.val + c.val
          let y := ((t.tileOf t.cur o.tile).el[r.val])[c.val]
          ((elem i).isNan = true → y = { sq := true }) ∧
          ((elem i).isInf = true → y = { sp := !(elem i).neg, sn := (elem i).neg }) ∧
          ((elem i).finite = true → y = { v := BitVec.ofInt 80 (max (-(2 ^ 79)) (min (z i) (2 ^ 79 - 1))) }))

/-- R65, R186, R189: a drain of rows that do not trap converts each element through the destination class, to registers or to the
scratchpad, by pieces that are performed before the split goes on; MSTAT reads the tile's state. -/
def Sys2Proof.Spec.Drains : Prop :=
  ∀ (f : Fields) (s : State), Converged s → DrainReady f s →
    let e := s.ent f.cls
    let r0 := f.w2.toNat % 256
    let rows := f.w2.toNat / 256 % 256
    ((Instr.mdrn f).wellFormed = true → Ready 0x74 f s → DrainFields f s → f.d.toNat + rows * (if entPacked e then 1 else 2) ≤ s.limits.nv →
      f.d.toNat + rows * (if entPacked e then 1 else 2) ≤ 256 →
      (∀ k < rows * (if entPacked e then 1 else 2), s.cur.producing (.v (f.d + BitVec.ofNat 8 k)) = false) →
      (∀ r c, inDrain f r → (drained f s (entFmt e) r c).reason = 0) →
      ∃ t y, exec (.mdrn f) s = .next t ∧ DrainFlags f s (entFmt e) y ∧ PassedFlags (.mdrn f) s t y (srAfter s f.cls) ∧ t.blocks = s.blocks ∧
        (∀ (r : Fin 64) (l : Fin 32) (c d : Fin 64), inDrain f r → c.val = l.val → d.val = l.val + 32 →
          let bits := fun (c : Fin 64) => (drained f s (entFmt e) r c).bits
          if entPacked e then (t.cur.regs.getV (f.d + BitVec.ofNat 8 (r.val - r0))).get l = BitVec.ofNat 32 (bits c + 65536 * bits d)
          else (t.cur.regs.getV (f.d + BitVec.ofNat 8 (2 * (r.val - r0)))).get l = BitVec.ofNat 32 (bits c) ∧
            (t.cur.regs.getV (f.d + BitVec.ofNat 8 (2 * (r.val - r0) + 1))).get l = BitVec.ofNat 32 (bits d)) ∧
        VSame s.cur.regs t.cur.regs ((List.range (rows * (if entPacked e then 1 else 2))).map fun k => f.d + BitVec.ofNat 8 k) ∧
        SSame s.cur.regs t.cur.regs [] ∧ KSame s.cur.regs t.cur.regs []) ∧
    ((Instr.mdrnScratch f).wellFormed = true → Ready 0x74 f s → DrainFields f s → entMKIND e ≤ 2 →
      let fm := fmtOf (entMKIND e)
      let n := if entMKIND e = 0 then 4 else 2
      let at' := (s.cur.regs.getPair f.b).toNat
      RangesOk s [MRange.one (s.cur.regs.getPair f.b) false 2 13 (rows * 64 * n)] →
      (∀ r c, inDrain f r → (drained f s fm r c).reason = 0) →
      ∃ t y o, exec (.mdrnScratch f) s = .next t ∧ DrainFlags f s fm y ∧ PassedFlags (.mdrnScratch f) s t y (srAfter s f.cls) ∧ SameRegs s t ∧
        LeavesStore s t o ∧
        (∀ (r c : Fin 64) (k : Nat), inDrain f r → k < n → byteAt o.data ((at' + ((r.val - r0) * 64 + c.val) * n + k) % 2 ^ 56) =
          some (BitVec.ofNat 8 ((drained f s fm r c).bits / 256 ^ k))) ∧
        ∀ p ∈ o.data, ∃ k < rows * 64 * n, p.1 = (at' + k) % 2 ^ 56) ∧
    ((Instr.mstat f).wellFormed = true → Ready 0x77 f s → ∃ t w, exec (.mstat f) s = .next t ∧ PassedFlags (.mstat f) s t 0 s.cur.ctl.srstate ∧
      t.blocks = s.blocks ∧ SResult s.cur.regs t.cur.regs f.d w ∧
      (let x := s.tileOf s.cur (f.a.extractLsb' 0 3)
       w.getLsbD 31 = x.guard ∧ (w.getLsbD 30 = true ↔ ∃ r c : Fin 64, ((x.el[r.val])[c.val]).sp = true) ∧
       (w.getLsbD 29 = true ↔ ∃ r c : Fin 64, ((x.el[r.val])[c.val]).sn = true) ∧
       (w.getLsbD 28 = true ↔ ∃ r c : Fin 64, ((x.el[r.val])[c.val]).sq = true) ∧ w.getLsbD 27 = false ∧
       w.toNat % 2 ^ 27 = min x.steps.toNat (2 ^ 27 - 1)))

/-- R57, R58, R188: MQNT quantises a tile of FP32 in the scratchpad, transposed or not, into 128 blocks, written by pieces that are
performed before the split goes on. -/
def Sys2Proof.Spec.TileQuantisation : Prop :=
  ∀ (f : Fields) (s : State), Converged s → HasBlock s → s.cur.pend.mx = [] → s.cur.pend.mem = [] →
    (Instr.mqnt f).wellFormed = true → Ready 0x76 f s →
    let e := s.ent f.cls
    let n := entMPL e
    let r := s.cur.regs
    let planes := r.getPair f.d
    let scales := r.getPair (f.d + 2)
    let src := r.getPair f.b
    QuantFields f s →
    RangesOk s ((tensorRanges e planes scales 0 13 2).take (if entMKIND e = 3 then 2 else 1) ++ [MRange.one src false 2 12 16384]) →
    (∀ k < 16384, s.markedAt s.cur ((src.toNat + k) % 2 ^ 56) = false) →
    let elem := fun (a b : Nat) => fp32.decode (leNat ((List.range 4).map fun k => s.byteOf s.cur ((src.toNat + 4 * (64 * a + b) + k) % 2 ^ 56)))
    let q := fun (row kb : Nat) =>
      let xs := (List.range 32).map fun i => if f.w2.getLsbD 0 then elem (32 * kb + i) row else elem row (32 * kb + i)
      if entMKIND e = 3 then quantBlock e s.cur.ctl.srstate n xs else quantTensor e s.cur.ctl.srstate n (f.w2.toNat / 256 % 256) xs
    (∀ row < 64, ∀ kb < 2, (q row kb).reason = 0) → 0 < n →
    let inPlanes := fun (a : Nat) => ∃ k < 512 * n, a = (planes.toNat + k) % 2 ^ 56
    let inScales := fun (a : Nat) => entMKIND e = 3 ∧ ∃ k < 128, a = (scales.toNat + k) % 2 ^ 56
    (∀ a, ¬ (inPlanes a ∧ inScales a)) →
    ∃ t o range under, exec (.mqnt f) s = .next t ∧ PassedFlags (.mqnt f) s t (clsBits f.cls range under) (srAfter s f.cls) ∧ SameRegs s t ∧
      (range = true ↔ ∃ row < 64, ∃ kb < 2, (q row kb).range = true) ∧ (under = true ↔ ∃ row < 64, ∃ kb < 2, (q row kb).under = true) ∧
      LeavesStore s t o ∧ (∀ p ∈ o.data, inPlanes p.1 ∨ inScales p.1) ∧
      (∀ row < 64, ∀ kb < 2, ∀ j < n, ∀ k < 4, byteAt o.data ((planes.toNat + 4 * n * (64 * kb + row) + 4 * j + k) % 2 ^ 56) =
        some (BitVec.ofNat 8 (((planesOf n (q row kb).qs).getD j 0).toNat / 256 ^ k))) ∧
      (entMKIND e = 3 → ∀ row < 64, ∀ kb < 2, byteAt o.data ((scales.toNat + (64 * kb + row)) % 2 ^ 56) = some (BitVec.ofNat 8 (q row kb).code))

end

namespace Sys2Proof.Spec

open Sys2Proof.Machine

/-! ## The step (R32, R48, R267) -/

/-- Code words stand in local memory from an address, no store into their sectors awaits a `CODESYNC`, and none of them is marked. -/
def CodeAt (s : State) (a : Nat) (ws : List Word) : Prop :=
  a % 4 = 0 ∧ ∀ k, k < ws.length →
    let x := (a + 4 * k) % 2 ^ 56
    window x ≠ 0xFE ∧ window x ≠ 0xFD ∧
    ∃ i e, s.xlate s.cur x = some (i, e) ∧ e.rem = false ∧ s.mem.beyond i = false ∧
      s.marked ((i * 65536 + x % 65536) / 32) = false ∧ (∀ c ∈ s.mem.code, c.sector ≠ (i * 65536 + x % 65536) / 32) ∧
      ws.getD k 0 = (BitVec.ofNat 32 (leNat (s.mem.bytes.readN (i * 65536 + x % 65536) 4)))

/-- The package runs, nothing is asked of it from outside, and the running split is the one that a port chose to issue next: it is
ready, no other split's handler, no debugger and no trap of the first instruction of its pair holds it, the results of its last
instruction are written, and it does not stand in the page-fault handler. -/
def Issuing (s : State) : Prop :=
  s.agenda = [] ∧ 6 ≤ s.power.stage ∧ s.turn.live = true ∧ (s.turn.second = true → s.turn.trapped = false) ∧
  s.cur.resident = true ∧ s.cur.ended = false ∧ s.cur.parked = none ∧ s.cur.fydb = .off ∧
  s.cur.sp.v = true ∧ s.cur.sp.st = .ready ∧ s.cur.gated s.cur.running = false ∧ s.cur.sup = none ∧
  ∀ n, (s.cur.entry n).v = true → (s.cur.entry n).inh = true → n = s.cur.running

/-! ## Device-side launch (R173) -/

/-- `n` bytes at a virtual address lie in one page of local memory that may be written and is no code page. -/
def InPage (s : State) (asid : BitVec 16) (va n pa : Nat) : Prop :=
  va % 65536 + n ≤ 65536 ∧ (∃ i e, pa = i * 65536 + va % 65536 ∧ e.code = false ∧ e.rem = false ∧ e.wr = true ∧
    s.mem.walk asid (va / 65536 % 2 ^ 40) (s.mem.versOf asid).newest = some (i, e) ∧ s.mem.beyond i = false) ∧
  ∀ x, pa / 32 ≤ x → x ≤ (pa + n - 1) / 32 → s.marked x = false ∧ s.mem.refuses s.s0 x = false

/-- A 64-bit word of device memory. -/
def word64 (s : State) (pa : Nat) : Nat := leNat (s.mem.bytes.readN pa 8)

/-- Every byte of device memory but those of some ranges (start, length) is the same. -/
def BytesBut (s t : State) (l : List (Nat × Nat)) : Prop :=
  ∀ a, (∀ p ∈ l, ¬ (p.1 ≤ a ∧ a < p.1 + p.2)) → t.mem.bytes.read a = s.mem.bytes.read a

/-- An instruction that completed past itself: registers, device memory and the core's TLB apart, the group and the package are the
same. -/
def Through (i : Instr) (s t : State) : Prop :=
  t.cur.sp = { s.cur.sp with pc := past i s, half := false, sig := sigAfter i s } ∧
  (∀ n, n ≠ s.cur.running → t.cur.entry n = s.cur.entry n) ∧ t.cur.ctl = s.cur.ctl ∧ t.cur.pend = s.cur.pend ∧ t.cur.trap = s.cur.trap ∧
  t.blocks = s.blocks ∧ t.launches = s.launches ∧ t.queues = s.queues ∧ t.others = s.others

/-! ## Page faults and the access check (R138, R228 to R230) -/

/-- What the supervisor trap of a page fault leaves (R93, R228): the handler sees the fault, and what the user's trap registers hold
stays. -/
def PageFaulted (s t : State) (mask : Word) (val : Fin 4 → Fin 32 → Word) : Prop :=
  (∃ x, t.cur.sup = some x ∧ x.split = s.cur.running ∧ x.k15 = mask ∧ x.handed = false ∧ x.fault.pc = s.cur.sp.pc ∧
    x.fault.cause = causeWord s.cur.running true Cause.pageFault ∧ x.fault.mask = mask ∧
    ∀ k l, maskBit mask l = true → (x.fault.val[k.val]).get l = val k l) ∧
  t.cur.trap = s.cur.trap ∧
  t.cur.sp = { s.cur.sp with pc := alignPc (s.stvec.getD Config.stvec) } ∧
  (∀ n, n ≠ s.cur.running → t.cur.entry n = s.cur.entry n) ∧ t.cur.regs = s.cur.regs ∧ t.cur.pend = s.cur.pend ∧
  t.cur.ctl = s.cur.ctl ∧ t.mem = s.mem ∧ t.blocks = s.blocks

/-- The running split stands at the page-fault handler with one lane's fault at an address, which nobody has handed over. -/
def Faulted (s : State) (x : SupSave) (l : Fin 32) (a : Nat) : Prop :=
  s.cur.resident = true ∧ s.cur.sup = some x ∧ x.split = s.cur.running ∧ x.handed = false ∧
  x.fault.faultLanes = [l] ∧ x.fault.faultAddr l = a ∧ s.xlate s.cur a = none ∧ (s.turn.second = true → s.turn.trapped = false)

/-- Opcodes whose forms with U = 0 are vector instructions (R90). -/
def vectorOp (op : BitVec 7) (f : Fields) : Prop :=
  (0x14 ≤ op ∧ op ≤ 0x32) ∨ (0x34 ≤ op ∧ op ≤ 0x46) ∨ (0x48 ≤ op ∧ op ≤ 0x53) ∨ (0x58 ≤ op ∧ op ≤ 0x5D) ∨ op = 0x60 ∨ op = 0x61 ∨
  (op = 0x13 ∧ 2 ≤ f.sub) ∨ op = 0x6C ∨ op = 0x6D ∨ (0x78 ≤ op ∧ op ≤ 0x7B)

end Sys2Proof.Spec

section
open Sys2Proof Sys2Proof.Machine Sys2Proof.Spec

/-- R32, R48, R171: the step of a state whose running split is next to issue is what the instruction at its program counter does, and, where it
was the last issue of the cycle, the cycle's end. What follows the instruction changes no memory, scratchpad, queue or request. The second
instruction of a pair finds the group-scoped registers as the cycle began, and they are put together after it; what an instruction orders
between splits changes only what their later reads may miss. That one step issues one instruction of the running split and one cycle passes
is the model's choice (log 3). -/
def Obligations.StepRunsTheInstruction : Prop :=
  (∀ (s : State) (ws : List Word) (i : Instr), Issuing s → CodeAt s s.cur.sp.pc.toNat ws → ws ≠ [] →
    ws.length = (formOf (ws.headD 0)).words → decode ws = some i →
    step s = match exec i s.atCycleStart with
      | .next t => .next (s.rejoin (s.atCycleStart.noteOrder i t)).afterIssue
      | .fault x => .fault x
      | .refused x => .refused x) ∧
  (∀ t : State, t.afterIssue.mem = t.mem ∧ t.afterIssue.blocks = t.blocks ∧ t.afterIssue.queues = t.queues ∧ t.afterIssue.fabric = t.fabric ∧
    (t.turn.slots = [] → t.power.duty = 16 → t.afterIssue.cycle = t.cycle + 1) ∧
    (t.turn.slots ≠ [] → t.afterIssue.cycle = t.cycle ∧ t.afterIssue.agenda = t.agenda)) ∧
  (∀ s t : State, (s.turn.second = false → s.atCycleStart = s ∧ s.rejoin t = t) ∧
    s.atCycleStart = { s with cur := { s.cur with ctl := s.atCycleStart.cur.ctl, trap := s.atCycleStart.cur.trap } } ∧
    s.rejoin t = { t with cur := { t.cur with ctl := (s.rejoin t).cur.ctl, trap := (s.rejoin t).cur.trap } } ∧
    ∀ c r, s.turn.second = true → s.turn.ctl = some (c, r) → s.atCycleStart.cur.trap = r ∧ s.atCycleStart.cur.ctl.jwd = c.jwd ∧
      s.atCycleStart.cur.ctl.lostrc = c.lostrc ∧ s.atCycleStart.cur.ctl.fpctl = c.fpctl ∧ s.atCycleStart.cur.ctl.utvec = c.utvec) ∧
  (∀ (s t : State) (i : Instr), let u := s.noteOrder i t
    u = { t with cur := { t.cur with shadow := u.cur.shadow }, others := u.others } ∧
    (u.others.map fun g => { g with shadow := [] }) = t.others.map fun g => { g with shadow := [] })

/-- R30 to R36: words written out bit by bit from the encoding decode to the instructions they stand for. -/
def Obligations.EncodedWords : Prop :=
  -- NOP: LEN 00, OP 0x00
  decode [0b0_000000_00000000_00000000_0000000_00] = some .nop ∧
  -- IADD s4, s2, s3: U, B6 = 3, A = 2, D = 4, OP 0x14
  decode [0b1_000011_00000010_00000100_0010100_00] = some (.iadd { form := .b, u := true, b6 := 3, a := 2, d := 4 }) ∧
  -- EXIT: OP 0x07; a reserved OP, 0x7F
  decode [0b0_000000_00000000_00000000_0000111_00] = some .exit ∧
  decode [0b0_000000_00000000_00000000_1111111_00] = some (.illegalOpcode [0b0_000000_00000000_00000000_1111111_00]) ∧
  -- LD.b32.dev v1, [s2 + v5 + 16]: form E, A = 5, D = 1, OP 0x58; BS, MOD3 = 3, SUB = 4, B = 2; word 2 = 16
  decode [0b0_000000_00000101_00000001_1011000_01, 0b0_1_011_000_0100_0000_00000000_00000010, 16] =
    some (.ld { form := .e, a := 5, d := 1, bs := true, mod3 := 3, sub := 4, b := 2, w2 := 16 }) ∧
  -- FADD v2, v0, v1: B6 = 1, A = 0, D = 2, OP 0x34; CADD.c1 v3, v1, v2: form E, OP 0x48, CLS = 1
  decode [0b0_000001_00000000_00000010_0110100_00] = some (.fadd { form := .b, b6 := 1, d := 2 }) ∧
  decode [0b0_000000_00000001_00000011_1001000_01, 0b0_0_000_000_0000_0001_00000000_00000010, 0] =
    some (.cadd { form := .e, a := 1, d := 3, cls := 1, b := 2 }) ∧
  -- MBEG a7: OP 0x70, A = 7, SUB 0; BAR.blk 3: OP 0x68, MOD3 = 1, word 2 = 3
  decode [0b0_000000_00000111_00000000_1110000_01, 0, 0] = some (.mbeg { form := .e, a := 7 }) ∧
  decode [0b0_000000_00000000_00000000_1101000_01, 0b0_0_001_000_0000_0000_00000000_00000000, 3] =
    some (.bar { form := .e, mod3 := 1, w2 := 3 }) ∧
  -- MOVL v8, 0x1122334455667788: form L, D = 8, OP 0x2C, low word first
  decode [0b0_000000_00000000_00001000_0101100_10, 0x55667788, 0x11223344] =
    some (.movl { form := .l, d := 8, lit := 0x1122334455667788 })

/-- R30 to R49: every well-formed instruction is what its words decode to, whatever follows them, and every instruction that words
decode to is well-formed and stands for the words at their head. -/
def Obligations.DecodeAndEncodeAgree : Prop :=
  (∀ (i : Instr) (rest : List Word), i.wellFormed = true → encode i ≠ [] → decode (encode i ++ rest) = some i) ∧
  (∀ (ws : List Word) (i : Instr), decode ws = some i → i.wellFormed = true ∧ encode i ≠ [] ∧ ∃ rest, ws = encode i ++ rest)

/-- Every step keeps the memories of the package in their canonical form. What an unlisted byte reads as is the model's choice (log 2). -/
def Obligations.StepKeepsMemories : Prop :=
  ∀ s t : State, memoriesCanonical s → step s = .next t → memoriesCanonical t

/-- R2, R286, R306, R339: what a part holds before power-up: nothing resident, memory without a byte, ports of the part DOWN and the rest
DISABLED, dies alive; the memories are in their canonical form. The values that the manual does not give are the model's choice (log entries
1, 2, 4, 5, 8 to 11). -/
def Obligations.ResetState : Prop :=
  memoriesCanonical State.reset ∧ State.reset.groups = [] ∧ State.reset.launches = [] ∧ (∀ a, State.reset.mem.bytes.read a = 0) ∧
  State.reset.cycle = 0 ∧ State.reset.power.stage = 0 ∧ (∀ q, (State.reset.queueOf q).desc.enabled = false) ∧
  (State.reset.fabric.ports.map (·.st)) = (List.range 256).map (fun i => if i < Config.ports State.reset.part then PortSt.down else .disabled) ∧
  (State.reset.dies.map (·.alive)) = List.replicate (Config.dies State.reset.part) true ∧
  State.reset.cur.ctl.live = 0xFFFFFFFF ∧ State.reset.cur.ctl.jwd = 0x01000000 ∧ State.reset.cur.ctl.srstate = 1 ∧
  ∀ n, (State.reset.cur.regs).getK n = (if n.toNat % 16 = 0 then 0xFFFFFFFF else 0)

/-- R173: LAUNCH appends a LAUNCH_IMAGE packet to a device queue and answers 0; 1 when the queue lacks room and 2 when it is stopped, and the
queue is as before; in a deterministic launch, or with an operand that it refuses, it traps. The order of LAUNCH's checks is the model's
reading (log 39). -/
def Obligations.DeviceLaunch : Prop :=
  ∀ (f : Fields) (s : State), (Instr.launch f).wellFormed = true → Acts f s → Ready 0x6E f s →
    let i := Instr.launch f
    let addr := s.cur.regs.getPair f.a
    let b := s.cur.regs.getS f.b
    let x := s.queueOf b.toNat
    let suits := b.toNat < 2048 ∧ x.desc.tenant = (s.lchOf s.cur).tenant ∧ x.desc.enabled = true ∧ x.desc.devlaunch = true
    let byte := fun (k : Nat) => s.byteOf s.cur ((addr.toNat % 2 ^ 56) + k)
    (∀ code, (s.lchOf s.cur).img.det = false → addr.toNat % 64 = 0 → suits → s.cur.resident = true → s.cur.pend.mem = [] → s.cur.shadow = [] → Homed s →
      (window (addr.toNat % 2 ^ 56) ≠ 0xFD) → RangeOk s 0 addr 64 →
      (∀ k < 64, (s.remoteOf s.cur (((addr.toNat % 2 ^ 56) + k) / 32)) = none ∧ s.markedAt s.cur ((addr.toNat % 2 ^ 56) + k) = false) →
      (∀ pa e, s.placeOf s.cur (addr.toNat % 2 ^ 56) = .mem pa e → ∀ c ∈ s.mem.l1, c.core ≠ s.coreOf s.cur) →
      byte 0 = 4 → leNat [byte 2, byte 3] = 1 → 64 ≤ x.desc.ringBytes →
      ((code = 2 ∧ x.stopped = true) ∨
       (code = 1 ∧ x.stopped = false ∧ ∃ h, InPage s x.desc.asid x.desc.base.toNat 8 h ∧ x.desc.ringBytes < word64 s h - x.ridx + 64)) →
      ∃ t, exec i s = .next t ∧ Through i s t ∧ SResult s.cur.regs t.cur.regs f.d code ∧ t.mem = { s.mem with tlb := t.mem.tlb }) ∧
    (∀ h r, (s.lchOf s.cur).img.det = false → addr.toNat % 64 = 0 → suits → s.cur.resident = true → s.cur.pend.mem = [] → s.cur.shadow = [] → Homed s →
      (window (addr.toNat % 2 ^ 56) ≠ 0xFD) → RangeOk s 0 addr 64 →
      (∀ k < 64, (s.remoteOf s.cur (((addr.toNat % 2 ^ 56) + k) / 32)) = none ∧ s.markedAt s.cur ((addr.toNat % 2 ^ 56) + k) = false) →
      (∀ pa e, s.placeOf s.cur (addr.toNat % 2 ^ 56) = .mem pa e → ∀ c ∈ s.mem.l1, c.core ≠ s.coreOf s.cur) →
      byte 0 = 4 → leNat [byte 2, byte 3] = 1 → x.stopped = false →
      InPage s x.desc.asid x.desc.base.toNat 8 h → InPage s x.desc.asid (x.desc.ringAddr (word64 s h)) 64 r → (h + 8 ≤ r ∨ r + 64 ≤ h) →
      word64 s h - x.ridx + 64 ≤ x.desc.ringBytes → word64 s h + 64 < 2 ^ 64 →
      ∃ t, exec i s = .next t ∧ Through i s t ∧ SResult s.cur.regs t.cur.regs f.d 0 ∧ word64 t h = word64 s h + 64 ∧
        (∀ k < 64, t.mem.bytes.read (r + k) = byte k) ∧ BytesBut s t [(h, 8), (r, 64)]) ∧
    (Handles s → (s.lchOf s.cur).img.det = true → ∃ t, exec i s = .next t ∧ SameRegs s t ∧ t.queues = s.queues ∧
      TrappedIn s t Cause.detViolation 1 fun k _ => if k = 0 then addrLo (addr.toNat % 2 ^ 56)
        else if k = 1 then addrHi (addr.toNat % 2 ^ 56) else if k = 2 then 11 else 0) ∧
    (Handles s → (s.lchOf s.cur).img.det = false → (addr.toNat % 64 ≠ 0 ∨ ¬ suits) →
      ∃ t, exec i s = .next t ∧ SameRegs s t ∧ t.queues = s.queues ∧
        Trapped s t Cause.illegalOperand s.cur.exec fun k _ => if k = 0 then (encode i).getD 0 0 else if k = 1 then (encode i).getD 1 0
          else if k = 2 then (if suits then 1 else 2) else if suits then addr.extractLsb' 0 32 else b)

/-- R138: an access that fails the check in some lane has no effect and raises the cause of the lowest failing lane, with every lane
that fails with it; a page that has no translation enters the page-fault handler at `$stvec` in supervisor mode (R93, R228). -/
def Sys2Proof.Spec.AccessFaults : Prop :=
  (∀ (i : Instr) (f : Fields) (s : State) (acc w : Nat) (op : BitVec 7) (ti : TrapInfo),
    ((i = .ld f ∧ op = 0x58 ∧ acc = 0 ∧ w = sizeBytes f.sub) ∨ (i = .st f ∧ op = 0x59 ∧ acc = 1 ∧ w = sizeBytes f.sub) ∨
     (i = .atom f ∧ op = 0x5C ∧ acc = 2 ∧ w = atomWidth f.b6) ∨ (i = .red f ∧ op = 0x5D ∧ acc = 3 ∧ w = atomWidth f.b6)) →
    i.wellFormed = true → Acts f s → Ready op f s →
    s.checkLanes s.cur acc ((activeLanes f.u s.cur.exec).map fun l => (l, addrOf f s.cur.regs l, w)) = some ti →
    (ti.cause ≠ Cause.pageFault → Handles s → ∃ t, exec i s = .next t ∧ SameRegs s t ∧ t.cur.pend = s.cur.pend ∧
      TrappedIn s t ti.cause ti.lanes fun k l => (ti.val[k.val]).get l) ∧
    (ti.cause = Cause.pageFault → s.cur.sup = none → s.cur.fydb = .off → ∃ t, exec i s = .next t ∧
      PageFaulted s t ti.lanes fun k l => (ti.val[k.val]).get l)) ∧
  (∀ (s : State) (acc : Nat) (l : Fin 32) (addr : DWord) (w : Nat), 0 < w → w ≤ 16 →
    let a := addr.toNat % 2 ^ 56
    let one := fun (cause x : Nat) => ∃ ti, s.checkLanes s.cur acc [(l, addr, w)] = some ti ∧ ti.cause = cause ∧
      ti.lanes = maskOf (fun m => decide (m = l)) ∧ (ti.val[0]).get l = addrLo x ∧ (ti.val[1]).get l = addrHi x ∧
      (ti.val[2]).get l = BitVec.ofNat 32 acc ∧ (ti.val[3]).get l = 0
    let inGlobal := window a < 0xFD ∧ a + w ≤ 0xFD * 2 ^ 48
    (acc ≤ 1 → window a = 0xFD → (s.lchOf s.cur).img.stack < a % 2 ^ 48 + w → a % 2 ^ 48 + w ≤ 2 ^ 48 →
      one Cause.accessViolation (0xFD * 2 ^ 48 + max (a % 2 ^ 48) (s.lchOf s.cur).img.stack)) ∧
    (acc = 2 ∨ acc = 3 → inGlobal → 32 < a % 32 + w → one Cause.atomicAlign a) ∧
    (acc ≤ 1 → inGlobal → a % 65536 + w ≤ 65536 →
      (s.xlate s.cur a = none → one Cause.pageFault a) ∧
      (∀ i e, s.xlate s.cur a = some (i, e) → e.rem = false → s.mem.beyond i = true → one Cause.capacity a) ∧
      (∀ i e, s.xlate s.cur a = some (i, e) → e.rem = false → s.mem.beyond i = false → acc = 1 → (if e.code then e.sm else e.wr) = false →
        one Cause.accessViolation a)))

/-- R228 to R230: the page-fault handler serves a first touch with a zeroed frame of the pool and returns to the instruction with the
user's trap registers; any other fault parks the group until the record's ticket is answered. -/
def Sys2Proof.Spec.PageFaultHandler : Prop :=
  ∀ (s : State) (x : SupSave) (l : Fin 32) (a : Nat), Faulted s x l a →
    let asid := (s.lchOf s.cur).asid
    (∀ z fr rest, s.mem.zeroRange asid (a / 65536) = some z → s.mem.hasEntry asid (a / 65536) = false → s.mem.pool = fr :: rest →
      s.mem.reserve < s.mem.pool.length → fr < 0x2000000 → s.mem.bytes.wf = true →
      ∃ u : State, s.run = .next (u.afterIssue true) ∧ u.cur.sup = none ∧ u.cur.trap = s.cur.trap ∧ u.cur.regs = s.cur.regs ∧
        u.cur.sp = { s.cur.sp with pc := alignPc x.fault.pc } ∧ (∀ n, n ≠ s.cur.running → u.cur.entry n = s.cur.entry n) ∧
        u.mem.pool = rest ∧ (∃ e, u.mem.walk asid (a / 65536) (s.lchOf s.cur).img.codever = some (fr, e) ∧ e.wr = z.wr ∧ e.code = false) ∧
        (∀ k < 65536, u.mem.bytes.read (fr * 65536 + k) = 0) ∧ BytesBut s u [(fr * 65536, 65536)] ∧ u.blocks = s.blocks) ∧
    (s.mem.zeroRange asid (a / 65536) = none →
      ∃ u : State, s.run = .next (u.afterIssue true) ∧ u.cur.parked = some s.nextTicket ∧ u.cur.sup = some { x with handed := true } ∧
        u.cur.regs = s.cur.regs ∧ u.cur.splits = s.cur.splits ∧ u.cur.trap = s.cur.trap ∧
        ∃ w, u.awaited = s.awaited ++ [w] ∧ w.ticket = s.nextTicket ∧ w.kind = 3 ∧ w.group = some s.cur.ref)

/-- R50, R90, R101: under an empty `$exec` a vector instruction only retires: no register, no flag, no fault, no access. -/
def Sys2Proof.Spec.EmptyMask : Prop :=
  ∀ (i : Instr) (op : BitVec 7) (f : Fields) (s : State), i.parts = some (op, f) → i.wellFormed = true → f.u = false → s.cur.exec = 0 →
    vectorOp op f → ∃ t, exec i s = .next t ∧ Plain i s t ∧ SameRegs s t

end

section
open Sys2Proof Sys2Proof.Machine Sys2Proof.Spec

/-- R78, R85 to R87: the swap puts the split that has waited longest into the slot of the topmost dormant entry, which takes its number
and becomes ready; the join watchdog merges without the missing lanes and counts the loss, or raises JOIN_TIMEOUT at the `JARV`. -/
def Sys2Proof.Spec.SplitEvents : Prop :=
  ∀ (s : State), s.cur.resident = true → Partitioned s →
    (∀ (n : BitVec 3) (i : Nat), (∀ m, (s.cur.entry m).v = true → (s.cur.entry m).st = .waiting) → (s.cur.entry n).v = true →
      (∀ m, (s.cur.entry m).v = true → (s.cur.entry m).wait ≤ (s.cur.entry n).wait ∧
        ((s.cur.entry m).wait = (s.cur.entry n).wait → n.toNat ≤ m.toNat)) →
      s.cur.ovf ≤ 16 → i < s.cur.ovf → (s.ovfEntry s.cur i).st = .dormant → (∀ k, i < k → k < s.cur.ovf → (s.ovfEntry s.cur k).st ≠ .dormant) →
      s.cur.ovfWait.length = s.cur.ovf → (s.block? s.cur.launch s.cur.run s.cur.block).isSome = true →
      (s.lchOf s.cur).img.scratchSize ≥ 512 * (s.cur.index + 1) →
      ∃ t, exec (.splitSwap s.cur.ref) s = .next t ∧ t.cur.entry n = { s.ovfEntry s.cur i with v := true, st := .ready } ∧
        (∀ m, m ≠ n → t.cur.entry m = s.cur.entry m) ∧ t.cur.ovf = s.cur.ovf ∧
        (let e := t.ovfEntry t.cur i
         let o := s.cur.entry n
         e.st = .waiting ∧ e.jslot = o.jslot ∧ e.mask = o.mask ∧ e.park = o.park ∧ e.wait = o.wait ∧ e.sig = o.sig ∧ e.clsf = o.clsf ∧
           e.fpf = o.fpf ∧ e.pc = alignPc o.pc) ∧
        (∀ k, k < s.cur.ovf → k ≠ i → (t.ovfEntry t.cur k).mask = (s.ovfEntry s.cur k).mask ∧ (t.ovfEntry t.cur k).st = (s.ovfEntry s.cur k).st) ∧
        t.cur.regs = s.cur.regs ∧ t.cur.ctl = s.cur.ctl ∧ t.mem = s.mem) ∧
    (∀ (j : Fin 8), s.cur.ovf = 0 → s.cur.fydb = .off → s.cur.parked = none → (∀ m, (s.cur.entry m).v = true → (s.cur.entry m).inh = false) →
      let k := BitVec.ofNat 3 j.val
      let limit := s.cur.ctl.jwd.toNat % 2 ^ 26
      let due := fun (m : BitVec 3) => (s.cur.entry m).v = true ∧ (s.cur.entry m).st = .waiting ∧ (s.cur.entry m).jslot = k ∧ limit ≤ (s.cur.entry m).wait
      let member := fun (m : BitVec 3) => (s.cur.entry m).v = true ∧ (s.cur.entry m).st = .waiting ∧ (s.cur.entry m).jslot = k
      let x := s.cur.join k
      limit ≠ 0 →
      (s.cur.ctl.jwd.getLsbD 31 = false → (∃ m, due m) →
        ∃ t m, exec (.joinWatchdogRelease s.cur.ref j) s = .next t ∧ member m ∧ (∀ n, member n → m.toNat ≤ n.toNat) ∧
          t.cur.ctl = { s.cur.ctl with lostrc := BitVec.ofNat 32 (min 0xFFFFFFFF (s.cur.ctl.lostrc.toNat + 1)) } ∧
          (t.cur.entry m).v = true ∧ (t.cur.entry m).st = .ready ∧ (t.cur.entry m).pc = x.pc ∧
          (∀ l : Fin 32, (t.cur.entry m).mask.getLsbD l.val = true ↔ ∃ n, member n ∧ (s.cur.entry n).mask.getLsbD l.val = true) ∧
          (∀ n, member n → n ≠ m → (t.cur.entry n).v = false) ∧ (∀ n, ¬ member n → t.cur.entry n = s.cur.entry n) ∧
          (t.cur.join k).armed = false ∧ (t.cur.join k).arrived = 0 ∧ (∀ n, n ≠ k → t.cur.join n = s.cur.join n) ∧
          t.cur.regs = s.cur.regs ∧ t.mem = s.mem) ∧
      (∀ m, s.cur.ctl.jwd.getLsbD 31 = true → due m → (∀ n, due n → m.toNat ≤ n.toNat) → s.cur.ctl.utvec ≠ 0 →
        ∃ t, exec (.joinWatchdogTrap s.cur.ref j) s = .next t ∧ t.cur.running = m ∧
          t.cur.entry m = { s.cur.entry m with st := .ready, wait := 0, inh := true, half := false, pc := alignPc s.cur.ctl.utvec } ∧
          (∀ n, n ≠ m → t.cur.entry n = s.cur.entry n) ∧
          t.cur.join k = { x with arrived := x.arrived &&& ~~~((s.cur.entry m).mask ||| (s.cur.entry m).park) } ∧
          t.cur.trap.pc = (s.cur.entry m).pc ∧ t.cur.trap.cause = causeWord m false Cause.joinTimeout ∧ t.cur.trap.mask = (s.cur.entry m).mask ∧
          (∀ l, (t.cur.trap.val[0]).get l = x.rejoin &&& s.cur.ctl.live &&& ~~~x.arrived ∧ (t.cur.trap.val[1]).get l = BitVec.ofNat 32 j.val ∧
            (t.cur.trap.val[2]).get l = 0 ∧ (t.cur.trap.val[3]).get l = 0) ∧
          t.cur.ctl = s.cur.ctl ∧ t.cur.regs = s.cur.regs ∧ t.mem = s.mem))

/-- R98, R268: a group that has been ready for 256 cycles is promoted; fydb steps the session's focus split, the lowest-numbered ready
split where that one cannot be stepped, or each ready split, holds the group after them, and lets it go on. -/
def Sys2Proof.Spec.GroupEvents : Prop :=
  ∀ (s : State), s.cur.resident = true → s.cur.ovf = 0 →
    (256 ≤ s.cur.iss.readyFor → ∃ t, exec (.groupPromote s.cur.ref) s = .next t ∧
      t = { s with cur := { s.cur with iss := { s.cur.iss with promoted := true } } }) ∧
    (let can := fun n => (s.cur.entry n).v = true ∧ (s.cur.entry n).st = .ready ∧ s.cur.unfrozen n = true
     (∀ n, can n → s.cur.fydbFocus = some n →
       ∃ t, exec (.fydbStep s.cur.ref false) s = .next t ∧ t = { s with cur := { s.cur with fydb := .stepping [n] } }) ∧
     (∀ n, can n → (∀ m, s.cur.fydbFocus = some m → ¬ can m) → (∀ m, can m → n.toNat ≤ m.toNat) →
       ∃ t, exec (.fydbStep s.cur.ref false) s = .next t ∧ t = { s with cur := { s.cur with fydb := .stepping [n], fydbFocus := some n } }) ∧
     ((∃ n, can n) →
       ∃ t l, exec (.fydbStep s.cur.ref true) s = .next t ∧ t = { s with cur := { s.cur with fydb := .stepping l } } ∧
         (∀ n, n ∈ l ↔ can n) ∧ l.Pairwise (fun a b => a.toNat < b.toNat)) ∧
     ((∀ n, ¬ can n) → ∃ t, exec (.fydbStep s.cur.ref true) s = .next t ∧ t = { s with cur := { s.cur with fydb := .stopped } })) ∧
    (s.cur.fydb.holds = true → ∃ t, exec (.fydbContinue s.cur.ref) s = .next t ∧ t = { s with cur := { s.cur with fydb := .attached } })

end

namespace Sys2Proof.Spec

open Sys2Proof.Machine

/-! ## Queues and packets (R285 to R301) -/

/-- A packet stands at the head of a queue that runs, in a part that is not in recovery; neither an older packet nor a record that waits
for its exception queue holds it back, and the packets that run began before it. -/
def Head (s : State) (q : Nat) (p : Packet) (x : Queue) : Prop :=
  s.power.recovery = none ∧ (∀ r ∈ s.waitingRecs, r.src ≠ q) ∧ s.queue? q = some x ∧ x.desc.enabled = true ∧ x.desc.exc = false ∧ x.stopped = false ∧ x.held = some p ∧
  (p.bar = true → x.running = []) ∧ (∀ r ∈ x.running, r.id < x.begun) ∧ x.ridx < 2 ^ 64

/-- The header of a queue lies in one page at a place. -/
def HeaderAt (s : State) (x : Queue) (h : Nat) : Prop := InPage s x.desc.asid x.desc.base.toNat 64 h

/-- The response word of a packet lies in one page at a place, apart from the header, or the packet has none. -/
def RespAt (s : State) (x : Queue) (h : Nat) (resp : DWord) : Option Nat → Prop
  | none => resp = 0
  | some pr => resp ≠ 0 ∧ InPage s x.desc.asid (resp.toNat % 2 ^ 56) 8 pr ∧ (pr + 8 ≤ h ∨ h + 64 ≤ pr)

/-- The queue after a packet that has completed: DONESEQ counts it, and a packet that completes in order moves DONESEQ onto it. -/
def Counted (x y : Queue) (seq : Word) : Prop :=
  (seq = x.doneSeq + 1 → x.doneSet = [] → y.doneSeq = seq ∧ y.doneSet = []) ∧
  (seq ≠ x.doneSeq + 1 → x.doneSeq + 1 ∉ x.doneSet → y.doneSeq = x.doneSeq ∧ seq ∈ y.doneSet)

/-- RIDX, DONESEQ and STATE stand in the header as the queue processor holds them, the response word in its place. -/
def Told (t : State) (y : Queue) (h : Nat) (resp : Option Nat) (seq : Word) (status detail : Nat) : Prop :=
  word64 t (h + 8) = y.ridx ∧ word64 t (h + 16) = y.doneSeq.toNat * 2 ^ 32 ∧
  word64 t (h + 24) % 16 = (if y.desc.enabled = false then 2 else if y.stopped then 1 else 0) ∧
  ∀ pr, resp = some pr → word64 t pr = seq.toNat * 2 ^ 32 + status * 2 ^ 24 + detail

/-- What a completion writes of memory. -/
def toldAt (h : Nat) (resp : Option Nat) : List (Nat × Nat) := (h + 8, 24) :: (match resp with | some pr => [(pr, 8)] | none => [])

/-- A packet at the head has ended where it began. -/
def Ended (s t : State) (q : Nat) (p : Packet) (x : Queue) (h : Nat) (resp : Option Nat) (status detail : Nat) : Prop :=
  (∃ y, t.queue? q = some y ∧ y = { x with held := none, got := [], asked := [], failed := none, begun := x.begun + 1, doneSeq := y.doneSeq, doneSet := y.doneSet } ∧
    Counted x y p.seq ∧ Told t y h resp p.seq status detail) ∧
  (∀ n, n ≠ q → t.queue? n = s.queue? n)

/-- A packet at the head has begun and not ended: it runs, with nothing of it awaited. -/
def Begun (s t : State) (q : Nat) (p : Packet) (x : Queue) (r : Running) : Prop :=
  r.id = x.begun ∧ r.seq = p.seq ∧ r.resp = p.resp ∧ r.opcode = p.opcode ∧ r.pos = p.pos ∧ r.status = 0 ∧ r.stale = false ∧ r.waits = [] ∧
  t.queue? q = some { x with held := none, got := [], asked := [], failed := none, running := x.running ++ [r], begun := x.begun + 1 } ∧
  (∀ n, n ≠ q → t.queue? n = s.queue? n)

/-- Groups, blocks and launches are the same. -/
def NoGroup (s t : State) : Prop := t.cur = s.cur ∧ t.others = s.others ∧ t.blocks = s.blocks

/-- What SIGNAL_WAIT asks of the word (R294). -/
def waitHolds (p : Packet) (w : Nat) : Prop :=
  let v := p.fld 8 8
  (p.fld 16 4 = 0 ∧ w = v) ∨ (p.fld 16 4 = 1 ∧ w ≠ v) ∨ (p.fld 16 4 = 2 ∧ v ≤ w) ∨ (p.fld 16 4 = 3 ∧ w < v)

/-- A packet that runs in a queue, with nothing of it awaited; the model's own numbers tell the packets that run apart. -/
def Runs (s : State) (q : Nat) (x : Queue) (r : Running) : Prop :=
  s.queue? q = some x ∧ x.desc.enabled = true ∧ x.desc.exc = false ∧ r ∈ x.running ∧ (∀ y ∈ x.running, y.id = r.id → y = r) ∧
  (x.running.map (·.id)).Nodup ∧ r.waits = [] ∧ r.stale = false ∧ x.ridx < 2 ^ 64

/-- A record fits into the ring of an exception queue, each in one page at a place, apart from the source's header. -/
def RecordAt (s : State) (x : Queue) (h : Nat) (we re : Nat) : Prop :=
  ∃ e, s.queue? x.desc.exq = some e ∧ e.desc.enabled = true ∧ e.desc.exc = true ∧ x.desc.exq ≠ 0xFFFF ∧ s.waitingRecs = [] ∧
    InPage s e.desc.asid e.desc.base.toNat 64 we ∧ InPage s e.desc.asid (e.desc.ringAddr (word64 s we)) 64 re ∧
    word64 s we - word64 s (we + 8) + 64 ≤ e.desc.ringBytes ∧ word64 s we + 64 < 2 ^ 64 ∧
    (we + 64 ≤ h ∨ h + 64 ≤ we) ∧ (re + 64 ≤ h ∨ h + 64 ≤ re) ∧ (re + 64 ≤ we ∨ we + 64 ≤ re)

/-- Little-endian bytes. -/
def le (n x : Nat) : List Byte := (List.range n).map fun i => BitVec.ofNat 8 (x / 256 ^ i)

/-- The KIND 1 record of a packet: KIND, CODE, queue, tenant, FLAGS, SEQ, TICKET, TIME, ASID, PLACE, BLOCK, PC; DETAIL zero (R299, R300). -/
def kind1 (s : State) (q : Nat) (x : Queue) (seq : Word) (code flags : Nat) (ticket : Word) (pos : Nat) : List Byte :=
  le 2 1 ++ le 2 code ++ le 2 q ++ le 1 x.desc.tenant ++ le 1 flags ++ le 4 seq.toNat ++ le 4 ticket.toNat ++ le 8 s.cycle.toNat ++
  le 2 x.desc.asid.toNat ++ le 2 0xFFFF ++ le 4 0xFFFFFFFF ++ le 8 pos ++ le 24 0

/-- A well-formed packet of one unit stands whole at RIDX of a queue, in one page at a place apart from the header. -/
def NextPacket (s : State) (q : Nat) (x : Queue) (h r : Nat) (p : Packet) : Prop :=
  x.ridx + 64 = word64 s h ∧ x.ridx % 64 = 0 ∧ 12 ≤ x.desc.rlog ∧ InPage s x.desc.asid (x.desc.ringAddr x.ridx) 64 r ∧
  (h + 64 ≤ r ∨ r + 64 ≤ h) ∧ p = { bytes := s.mem.bytes.readN r 64, pos := x.ridx % x.desc.ringBytes, seq := x.expect } ∧
  p.opcode ≤ 7 ∧ p.units = 1 ∧ s.malformed q p = none

/-- The packet has become the head of its queue, and RIDX stands behind it, in the header as well. -/
def TakesHead (s t : State) (q : Nat) (x : Queue) (h : Nat) (p : Packet) : Prop :=
  t.queue? q = some { x with held := some p, heldSince := s.cycle.toNat, ridx := x.ridx + 64, expect := x.expect + 1 } ∧
  word64 t (h + 8) = x.ridx + 64 ∧ BytesBut s t [(h + 8, 24)] ∧ NoGroup s t ∧ t.launches = s.launches

/-- The opcodes in the order in which a pass serves their packets (R291): SIGNAL_WAIT, SIGNAL_WRITE, LAUNCH_IMAGE, COPY and SCOUT, BIND
and CONFIG, TIMESTAMP, NOP. -/
def serviceOrder : List (List Nat) := [[3], [2], [4], [5, 8], [6, 7], [1], [0]]

end Sys2Proof.Spec

section
open Sys2Proof Sys2Proof.Machine Sys2Proof.Spec

/-- R288, R290, R291: a pass takes the packet at RIDX to the head of its queue, and its lanes serve their heads class by class; a lane
whose head has gone within the pass takes the next packet then (the end of R301). A WIDX that is not legal stops the queue with a record
that awaits an answer, found by the pass or at the write of WIDX. -/
def Obligations.QueuePasses : Prop :=
  ∀ (s : State) (q : Nat) (x : Queue) (h : Nat), s.queue? q = some x → x.desc.enabled = true → x.desc.exc = false → x.stopped = false → HeaderAt s x h →
    x.ridx < 2 ^ 64 - 2 ^ 32 →
    (∀ r p, q < 2048 → s.power.recovery = none → s.waitingRecs = [] → (∀ n, n / 32 = q / 32 → n ≠ q → s.queue? n = none) → x.held = none →
      word64 s (h + 32) % 4 = 0 → NextPacket s q x h r p →
      ∃ t, exec (.qpPass (q / 32)) s = .next t ∧ t.agenda = .serve [q] [] 2 :: s.agenda ∧ TakesHead s t q x h p) ∧
    (∀ p c, x.held = some p → p.opcode ≤ 8 → 2 ≤ c → c ≤ 8 →
      s.perform (.serve [q] [] c) = .next { s with agenda :=
        (if p.opcode ∈ serviceOrder.getD (c - 2) [] then [.event (packetInstr q p)] else []) ++
          (if c < 8 then [.serve [q] [] (c + 1)] else []) ++ s.agenda }) ∧
    (∀ p late c, x.held = some p → p.opcode ≤ 8 → q ∈ late → (∀ n ∈ late, n = q) → 2 ≤ c → c < 8 →
      s.perform (.serve [q] late c) = .next { s with agenda :=
        (if p.opcode ∈ serviceOrder.getD (c - 2) [] then [.event (packetInstr q p)] else []) ++ .serve [q] late (c + 1) :: s.agenda }) ∧
    (∀ r p c, (∀ y ∈ s.waitingRecs, y.src ≠ q) → x.held = none → 2 ≤ c → c < 8 → NextPacket s q x h r p →
      ∃ t, s.perform (.serve [q] [q] c) = .next t ∧ TakesHead s t q x h p ∧ t.agenda =
        (if p.opcode ∈ serviceOrder.getD (c - 2) [] then [.event (packetInstr q p)] else []) ++ .serve [q] [] (c + 1) :: s.agenda) ∧
    (∀ (w : DWord), let ok := x.ridx ≤ w.toNat ∧ w.toNat ≤ x.ridx + x.desc.ringBytes ∧ w.toNat % 64 = 0
      (ok → ∃ t, exec (.widxWrite q w) s = .next t ∧ word64 t h = w.toNat ∧ t.queue? q = some x ∧ BytesBut s t [(h, 8)] ∧ NoGroup s t) ∧
      (¬ ok → x.desc.exq = 0xFFFF → ∃ t, exec (.widxWrite q w) s = .next t ∧ t.queue? q = some { x with stopped := true, skip := 0 } ∧ NoGroup s t ∧
        word64 t h = w.toNat ∧ word64 t (h + 24) = 14 * 16 + 1 ∧ BytesBut s t [(h, 32)] ∧
        ∃ a, t.awaited = s.awaited ++ [a] ∧ a.ticket = s.nextTicket ∧ a.queue = q ∧ a.kind = 1 ∧ a.code = 14))

/-- R301: RESUME, SKIP and ABORT act on the record whose ticket they name, and ANSWER is cleared; an answer to none does nothing else.
A queue that another record holds stays stopped. -/
def Sys2Proof.Spec.Answers : Prop :=
  ∀ (s : State) (q : Nat) (x : Queue) (h : Nat) (ticket : Word), s.queue? q = some x → x.desc.enabled = true → x.desc.exc = false → HeaderAt s x h →
    x.ridx < 2 ^ 64 - 2 ^ 32 →
    let stands := fun (code : Nat) => word64 s (h + 32) % 4 = code ∧ word64 s (h + 32) / 2 ^ 32 = ticket.toNat
    let names := fun (a : Awaited) => a ∈ s.awaited ∧ a.ticket = ticket ∧ a.queue = q ∧ ∀ b ∈ s.awaited, b.ticket = ticket → b = a
    let gone := s.awaited.filter (·.ticket ≠ ticket)
    let cleared := fun (t : State) => word64 t (h + 32) = word64 s (h + 32) / 4 * 4
    let alone := ∀ b ∈ s.awaited, b.queue = q → b.kind = 1 ∨ b.kind = 6 → b.ticket = ticket
    (stands 1 → (∀ a ∈ s.awaited, ¬ (a.ticket = ticket ∧ a.queue = q)) →
      ∃ t, exec (.answerResume q ticket) s = .next t ∧ cleared t ∧ t.queues = s.queues ∧ t.awaited = s.awaited ∧ NoGroup s t) ∧
    (∀ a, stands 1 → names a → a.kind = 1 → alone →
      ∃ t, exec (.answerResume q ticket) s = .next t ∧ cleared t ∧ t.queue? q = some { x with stopped := false } ∧ t.awaited = gone ∧ NoGroup s t) ∧
    (∀ a, stands 1 → names a → a.kind = 1 → ¬ alone →
      ∃ t, exec (.answerResume q ticket) s = .next t ∧ cleared t ∧ t.queue? q = some { x with stopped := true } ∧ t.awaited = gone ∧ NoGroup s t) ∧
    (∀ a sv, stands 1 → names a → a.kind = 3 → a.group = some s.cur.ref → s.cur.resident = true → s.cur.sup = some sv →
      ∃ t, exec (.answerResume q ticket) s = .next t ∧ cleared t ∧ t.cur.parked = none ∧ t.cur.sup = none ∧ t.cur.trap = s.cur.trap ∧
        t.cur.entry sv.split = { s.cur.entry sv.split with pc := alignPc sv.fault.pc } ∧ (∀ n, n ≠ sv.split → t.cur.entry n = s.cur.entry n) ∧
        t.cur.regs = s.cur.regs ∧ t.queues = s.queues ∧ t.awaited = gone) ∧
    (∀ a, stands 2 → names a → a.kind = 1 → alone → x.skip = 64 → (∀ b, s.ringUnit x.desc x.ridx = .ok b →
        (({ bytes := b, pos := 0, seq := 0 } : Packet).resp = 0)) →
      ∃ t y, exec (.answerSkip q ticket) s = .next t ∧ cleared t ∧ t.queue? q = some y ∧
        y = { x with ridx := x.ridx + 64, expect := x.expect + 1, stopped := false, skip := 0, doneSeq := y.doneSeq, doneSet := y.doneSet } ∧
        Counted x y x.expect ∧ t.awaited = gone ∧ NoGroup s t) ∧
    (∀ a, stands 3 → names a → a.kind = 1 → x.stopped = true → x.held = none → word64 s h = x.ridx → (∀ l ∈ s.launches, l.queue ≠ q) →
      ∃ t, exec (.answerAbort q ticket) s = .next t ∧ cleared t ∧ word64 t (h + 24) % 16 = 2 ∧
        t.queue? q = some { x with desc := { x.desc with enabled := false }, stopped := false } ∧ t.awaited = gone ∧ NoGroup s t)

/-- R284, R301: every answer that names a record which awaits it completes, whatever the record and whatever else the queue holds: the record
awaits no longer; RESUME lets the queue or the parked group go on; SKIP passes over the packet, lets a queue stopped by an UNRESOLVED gang
go on, or kills the gang of a page fault; ABORT disables the queue and ends its launches, or kills the gang. -/
def Sys2Proof.Spec.AnswersComplete : Prop :=
  ∀ (s : State) (q : Nat) (x : Queue) (h : Nat) (ticket : Word) (a : Awaited), s.queue? q = some x → HeaderAt s x h →
    a ∈ s.awaited → a.ticket = ticket → a.queue = q → (∀ b ∈ s.awaited, b.ticket = ticket → b = a) →
    let stands := fun (code : Nat) => word64 s (h + 32) % 4 = code ∧ word64 s (h + 32) / 2 ^ 32 = ticket.toNat
    let left := fun (t : State) => ∀ b ∈ t.awaited, b.ticket ≠ ticket
    let held := ∃ b ∈ s.awaited, b.ticket ≠ ticket ∧ b.queue = q ∧ (b.kind = 1 ∨ b.kind = 6)
    let runsOn := fun (y : Queue) => (y.stopped = true ↔ held) ∧ y.desc = x.desc
    let placed := a.group = some s.cur.ref ∧ s.cur.resident = true ∧ a.launch = s.cur.launch ∧ a.gang = s.gangOf s.cur ∧
      (s.lchOf s.cur).aborted = false ∧ ((s.lchOf s.cur).gang? a.gang s.cur.run).isSome = true
    let killed := fun (t : State) => ∀ g ∈ t.groups, ¬ (s.lchOf s.cur).inGang a.gang s.cur.run g.ref = true
    (stands 1 → a.kind = 1 ∨ a.kind = 6 → ∃ t y, exec (.answerResume q ticket) s = .next t ∧ left t ∧ NoGroup s t ∧
      t.queue? q = some y ∧ runsOn y ∧ y.ridx = x.ridx ∧ y.expect = x.expect) ∧
    (stands 1 → a.kind = 3 → placed → ∃ t, exec (.answerResume q ticket) s = .next t ∧ left t ∧ t.cur.parked = none ∧ t.cur.sup = none ∧
      t.queues = s.queues) ∧
    (stands 2 → a.kind = 6 → ∃ t y, exec (.answerSkip q ticket) s = .next t ∧ left t ∧ NoGroup s t ∧ t.queue? q = some y ∧ runsOn y ∧
      y.ridx = x.ridx ∧ y.expect = x.expect) ∧
    (stands 2 → a.kind = 1 → ∃ t y, exec (.answerSkip q ticket) s = .next t ∧ left t ∧ NoGroup s t ∧ t.queue? q = some y ∧ runsOn y ∧
      y.ridx = x.ridx + x.skip ∧ y.expect = if x.skip = 0 then x.expect else x.expect + 1) ∧
    (stands 2 → a.kind = 3 → placed → ∃ t, exec (.answerSkip q ticket) s = .next t ∧ left t ∧ killed t) ∧
    (stands 3 → a.kind = 3 → placed → ∃ t, exec (.answerAbort q ticket) s = .next t ∧ left t ∧ killed t) ∧
    (stands 3 → a.kind = 1 ∨ a.kind = 6 → (s.launches.map (·.id)).Nodup → ∃ t y, exec (.answerAbort q ticket) s = .next t ∧ left t ∧
      t.queue? q = some y ∧ y.desc.enabled = false ∧ y.stopped = false ∧ ∀ l ∈ t.launches, l.queue = q → l.aborted = true)

/-- R290, R293, R294: NOP, TIMESTAMP, SIGNAL_WRITE and SIGNAL_WAIT on memory that the part holds, what PACKET_COMPLETION makes of a
packet that has begun, and the timeout of a wait: the record, STATUS 3 and DONESEQ. -/
def Sys2Proof.Spec.SignalPackets : Prop :=
  ∀ (s : State) (q : Nat) (p : Packet) (x : Queue) (h : Nat), HeaderAt s x h →
    (Head s q p x → p.resp = 0 → ∃ t, exec (.pktNop q p) s = .next t ∧ Ended s t q p x h none 0 0 ∧ BytesBut s t (toldAt h none) ∧ NoGroup s t ∧
      t.launches = s.launches) ∧
    (∀ a, Head s q p x → InPage s x.desc.asid (p.fld 0 8 % 2 ^ 56) 8 a →
      (∃ t r, exec (.timestamp q p) s = .next t ∧ Begun s t q p x r ∧ word64 t a = s.cycle.toNat ∧ BytesBut s t [(a, 8)] ∧ NoGroup s t) ∧
      (p.fld 16 8 = 0 → ∃ t r, exec (.signalWrite q p) s = .next t ∧ Begun s t q p x r ∧ word64 t a = p.fld 8 8 ∧ BytesBut s t [(a, 8)] ∧ NoGroup s t) ∧
      (p.fld 16 8 = 1 → p.fld 0 8 % 8 = 0 → ∃ t r, exec (.signalWrite q p) s = .next t ∧ Begun s t q p x r ∧
        word64 t a = (word64 s a + p.fld 8 8) % 2 ^ 64 ∧ BytesBut s t [(a, 8)] ∧ NoGroup s t) ∧
      (x.failed = none → p.fld 0 8 % 8 = 0 → p.resp = 0 → p.fld 16 4 ≤ 3 →
        (waitHolds p (word64 s a) → ∃ t, exec (.signalWait q p) s = .next t ∧ Ended s t q p x h none 0 0 ∧ BytesBut s t (toldAt h none) ∧ NoGroup s t) ∧
        (¬ waitHolds p (word64 s a) → ∃ t, exec (.signalWait q p) s = .next t ∧ t.queue? q = some { x with got := [], asked := [] } ∧
          (∀ n, n ≠ q → t.queue? n = s.queue? n) ∧ t.mem = s.mem ∧ NoGroup s t))) ∧
    (∀ r resp, Runs s q x r → RespAt s x h r.resp resp → r.opcode ≠ 4 → r.copy = none → r.launch = none → r.status < 256 → r.detail < 256 →
      ∃ t y, exec (.packetCompletion q r.id) s = .next t ∧ t.queue? q = some y ∧
        y = { x with running := x.running.filter (·.id ≠ r.id), doneSeq := y.doneSeq, doneSet := y.doneSet } ∧ Counted x y r.seq ∧
        Told t y h resp r.seq r.status r.detail ∧ BytesBut s t (toldAt h resp) ∧ NoGroup s t) ∧
    (∀ we re, Head s q p x → p.resp = 0 → p.opcode = 3 → p.fld 20 4 ≠ 0 → x.heldSince + p.fld 20 4 * 940 ≤ s.cycle.toNat → RecordAt s x h we re →
      ∃ t, exec (.signalWaitTimeout q p) s = .next t ∧ Ended s t q p x h none 3 0 ∧ word64 t (h + 24) / 16 % 16 = 12 ∧
        t.mem.bytes.readN re 64 = kind1 s q x p.seq 12 0 0 p.pos ∧ word64 t we = word64 s we + 64 ∧
        BytesBut s t ((we, 8) :: (re, 64) :: toldAt h none) ∧ NoGroup s t)

end

namespace Sys2Proof.Spec

open Sys2Proof.Machine

/-- The queue that a packet ended in: the head is gone and DONESEQ counts it; the other queues are the same. -/
def EndedQ (s t : State) (q : Nat) (p : Packet) (x : Queue) : Prop :=
  (∃ y, t.queue? q = some y ∧ y = { x with held := none, got := [], asked := [], failed := none, begun := x.begun + 1, doneSeq := y.doneSeq, doneSet := y.doneSet } ∧
    Counted x y p.seq) ∧ (∀ n, n ≠ q → t.queue? n = s.queue? n)

/-- A CONFIG packet stands at the head of its queue, the queue's header can be written in place, no access of a group is
outstanding, and errors of the queue go to no exception queue. -/
def Configures (s : State) (q : Nat) (p : Packet) (x : Queue) : Prop :=
  Head s q p x ∧ p.resp = 0 ∧ (s.mem.versOf x.desc.asid).isOpen = true ∧ x.desc.exq = 0xFFFF ∧ ∀ g ∈ s.groups, g.pend.mem = []

/-- The descriptor that the fields of CONFIG QUEUE give (R349). -/
def descOf (p : Packet) : QDesc :=
  { base := BitVec.ofNat 64 (p.fld 8 8), rlog := p.fld 18 1, tenant := p.fld 19 1, asid := BitVec.ofNat 16 (p.fld 20 2)
    exq := p.fld 22 2, enabled := (p.fld 24 4).testBit 0, devlaunch := (p.fld 24 4).testBit 1, exc := (p.fld 24 4).testBit 2 }

/-- The packet ended with an error code: nothing that it names has changed, and ERR holds the code. -/
def Erred (s t : State) (q : Nat) (p : Packet) (x : Queue) (code : Nat) : Prop :=
  EndedQ s t q p x ∧ t.mem.ipt = s.mem.ipt ∧ t.mem.anchors = s.mem.anchors ∧ t.mem.pool = s.mem.pool ∧ NoGroup s t ∧
  ∀ h, HeaderAt s x h → word64 t (h + 24) = code * 16

/-- A page translates to an entry, for the code versions that a test accepts. -/
def Maps (s : State) (asid : BitVec 16) (vpn i : Nat) (e : IptEntry) : Prop :=
  e.valid = true ∧ e.asid = asid ∧ e.vpn = vpn ∧ ∀ ver, (e.code = true → inSpan e ver = true) → s.mem.walk asid vpn ver = some (i, e)

end Sys2Proof.Spec

section
open Sys2Proof Sys2Proof.Machine Sys2Proof.Spec

/-- R271, R229, R286, R294, R307, R323, R349: CONFIG packets that change the firmware's tables: queues, tenants, demand-zero ranges, the
retirement settings, ports, and the scale-out engine's endpoints, keys and timeout. -/
def Sys2Proof.Spec.ConfigTables : Prop :=
  ∀ (s : State) (q : Nat) (p : Packet) (x : Queue), Configures s q p x →
    (∀ n hn, n = p.fld 16 2 → n ≠ q → s.queue? n = none → (descOf p).enabled = true → InPage s (descOf p).asid (descOf p).base.toNat 64 hn →
      (∀ h, HeaderAt s x h → h + 64 ≤ hn ∨ hn + 64 ≤ h) → (s.mem.versOf (descOf p).asid).isOpen = true →
      ∃ t, exec (.configQueue q p) s = .next t ∧ t.queue? n = some { num := n, desc := descOf p } ∧ word64 t (hn + 16) = 0xFFFFFFFF * 2 ^ 32 ∧
        (∀ k < 8, k ≠ 2 → word64 t (hn + 8 * k) = 0) ∧ (∃ y, t.queue? q = some y ∧ Counted x y p.seq ∧ y.held = none) ∧ NoGroup s t) ∧
    (∀ n y hn, n = p.fld 16 2 → n ≠ q → s.queue? n = some y → (descOf p).enabled = false → y.desc.enabled = true → y.desc.exc = false → y.held = none →
      HeaderAt s y hn → word64 s hn = y.ridx → y.ridx < 2 ^ 64 → (∀ l ∈ s.launches, l.queue ≠ n) → (s.mem.versOf y.desc.asid).isOpen = true →
      (∀ h, HeaderAt s x h → h + 64 ≤ hn ∨ hn + 64 ≤ h) →
      ∃ t, exec (.configQueue q p) s = .next t ∧ (∃ z, t.queue? n = some z ∧ z.desc = descOf p ∧ z.stopped = false) ∧
        word64 t (hn + 24) % 16 = 2 ∧ NoGroup s t) ∧
    (∃ t, exec (.configTenant q p) s = .next t ∧ EndedQ s t q p x ∧ NoGroup s t ∧
      (t.tenant (p.fld 8 1)) = { s.tenant (p.fld 8 1) with nextWeight := p.fld 10 2 } ∧ ∀ n, n ≠ p.fld 8 1 → t.tenant n = s.tenant n) ∧
    (let z : ZeroRange := { asid := BitVec.ofNat 16 (p.fld 8 2), index := p.fld 10 1, base := p.fld 16 8, size := p.fld 24 8, wr := (p.fld 11 1).testBit 0 }
     ∃ t, exec (.configAsid q p) s = .next t ∧ EndedQ s t q p x ∧ NoGroup s t ∧
      ∀ y, y ∈ t.mem.zero ↔ (y ∈ s.mem.zero ∧ ¬ (y.asid = z.asid ∧ y.index = z.index)) ∨ (z.size ≠ 0 ∧ y = z)) ∧
    (∃ t, exec (.configRetireInterval q p) s = .next t ∧ EndedQ s t q p x ∧ NoGroup s t ∧ t.mem.ret = { s.mem.ret with interval := p.fld 10 1 }) ∧
    (∃ t, exec (.configRetireDrop q p) s = .next t ∧ EndedQ s t q p x ∧ NoGroup s t ∧
      ∀ f, f ∈ t.mem.ret.drops ↔ f ∈ s.mem.ret.drops ∨
        (f ∈ s.mem.doomed ∧ ∃ i < p.fld 11 1, (s.mem.entry f).asid.toNat = p.fld (16 + 2 * i) 2)) ∧
    (∀ y, s.fabric.ports[p.fld 8 2]? = some y →
      let is := fun (i : Instr) (st : PortSt) => ∃ t z, exec i s = .next t ∧ EndedQ s t q p x ∧ NoGroup s t ∧ t.fabric.ports[p.fld 8 2]? = some z ∧
        z.st = st ∧ (st ≠ y.st → z.epoch = s.fabric.epoch ∧ t.fabric.changes = s.fabric.changes + 1) ∧ (st = y.st → z = y ∧ t.fabric = s.fabric) ∧
        ∀ n, n ≠ p.fld 8 2 → t.fabric.ports[n]? = s.fabric.ports[n]?
      is (.configPortReinstate q p) (if y.st = .fenced ∨ y.st = .down then .train else y.st) ∧ is (.configPortDisable q p) .disabled ∧
      (p.fld 8 2 < Config.ports s.part → (s.power.islands.toList)[92 + p.fld 8 2 % 32]? ≠ some .off → is (.configPortEnable q p) (if y.st = .disabled then .down else y.st))) ∧
    (∃ t, exec (.configScoutLocal q p) s = .next t ∧ EndedQ s t q p x ∧ NoGroup s t ∧
      ∀ y, y ∈ t.scout.locals ↔ (y ∈ s.scout.locals ∧ y.1 ≠ p.fld 10 2) ∨ y = (p.fld 10 2, p.fld 12 2, (p.bytes.drop 24).take 16)) ∧
    (let k : ScoutKey := { slot := p.fld 10 2, rkey := BitVec.ofNat 64 (p.fld 16 8), asid := BitVec.ofNat 16 (p.fld 12 2), base := p.fld 24 8
                           size := p.fld 32 8, rd := (p.fld 14 1).testBit 0, wr := (p.fld 14 1).testBit 1 }
     ∃ t, exec (.configScoutKey q p) s = .next t ∧ EndedQ s t q p x ∧ NoGroup s t ∧
      ∀ y, y ∈ t.scout.keys ↔ (y ∈ s.scout.keys ∧ y.slot ≠ k.slot) ∨ (k.size ≠ 0 ∧ y = k)) ∧
    (∃ t, exec (.configScoutTimeout q p) s = .next t ∧ EndedQ s t q p x ∧ NoGroup s t ∧ t.scout = { s.scout with timeout := p.fld 12 4 })

/-- R225, R226, R231, R236, R294, R349: MAP links an entry for a frame of the pool, or for a page of a peer; UNMAP takes an entry away with
its TLB copies; POOL gives and takes frames; EVICT begins to copy a page out. Frames that R294 refuses end the packet with PROT or
CAPACITY and change nothing. That a full remote-entry array gives PROT is log 33, that UNMAP without an entry gives PAGE log 106, that POOL
gives the code of the first frame that fails log 105, and that the frame of the port status table is never given to the pool log 114: these
are the model's readings. -/
def Sys2Proof.Spec.ConfigMemory : Prop :=
  ∀ (s : State) (q : Nat) (p : Packet) (x : Queue), Configures s q p x →
    let asid : BitVec 16 := BitVec.ofNat 16 (p.fld 8 2)
    let vpn := p.fld 16 8 / 65536 % 2 ^ 40
    let flags := p.fld 10 1
    let f := p.fld 24 4
    (flags.testBit 3 = false →
      (f < s.mem.capacity → f < 0x2000000 → s.heldFrames ≤ f → s.mem.mapped f = false → f ∈ s.mem.pool →
        ∃ t e, exec (.configMap q p) s = .next t ∧ EndedQ s t q p x ∧ NoGroup s t ∧ Maps t asid vpn f e ∧ e.rem = false ∧ e.code = flags.testBit 0 ∧
          e.sm = flags.testBit 1 ∧ e.wr = flags.testBit 2 ∧ e.vspan = (if flags.testBit 0 then BitVec.ofNat 8 (p.fld 11 1) else 0) ∧
          e.vfirst = (if flags.testBit 0 then BitVec.ofNat 32 (p.fld 12 4) else 0) ∧ e.next = s.mem.head (anchorIndex asid vpn) ∧
          ∀ g, g ∈ t.mem.pool ↔ g ∈ s.mem.pool ∧ g ≠ f) ∧
      (s.mem.capacity ≤ f → ∃ t, exec (.configMap q p) s = .next t ∧ Erred s t q p x 11) ∧
      (f < s.mem.capacity → f < s.heldFrames ∨ s.mem.mapped f = true ∨ f ∉ s.mem.pool →
        ∃ t, exec (.configMap q p) s = .next t ∧ Erred s t q p x 10)) ∧
    (flags.testBit 3 = true → flags < 16 → (∃ i, i ≤ s.mem.ipt.length ∧ i < 65536 ∧ (s.mem.entry (0x2000000 + i)).valid = false) →
      ∃ t i e, exec (.configMap q p) s = .next t ∧ EndedQ s t q p x ∧ NoGroup s t ∧ Maps t asid vpn i e ∧ 0x2000000 ≤ i ∧ e.rem = true ∧ e.code = false ∧
        e.wr = flags.testBit 2 ∧ e.peer = p.fld 28 2 ∧ e.pframe = f ∧ t.mem.pool = s.mem.pool) ∧
    (flags.testBit 3 = true → flags < 16 → (∀ i < 65536, (s.mem.entry (0x2000000 + i)).valid = true) →
      ∃ t, exec (.configMap q p) s = .next t ∧ Erred s t q p x 10) ∧
    (let ver : Word := BitVec.ofNat 32 (p.fld 12 4)
     (∀ i e, s.mem.walk asid vpn ver = some (i, e) → ∃ t, exec (.configUnmap q p) s = .next t ∧ EndedQ s t q p x ∧ NoGroup s t ∧
        t.mem.mapped i = false ∧ (∀ c ∈ t.mem.tlb, c.idx ≠ i) ∧
        ∀ g, g ∈ t.mem.pool ↔ g ∈ s.mem.pool ∨ (flags.testBit 0 = true ∧ e.rem = false ∧ i < s.mem.capacity ∧ g = i)) ∧
     (s.mem.walk asid vpn ver = none → ∃ t, exec (.configUnmap q p) s = .next t ∧ Erred s t q p x 9)) ∧
    (let lo := p.fld 16 4
     let n := p.fld 12 4
     ((∀ g, lo ≤ g → g < lo + n → g < s.mem.capacity ∧ s.heldFrames ≤ g ∧ s.tableFrame ≠ some g ∧ ∀ e, (g, e) ∈ s.mem.ipt → e.valid = false ∨ e.rem = true) →
        ∃ t, exec (.configPoolGive q p) s = .next t ∧ EndedQ s t q p x ∧ NoGroup s t ∧
          ∀ g, g ∈ t.mem.pool ↔ g ∈ s.mem.pool ∨ (lo ≤ g ∧ g < lo + n)) ∧
     (0 < n → lo < s.heldFrames → lo < s.mem.capacity → ∃ t, exec (.configPoolGive q p) s = .next t ∧ Erred s t q p x 10) ∧
     (0 < n → s.mem.capacity ≤ lo → ∃ t, exec (.configPoolGive q p) s = .next t ∧ Erred s t q p x 11)) ∧
    (let m := min (p.fld 12 4) (s.mem.pool.length - s.mem.reserve)
     ∀ a, InPage s x.desc.asid (p.fld 24 8 % 2 ^ 56) (4 + 4 * m) a → ∃ t r, exec (.configPoolTake q p) s = .next t ∧ Begun s t q p x r ∧ NoGroup s t ∧
       leNat (t.mem.bytes.readN a 4) = m % 2 ^ 32 ∧
       (∀ i < m, leNat (t.mem.bytes.readN (a + 4 + 4 * i) 4) = s.mem.pool.getD i 0 % 2 ^ 32) ∧ BytesBut s t [(a, 4 + 4 * m)] ∧
       (s.mem.pool.Nodup → t.mem.pool = s.mem.pool.drop m)) ∧
    (∀ i e, s.mem.walk asid vpn (s.mem.versOf asid).newest = some (i, e) → e.rem = false → s.mem.beyond i = false →
      ∃ t r, exec (.configEvict q p) s = .next t ∧ NoGroup s t ∧ t.mem = s.mem ∧ r.id = x.begun ∧ r.seq = p.seq ∧ r.waits = [] ∧
        r.copy = some { src := 0, dst := p.fld 24 8 % 2 ^ 56, count := 65536, evict := some (asid, vpn * 65536) } ∧
        t.queue? q = some { x with held := none, got := [], asked := [], failed := none, running := x.running ++ [r], begun := x.begun + 1 })

/-- R290, R294: COPY begins, each piece of a copy between ranges that have no byte in common puts the bytes of one destination sector in
place, and the packet completes after the last;
EVICT's last step takes the page's entry away and returns its frame. -/
def Sys2Proof.Spec.CopyPackets : Prop :=
  ∀ (s : State) (q : Nat) (x : Queue),
    (∀ (p : Packet), Head s q p x → ∃ t r dn, exec (.copy q p) s = .next t ∧ NoGroup s t ∧ t.mem = s.mem ∧ r.id = x.begun ∧ r.seq = p.seq ∧ r.resp = p.resp ∧ r.waits = [] ∧
      r.copy = some { src := p.fld 0 8 % 2 ^ 56, dst := p.fld 8 8 % 2 ^ 56, count := p.fld 16 8, down := dn } ∧
      (dn = true → p.fld 8 8 % 2 ^ 56 < p.fld 0 8 % 2 ^ 56 ∧ p.fld 0 8 % 2 ^ 56 < p.fld 8 8 % 2 ^ 56 + p.fld 16 8) ∧
      t.queue? q = some { x with held := none, got := [], asked := [], failed := none, running := x.running ++ [r], begun := x.begun + 1 }) ∧
    (∀ (r : Running) (c : PkCopy) (n ps pd : Nat), Runs s q x r → r.opcode ≠ 4 → r.launch = none → r.copy = some c → c.evict = none → c.off < c.count → c.down = false → c.orig = [] →
      (c.dst + c.count ≤ c.src ∨ c.src + c.count ≤ c.dst) →
      n = min (32 - (c.dst + c.off) % 32) (c.count - c.off) → InPage s x.desc.asid (c.src + c.off) n ps → InPage s x.desc.asid (c.dst + c.off) n pd →
      ∃ t, exec (.packetCompletion q r.id) s = .next t ∧ NoGroup s t ∧ (∀ k < n, t.mem.bytes.read (pd + k) = s.mem.bytes.read (ps + k)) ∧
        BytesBut s t [(pd, n)] ∧
        t.queue? q = some { x with running := x.running.map fun y => if y = r then { r with copy := some { c with off := c.off + n, got := [], asked := [] } } else y }) ∧
    (∀ (r : Running) (c : PkCopy) (h : Nat) (resp : Option Nat), Runs s q x r → r.opcode ≠ 4 → r.launch = none → r.copy = some c → c.count ≤ c.off →
      HeaderAt s x h → RespAt s x h r.resp resp → r.status < 256 → r.detail < 256 → (s.mem.versOf x.desc.asid).isOpen = true →
      (c.evict = none → ∃ t y, exec (.packetCompletion q r.id) s = .next t ∧ NoGroup s t ∧ t.queue? q = some y ∧
        y = { x with running := x.running.filter (·.id ≠ r.id), doneSeq := y.doneSeq, doneSet := y.doneSet } ∧ Counted x y r.seq ∧
        Told t y h resp r.seq r.status r.detail ∧ BytesBut s t (toldAt h resp)) ∧
      (∀ asid va i e, c.evict = some (asid, va) → (∀ g ∈ s.groups, g.pend.mem = []) →
        s.mem.walk asid (va / 65536 % 2 ^ 40) (s.mem.versOf asid).newest = some (i, e) → e.rem = false → s.mem.beyond i = false →
        ∃ t y, exec (.packetCompletion q r.id) s = .next t ∧ NoGroup s t ∧ t.queue? q = some y ∧ Counted x y r.seq ∧
          y.running = x.running.filter (·.id ≠ r.id) ∧ t.mem.mapped i = false ∧ (i < s.mem.capacity → i ∈ t.mem.pool)))

end

namespace Sys2Proof.Spec

open Sys2Proof.Machine

/-! ## Bindings and launch images (R250 to R257, R295, R298) -/

/-- The number of `n` bytes at an offset. -/
def num (b : List Byte) (o n : Nat) : Nat := leNat ((b.drop o).take n)

/-- Bytes stand in local memory from a virtual address of an ASID, none of them marked. -/
def Stands (s : State) (asid : BitVec 16) (va : Nat) (b : List Byte) : Prop :=
  ∀ k, k < b.length → ∃ i e, s.mem.walk asid ((va + k) / 65536 % 2 ^ 40) (s.mem.versOf asid).newest = some (i, e) ∧ e.rem = false ∧
    s.mem.beyond i = false ∧ s.marked ((i * 65536 + (va + k) % 65536) / 32) = false ∧
    s.mem.bytes.read (i * 65536 + (va + k) % 65536) = b.getD k 0

/-- The packet that has begun, as it stands among those that run. -/
def RunsAs (s t : State) (q : Nat) (x : Queue) (r : Running) : Prop :=
  t.queue? q = some { x with held := none, got := [], asked := [], failed := none, running := x.running ++ [r], begun := x.begun + 1 } ∧ r.id = x.begun ∧
  ∀ n, n ≠ q → t.queue? n = s.queue? n

/-- A header keeps R295. -/
def HeaderKept (b : List Byte) : Prop :=
  num b 0 4 = 0x494C5946 ∧ num b 4 2 = 1 ∧ num b 6 2 < 16 ∧ num b 24 4 ≠ 0 ∧
  (num b 28 4 < 8192 ∧ num b 28 4 / 64 % 4 = 0 ∧ 1 ≤ num b 28 4 / 256 ∧ num b 28 4 / 256 ≤ 16 ∧ 1 ≤ num b 28 4 % 64 ∧ num b 28 4 % 64 ≤ 32) ∧
  (num b 36 2 % 8 = 0 ∧ 8 ≤ num b 36 2 ∧ num b 36 2 ≤ 256) ∧ num b 38 2 = 0 ∧ (num b 40 4 % 16 = 0 ∧ num b 40 4 ≤ 2 ^ 20) ∧
  (∀ k, 84 ≤ k → k < 128 → b.getD k 0 = 0) ∧ (∀ r < 16, ∀ k, 25 ≤ k → k < 32 → b.getD (128 + 32 * r + k) 0 = 0) ∧
  ((num b 6 2).testBit 3 = false → num b 12 4 = 0 ∧ num b 60 4 = 0 ∧ num b 80 4 = 0)

/-- The partition word keeps R210: Vu in bits 6 to 0, Su in bits 14 to 8, Au in bits 20 to 16, and the block fits one core. -/
def PartKept (b : List Byte) : Prop :=
  let p := num b 32 4
  let vu := p % 128
  let su := p / 256 % 128
  let au := p / 65536 % 32
  let g := num b 28 4 % 64
  p / 128 % 2 = 0 ∧ p / 32768 % 2 = 0 ∧ p < 2 ^ 21 ∧ au % 3 = 0 ∧ au ≤ 24 ∧ 1 ≤ vu ∧ vu ≤ 94 ∧ 1 ≤ su ∧ su ≤ 94 ∧
  num b 36 2 * g * 128 ≤ vu * 16384 ∧ 512 * g + 256 ≤ su * 16384 ∧ vu + su + au ≤ (if (num b 6 2).testBit 0 then 90 else 94)

/-- The used ranges of the ownership map, in order: base, size, stride, kind. -/
def ranges (b : List Byte) : List (Nat × Nat × Nat × Nat) :=
  ((List.range 16).map fun i => (num b (128 + 32 * i) 8, num b (136 + 32 * i) 8, num b (144 + 32 * i) 8, num b (152 + 32 * i) 1)).filter fun r => r.2.2.2 ≠ 0

/-- The first byte past a range: a PRIVATE range holds one stride per block. -/
def rangeEnd (b : List Byte) (r : Nat × Nat × Nat × Nat) : Nat := r.1 + (if r.2.2.2 = 2 then num b 24 4 * r.2.2.1 else r.2.1)

/-- The ownership map keeps R276. -/
def MapKept (b : List Byte) : Prop :=
  ((num b 6 2).testBit 0 = true → ranges b ≠ []) ∧
  (∀ r ∈ ranges b, r.2.2.2 ≤ 3 ∧ r.1 % 32 = 0 ∧ r.2.1 % 32 = 0 ∧ (r.2.2.2 = 2 → r.2.2.1 % 32 = 0 ∧ r.2.1 ≤ r.2.2.1) ∧
    (rangeEnd b r ≤ 0xFD * 2 ^ 48 ∨ (0xFF * 2 ^ 48 ≤ r.1 ∧ rangeEnd b r ≤ 2 ^ 56))) ∧
  (ranges b).Pairwise fun r x => rangeEnd b r ≤ x.1 ∨ rangeEnd b x ≤ r.1

/-- The save area takes the header and the record of every block that the package may hold at once (R297, R298). -/
def SaveKept (b : List Byte) (size : Nat) : Prop :=
  let p := num b 32 4
  let room := if (num b 6 2).testBit 0 then 90 else 94
  let rec1 := 64 + (num b 28 4 % 64) * (9792 + 128 * num b 36 2) + (p / 256 % 128) * 16384 + (p / 65536 % 32 / 3) * 49160
  640 + min (num b 24 4) (256 * (room / (p % 128 + p / 256 % 128 + p / 65536 % 32))) * rec1 ≤ size

/-- A binding that a launch may name (R255). -/
def Binds (s : State) (asid : BitVec 16) (id : Word) (b : Binding) : Prop :=
  b ∈ s.bindings ∧ b.id = id ∧ b.asid = asid ∧ b.bound = true ∧ ∀ c ∈ s.bindings, c.id = id → c.asid = asid → c = b

/-- A packet that ended with STATUS 3 and an error: no launch and no group has changed. -/
def Refused (s t : State) (q : Nat) (p : Packet) (x : Queue) (code : Nat) : Prop :=
  EndedQ s t q p x ∧ t.launches = s.launches ∧ t.bindings = s.bindings ∧ NoGroup s t ∧
  ∀ h, HeaderAt s x h → word64 t (h + 24) = code * 16 ∧
    ∀ pr, RespAt s x h p.resp (some pr) → word64 t pr = p.seq.toNat * 2 ^ 32 + 3 * 2 ^ 24

end Sys2Proof.Spec

section
open Sys2Proof Sys2Proof.Machine Sys2Proof.Spec

/-- R250, R251, R253, R256: a class takes the first of its candidates that passes, with the entry that R251 gives it under the policy byte; a
class of which every candidate fails reports the furthest failure. That a chain of which the product with uo reaches 1 fails is the model's
reading (log 138). -/
def Obligations.ClassBinding : Prop :=
  ∀ d : Decl,
    let l := if d.exact then d.exactCands else d.cands
    (∀ b, d.bind = .ok b ↔ ∃ (n : Nat) (k : Cand), l[n]? = some k ∧ d.try k = .ok b ∧ ∀ m, m < n → ∀ j, l[m]? = some j → ∃ c, d.try j = .error c) ∧
    (∀ c, d.bind = .error c ↔ (∀ k ∈ l, ∃ e, d.try k = .error e ∧ e ≤ c) ∧ (c = 1 ∨ ∃ k ∈ l, d.try k = .error c) ∧ 1 ≤ c) ∧
    ∀ (k : Cand) (b : Bound) (policy : Nat), d.try k = .ok b → policy < 32 → k.reg < 4 → k.mem.kind < 8 → k.mem.planes < 16 → 2 ^ 23 ≤ d.range →
      d.range < 254 * 2 ^ 23 →
      let e := b.entry policy
      entV e = true ∧ entExact e = d.exact ∧ entRND e = (if k.sr then .sr else .rne) ∧ entRFMT e = k.reg ∧ entMKIND e = k.mem.kind ∧
      entMPL e = k.mem.planes ∧ entXPL e = (if d.matrix then k.mem.planes else 0) ∧ entLSB e = b.lsb ∧ entGLOG e = b.glog ∧ entRXB e = 127 + d.e ∧
      entTRG e = policy.testBit 0 ∧ entTUF e = policy.testBit 1 ∧ entTGD e = policy.testBit 2 ∧ entTNAN e = policy.testBit 3 ∧
      entSAT e = !(policy.testBit 4) ∧ b.uc ≤ d.rel ∧ (d.vector = true → (d.chain : Rat) * b.uo < 1 ∧ d.chain * b.uo / (1 - d.chain * b.uo) ≤ d.acc)

/-- R254 to R257, R294: BIND writes the record of the module that it read, and enters the binding when its status is 0, under an
identifier that is not 0 and that no other binding has; the binding may be named once the packet has completed. -/
def Obligations.BindPackets : Prop :=
  ∀ (s : State) (q : Nat) (x : Queue),
    (∀ (p : Packet) (b : List Byte) (a : Nat), Head s q p x → x.failed = none → b.length = p.fld 8 8 → Stands s x.desc.asid (p.fld 0 8 % 2 ^ 56) b →
      InPage s x.desc.asid (p.fld 16 8 % 2 ^ 56) 608 a →
      let r := bindModule (Config.hasUnfold s.part) b
      let policy := fun c => p.fld (32 + c) 1
      let id := if r.status = 0 then s.freeBind else 0
      ∃ t k, exec (.bind q p) s = .next t ∧ RunsAs s t q x k ∧ k.seq = p.seq ∧ k.resp = p.resp ∧ k.opcode = p.opcode ∧ k.status = 0 ∧ k.detail = r.status ∧
        k.waits = [] ∧ k.launch = (if r.status = 0 then some id.toNat else none) ∧ NoGroup s t ∧ BytesBut s t [(a, 608)] ∧
        (let w := t.mem.bytes.readN a 608
         num w 0 4 = 0x52425946 ∧ num w 4 2 = 1 ∧ num w 6 2 = r.status % 65536 ∧ num w 8 4 = (Config.cap0 s.part).toNat ∧
         num w 12 4 = (Config.cap1 s.part).toNat ∧ num w 16 4 = Config.binderVersion.toNat ∧ num w 20 4 = id.toNat ∧
         (48 ≤ b.length → (w.drop 24).take 32 = (b.drop 16).take 32) ∧ num w 56 1 = r.badClass % 256 ∧ num w 57 1 = r.badSect % 256 ∧
         num w 58 2 = 0 ∧ num w 60 4 = r.badOff % 2 ^ 32 ∧ num w 64 8 = 0x800000003F800000 ∧ num w 72 4 = 0x33800000 ∧
         (∀ c, 1 ≤ c → c ≤ 15 → num w (64 + 32 * c) 8 = match r.bound.find? (fun y => y.decl.cls = c) with
           | some y => (y.entry (policy c)).toNat
           | none => 0) ∧
         w.drop 576 = sha256 (w.take 576)) ∧
        (r.status ≠ 0 → t.bindings = s.bindings ∧ t.nextBind = s.nextBind) ∧
        (r.status = 0 → t.nextBind = id + 1 ∧ (s.bindings.length + 2 ≤ 2 ^ 32 → id ≠ 0 ∧ ∀ y ∈ s.bindings, y.id ≠ id) ∧ ∃ y, t.bindings = y :: s.bindings ∧ y.id = id ∧ y.asid = x.desc.asid ∧
          y.bound = false ∧ ∀ c : Fin 16, c ≠ 0 → y.entries[c] = ((r.bound.find? fun z => z.decl.cls = c.val).map fun z => z.entry (policy c.val)).getD 0)) ∧
    (∀ b, parseModule b = none → bindModule (Config.hasUnfold s.part) b = { status := 5 }) ∧
    (∀ b m, parseModule b = some m → m.units % 2 = 1 → Config.hasUnfold s.part = false → bindModule (Config.hasUnfold s.part) b = { status := 4 }) ∧
    (∀ r id h resp, Runs s q x r → r.opcode = 6 → r.launch = some id → r.status = 0 → r.detail < 256 → HeaderAt s x h → RespAt s x h r.resp resp →
      ∃ t y, exec (.packetCompletion q r.id) s = .next t ∧ NoGroup s t ∧ t.queue? q = some y ∧ Counted x y r.seq ∧
        y.running = x.running.filter (·.id ≠ r.id) ∧ Told t y h resp r.seq 0 r.detail ∧ BytesBut s t (toldAt h resp) ∧
        t.bindings = s.bindings.map fun b => if b.id.toNat = id then { b with bound := true } else b)

/-- R218, R294, R295, R298: LAUNCH_IMAGE of a fresh image whose header, partition word, ownership map and save area keep their rules, and which
names a binding, begins a launch bound to the newest code version, which is closed; what breaks a rule ends the packet with STATUS 3 and the
code of the first rule broken, and begins none. That a range of a kind above 3 gives BADOWN (log 76), and that the least save area counts
records without rounding (log 77), are the model's readings. -/
def Obligations.LaunchImages : Prop :=
  ∀ (s : State) (q : Nat) (p : Packet) (x : Queue) (b : List Byte), Head s q p x → x.failed = none → b.length = 640 →
    Stands s x.desc.asid (p.fld 0 8 % 2 ^ 56) b →
    let asid := x.desc.asid
    let id : Word := BitVec.ofNat 32 (num b 8 4)
    (∀ y, HeaderKept b → Binds s asid id y → PartKept b → MapKept b → SaveKept b (p.fld 16 8) → (num b 6 2).testBit 3 = false →
      (∀ k < 128, s.mem.walk asid (0xFC00000000 + k) (s.mem.versOf asid).newest = none) →
      ∃ t l k, exec (.launchImage q p) s = .next t ∧ NoGroup s t ∧ t.mem.bytes = s.mem.bytes ∧ t.launches = s.launches ++ [l] ∧
        t.nextLaunch = s.nextLaunch + 1 ∧ RunsAs s t q x k ∧ k.seq = p.seq ∧ k.resp = p.resp ∧ k.launch = some l.id ∧ k.waits = [] ∧
        l.id = s.nextLaunch ∧ l.queue = q ∧ l.seq = p.seq ∧ l.tenant = x.desc.tenant ∧ l.asid = asid ∧ l.save.toNat = p.fld 8 8 ∧ l.resp = p.resp ∧
        l.cbind = y.entries ∧ l.comms = [] ∧ l.next = 0 ∧ l.ticket = 0 ∧ l.gangs = [] ∧ l.staged = [] ∧ l.aborted = false ∧ l.gridRounds = 0 ∧
        (let i := l.img
         i.flags.toNat = num b 6 2 ∧ i.bindid = id ∧ i.codever = (s.mem.versOf asid).newest ∧ i.entry.toNat = num b 16 8 % 2 ^ 56 ∧
         i.griddim.toNat = num b 24 4 ∧ i.blockdim.toNat = num b 28 4 ∧ i.part.toNat = num b 32 4 ∧ i.nv = num b 36 2 ∧ i.stack = num b 40 4 ∧
         i.wall = num b 44 4 ∧ i.utvec.toNat = num b 48 8 % 2 ^ 56 ∧ i.srseed.toNat = num b 56 4 ∧ i.spill.toNat = num b 64 8 ∧
         i.spillsize.toNat = num b 72 8 ∧ i.own = (ranges b).map fun r => ⟨r.1, r.2.1, r.2.2.1, r.2.2.2⟩) ∧
        (t.mem.versOf asid) = { s.mem.versOf asid with isOpen := false }) ∧
    (x.desc.exq = 0xFFFF → (s.mem.versOf asid).isOpen = true →
      let is := fun (code : Nat) => ∃ t, exec (.launchImage q p) s = .next t ∧ Refused s t q p x code
      let bound := s.bindings.any fun y => decide (y.id = id) && decide (y.asid = asid) && y.bound
      (¬ HeaderKept b → is 8) ∧
      (HeaderKept b → bound = false → is 6) ∧
      (HeaderKept b → bound = true → ¬ PartKept b → is 5) ∧
      (HeaderKept b → bound = true → PartKept b → ¬ MapKept b → is 7) ∧
      (HeaderKept b → bound = true → PartKept b → MapKept b → ¬ SaveKept b (p.fld 16 8) → is 8))

/-- R219, R293, R294: a launch that has run to its end, or has been ended, and of which no write is outstanding, leaves: its packet
completes, with what became of it in the response; the entries of code pages that serve the newest version, or one that another launch is
bound to, stay. -/
def Sys2Proof.Spec.LaunchesComplete : Prop :=
  ∀ (s : State) (l : Launch) (q : Nat) (x : Queue) (r : Running) (h : Nat) (resp : Option Nat),
    s.launch? l.id = some l → l.queue = q → Runs s q x r → r.opcode = 4 → r.launch = some l.id → (∀ y ∈ x.running, y.launch = some l.id → y = r) →
    HeaderAt s x h → RespAt s x h r.resp resp → (∀ y ∈ s.fabric.reqs, y.owner ≠ .launch l.id) →
    (l.aborted = true ∨ (l.img.griddim.toNat ≤ l.next ∧ (∀ k ∈ l.gangs, k.st = .complete ∨ k.st = .unresolved) ∧ l.staged = [] ∧
      (l.img.det = true → l.img.griddim.toNat ≤ l.ticket))) →
    (∀ p ∈ s.mem.ipt, p.2.valid = true → p.2.code = true → p.2.asid = l.asid → ∃ v ∈ (s.mem.versOf l.asid).held,
      (v = (s.mem.versOf l.asid).newest ∨ ∃ y ∈ s.launches, y.id ≠ l.id ∧ y.asid = l.asid ∧ y.img.codever = v) ∧
      (s.mem.walk l.asid p.2.vpn v).map (·.1) = some p.1) →
      ∃ t y, exec (.launchComplete l.id) s = .next t ∧ NoGroup s t ∧ t.launches = s.launches.filter (·.id ≠ l.id) ∧ t.queue? q = some y ∧
        Counted x y r.seq ∧ y.running = x.running.filter (·.id ≠ r.id) ∧ t.mem.ipt = s.mem.ipt ∧
        Told t y h resp r.seq (if l.aborted then 3 else 0) (if l.replayed then 1 else 0) ∧ BytesBut s t (toldAt h resp)

/-- R219: a code page entry that served only versions which no launch runs in, no queued packet resumes and no image holds goes when a
launch completes, its TLB copies with it, and its frame returns to the pool. -/
def Sys2Proof.Spec.VersionsAreFreed : Prop :=
  ∀ (s : State) (l : Launch) (i : Nat) (e : IptEntry), s.launch? l.id = some l → l.aborted = true → (∀ y ∈ s.fabric.reqs, y.owner ≠ .launch l.id) →
    (∀ y ∈ (s.queueOf l.queue).running, y.launch ≠ some l.id) → (i, e) ∈ s.mem.ipt → s.mem.entry i = e → e.valid = true → e.code = true → e.asid = l.asid →
    ((s.mem.versOf l.asid).newest - e.vfirst).toNat < 2 ^ 31 →
    (∀ y ∈ s.queues, y.desc.asid = l.asid → s.queuedPackets y = []) → (∀ y ∈ s.laneStacks, y.asid ≠ l.asid) →
    (∀ v ∈ (s.mem.versOf l.asid).held, v = (s.mem.versOf l.asid).newest ∨ (∃ y ∈ s.launches, y.id ≠ l.id ∧ y.asid = l.asid ∧ y.img.codever = v) →
      (s.mem.walk l.asid e.vpn v).map (·.1) ≠ some i) →
    ∃ t, exec (.launchComplete l.id) s = .next t ∧ t.launches = s.launches.filter (·.id ≠ l.id) ∧ t.mem.mapped i = false ∧
      (i < s.mem.capacity → i ∈ t.mem.pool) ∧ ∀ c ∈ t.mem.tlb, c.idx ≠ i

/-- R322, R323: SCOUT hands a transfer to the engine, with the remote end that it names; a write's bytes leave sector by sector for the remote
addresses, those of a read reach local memory, and the last acknowledgement, a refusal or the timeout ends it; an inbound transfer moves
bytes through the key slot that lets it in, and is refused without one. Reply code 2 to an inbound transfer that no key lets in is log 116,
and the pieces of one sector, with a free refusal before each, are logs 72 and 73: R322 and R323 give neither. -/
def Obligations.ScoutTransfers : Prop :=
  ∀ (s : State) (q : Nat) (x : Queue),
    (∀ p, Head s q p x → let va := p.fld 8 8 % 2 ^ 56
      let n := p.fld 16 8
      0 < n → (∀ k < n, ∃ i e, s.mem.walk x.desc.asid ((va + k) / 65536 % 2 ^ 40) (s.mem.versOf x.desc.asid).newest = some (i, e) ∧ e.rem = false ∧
        s.mem.beyond i = false ∧ e.wr = true) →
      ∃ t r, exec (.scout q p) s = .next t ∧ RunsAs s t q x r ∧ r.seq = p.seq ∧ r.resp = p.resp ∧ r.launch = some s.scout.nextId ∧ NoGroup s t ∧ t.mem = s.mem ∧
        r.copy = some { src := va, dst := va, count := n } ∧
        t.scout = { s.scout with nextId := s.scout.nextId + 1, transfers := s.scout.transfers ++
          [{ id := s.scout.nextId, queue := q, packet := r.id, write := decide (p.fld 0 8 = 0), bytes := n, remote := (p.bytes.drop 40).take 16
             udp := p.fld 48 2, rkey := BitVec.ofNat 64 (p.fld 56 8), raddr := BitVec.ofNat 64 (p.fld 64 8), started := s.cycle.toNat }] }) ∧
    (∀ r y c n a, Runs s q x r → r.opcode = 8 → r.launch = some y.id → y ∈ s.scout.transfers → (∀ z ∈ s.scout.transfers, z.id = y.id → z = y) →
      r.copy = some c → c.evict = none → c.down = false → c.orig = [] → c.off < c.count → s.scout.locals ≠ [] →
      n = min (32 - (c.dst + c.off) % 32) (c.count - c.off) → InPage s x.desc.asid (c.dst + c.off) n a → c.src = c.dst →
      ∃ t z, exec (.packetCompletion q r.id) s = .next t ∧ NoGroup s t ∧ t.queue? q = some z ∧
        (z.running = x.running.filter (·.id ≠ r.id) ∨
         (z = { x with running := x.running.map fun k => if k = r then { r with copy := some { c with off := c.off + n, got := [], asked := [] } } else k } ∧
          (y.write = true → t.mem = s.mem ∧
            t.scout.sent = s.scout.sent ++ [⟨y.remote, y.udp, y.rkey, y.raddr.toNat + c.off, s.mem.bytes.readN a n, false⟩]) ∧
          (y.write = false → BytesBut s t [(a, n)] ∧ t.scout = s.scout)))) ∧
    (∀ r y id c h resp, Runs s q x r → r.opcode = 8 → r.launch = some id → y ∈ s.scout.transfers → y.id = id → r.copy = some c → c.count ≤ c.off →
      r.status = 0 → r.detail < 256 → s.scout.locals ≠ [] → x.desc.exq = 0xFFFF →
      HeaderAt s x h → RespAt s x h r.resp resp →
      ∃ t y, exec (.packetCompletion q r.id) s = .next t ∧ NoGroup s t ∧ t.queue? q = some y ∧ Counted x y r.seq ∧
        y.running = x.running.filter (·.id ≠ r.id) ∧ t.scout.transfers = s.scout.transfers.filter (·.id ≠ id) ∧ BytesBut s t (toldAt h resp) ∧
        (Told t y h resp r.seq 0 r.detail ∨ (Told t y h resp r.seq 3 r.detail ∧ word64 t (h + 24) / 16 % 16 = 10))) ∧
    (∀ r y h resp, y ∈ s.scout.transfers → (∀ z ∈ s.scout.transfers, z.id = y.id → z = y) → y.started + s.scout.timeout * 940000 ≤ s.cycle.toNat →
      y.queue = q → y.packet = r.id → Runs s q x r → r.detail < 256 → x.desc.exq = 0xFFFF → HeaderAt s x h → RespAt s x h r.resp resp →
      ∃ t z, exec (.scoutTransportTimeout y.id) s = .next t ∧ NoGroup s t ∧ t.queue? q = some z ∧ Counted x z r.seq ∧
        z.running = x.running.filter (·.id ≠ r.id) ∧ t.scout.transfers = s.scout.transfers.filter (·.id ≠ y.id) ∧
        Told t z h resp r.seq 3 r.detail ∧ word64 t (h + 24) / 16 % 16 = 12) ∧
    (∀ i : ScoutInbound, Config.hasScout s.part = true → s.scout.locals ≠ [] →
      let lets := fun (k : ScoutKey) => k.rkey = i.rkey ∧ (if i.write then k.wr else k.rd) = true ∧ k.base ≤ i.addr.toNat ∧ i.addr.toNat + i.size ≤ k.base + k.size
      ((∀ k ∈ s.scout.keys, ¬ lets k) → ∃ t, exec (.scoutInbound i) s = .next t ∧ t = { s with scout := { s.scout with replies := s.scout.replies ++ [.nack 2] } }) ∧
      (∀ k a, k ∈ s.scout.keys → lets k → (∀ j ∈ s.scout.keys, lets j → j = k) → 0 < i.size → InPage s k.asid i.addr.toNat i.size a → i.addr.toNat < 2 ^ 56 →
        (i.write = true → i.data.length = i.size → ∃ t, exec (.scoutInbound i) s = .next t ∧ t.scout = { s.scout with replies := s.scout.replies ++ [.done []] } ∧
          t.mem.bytes.readN a i.size = i.data ∧ BytesBut s t [(a, i.size)] ∧ NoGroup s t ∧ t.queues = s.queues) ∧
        (i.write = false → ∃ t, exec (.scoutInbound i) s = .next t ∧ t.scout = { s.scout with replies := s.scout.replies ++ [.done (s.mem.bytes.readN a i.size)] } ∧
          t.mem = s.mem ∧ NoGroup s t ∧ t.queues = s.queues)))

end

namespace Sys2Proof.Spec

open Sys2Proof.Machine

/-! ## Launches and their gangs (R263 to R284, R330 to R337) -/

/-- The state holds a launch once, and each of its gang runs once. -/
def Holds (s : State) (l : Launch) : Prop :=
  s.launch? l.id = some l ∧ (s.launches.map (·.id)).Nodup ∧ (l.gangs.map fun k => (k.index, k.run)).Nodup

/-- A group belongs to a gang run of a launch. -/
def InRun (l : Launch) (gang run : Nat) (h : Group) : Prop := h.launch = l.id ∧ h.run = run ∧ h.block / l.img.bdim = gang

/-- The groups and blocks of a gang run have gone, and every other is the same. -/
def Gone (s t : State) (l : Launch) (gang run : Nat) : Prop :=
  (∀ h, h ∈ t.groups ↔ h ∈ s.groups ∧ ¬ InRun l gang run h) ∧
  ∀ b, b ∈ t.blocks ↔ b ∈ s.blocks ∧ ¬ (b.launch = l.id ∧ b.run = run ∧ b.index / l.img.bdim = gang)

/-- A gang run of a launch has changed, every other is the same. -/
def GangIs (l m : Launch) (k k' : Gang) : Prop :=
  k'.index = k.index ∧ k'.run = k.run ∧ m.gangs = l.gangs.map fun y => if y.index = k.index ∧ y.run = k.run then k' else y

/-- A launch of the state has changed, every other is the same. -/
def LaunchIs (s t : State) (l m : Launch) : Prop :=
  m.id = l.id ∧ t.launches = s.launches.map fun y => if y.id = l.id then m else y

/-- The dispatchers place on a cluster, its cores have room for a gang's blocks and staging, and of the first two verify runs the other
has not been there (R210, R265, R282, R347). -/
def Takes (s : State) (l : Launch) (k : Gang) (c : Nat) : Prop :=
  c < Config.clusters s.part ∧ ((s.power.islands.toList)[c]? = some .on ∨ (s.power.islands.toList)[c]? = some .idle) ∧ s.dieAlive (c / 16) = true ∧
  (∀ i < 4, let n := ((l.img.gangBlocks k.index).length + 3 - i) / 4
    n ≠ 0 → s.unitsOnCore (4 * c + i) + n * l.img.units +
      (if l.img.det = true ∧ ∀ b ∈ s.blocks, b.launch = l.id → s.blockCore b ≠ 4 * c + i then 4 else 0) ≤ 94) ∧
  ∀ y ∈ l.gangs, y.index = k.index → k.run + y.run = 3 → y.placedOnce = true → y.cluster ≠ c

/-- A fresh group at the entry of its image (R23, R65, R218). -/
def FreshAt (l : Launch) (c : Nat) (h : Group) : Prop :=
  h.resident = true ∧ h.ended = false ∧ h.cluster = c ∧ h.running = 0 ∧ h.regs = {} ∧ h.ovf = 0 ∧ h.parked = none ∧ h.sup = none ∧ h.pend = {} ∧
  (∀ n, h.entry n = if n = 0 then { v := true, pc := alignPc l.img.entry, mask := 0xFFFFFFFF } else { pc := alignPc l.img.entry }) ∧
  h.ctl = { utvec := l.img.utvec, srstate := if l.img.srseed = 0 then 1 else l.img.srseed } ∧ h.trap = {} ∧ h.arr = {} ∧ (∀ j, (h.join j).armed = false)

/-- A gang run stands placed on a cluster, from the entry of its image; nothing else of the groups and blocks has changed, and no core of
the cluster keeps an L1 copy from before (R174). -/
def PlacedFresh (s t : State) (l : Launch) (k : Gang) (c : Nat) : Prop :=
  (∃ m k', LaunchIs s t l m ∧ GangIs l m k k' ∧ m = { l with gangs := m.gangs } ∧ k'.st = .placed ∧ k'.cluster = c ∧ k'.die = c / 16 ∧ k'.attempts = k.attempts) ∧
  (∀ h, h ∈ t.groups ↔ h ∈ s.groups ∨ (h ∈ t.groups ∧ h.launch = l.id ∧ h.run = k.run ∧ h.block ∈ l.img.gangBlocks k.index ∧ h.index < l.img.gdim ∧
    FreshAt l c h)) ∧
  (∀ b ∈ l.img.gangBlocks k.index, ∀ g < l.img.gdim, ∃ h ∈ t.groups, h.ref = ⟨l.id, b, g, k.run⟩ ∧ FreshAt l c h) ∧
  t.blocks = s.blocks ++ ((l.img.gangBlocks k.index).map fun b =>
    ({ launch := l.id, run := k.run, index := b, stack := ((k.stks.find? fun x => x.1 = b).map (·.2)).getD { origin := l.id } } : Block)) ∧
  t.mem = { s.mem with l1 := t.mem.l1 } ∧ (∀ x, x ∈ t.mem.l1 ↔ x ∈ s.mem.l1 ∧ x.core / 4 ≠ c) ∧ t.queues = s.queues

/-- No group and no block of a gang run stands on the machine, and it has no block records. -/
def Absent (s : State) (l : Launch) (k : Gang) : Prop :=
  (∀ h ∈ s.groups, ¬ InRun l k.index k.run h) ∧ (∀ b ∈ s.blocks, ¬ (b.launch = l.id ∧ b.run = k.run ∧ b.index / l.img.bdim = k.index)) ∧ k.record = []

/-- Every live die logs a grant. -/
def Logged (s t : State) (l : Launch) (die first last : Nat) : Prop :=
  t.dies = s.dies.map fun d => if d.alive then { d with grants := d.grants ++ [(l.id, die, first, last)] } else d

/-- The exception queue of a queue has a place for one record. -/
def ExqAt (s : State) (q we re : Nat) : Prop :=
  ∃ x e, s.queue? q = some x ∧ x.stopped = false ∧ x.desc.exq ≠ 0xFFFF ∧ s.queue? x.desc.exq = some e ∧ e.desc.enabled = true ∧ e.desc.exc = true ∧ s.waitingRecs = [] ∧
    InPage s e.desc.asid e.desc.base.toNat 64 we ∧ InPage s e.desc.asid (e.desc.ringAddr (word64 s we)) 64 re ∧
    word64 s we - word64 s (we + 8) + 64 ≤ e.desc.ringBytes ∧ word64 s we + 64 < 2 ^ 64 ∧ (re + 64 ≤ we ∨ we + 64 ≤ re)

/-- A record of a launch: KIND, CODE, place, block, PC, and the DETAIL of R336 (R299). -/
def launchRecord (s : State) (l : Launch) (kind code place block pc : Nat) (gang attempt fate source split : Nat) (addr : DWord) (expect actual : Word) :
    List Byte :=
  le 2 kind ++ le 2 code ++ le 2 l.queue ++ le 1 l.tenant ++ le 1 0 ++ le 4 l.seq.toNat ++ le 4 0 ++ le 8 s.cycle.toNat ++ le 2 l.asid.toNat ++
  le 2 place ++ le 4 block ++ le 8 pc ++ le 4 gang ++ le 1 attempt ++ le 1 fate ++ le 1 source ++ le 1 split ++ le 8 addr.toNat ++
  le 4 expect.toNat ++ le 4 actual.toNat

/-- PLACE of a block of a gang (R299, R336). -/
def placeIn (l : Launch) (k : Gang) (block : Nat) : Nat :=
  if k.placedOnce then (k.cluster / 16) * 4096 + k.cluster * 64 + (block % l.img.bdim) % 4 * 16 else 0xFFFF

/-- A gang that stands on the machine or is granted may be replayed (R331). -/
def Replayable (l : Launch) (k : Gang) : Prop :=
  l.img.replay = true ∧ l.aborted = false ∧ k.attempts < 4 ∧ 1 ≤ k.attempts ∧ l.gridRounds = 0 ∧ k.released = false ∧ (∀ y ∈ l.gangs, y.index = k.index → y = k)

/-- A gang run has been killed and waits to be granted again (R330, R331). -/
def KilledAndWaits (s t : State) (l : Launch) (k : Gang) : Prop :=
  Gone s t l k.index k.run ∧ ∃ m k', LaunchIs s t l m ∧ GangIs l m k k' ∧ k'.st = .waiting ∧ k'.attempts = k.attempts + 1 ∧ m.replayed = true ∧
    m.aborted = false ∧ m.next = l.next ∧ m.staged = l.staged.filter fun e => ¬ (e.block / l.img.bdim = k.index ∧ e.run = k.run)

/-- A launch has been ended: none of its groups and blocks stands, its gangs are over, nothing of it is staged (R331, R337). -/
def LaunchEnded (s t : State) (l : Launch) (code : Nat) : Prop :=
  (∀ h, h ∈ t.groups ↔ h ∈ s.groups ∧ h.launch ≠ l.id) ∧ (∀ b, b ∈ t.blocks ↔ b ∈ s.blocks ∧ b.launch ≠ l.id) ∧
  ∃ m, LaunchIs s t l m ∧ m.aborted = true ∧ m.staged = [] ∧ (∀ k ∈ m.gangs, k.st = .complete) ∧ m.gangs.length = l.gangs.length ∧
    (m.ending.map (·.1)) = some code

/-- Every group and block of a launch belongs to one of its gang runs that is not over. -/
def Owned (s : State) (l : Launch) : Prop :=
  (∀ h ∈ s.groups, h.launch = l.id → ∃ k ∈ l.gangs, InRun l k.index k.run h ∧ k.st ≠ .complete ∧ k.st ≠ .unresolved) ∧
  ∀ b ∈ s.blocks, b.launch = l.id → ∃ k ∈ l.gangs, b.run = k.run ∧ b.index / l.img.bdim = k.index ∧ k.st ≠ .complete ∧ k.st ≠ .unresolved

end Sys2Proof.Spec

section
open Sys2Proof Sys2Proof.Machine Sys2Proof.Spec

/-- R264, R265, R282, R331: a die with room for the next gang is granted a batch, which every live die logs; a granted gang is placed whole on
the lowest-numbered cluster of its die that takes it, every group at the entry, and waits while none does; a killed gang is granted again
to the die of a cluster of the part that takes it, and placed there where no lower gang of the launch waits, and it waits while none does. That
it is the lowest-numbered such cluster, and that the gang is placed in the same step, are the model's choices (log 163). A part in recovery
places nothing. -/
def Obligations.GangsAreGrantedAndPlaced : Prop :=
  ∀ (s : State) (l : Launch), Holds s l → l.aborted = false →
    (∀ die, s.power.recovery = none → s.dieAlive die = true → (∀ k ∈ l.gangs, k.st ≠ .waiting ∧ (k.st = .preempted → k.gridWait = true)) →
      let first := (l.next + l.img.bdim - 1) / l.img.bdim
      let n := min (64 / l.img.bdim) (l.img.gangs - first)
      let last := min ((first + n) * l.img.bdim) l.img.griddim.toNat
      let new := fun (i run : Nat) => ({ index := first + i, run := run, st := .granted, die := die } : Gang)
      let room := (∀ k ∈ l.gangs, k.st = .granted → k.die ≠ die) ∧ ∃ c, c / 16 = die ∧ Takes s l (new 0 1) c
      (¬ room → exec (.batchGrant l.id die) s = .next s) ∧
      (room → 0 < n → ∃ t m, exec (.batchGrant l.id die) s = .next t ∧ LaunchIs s t l m ∧ m = { l with gangs := m.gangs, next := last } ∧
        Logged s t l die (first * l.img.bdim) (last - 1) ∧ NoGroup s t ∧ t.mem = s.mem ∧
        (l.img.verify = false → m.gangs = l.gangs ++ (List.range n).map fun i => new i 1) ∧
        (l.img.verify = true → ∃ other : Nat → Nat,
          (∀ i, let free := fun d => d ≠ die ∧ s.dieAlive d = true ∧ ∃ c, c / 16 = d ∧ Takes s l (new i 2) c
            (other i = die ∨ free (other i)) ∧ ((∃ d, free d) → other i ≠ die)) ∧
          m.gangs = l.gangs ++ (List.range n).flatMap fun i => [new i 1, { new i 2 with die := other i }]))) ∧
    (s.power.recovery.isSome = true → ∀ die gang, exec (.batchGrant l.id die) s = .next s ∧ exec (.gangPlace l.id gang) s = .next s ∧
      exec (.gangReplay l.id gang) s = .next s ∧ exec (.gangResume l.id gang) s = .next s) ∧
    (∀ k, s.power.recovery = none → k ∈ l.gangs → k.st = .granted → (∀ y ∈ l.gangs, y.st = .granted → y.index = k.index → y = k) → s.dieAlive k.die = true →
      (∀ y ∈ l.gangs, y.st = .granted → y.die = k.die → k.index ≤ y.index) → s.mayUse l.tenant = true → Absent s l k →
      (∀ c, Takes s l k c → c / 16 = k.die → (∀ d, d < c → d / 16 = k.die → ¬ Takes s l k d) →
        ∃ t, exec (.gangPlace l.id k.index) s = .next t ∧ PlacedFresh s t l k c) ∧
      ((∀ c, c / 16 = k.die → ¬ Takes s l k c) → exec (.gangPlace l.id k.index) s = .next s)) ∧
    (∀ k, s.power.recovery = none → k ∈ l.gangs → k.st = .waiting → k.index * l.img.bdim < l.img.griddim.toNat → (∀ y ∈ l.gangs, y.index = k.index → y = k) →
      let ends := fun (t : State) (die : Nat) =>
        Logged s t l die (k.index * l.img.bdim) (min ((k.index + 1) * l.img.bdim) l.img.griddim.toNat - 1)
      let granted := fun (t : State) (die : Nat) => ends t die ∧ NoGroup s t ∧ t.mem = s.mem ∧ ∃ m k', LaunchIs s t l m ∧ GangIs l m k k' ∧
        k' = { k with st := .granted, die := die }
      (∀ c, Takes s l k c → (∀ d, d < c → ¬ Takes s l k d) →
        (s.mayUse l.tenant = true → Absent s l k → (∀ y ∈ l.gangs, y.st = .granted → y.die = c / 16 → k.index ≤ y.index) →
          ∃ t, exec (.gangReplay l.id k.index) s = .next t ∧ PlacedFresh s t l k c ∧ ends t (c / 16)) ∧
        ((∃ y ∈ l.gangs, y.st = .granted ∧ y.die = c / 16 ∧ y.index < k.index) →
          ∃ t, exec (.gangReplay l.id k.index) s = .next t ∧ granted t (c / 16))) ∧
      ((∀ c, ¬ Takes s l k c) → exec (.gangReplay l.id k.index) s = .next s))

/-- R264, R279, R283, R284: a gang whose groups have ended with nothing outstanding is logged complete and its units are free; T moves on over
a block that has ended; two equal digests let a gang's first run stand, a third run settles two that differ, and three that differ leave
the gang UNRESOLVED, its queue stopped for an answer. -/
def Sys2Proof.Spec.GangsComplete : Prop :=
  ∀ (s : State) (l : Launch), Holds s l → l.aborted = false →
    (∀ k, k ∈ l.gangs → k.st = .ended → (∀ y ∈ l.gangs, y.index = k.index → y = k) → l.img.verify = false →
      (∃ h ∈ s.groups, InRun l k.index k.run h) → (∀ h ∈ s.groups, InRun l k.index k.run h → h.pend.mem = [] ∧ h.pend.cp = [] ∧ h.pend.ga = [] ∧
        h.pend.mx = [] ∧ h.pend.co = []) →
      ∃ t m k', exec (.gangComplete l.id k.index) s = .next t ∧ Gone s t l k.index k.run ∧ LaunchIs s t l m ∧ GangIs l m k k' ∧ k'.st = .complete ∧
        t.dies = s.dies.map (fun d => if d.alive then { d with completes := d.completes ++ [(l.id, k.index)] } else d) ∧ t.mem = s.mem) ∧
    (l.img.det = true → l.img.verify = false → l.ticket < l.img.griddim.toNat → l.ticket < l.next → (∀ e ∈ l.staged, e.block ≠ l.ticket ∧ e.block ≠ l.ticket + 1) →
      (∀ k ∈ l.gangs, k.index = l.ticket / l.img.bdim → k.st = .complete) → (∃ k ∈ l.gangs, k.index = l.ticket / l.img.bdim) →
      (l.ticket + 1 = l.img.griddim.toNat ∨ ∀ k ∈ l.gangs, k.index ≠ (l.ticket + 1) / l.img.bdim) → (∀ y ∈ s.fabric.reqs, y.owner ≠ .launch l.id) →
      ∃ t m, exec (.ticketAdvance l.id) s = .next t ∧ LaunchIs s t l m ∧ m = { l with ticket := l.ticket + 1 } ∧ t.mem = s.mem ∧ NoGroup s t) ∧
    (l.img.verify = true → ∀ k1 k2, l.gang? k1.index 1 = some k1 → l.gang? k1.index 2 = some k2 → k1.st = .ended → k2.st = .ended →
      (∀ h ∈ s.groups, h.launch = l.id → h.block / l.img.bdim ≠ k1.index) →
      let only := fun (run : Nat) (e : Staged) => e.block / l.img.bdim = k1.index → e.run = run
      let stands := fun (run : Nat) => ∃ t m, exec (.verifyVerdict l.id k1.index) s = .next t ∧ LaunchIs s t l m ∧ NoGroup s t ∧ t.mem = s.mem ∧
        (∀ k ∈ m.gangs, k.index = k1.index → k.st = .complete) ∧ (∀ k, k.index ≠ k1.index → (k ∈ m.gangs ↔ k ∈ l.gangs)) ∧
        (∀ e, e ∈ m.staged ↔ e ∈ l.staged ∧ (e.run ∈ [1, 2, 3, 4] → only run e)) ∧
        t.dies = s.dies.map (fun d => if d.alive then { d with completes := d.completes ++ [(l.id, k1.index)] } else d)
      let again := fun (run : Nat) => ∃ t m k, exec (.verifyVerdict l.id k1.index) s = .next t ∧ LaunchIs s t l m ∧ NoGroup s t ∧ t.mem = s.mem ∧
        k ∈ m.gangs ∧ k.index = k1.index ∧ k.run = run ∧ k.st = .waiting ∧ m.gangs.length = l.gangs.length + 1
      let open2 := (s.queueOf l.queue).desc.exq = 0xFFFF →
        ∃ t m x a, exec (.verifyVerdict l.id k1.index) s = .next t ∧ LaunchIs s t l m ∧ NoGroup s t ∧ t.queue? l.queue = some x ∧ x.stopped = true ∧
          (∀ k ∈ m.gangs, k.index = k1.index → k.st = .unresolved) ∧ (∀ e ∈ m.staged, e.run ∈ [1, 2, 3, 4] → e.block / l.img.bdim ≠ k1.index) ∧
          t.awaited = s.awaited ++ [a] ∧ a.kind = 6 ∧ a.queue = l.queue ∧ a.launch = l.id ∧ a.gang = k1.index
      (l.gang? k1.index 3 = none → l.gang? k1.index 4 = none → (k1.digest = k2.digest → stands 1) ∧ (k1.digest ≠ k2.digest → again 3)) ∧
      (∀ k3, l.gang? k1.index 3 = some k3 → k3.st = .ended → l.gang? k1.index 4 = none →
        (k3.digest = k1.digest → stands 1) ∧ (k3.digest ≠ k1.digest → k3.digest = k2.digest → again 4) ∧
        (k3.digest ≠ k1.digest → k3.digest ≠ k2.digest → open2)) ∧
      (∀ k3 k4, l.gang? k1.index 3 = some k3 → l.gang? k1.index 4 = some k4 → k4.st = .ended → k4.digest = k2.digest → stands 4))

/-- R264, R330 to R332, R335 to R337: a kill takes the gang's groups, blocks, staged writes off the machine and writes a KIND 2 record; the gang
waits to be granted again, or its launch ends with the code that R331 gives; an expired wall time ends a launch. That a gang that ends with
another's launch has one FATE 2 record, whatever its state, is the model's reading (log 36), and so is REPLAY_LIMIT before NO_REPLAY (log
46). -/
def Obligations.KillsAndLimits : Prop :=
  ∀ (s : State) (l : Launch), Holds s l → l.aborted = false →
    (∀ (k : Gang) (w : KillWhy), k ∈ l.gangs → (k.st = .granted ∨ k.st = .placed ∨ k.st = .ended) → (∀ y ∈ l.gangs, y.index = k.index → y = k) →
      let low := w.block.getD (k.index * l.img.bdim)
      (Replayable l k → ((s.queueOf l.queue).desc.exq = 0xFFFF →
          ∃ t, exec (.gangKill l.id k.index w) s = .next t ∧ KilledAndWaits s t l k ∧ t.mem = s.mem ∧ t.queues = s.queues) ∧
        (∀ we re, ExqAt s l.queue we re →
          ∃ t, exec (.gangKill l.id k.index w) s = .next t ∧ KilledAndWaits s t l k ∧ word64 t we = word64 s we + 64 ∧ BytesBut s t [(we, 8), (re, 64)] ∧
            t.mem.bytes.readN re 64 = launchRecord s l 2 w.code (placeIn l k low) low w.pc.toNat k.index k.attempts 0 w.source w.split w.addr w.expect w.actual)) ∧
      ((s.queueOf l.queue).desc.exq = 0xFFFF → Owned s l → 1 ≤ k.attempts →
        let ends := fun (code : Nat) => ∃ t, exec (.gangKill l.id k.index w) s = .next t ∧ LaunchEnded s t l code ∧ t.mem = s.mem
        (4 ≤ k.attempts → ends 0x0107) ∧
        (k.attempts < 4 → l.img.replay = true → (0 < l.gridRounds ∨ k.released = true) → ends 0x0108) ∧
        (k.attempts < 4 → l.gridRounds = 0 → k.released = false → l.img.replay = false → ends w.code))) ∧
    (Owned s l → l.img.wall ≠ 0 → l.img.wall * 940 ≤ l.wallUsed →
      ((s.queueOf l.queue).desc.exq = 0xFFFF → ∃ t, exec (.wallTimeExpiry l.id) s = .next t ∧ LaunchEnded s t l 0x0105 ∧ t.mem = s.mem) ∧
      (∀ we re, ExqAt s l.queue we re → ∃ t, exec (.wallTimeExpiry l.id) s = .next t ∧ LaunchEnded s t l 0x0105 ∧ word64 t we = word64 s we + 64 ∧
        t.mem.bytes.readN re 64 = launchRecord s l 7 0x0105 0xFFFF 0xFFFFFFFF 0 0xFFFFFFFF 0 0 0 0 0 0 0)) ∧
    (l.img.wall = 0 ∨ l.wallUsed < l.img.wall * 940 → exec (.wallTimeExpiry l.id) s = .next s)

/-- R266, R337: heartbeats missed in exchanges that follow one another are counted, one in each exchange of 10 µs; the third in a row, or a
missed one of a die that its base logic has reported failed, kills the die: sectors of memory whose home it was may be poisoned, the
lowest-numbered live die leads, and the gangs that the dead die had and that were not complete are killed with DIE_LOST. The manual names no leader after the last die. -/
def Sys2Proof.Spec.HeartbeatsMissed : Prop :=
  ∀ (s : State) (die : Nat) (d : Die), s.dies[die]? = some d → d.alive = true →
    let n := s.cycle.toNat / 9400
    let row := if d.missed ≠ 0 ∧ d.lastMiss = n then d.missed else if d.lastMiss + 1 = n then d.missed + 1 else 1
    let kills := d.failed = true ∨ 3 ≤ row
    let d1 := if d.failed then d else { d with missed := row, lastMiss := n }
    (¬ kills → ∃ t, exec (.heartbeatMiss die) s = .next t ∧ t = { s with dies := s.dies.set die d1 }) ∧
    (kills → (∀ n, n ≠ die → s.dieAlive n = false) → exec (.heartbeatMiss die) s = .fault .noLiveDie) ∧
    (∀ lead, kills → lead ≠ die → s.dieAlive lead = true → (∀ n, n < lead → n ≠ die → s.dieAlive n = false) →
      ((∀ l ∈ s.launches, l.aborted = false → ∀ k ∈ l.gangs, k.die = die → k.st ≠ .granted ∧ k.st ≠ .placed ∧ k.st ≠ .ended) →
        ∃ t, exec (.heartbeatMiss die) s = .next t ∧ t.leader = lead ∧ t.dies = s.dies.set die { d1 with alive := false } ∧ t.mem.bytes = s.mem.bytes ∧
          (∀ x ∈ t.mem.poison, x ∈ s.mem.poison ∨ (s.homeDie x = die ∧ ((∃ p ∈ s.mem.bytes, p.1 / 65536 = x / 2048) ∨
            ∃ p ∈ s.mem.ipt, p.1 = x / 2048 ∧ p.2.valid = true ∧ p.2.rem = false))) ∧ (∀ x ∈ s.mem.poison, x ∈ t.mem.poison) ∧
          t.cur = s.cur ∧ t.others = s.others ∧ t.launches = s.launches ∧
          (let plain := fun (b : Block) => { b with stack := { b.stack with poison := [] } }
           t.blocks.map plain = s.blocks.map plain)) ∧
      (∀ l k, s.launches = [l] → k ∈ l.gangs → (l.gangs.map fun k => (k.index, k.run)).Nodup → Replayable l k → (k.st = .granted ∨ k.st = .placed ∨ k.st = .ended) → k.die = die →
        (∀ y ∈ l.gangs, y ≠ k → y.die = die → y.st ≠ .granted ∧ y.st ≠ .placed ∧ y.st ≠ .ended) → (s.queueOf l.queue).desc.exq = 0xFFFF →
        (∀ b ∈ s.blocks, b.stack.bytes = []) →
        ∃ t, exec (.heartbeatMiss die) s = .next t ∧ t.leader = lead ∧ t.dies = s.dies.set die { d1 with alive := false } ∧ KilledAndWaits s t l k))

end

namespace Sys2Proof.Spec

open Sys2Proof.Machine

/-! ## Pre-emption and resume (R161, R273, R297, R298) -/

/-- A gang run that stands on the machine with every group and block of it, once each, and nothing of it outstanding. -/
def Quiet (s : State) (l : Launch) (k : Gang) : Prop :=
  (s.groups.map (·.ref)).Nodup ∧ (s.blocks.map fun b => (b.launch, b.run, b.index)).Nodup ∧ l.img.nv ≤ 256 ∧
  (∀ h ∈ s.groups, InRun l k.index k.run h → h.pend.mem = [] ∧ h.pend.cp = [] ∧ h.pend.ga = [] ∧ h.pend.mx = [] ∧ h.pend.co = [] ∧ h.ovf = 0 ∧
    h.sup = none ∧ h.parked = none) ∧
  k.index * l.img.bdim < l.img.griddim.toNat ∧
  (∀ b ∈ l.img.gangBlocks k.index, (s.block? l.id k.run b).isSome = true ∧ ∀ j < l.img.gdim, ∃ h ∈ s.groups, h.ref = ⟨l.id, b, j, k.run⟩)

/-- Bytes of a group section (R297). -/
def sectionBytes (l : Launch) : Nat := 9792 + 128 * l.img.nv

/-- What the section of a group holds at its place in a record: k, s and v registers, the masks of the split table, LIVE (R297). -/
def SectionOf (l : Launch) (r : List Byte) (j : Nat) (h : Group) : Prop :=
  let o := 64 + j * sectionBytes l
  (∀ n, 1 ≤ n → n < 16 → num r (o + 640 + 4 * n) 4 = (h.regs.getK (BitVec.ofNat 8 n)).toNat) ∧
  (∀ n < 64, num r (o + 704 + 4 * n) 4 = (h.regs.getS (BitVec.ofNat 8 n)).toNat) ∧
  (∀ n < l.img.nv, ∀ i : Fin 32, num r (o + 9792 + 128 * n + 4 * i.val) 4 = ((h.regs.getV (BitVec.ofNat 8 n)).get i).toNat) ∧
  (∀ n : BitVec 3, num r (o + 256 + 24 * n.toNat + 12) 4 = (h.entry n).mask.toNat ∧
    num r (o + 256 + 24 * n.toNat + 4) 4 = (h.entry n).pc.toNat % 2 ^ 32 ∧ num r (o + 448 + 4 * n.toNat) 4 = (h.entry n).park.toNat) ∧
  num r (o + 24) 4 = h.ctl.live.toNat

/-- A gang run has been pre-empted: its groups and blocks have gone, and its records hold them (R297). -/
def Preempted (s t : State) (l : Launch) (k : Gang) (grid : Bool) : Prop :=
  Gone s t l k.index k.run ∧ ∃ m k', LaunchIs s t l m ∧ GangIs l m k k' ∧ k'.st = .preempted ∧ k'.gridWait = grid ∧
    k'.record.length = (l.img.gangBlocks k.index).length ∧
    ∀ (n b : Nat), (l.img.gangBlocks k.index)[n]? = some b → ∃ (r : List Byte) (y : Block), k'.record[n]? = some r ∧ s.block? l.id k.run b = some y ∧
      num r 0 4 = b % 2 ^ 32 ∧ num r 4 4 = b % l.img.bdim ∧ num r 8 4 = l.img.na ∧
      (∀ h ∈ s.groups, ∀ j < l.img.gdim, h.ref = ⟨l.id, b, j, k.run⟩ → SectionOf l r j h) ∧
      (r.drop (64 + l.img.gdim * sectionBytes l)).take l.img.scratchSize = y.scratch.readN 0 l.img.scratchSize

/-- The section of group `j` of a record holds one split, running, that has every live lane, and no outstanding operation (R297, R334). -/
def OneSplit (l : Launch) (r : List Byte) (j : Nat) : Prop :=
  let o := 64 + j * sectionBytes l
  num r (o + 31) 1 = 0 ∧ 2 ^ 31 ≤ num r (o + 256) 4 ∧ (∀ n, 1 ≤ n → n < 8 → num r (o + 256 + 24 * n) 4 < 2 ^ 31) ∧
  (num r (o + 256 + 12) 4) ||| (num r (o + 448) 4) = num r (o + 24) 4 ∧ (∀ n < 8, num r (o + 256 + 24 * n + 4) 4 % 4 = 0) ∧
  ∀ i, 1728 ≤ i → i < 9792 → r.getD (o + i) 0 = 0

/-- One event more of a core, die or stack is counted, and of no other (R327). -/
def CountsOne (s t : List (Nat × Nat)) (n : Nat) : Prop :=
  (assoc t n).getD 0 = (assoc s n).getD 0 + 1 ∧ ∀ m, m ≠ n → assoc t m = assoc s m

end Sys2Proof.Spec

section
open Sys2Proof Sys2Proof.Machine Sys2Proof.Spec

/-- R161, R265, R273, R297, R298: a gang of which every group waits at a grid barrier while blocks have not started, and a gang that runs over
its tenant's budget while another tenant's finds no room, is pre-empted, with its state in its block records; a pre-empted gang resumes from
its records on the lowest-numbered cluster that takes it. The places of LIVE, the handler byte and the head fields in a record are the
model's choice (log 13), and so is the lowest-numbered cluster for a gang that resumes (log 163). -/
def Obligations.PreemptionAndResume : Prop :=
  ∀ (s : State) (l : Launch) (k : Gang), Holds s l → l.aborted = false → k ∈ l.gangs → (∀ y ∈ l.gangs, y.index = k.index → y = k) →
    (k.st = .placed → Quiet s l k →
      ((l.next < l.img.griddim.toNat ∨ ∃ y ∈ l.gangs, y.st = .granted ∨ y.st = .waiting) →
        (∀ h ∈ s.groups, InRun l k.index k.run h → s.waitsAtGrid h = true) →
        ∃ t, exec (.gridBarrierPreempt l.id k.index) s = .next t ∧ Preempted s t l k true) ∧
      (∀ tenant, s.withinBudget (s.tenant tenant) = true → s.starved tenant = true → s.withinBudget (s.tenant l.tenant) = false →
        (∀ y ∈ s.launches, y.aborted = false → s.withinBudget (s.tenant y.tenant) = false → ∀ g ∈ y.gangs, g.st = .placed → y.id = l.id ∧ g = k) →
        ∃ t, exec (.recall tenant) s = .next t ∧ Preempted s t l k false)) ∧
    (∀ tenant, s.withinBudget (s.tenant tenant) = false ∨ s.starved tenant = false → exec (.recall tenant) s = .next s) ∧
    (∀ c, s.power.recovery = none → k.st = .preempted → k.gridWait = false → k.saved = [] → k.savedBlocks = [] → s.mayUse l.tenant = true → Takes s l k c →
      (∀ d, d < c → ¬ Takes s l k d) → k.index * l.img.bdim < l.img.griddim.toNat → k.record.length = (l.img.gangBlocks k.index).length → l.img.nv ≤ 256 →
      (∀ h ∈ s.groups, ¬ InRun l k.index k.run h) → (∀ b ∈ s.blocks, ¬ (b.launch = l.id ∧ b.run = k.run ∧ b.index / l.img.bdim = k.index)) →
      (∀ r ∈ k.record, ∀ j < l.img.gdim, OneSplit l r j) →
      ∃ t m k', exec (.gangResume l.id k.index) s = .next t ∧ LaunchIs s t l m ∧ GangIs l m k k' ∧ k'.st = .placed ∧ k'.cluster = c ∧ k'.die = c / 16 ∧
        (∀ h, h ∈ s.groups → h ∈ t.groups) ∧ t.mem.bytes = s.mem.bytes ∧ (∀ x ∈ t.mem.l1, x.core / 4 ≠ c) ∧
        ∀ (n b : Nat) (r : List Byte), (l.img.gangBlocks k.index)[n]? = some b → k.record[n]? = some r →
          (∀ j < l.img.gdim, ∃ h ∈ t.groups, h.ref = ⟨l.id, b, j, k.run⟩ ∧ h.cluster = c ∧ SectionOf l r j h ∧
            (h.entry 0).v = true ∧ ∀ i, i ≠ 0 → (h.entry i).v = false) ∧
          ∃ y, t.block? l.id k.run b = some y ∧ ∀ o < l.img.scratchSize, y.scratch.read o = r.getD (64 + l.img.gdim * sectionBytes l + o) 0)

/-- R270 to R272: a new period takes over the weights and clears what was used; what a debtor owes is taken from its budget and given to the
lender, at most half its share; before its time it does not begin. -/
def Obligations.PeriodsBegin : Prop :=
  ∀ (s : State),
    (s.cycle.toNat < (s.period + 1) * 940000 → exec .periodStart s = .next s) ∧
    ((s.period + 1) * 940000 ≤ s.cycle.toNat → (∀ t ∈ s.tenants, t.used ≤ s.budget t * (940 * 94)) →
      (s.debts = [] → ∃ t, exec .periodStart s = .next t ∧ t = { s with period := s.period + 1, tenants := s.tenants.map fun x =>
        { x with used := 0, repay := 0, credit := 0, weight := x.nextWeight } }) ∧
      (∀ a b n, s.tenants = [a, b] → a.slot ≠ b.slot → s.debts = [⟨a.slot, b.slot, n⟩] → 0 < n →
        let w := a.nextWeight + b.nextWeight
        let share := if w = 0 then 0 else 4 * Config.clusters s.part * 1000 * a.nextWeight / w
        let pay := min n (share / 2)
        ∃ t, exec .periodStart s = .next t ∧ t.period = s.period + 1 ∧ t.debts = (if n = pay then [] else [⟨a.slot, b.slot, n - pay⟩]) ∧
          t.tenants = [{ a with used := 0, repay := pay, credit := 0, weight := a.nextWeight }, { b with used := 0, repay := 0, credit := pay, weight := b.nextWeight }] ∧
          NoGroup s t ∧ t.mem = s.mem ∧ t.launches = s.launches))

/-- R326 to R330: what the device cannot correct marks the word or the sector, with a count of the core, die or stack; a clean copy is dropped;
group state, a staged write and an atomic's operands that are lost kill the gang; a scrub changes nothing but a count. The die on which an
event of an L1, an instruction cache or an L2 is counted is the model's reading (log 156). -/
def Obligations.ErrorsMark : Prop :=
  ∀ (s : State),
    (∀ (b : Block) (off : Nat), b ∈ s.blocks → (∀ y ∈ s.blocks, y.launch = b.launch → y.run = b.run → y.index = b.index → y = b) →
      off < (s.lch b.launch).img.scratchSize →
      ∃ t c, exec (.poolWordError (.scratch b.launch b.run b.index off)) s = .next t ∧ c ∈ t.blocks ∧ c = { b with poison := c.poison } ∧
        (∀ w, w ∈ c.poison ↔ w ∈ b.poison ∨ w = off / 8) ∧
        (∀ y, y.launch ≠ b.launch ∨ y.run ≠ b.run ∨ y.index ≠ b.index → (y ∈ t.blocks ↔ y ∈ s.blocks)) ∧
        t = { s with blocks := t.blocks, errs := { s.errs with pool := t.errs.pool } } ∧ CountsOne s.errs.pool t.errs.pool (s.blockCore b)) ∧
    (∀ (reg : BitVec 8) (w : Fin 16), s.cur.resident = true → reg.toNat < (s.lchOf s.cur).img.nv →
      ∃ t, exec (.poolWordError (.vreg s.cur.ref reg w)) s = .next t ∧ t.cur = { s.cur with regs := { s.cur.regs with vpoison := t.cur.regs.vpoison } } ∧
        (∀ p, p ∈ t.cur.regs.vpoison ↔ p ∈ s.cur.regs.vpoison ∨ p = (reg.toNat, w.val)) ∧
        t = { s with cur := t.cur, errs := { s.errs with pool := t.errs.pool } } ∧ CountsOne s.errs.pool t.errs.pool (s.coreOf s.cur)) ∧
    (∀ (b : Block) (i : Fin 8) (w : Nat), b ∈ s.blocks → (∀ y ∈ s.blocks, y.launch = b.launch → y.run = b.run → y.index = b.index → y = b) →
      i.val < (s.lch b.launch).img.na → w < 6144 →
      ∃ t c, exec (.poolWordError (.tile b.launch b.run b.index i.val w)) s = .next t ∧ c ∈ t.blocks ∧ c = { b with tiles := c.tiles } ∧
        (∀ j : Fin 8, j ≠ i → c.tiles[j] = b.tiles[j]) ∧ c.tiles[i] = { b.tiles[i] with poison := c.tiles[i].poison } ∧
        (∀ x, x ∈ c.tiles[i].poison ↔ x ∈ b.tiles[i].poison ∨ x = w) ∧
        t = { s with blocks := t.blocks, errs := { s.errs with pool := t.errs.pool } } ∧ CountsOne s.errs.pool t.errs.pool (s.blockCore b)) ∧
    (∀ (l : Launch) (k : Gang), Holds s l → k ∈ l.gangs → Replayable l k → s.cur.resident = true → InRun l k.index k.run s.cur →
      (s.queueOf l.queue).desc.exq = 0xFFFF →
      (∃ t, exec (.poolWordError (.groupState s.cur.ref)) s = .next t ∧ KilledAndWaits s t l k) ∧
      (∀ die id x, (∃ o ∈ s.cur.pend.mem, o.id = id ∧ x ∈ o.left ∧ ∃ op typ, o.kind = .atomic op typ) →
        ∃ t, exec (.uncorrectableError (.atomicService die [(s.cur.ref, id, x)])) s = .next t ∧ KilledAndWaits s t l k) ∧
      ∀ n e, (l.staged.filter (·.block = s.cur.block))[n]? = some e → e.run = k.run →
        ∃ t, exec (.uncorrectableError (.staging l.id s.cur.block n)) s = .next t ∧ KilledAndWaits s t l k) ∧
    (∀ cluster core sector, ∃ t, exec (.uncorrectableError (.l1 cluster core sector)) s = .next t ∧
      t = { s with mem := { s.mem with l1 := t.mem.l1 }, errs := { s.errs with die := t.errs.die } } ∧ CountsOne s.errs.die t.errs.die (cluster / 16) ∧
      ∀ c, c ∈ t.mem.l1 ↔ c ∈ s.mem.l1 ∧ ¬ (c.core = 4 * cluster + core % 4 ∧ c.sector = sector)) ∧
    (∀ cluster, ∃ t, exec (.uncorrectableError (.icache cluster)) s = .next t ∧ t = { s with errs := { s.errs with die := t.errs.die } } ∧
      CountsOne s.errs.die t.errs.die (cluster / 16)) ∧
    (∀ x, x < Config.frames s.part * 2048 →
      (∃ t, exec (.uncorrectableError (.l2Clean (.mem x))) s = .next t ∧ t = { s with errs := { s.errs with die := t.errs.die } } ∧
        CountsOne s.errs.die t.errs.die (s.homeDie x)) ∧
      (∃ t, exec (.uncorrectableError (.l2Dirty (.mem x))) s = .next t ∧
        t = { s with mem := { s.mem with poison := t.mem.poison }, errs := { s.errs with die := t.errs.die } } ∧
        CountsOne s.errs.die t.errs.die (s.homeDie x) ∧ ∀ y, y ∈ t.mem.poison ↔ y ∈ s.mem.poison ∨ y = x) ∧
      ∃ t, exec (.hbmSectorError (.mem x)) s = .next t ∧
        t = { s with mem := { s.mem with poison := t.mem.poison }, errs := { s.errs with hbm := t.errs.hbm } } ∧
        CountsOne s.errs.hbm t.errs.hbm (s.mem.stackAt s.s0 (x / 16)) ∧ ∀ y, y ∈ t.mem.poison ↔ y ∈ s.mem.poison ∨ y = x) ∧
    (∀ (b : Block) (x : Nat), b ∈ s.blocks → (∀ y ∈ s.blocks, y.launch = b.launch → y.run = b.run → y.index = b.index → y = b) →
      x < 2 ^ 20 * (s.lch b.launch).img.gdim → x * 32 % 2 ^ 20 < (s.lch b.launch).img.stack →
      let marks := fun (i : Instr) => ∃ t c, exec i s = .next t ∧ c ∈ t.blocks ∧ c = { b with stack := { b.stack with poison := c.stack.poison } } ∧
        (∀ w, w ∈ c.stack.poison ↔ w ∈ b.stack.poison ∨ w = x) ∧ t = { s with blocks := t.blocks, errs := t.errs }
      marks (.hbmSectorError (.stack b.launch b.run b.index x)) ∧ marks (.uncorrectableError (.l2Dirty (.stack b.launch b.run b.index x)))) ∧
    (∀ n, n < Config.stackCount s.part → ∃ t, exec (.hbmScrub n) s = .next t ∧ t = { s with errs := t.errs, fresh := t.fresh })

/-- R231, R233 to R235, R237, R238, R242, R243, R294: a request or a failing stack begins a retirement, or waits for the one in progress; a batch
moves doomed frames with their bytes; the sweep raises its watermark region by region and closes after the last; a stack that stops answering
leaves its granules marked, and one that dies during another's retirement waits for Close with its stores refused. -/
def Obligations.RetirementSteps : Prop :=
  ∀ (s : State) (stack : Nat), (s.queueOf 0).desc.exq = 0xFFFF → stack < Config.stackCount s.part → (∀ h ∈ s.mem.ret.history, h.1 ≠ stack) →
    let r := s.mem.ret
    let begun := fun (t : State) => t.mem.capacity = s.mem.capacity - 1572864 ∧ t.mem.phase = s.mem.phase + 1 ∧
      (∀ f, f ∈ t.mem.pool ↔ f ∈ s.mem.pool ∧ f < t.mem.capacity) ∧ t.mem.ret.st = .vacate ∧ t.mem.ret.stack = stack ∧ t.mem.ret.oldCap = s.mem.capacity ∧
      t.mem.ipt = s.mem.ipt ∧ NoGroup s t
    (r.st = .idle → ∃ t, exec (.announce stack) s = .next t ∧ begun t ∧ t.mem.bytes = s.mem.bytes ∧ t.mem.poison = s.mem.poison ∧
      t.mem.lost = s.mem.lost) ∧
    (∀ q p x, Configures s q p x → p.fld 9 1 = stack → r.st = .idle →
      ∃ t, exec (.configRetireRequest q p) s = .next t ∧ EndedQ s t q p x ∧ begun t) ∧
    (r.st ≠ .idle → r.stack ≠ stack → stack ∉ r.queued → ∃ t, exec (.announce stack) s = .next t ∧
      t = { s with mem := { s.mem with ret := { r with queued := r.queued ++ [stack] } } }) ∧
    (r.st = .idle → s.mem.lost = [] → stack ∉ r.dead → ∃ t, exec (.stackDeath stack) s = .next t ∧ begun t ∧ t.mem.bytes = s.mem.bytes ∧
      ∀ x, t.marked x = true ↔ s.marked x = true ∨ stackOf s.s0 r.history (x / 16) = stack) ∧
    (r.st ≠ .idle → r.stack ≠ stack → stack ∉ r.dead → ∃ t, exec (.secondStackDeath stack) s = .next t ∧ t.mem.ret.st = r.st ∧ t.mem.capacity = s.mem.capacity ∧
      t.mem.ret.queued = r.queued.filter (· ≠ stack) ++ [stack] ∧ stack ∈ t.mem.ret.dead ∧ t.mem.bytes = s.mem.bytes ∧ NoGroup s t ∧
      ∀ x, stackOf s.s0 r.history (x / 16) = stack → t.marked x = true ∧ t.mem.refuses s.s0 x = true) ∧
    (∀ i f fs e, r.st = .vacate → s.mem.doomed = [i] → s.mem.pool = f :: fs → s.mem.entry i = e → s.mem.mapped f = false → f ≠ i → f < s.mem.capacity →
      s.mem.lost = [] → r.watermark < s.mem.capacity / 256 → (s.mem.ipt.map (·.1)).Nodup →
      ∃ t, exec .vacateBatch s = .next t ∧ t.mem.mapped i = false ∧ (∃ n, t.mem.entry f = { e with next := n }) ∧ t.mem.pool = fs ∧ t.mem.ret.st = .sweep ∧
        t.mem.phase = s.mem.phase + 4 ∧ (∀ o < 65536, t.mem.bytes.read (f * 65536 + o) = s.mem.bytes.read (i * 65536 + o)) ∧
        (∀ a, a / 65536 ≠ f → t.mem.bytes.read a = s.mem.bytes.read a) ∧ (∀ n < 2048, t.marked (f * 2048 + n) = s.marked (i * 2048 + n)) ∧
        (∀ c ∈ t.mem.tlb, c.idx ≠ i) ∧ NoGroup s t) ∧
    (r.st = .vacate → s.mem.doomed ≠ [] → s.mem.pool = [] → r.waiting = false → ∃ t, exec .vacateBatch s = .next t ∧
      t = { s with mem := { s.mem with ret := { r with waiting := true } } }) ∧
    (r.st = .sweep → r.nextSweep ≤ s.cycle.toNat →
      (r.watermark + 1 < s.mem.capacity / 256 → ∃ t, exec .sweepRegion s = .next t ∧ t.mem.ret = { r with watermark := r.watermark + 1, nextSweep := s.cycle.toNat + 2 ^ r.interval } ∧
        t.mem.bytes = s.mem.bytes ∧ t.mem.ipt = s.mem.ipt ∧ t.mem.capacity = s.mem.capacity ∧ NoGroup s t) ∧
      (s.mem.capacity / 256 ≤ r.watermark + 1 → r.queued = [] → ∃ t, exec .sweepRegion s = .next t ∧ t.mem.ret.st = .idle ∧ t.mem.phase = s.mem.phase + 1 ∧
        t.mem.ret.history = (r.stack, r.oldCap, s.mem.capacity) :: r.history ∧ t.mem.capacity = s.mem.capacity ∧
        (∀ a, a / 65536 < s.mem.capacity → t.mem.bytes.read a = s.mem.bytes.read a) ∧
        (∀ n : Fin 128, t.power.islands[n] = if n.val = 80 + r.stack then .off else s.power.islands[n]) ∧ NoGroup s t)) ∧
    (r.st = .sweep → s.cycle.toNat < r.nextSweep → exec .sweepRegion s = .next s)

end

namespace Sys2Proof.Spec

open Sys2Proof.Machine

/-! ## The fabric (R306 to R313) -/

/-- The bytes counted for the tenant of a queue rise by `n` (R275). -/
def FabricCounted (s t : State) (q n : Nat) : Prop :=
  t.tenants = s.tenants.map fun y => if y.slot = (s.queueOf q).desc.tenant then { y with fabric := y.fabric + BitVec.ofNat 64 n } else y

/-- An inbound access is answered: the answer is sent to the peer, its bytes are counted, and of the rest only memory may differ. -/
def AnsweredIn (s t : State) (x : Inbound) (r : Reply) (n : Nat) : Prop :=
  t.fabric = { s.fabric with replies := s.fabric.replies ++ [⟨x.peer, s.fabric.epoch, r⟩] } ∧ NoGroup s t ∧ t.queues = s.queues ∧ t.launches = s.launches ∧
  FabricCounted s t (s.faultQueue x.asid) n

/-- A packet of an epoch was injected before the last link-state update (R313). -/
def Older (s : State) (epoch : Word) : Prop := epoch ≠ s.fabric.epoch ∧ (s.fabric.epoch - epoch).toNat < 2 ^ 31

/-- The sectors of `n` bytes of device memory carry no mark, and none lies on a dead stack. -/
def Clean (s : State) (pa n : Nat) : Prop :=
  0 < n ∧ ∀ x, pa / 32 ≤ x → x ≤ (pa + n - 1) / 32 → s.marked x = false ∧ s.mem.refuses s.s0 x = false

/-- The sectors of `n` bytes of device memory carry a mark. -/
def MarkedAll (t : State) (pa n : Nat) : Prop := ∀ x, pa / 32 ≤ x → x ≤ (pa + n - 1) / 32 → t.marked x = true

/-- A frame that an ASID maps for data: a peer may name it (R309, R310). -/
def FrameOf (s : State) (asid : BitVec 16) (f : Nat) (e : IptEntry) : Prop :=
  s.heldFrames ≤ f ∧ s.mem.entry f = e ∧ e.valid = true ∧ e.rem = false ∧ e.asid = asid ∧ f ∉ s.mem.ret.drops ∧ f < s.mem.capacity

/-- `n` bytes of a data frame may be reached by a peer. -/
def Reaches (s : State) (asid : BitVec 16) (f off n : Nat) (e : IptEntry) : Prop :=
  FrameOf s asid f e ∧ e.code = false ∧ off % 65536 + n ≤ 65536 ∧ Clean s (f * 65536 + off % 65536) n

/-- The width of an atomic's type in bytes (R146): 8 for i64 and n64. -/
def widthOf (typ : BitVec 3) : Nat := if typ = 3 ∨ typ = 7 then 8 else 4

/-- Device memory with the port status table as the firmware has written it (R306): CHANGES, and 16 bytes for each port; before the table
has been reported, memory is as it was. -/
def TableShown (s t : State) : Prop :=
  let code := fun (p : PortSt) => match p with
    | .down => 0 | .train => 1 | .active => 2 | .fenced => 3 | .disabled => 4
  match s.power.report with
  | none => t.mem = s.mem
  | some r => t.mem = { s.mem with bytes := t.mem.bytes } ∧ BytesBut s t [(r.ports, 16 + 16 * t.fabric.ports.length)] ∧
    t.mem.bytes.readN r.ports 16 = le 16 t.fabric.changes.toNat ∧
    ∀ n p, t.fabric.ports[n]? = some p → t.mem.bytes.readN (r.ports + 16 + 16 * n) 16 =
      le 4 (code p.st * 2 ^ 28 + p.partner % 512 * 2 ^ 19 + p.pport % 256 * 2 ^ 11) ++ le 4 0 ++ le 4 p.epoch.toNat ++ le 4 p.retries.toNat

/-- A port is as given and the table shows it; no other port, no group and no queue has changed (R306). -/
def PortIs (s t : State) (n : Nat) (p : Port) : Prop :=
  t.fabric.ports[n]? = some p ∧ (∀ m, m ≠ n → t.fabric.ports[m]? = s.fabric.ports[m]?) ∧ NoGroup s t ∧ TableShown s t ∧ t.queues = s.queues

/-- A port has a new state: CHANGES rises (R306). -/
def PortMoved (s t : State) (n : Nat) (p : Port) : Prop := PortIs s t n p ∧ t.fabric.changes = s.fabric.changes + 1

/-- An update is applied (R313): its epoch, its dead packages, the ports that it names, the first drain round. -/
def Applied (s t : State) (epoch : Word) (fenced dead : List Nat) : Prop :=
  t.fabric.epoch = epoch ∧ t.fabric.drain = 1 ∧ t.fabric.drainAt = s.cycle.toNat ∧ NoGroup s t ∧ t.queues = s.queues ∧ TableShown s t ∧
  (∀ x, x ∈ t.fabric.dead ↔ x ∈ s.fabric.dead ∨ x ∈ dead) ∧ t.fabric.changes ≠ s.fabric.changes ∧
  (fenced = [] → t.fabric.changes = s.fabric.changes + 1) ∧
  ∀ n p, s.fabric.ports[n]? = some p →
    t.fabric.ports[n]? = some (if n ∈ fenced ∧ p.st = .active then { p with st := .fenced, epoch := epoch } else p)

end Sys2Proof.Spec

section
open Sys2Proof Sys2Proof.Machine Sys2Proof.Spec

/-- R232, R239, R307, R309, R310, R313, R328, R341: a peer's load, store, atomic and reduction to a page of its ASID, by frame or by virtual
address, and the NACK of each access that is turned away. A code page is read in its newest version (R218). The order of the NACK checks
(log 108), the counted bytes and their tenant (log 27, a DESIGN CHOICE) and NACK FENCED for what comes after the drain (log 165) are the
model's. -/
def Obligations.InboundAccesses : Prop :=
  ∀ (s : State) (x : Inbound),
    (s.fabric.up = false → exec (.inboundAccess x) s = .next s) ∧
    (s.fabric.up = true → s.power.recovery.isSome = true ∨ (s.fabric.drain = 0 ∧ Older s x.epoch) →
      exec (.inboundAccess x) s = .next { s with fabric := { s.fabric with replies := s.fabric.replies ++ [⟨x.peer, s.fabric.epoch, .nack 6⟩] } }) ∧
    (s.fabric.up = true → s.power.recovery = none → (s.fabric.drain ≠ 0 ∨ ¬ Older s x.epoch) →
      (∀ f off, x.target = .frame f off → let pa := f * 65536 + off % 65536
        (∀ e, x.kind = .load → Reaches s x.asid f off x.size e →
          ∃ t, exec (.inboundAccess x) s = .next t ∧ AnsweredIn s t x (.done (s.mem.bytes.readN pa x.size)) (x.data.length + x.size) ∧ t.mem = s.mem) ∧
        (∀ e i n, x.kind = .load → FrameOf s x.asid f e → e.code = true → s.mem.walk x.asid e.vpn (s.mem.versOf x.asid).newest = some (i, n) →
          i ∉ s.mem.ret.drops → i < s.mem.capacity → Clean s (i * 65536 + off % 65536) x.size →
          ∃ t, exec (.inboundAccess x) s = .next t ∧
            AnsweredIn s t x (.done (s.mem.bytes.readN (i * 65536 + off % 65536) x.size)) (x.data.length + x.size) ∧ t.mem = s.mem) ∧
        (∀ e, x.kind = .store → Reaches s x.asid f off x.data.length e → e.wr = true →
          ∃ t, exec (.inboundAccess x) s = .next t ∧ AnsweredIn s t x (.done []) x.data.length ∧ t.mem.bytes.readN pa x.data.length = x.data ∧
            BytesBut s t [(pa, x.data.length)] ∧ (x.mark = true → MarkedAll t pa x.data.length)) ∧
        (∀ e op typ b c, (x.kind = .atomic op typ ∨ x.kind = .reduction op typ) → Reaches s x.asid f off (widthOf typ) e → e.wr = true →
          x.data = le (widthOf typ) b ++ le (widthOf typ) c → b < 256 ^ widthOf typ → c < 256 ^ widthOf typ →
          let old := s.mem.bytes.readN pa (widthOf typ)
          let ret := if x.kind = .atomic op typ then old else []
          ∃ t, exec (.inboundAccess x) s = .next t ∧ AnsweredIn s t x (.done ret) (x.data.length + ret.length) ∧
            leNat (t.mem.bytes.readN pa (widthOf typ)) = atomNew op (typ.setWidth 6) (leNat old) b c % 256 ^ widthOf typ ∧ BytesBut s t [(pa, widthOf typ)]) ∧
        (let nack := fun (c : Nat) => (∀ y ∈ s.queues, y.desc.exq = 0xFFFF) →
           ∃ t, exec (.inboundAccess x) s = .next t ∧ AnsweredIn s t x (.nack c) x.data.length ∧ t.mem = s.mem
         let other := (s.mem.entry f).valid = false ∨ (s.mem.entry f).rem = true ∨ (s.mem.entry f).asid ≠ x.asid
         (f < s.heldFrames → nack 2) ∧ (s.heldFrames ≤ f → other → nack 1) ∧
         (s.heldFrames ≤ f → ¬ other → f ∈ s.mem.ret.drops ∨ s.mem.capacity ≤ f → nack 3) ∧
         (∀ e, FrameOf s x.asid f e → e.code = false → x.kind ≠ .load → e.wr = false → nack 2) ∧
         (∀ e, FrameOf s x.asid f e → e.code = false → x.kind = .load → 0 < x.size → s.marked (pa / 32) = true → nack 4) ∧
         (∀ e, FrameOf s x.asid f e → e.code = false → x.kind = .store → e.wr = true → 0 < x.data.length → s.marked (pa / 32) = true → nack 4))) ∧
      (∀ va pa, x.target = .virt va →
        (x.kind = .load → 0 < x.size → InPage s x.asid va.toNat x.size pa →
          ∃ t, exec (.inboundAccess x) s = .next t ∧ AnsweredIn s t x (.done (s.mem.bytes.readN pa x.size)) (x.data.length + x.size) ∧ t.mem = s.mem) ∧
        (x.kind = .store → 0 < x.data.length → InPage s x.asid va.toNat x.data.length pa →
          ∃ t, exec (.inboundAccess x) s = .next t ∧ AnsweredIn s t x (.done []) x.data.length ∧ t.mem.bytes.readN pa x.data.length = x.data ∧
            BytesBut s t [(pa, x.data.length)] ∧ (x.mark = true → MarkedAll t pa x.data.length))))

/-- R150, R307, R309 to R312: the answer to a request reaches who waits for it: a load its register, a store its group, a packet its queue; a
NACK or T_REMOTE without an answer fails what waits; an answer that comes after T_REMOTE, without an ACTIVE port or to a request that has
gone does nothing. That payload bytes are counted for the tenant of the request's queue (log 27, a DESIGN CHOICE), and that nothing comes in
without an ACTIVE port (log 111), are the model's. -/
def Obligations.RemoteAnswers : Prop :=
  ∀ (s : State),
    (∀ n r, (∀ q ∈ s.fabric.reqs, q.id ≠ n) → exec (.remoteReply n r) s = .next s ∧ exec (.tRemoteExpiry n) s = .next s) ∧
    (∀ (r : OutReq), r ∈ s.fabric.reqs → (∀ q ∈ s.fabric.reqs, q.id = r.id → q = r) →
      let gone := fun (t : State) => t.fabric = { s.fabric with reqs := s.fabric.reqs.filter (·.id ≠ r.id) }
      let due := r.sent + s.fabric.tRemote * 47000 ≤ s.cycle.toNat
      (¬ due → exec (.tRemoteExpiry r.id) s = .next s) ∧
      (∀ y, s.fabric.up = false ∨ due → exec (.remoteReply r.id y) s = .next s) ∧
      (∀ q k x b, s.fabric.up = true → ¬ due → r.owner = .packet q k.id → s.queue? q = some x → k ∈ x.running → k.waits = [r.id] →
        (x.running.map (·.id)).Nodup →
        ∃ t, exec (.remoteReply r.id (.done b)) s = .next t ∧ gone t ∧ NoGroup s t ∧ t.mem = s.mem ∧ FabricCounted s t r.queue b.length ∧
          t.queue? q = some { x with running := x.running.map fun y => if y = k then { k with waits := [] } else y }) ∧
      (∀ o x, r.owner = .mem s.cur.ref o.id x → s.cur.resident = true → o ∈ s.cur.pend.mem → (s.cur.pend.mem.map (·.id)).Nodup → o.left = [x] → o.hold = false →
        o.nacked = 0 → o.timed = 0 → o.bad = [] → o.done = 0 → o.nackCode = 0 →
        (o.kind = .store → o.dst = [] →
          (∀ b, s.fabric.up = true → ¬ due → ∃ t, exec (.remoteReply r.id (.done b)) s = .next t ∧ gone t ∧ OnlyOp s t o.id ∧ (∀ p ∈ t.cur.pend.mem, p.id ≠ o.id) ∧
            t.cur.regs = s.cur.regs ∧ t.mem = s.mem ∧ FabricCounted s t r.queue b.length) ∧
          (o.lanes ≠ [] → (∀ l ∈ o.lanes, ∃ a ∈ l.locs, a / 32 = x) → o.first = none → (∀ h ∈ s.cur.pend.held, h.id ≠ o.id) →
            (s.queueOf r.queue).desc.exq = 0xFFFF →
            let heldAs := fun (c : Nat) => s.cur.pend.held ++ [⟨o.id, o.split, o.lanes.map (fun l => (l.lane, lowestIn l x)), o.acc, c⟩]
            (∀ c, 1 ≤ c → c ≤ 6 → s.fabric.up = true → ¬ due → ∃ t, exec (.remoteReply r.id (.nack c)) s = .next t ∧ gone t ∧
              (∀ p ∈ t.cur.pend.mem, p.id ≠ o.id) ∧ t.cur.pend.held = heldAs c ∧ t.cur.regs = s.cur.regs ∧ t.mem = s.mem) ∧
            (due → ∃ t, exec (.tRemoteExpiry r.id) s = .next t ∧ gone t ∧ (∀ p ∈ t.cur.pend.mem, p.id ≠ o.id) ∧
              t.cur.pend.held = heldAs 0 ∧ t.cur.regs = s.cur.regs ∧ t.mem = s.mem))) ∧
        (∀ sub k d b, s.fabric.up = true → ¬ due → (s.lchOf s.cur).img.verify = false →
          o.kind = .load sub → k ≤ 4 → o.dst = regsFrom false k d → d.toNat + k ≤ 256 → (o.lanes.map (·.lane)).Nodup → x * 32 + 32 ≤ 2 ^ 56 →
          (∀ l ∈ o.lanes, ∀ a ∈ l.locs, a / 32 = x) → b.length = 32 →
          let words := fun (l : LaneReq) => loaded sub (l.locs.map fun a => b.getD (a % 32) 0)
          (∀ l ∈ o.lanes, (words l).length = k) →
          ∃ t, exec (.remoteReply r.id (.done b)) s = .next t ∧ gone t ∧ OnlyOp s t o.id ∧ (∀ p ∈ t.cur.pend.mem, p.id ≠ o.id) ∧
            (∀ y ∈ o.dst, t.cur.regs.stOf y = .full) ∧
            (∀ j < k, ∀ l, (t.cur.regs.getV (d + BitVec.ofNat 8 j)).get l = match o.lanes.find? (fun q => q.lane = l) with
              | some q => (words q).getD j 0
              | none => (s.cur.regs.getV (d + BitVec.ofNat 8 j)).get l) ∧
            VSame s.cur.regs t.cur.regs ((List.range k).map fun j => d + BitVec.ofNat 8 j) ∧ SSame s.cur.regs t.cur.regs [] ∧ t.mem = s.mem ∧
            FabricCounted s t r.queue 32)))

/-- R306, R307, R313: the states of a port: fenced with a new epoch, a flooded update and a drain; tried again every 100 ms; active with its
partner. A newer link-state update that comes over an ACTIVE port is applied and an older one is not, one that the package declares itself
is flooded; a drain round ends after 50 µs, and the drain after its third round. A round drops only packets of older epochs, each by a free
choice, and a request that it drops is answered NACK FENCED. From when the 100 ms count, and TRAIN to DOWN to TRAIN, are log 111; epochs
compared modulo 2^32, and the raised epoch of an update of the package's own, log 112; which held packets a drain drops, log 165: the
model's readings. -/
def Obligations.PortsAndLinks : Prop :=
  ∀ (s : State),
    (∀ n p, s.fabric.ports[n]? = some p →
      let now := s.cycle.toNat
      (p.st = .active → ∃ t y, exec (.portFence n) s = .next t ∧ PortMoved s t n y ∧ y = { p with st := .fenced, epoch := s.fabric.epoch + 1, retries := y.retries } ∧
        p.retries.toNat ≤ y.retries.toNat ∧ t.fabric.epoch = s.fabric.epoch + 1 ∧ t.fabric.drain = 1 ∧ t.fabric.drainAt = now ∧
        t.fabric.updates = s.fabric.updates ++ [⟨s.fabric.epoch + 1, [n], [], true⟩]) ∧
      (p.st ≠ .active → exec (.portFence n) s = .next s) ∧
      (now < p.tried + 94000000 ∨ (p.st ≠ .down ∧ p.st ≠ .train) → ∃ t, exec (.portTrainRetry n) s = .next t ∧ PortIs s t n p ∧ t.fabric = s.fabric) ∧
      (p.tried + 94000000 ≤ now → p.st = .down → ∃ t, exec (.portTrainRetry n) s = .next t ∧
        PortMoved s t n { p with st := .train, epoch := s.fabric.epoch, tried := now }) ∧
      (p.tried + 94000000 ≤ now → p.st = .train → ∃ t, exec (.portTrainRetry n) s = .next t ∧
        PortMoved s t n { p with st := .down, epoch := s.fabric.epoch }) ∧
      (∀ a b, p.st = .train → ∃ t, exec (.portTrainingComplete n a b) s = .next t ∧
        PortMoved s t n { p with st := .active, partner := a, pport := b, epoch := s.fabric.epoch })) ∧
    (∀ u : LinkUpdate, let d := (u.epoch - s.fabric.epoch).toNat
      (u.own = false → s.fabric.up = false ∨ d = 0 ∨ 2 ^ 31 ≤ d → exec (.linkStateUpdate u) s = .next s) ∧
      (u.own = false → s.fabric.up = true → 0 < d → d < 2 ^ 31 → ∃ t, exec (.linkStateUpdate u) s = .next t ∧ Applied s t u.epoch u.fenced u.deadPackages ∧
        t.fabric.updates = s.fabric.updates) ∧
      (u.own = true → ∃ t, exec (.linkStateUpdate u) s = .next t ∧ Applied s t (s.fabric.epoch + 1) u.fenced u.deadPackages ∧
        t.fabric.updates = s.fabric.updates ++ [⟨s.fabric.epoch + 1, u.fenced, u.deadPackages, true⟩])) ∧
    (let due := s.fabric.drain ≠ 0 ∧ s.fabric.drainAt + s.fabric.drain * 47000 ≤ s.cycle.toNat
     (¬ due → exec .drainRoundEnd s = .next s) ∧
     let round := if s.fabric.drain = 1 then 2 else if s.fabric.drain = 2 then 3 else 0
     (due → ∃ t, exec .drainRoundEnd s = .next t ∧ t.fabric.drain = round) ∧
     (due → (∀ r ∈ s.fabric.reqs, ¬ Older s r.epoch) → ∃ t, exec .drainRoundEnd s = .next t ∧
       t = { s with fresh := t.fresh, fabric := { s.fabric with drain := round, replies := t.fabric.replies, sent := t.fabric.sent } } ∧
       t.fabric.replies.Sublist s.fabric.replies ∧ t.fabric.sent.Sublist s.fabric.sent ∧
       (∀ x ∈ s.fabric.replies, ¬ Older s x.epoch → x ∈ t.fabric.replies) ∧ ∀ x ∈ s.fabric.sent, ¬ Older s x.epoch → x ∈ t.fabric.sent) ∧
     (∀ r, due → s.fabric.reqs = [r] → s.fabric.replies = [] → s.fabric.sent = [] → Older s r.epoch → s.fabric.up = true →
       s.cycle.toNat < r.sent + s.fabric.tRemote * 47000 →
       let v := { s with fresh := s.fresh + 1 }
       ∃ t, exec .drainRoundEnd s = .next t ∧ (t = { v with fabric := { v.fabric with drain := round } } ∨
         ∃ u, exec (.remoteReply r.id (.nack 6)) v = .next u ∧ t = { u with fabric := { u.fabric with drain := round } })))

end

namespace Sys2Proof.Spec

open Sys2Proof.Machine

/-! ## Power-up, management messages, attestation (R339 to R348) -/

/-- An SPDM message was sent in answer to a message: in fragments of 4,096 bytes, sealed where the message came secured and a session or a
handshake stands (R344). Nothing else of the package has changed. -/
def Sent (s t : State) (m : Mgmt) (msg : List Byte) : Prop :=
  let secured := m.secured && (s.spdm.session || s.spdm.handshake.isSome)
  let wire := if secured = true then Config.sealed s.fresh msg else msg
  ∃ fs : List (List Byte), fs.length = max 1 ((wire.length + 4095) / 4096) ∧
    (∀ k, k < fs.length → fs[k]? = some (
      let part := (wire.drop (4096 * k)).take 4096
      le 2 s.fabric.position ++ le 2 m.src ++ le 4 m.xfer.toNat ++ le 2 k ++ le 2 part.length ++
        le 1 ((if k + 1 = fs.length then 1 else 0) + (if secured then 2 else 0)) ++ le 3 0 ++ part)) ∧
    t = { s with fresh := s.fresh + 1
                 fabric := { s.fabric with sent := s.fabric.sent ++ fs.map fun f => ⟨m.src, s.fabric.epoch, .mgmt f⟩ }
                 spdm := { s.spdm with out := s.spdm.out ++ [(m.src, m.xfer, secured, msg)] } }

/-- A request changed the responder and was answered with the message of a kind. -/
def Replies (i : Instr) (s : State) (sp : Spdm) (kind : Nat) : Prop :=
  ∃ t, exec i s = .next t ∧ Sent { s with spdm := sp } t s.spdm.inbox (Config.spdmBody s.power.key kind s.spdm.inbox.payload)

/-- A request was turned away: an answer, and nothing else. -/
def Refuses (i : Instr) (s : State) : Prop := Replies i s s.spdm 1

/-- The message asks for more than the part supports (R343): a request code that is not its, algorithms without its four, a certificate slot but
slot 0. -/
def Unsupported (m : Mgmt) : Prop :=
  m.request = .other ∨
  (m.request = .negotiateAlgorithms ∧ ¬ ∀ a ∈ [SpdmAlg.sha384, .secp384r1, .aes256gcm, .rsassa3072], a ∈ m.offer) ∨
  ((m.request = .getCertificate ∨ m.request = .keyExchange) ∧ m.slot ≠ 0)

/-- What the message in the receive buffer asks for. -/
def Asks (s : State) (r : SpdmRequest) : Prop :=
  if r = .other then Unsupported s.spdm.inbox else s.spdm.inbox.request = r ∧ ¬ Unsupported s.spdm.inbox

/-- The events that answer requests. -/
def requests : List (SpdmRequest × Instr) :=
  [(.getVersion, .getVersion), (.getCapabilities, .getCapabilities), (.negotiateAlgorithms, .negotiateAlgorithms), (.getCertificate, .getCertificate),
   (.keyExchange, .keyExchange), (.finish, .finish), (.endSession, .endSession), (.getEncapsulatedRequest, .getEncapsulatedRequest),
   (.deliverEncapsulatedResponse, .deliverEncapsulatedResponse)] ++
  [(.deviceReport, .deviceReport), (.usageReport, .usageReport), (.setOwner, .setOwner), (.clusterPower, .clusterPower),
   (.fabricIslandPower, .fabricIslandPower), (.powerLimit, .powerLimit), (.recoveryImage, .recoveryImage), (.reset, .reset), (.other, .unsupportedRequest)]

/-- The message came inside a session. -/
def InSession (s : State) : Prop := s.spdm.session = true ∧ s.spdm.inbox.secured = true

/-- The message came inside the owner's session (R344). -/
def InOwner (s : State) : Prop := InSession s ∧ s.spdm.ownerRoot = some s.spdm.peerRoot

/-- The message came inside the owner's session of a part that is not in recovery (R341). -/
def OwnerRuns (s : State) : Prop := InOwner s ∧ s.power.recovery = none

/-- A report is sent: head, body and both signatures, in a VENDOR_DEFINED answer (R342, R343, R345). -/
def Reports (s t : State) (m : Mgmt) (k : AttestKey) (kind : Nat) (body : List Byte) : Prop :=
  let rep := le 4 0x52415946 ++ le 2 kind ++ le 2 0 ++ le 32 m.nonce.toNat ++ le 48 (Config.firmwareHash s.power.running.number).toNat ++
    le 4 (Config.cap0 s.part).toNat ++ le 4 (Config.cap1 s.part).toNat ++ le 4 Config.binderVersion.toNat ++ le 4 0 ++ le 8 s.cycle.toNat ++ body
  Sent s t m (Config.vendorHead ++ (rep ++ le 384 (Config.rsaSign k rep).toNat ++ le 16224 (Config.slhSign k rep).toNat))

/-- A device report is sent (R343). -/
def DeviceReports (s t : State) (m : Mgmt) (k : AttestKey) : Prop :=
  Reports s t m k 0 (le 4 s.mem.capacity ++ le 4 s.mem.phase.toNat ++ le 8 (Config.retiredField (s.mem.ret.history.map (·.1))).toNat)

/-- An island that the part lacks (R346). -/
def Lacks (p : Part) (i : Nat) : Prop :=
  (i < 64 ∧ Config.clusters p ≤ i) ∨ (64 ≤ i ∧ i < 80 ∧ 4 * Config.dies p ≤ i - 64) ∨ (80 ≤ i ∧ i < 92 ∧ Config.stackCount p ≤ i - 80) ∨
  (i = 126 ∧ Config.hasScout p = false)

/-- Every island is ON but those that the part lacks, which are OFF (R346). -/
def IslandsFresh (t : State) : Prop :=
  ∀ i : Fin 128, (Lacks t.part i → t.power.islands[i] = .off) ∧ (¬ Lacks t.part i → t.power.islands[i] = .on)

/-- A fragment as R344 lays it out. -/
def fragmentOf (src dst xfer frag flags : Nat) (data : List Byte) : List Byte :=
  le 2 src ++ le 2 dst ++ le 4 xfer ++ le 2 frag ++ le 2 data.length ++ le 1 flags ++ le 3 0 ++ data

end Sys2Proof.Spec

section
open Sys2Proof Sys2Proof.Machine Sys2Proof.Spec

/-- R343, R344: the SPDM requests: version, capabilities, algorithms and certificates are answered; a session takes a key exchange with mutual
authentication, both encapsulated requests in order and an authentic FINISH, and ends on request; anything else is turned away. An event for
a request that the message in the receive buffer does not make does nothing. -/
def Sys2Proof.Spec.SpdmRequests : Prop :=
  ∀ (s : State), let d := s.spdm
    let m := d.inbox
    (∀ x ∈ requests, ¬ Asks s x.1 → exec x.2 s = .next s) ∧
    (Asks s .getVersion → Replies .getVersion s { d with negotiated := 1 } 2) ∧
    (Asks s .getCapabilities → Replies .getCapabilities s { d with negotiated := 2 } 3) ∧
    (Asks s .negotiateAlgorithms → Replies .negotiateAlgorithms s { d with negotiated := 3 } 4) ∧
    (Asks s .getCertificate → Replies .getCertificate s d 5) ∧
    (Asks s .other → Replies .unsupportedRequest s d 0) ∧
    (Asks s .keyExchange →
      if m.mutualAuth then Replies .keyExchange s { d with handshake := some 0, session := false, peerRoot := 0 } 6 else Refuses .keyExchange s) ∧
    (Asks s .getEncapsulatedRequest →
      (d.handshake = some 0 → Replies .getEncapsulatedRequest s d 9) ∧ (d.handshake = some 1 → Replies .getEncapsulatedRequest s d 10) ∧
      (d.handshake ≠ some 0 → d.handshake ≠ some 1 → Refuses .getEncapsulatedRequest s)) ∧
    (Asks s .deliverEncapsulatedResponse →
      (d.handshake = some 0 → Replies .deliverEncapsulatedResponse s { d with handshake := some 1, peerRoot := m.root } 11) ∧
      (d.handshake = some 1 →
        if m.authentic then Replies .deliverEncapsulatedResponse s { d with handshake := some 2 } 11 else Refuses .deliverEncapsulatedResponse s) ∧
      (d.handshake ≠ some 0 → d.handshake ≠ some 1 → Refuses .deliverEncapsulatedResponse s)) ∧
    (Asks s .finish →
      (d.handshake = some 2 → m.authentic = true → ∃ t u, exec .finish s = .next t ∧ Sent s u m (Config.spdmBody s.power.key 7 m.payload) ∧
        t = { u with spdm := { u.spdm with handshake := none, session := true } }) ∧
      (d.handshake ≠ some 2 ∨ m.authentic = false → Refuses .finish s)) ∧
    (Asks s .endSession →
      (InSession s → ∃ t u, exec .endSession s = .next t ∧ Sent s u m (Config.spdmBody s.power.key 8 m.payload) ∧
        t = { u with spdm := { u.spdm with session := false, peerRoot := 0 } }) ∧
      (¬ InSession s → Refuses .endSession s))

/-- R343, R345: a device report and a usage report are signed, each in a cycle of its own; before stage 6 a report waits, and a part in recovery
gives none. -/
def Sys2Proof.Spec.AttestationReports : Prop :=
  ∀ (s : State), let m := s.spdm.inbox
    (∀ k, s.power.recovery = none → 6 ≤ s.power.stage → s.power.key = some k →
      (Asks s .deviceReport → ∃ t, exec .deviceReport s = .next t ∧ DeviceReports (s.pass 1) t m k) ∧
      (Asks s .usageReport → ∃ t u, exec .usageReport s = .next t ∧ u = { s.pass 1 with tenants := u.tenants, fresh := u.fresh } ∧
        (∀ n, let x := (s.pass 1).tenant n
          (u.tenant n).units = x.units ∧ (u.tenant n).fabric = x.fabric ∧ (x.ran = false → (u.tenant n).hbm = x.hbm)) ∧
        Reports u t m k 1 ((List.range 256).flatMap fun i => le 8 (u.tenant i).units.toNat ++ le 8 (u.tenant i).hbm.toNat ++ le 8 (u.tenant i).fabric.toNat))) ∧
    (∀ usage : Bool, let i := if usage then Instr.usageReport else .deviceReport
      Asks s (if usage then .usageReport else .deviceReport) →
      (s.power.recovery.isSome = true → Refuses i s) ∧
      (s.power.recovery = none → s.power.stage < 6 → ∃ t, exec i s = .next t ∧ t = { s with spdm := { s.spdm with waiting := s.spdm.waiting ++ [(usage, m)] } }))

/-- R341, R344, R346 to R348: who owns the part, its islands, its power limit, the recovery image and RESET, each only as its rule allows;
gating never lowers the duty below 8 of 16. Memory that reads 0 after RESET (logs 103 and 2), ports DISABLED with their island (log 35) and
a recovery image refused outside recovery (log 120) are the model's. -/
def Obligations.OwnerMessages : Prop :=
  ∀ (s : State), let d := s.spdm
    let m := d.inbox
    let done := fun (u t : State) => Sent u t m (Config.spdmBody s.power.key 12 m.payload)
    let isl := fun (n : Nat) (x : Island) (t : State) => t.power = { s.power with islands := s.power.islands.setIfInBounds n x }
    (Asks s .setOwner →
      (InSession s → d.ownerRoot = none → Replies .setOwner s { d with ownerRoot := some m.root } 12) ∧
      (¬ InSession s ∨ d.ownerRoot ≠ none → Refuses .setOwner s)) ∧
    (Asks s .clusterPower →
      (OwnerRuns s → m.index < Config.clusters s.part → m.on = true → ∃ t u, exec .clusterPower s = .next t ∧ done u t ∧
        u = { s with power := u.power } ∧ isl m.index .on u) ∧
      (OwnerRuns s → m.index < Config.clusters s.part → m.on = false → ∃ t u, exec .clusterPower s = .next t ∧ done u t ∧
        u = { s with power := { s.power with islands := u.power.islands } } ∧
        ∀ i : Fin 128, u.power.islands[i] = if (i.val = m.index ∨ s.power.islands[i] = .goingOff) ∧ (∀ h ∈ s.groups, h.cluster ≠ i.val) then .off
          else if i.val = m.index then .goingOff else s.power.islands[i]) ∧
      (¬ OwnerRuns s ∨ Config.clusters s.part ≤ m.index → Refuses .clusterPower s)) ∧
    (Asks s .fabricIslandPower →
      (OwnerRuns s → 92 ≤ m.index → m.index < 124 → m.on = true → ∃ t u, exec .fabricIslandPower s = .next t ∧ done u t ∧
        isl m.index .on u ∧ u = { s with power := u.power, fabric := { s.fabric with changes := s.fabric.changes + 1 }, mem := u.mem } ∧ TableShown s u) ∧
      (OwnerRuns s → 92 ≤ m.index → m.index < 124 → m.on = false → ∃ t u, exec .fabricIslandPower s = .next t ∧ done u t ∧
        isl m.index .off u ∧ u = { s with power := u.power, fabric := u.fabric, mem := u.mem } ∧ TableShown s u ∧
        ∀ n p, s.fabric.ports[n]? = some p → ∃ y, u.fabric.ports[n]? = some y ∧
          (n < Config.ports s.part → n % 32 = m.index - 92 → y.st = .disabled) ∧ (¬ (n < Config.ports s.part ∧ n % 32 = m.index - 92) → y = p)) ∧
      (¬ OwnerRuns s ∨ m.index < 92 ∨ 124 ≤ m.index → Refuses .fabricIslandPower s)) ∧
    (Asks s .powerLimit →
      (OwnerRuns s → 400 ≤ m.watts → m.watts ≤ Config.maxPower s.part → ∃ t, exec .powerLimit s = .next t ∧
        done { s with power := { s.power with limit := m.watts } } t) ∧
      (¬ OwnerRuns s ∨ m.watts < 400 ∨ Config.maxPower s.part < m.watts → Refuses .powerLimit s)) ∧
    (Asks s .recoveryImage →
      (InOwner s → s.power.recovery.isSome = true → ∃ t, exec .recoveryImage s = .next t ∧
        done { s with power := { s.power with flash := m.image } } t) ∧
      (¬ InOwner s ∨ s.power.recovery = none → Refuses .recoveryImage s)) ∧
    (Asks s .reset →
      (InOwner s → ∃ t, exec .reset s = .next t ∧ t.groups = [] ∧ t.launches = [] ∧ t.blocks = [] ∧ t.queues = [] ∧ (∀ a, t.mem.bytes.read a = 0) ∧
        t.power.stage = 0 ∧ t.power.recovery = none ∧ t.power.key = none ∧ t.power.flash = s.power.flash ∧ t.power.fuse = s.power.fuse ∧
        t.spdm.ownerRoot = d.ownerRoot ∧ t.spdm.session = false ∧ t.part = s.part ∧ IslandsFresh t) ∧
      (¬ InOwner s → Refuses .reset s)) ∧
    (∀ n, ∃ t, exec (.powerLimitExceeded n) s = .next t ∧ t = { s with power := { s.power with duty := t.power.duty } } ∧ 8 ≤ t.power.duty ∧ t.power.duty ≤ 16 ∧
      (8 ≤ n → n ≤ 16 → t.power.duty = n))

/-- R341, R344: management messages arrive: fragment 0 begins a message, each further one in order continues it, and the last completes it,
which is then answered; a fragment for another package, or without an ACTIVE port, is not taken. What a report's cycle brings is asked for
at once (R270). The recovery cause is given to the owner of a part in recovery, and a
scale-out key is taken from the owner of a part with the engine. Which event follows a message is the model's own (log 118); that a
fragment out of order drops its message is its choice (log 152). -/
def Obligations.MessagesArrive : Prop :=
  ∀ (s : State) (rest : List Agenda),
    (∀ src dst xfer frag flags data, s.agenda = .fragment (fragmentOf src dst xfer frag flags data) :: rest →
      src < 2 ^ 16 → dst < 2 ^ 16 → xfer < 2 ^ 32 → frag < 2 ^ 16 → flags < 4 → 1 ≤ data.length → data.length ≤ 4096 →
      let secured := decide (2 ≤ flags)
      let others := s.spdm.parts.filter fun p => !(decide (p.src = src) && decide (p.xfer = BitVec.ofNat 32 xfer))
      let kept := fun (l : List MsgPart) => { s with agenda := rest, fresh := s.fresh + 1, spdm := { s.spdm with parts := l } }
      (dst ≠ s.fabric.position ∨ s.fabric.up = false → step s = .next { s with agenda := rest }) ∧
      (dst = s.fabric.position → s.fabric.up = true → ∀ before : List Byte,
        ((frag = 0 ∧ before = []) ∨ (0 < frag ∧ s.spdm.parts.find? (fun p => decide (p.src = src) && decide (p.xfer = BitVec.ofNat 32 xfer)) =
          some ⟨src, BitVec.ofNat 32 xfer, secured, frag, before⟩)) →
        (flags % 2 = 0 → step s = .next (kept (⟨src, BitVec.ofNat 32 xfer, secured, frag + 1, before ++ data⟩ :: others))) ∧
        (flags % 2 = 1 →
          let all := before ++ data
          let m : Mgmt := { (if secured = true then Config.spdmOpen s.fresh all else Config.spdmParse all) with
            src := src, xfer := BitVec.ofNat 32 xfer, secured := secured, payload := all }
          let u : State := { kept others with spdm := { s.spdm with parts := others, inbox := m } }
          ∀ x ∈ requests, Asks u x.1 → ∀ t, exec x.2 u = .next t → ∃ items,
            step s = .next { t.snoop with agenda := items ++ t.snoop.agenda } ∧ (t.snoop.cycle = s.cycle → items = []) ∧
            (.event .periodStart ∈ items ↔ s.cycle.toNat / 940000 < t.snoop.cycle.toNat / 940000))) ∧
      (dst = s.fabric.position → s.fabric.up = true → 0 < frag → (∀ p ∈ s.spdm.parts, p.src = src → p.xfer = BitVec.ofNat 32 xfer → p.next ≠ frag) →
        step s = .next (kept others))) ∧
    (∀ m, s.agenda = .deliver m :: rest → s.fabric.up = false → step s = .next { s with agenda := rest }) ∧
    (∀ m, s.agenda = .deliver m :: rest → s.fabric.up = true →
      let u : State := { s with agenda := rest, spdm := { s.spdm with inbox := m } }
      let body := fun (k : Nat) => Config.spdmBody s.power.key k m.payload
      (Asks u .recoveryCause →
        (∀ st k, InOwner u → s.power.recovery = some (st, k) → ∃ t, step s = .next t ∧ Sent u t m (Config.recoveryBody st k)) ∧
        (¬ InOwner u ∨ s.power.recovery = none → ∃ t, step s = .next t ∧ Sent u t m (body 1))) ∧
      (Asks u .scaleOutKey →
        (OwnerRuns u → Config.hasScout s.part = true → ∃ t v, step s = .next t ∧ Sent v t m (body 12) ∧
          v = { u with scout := { s.scout with keys := v.scout.keys } } ∧
          (∀ k, k ∈ v.scout.keys ↔ (k ∈ s.scout.keys ∧ k.slot ≠ m.key.slot) ∨ (k = m.key ∧ m.key.size ≠ 0))) ∧
        (¬ OwnerRuns u ∨ Config.hasScout s.part = false → ∃ t, step s = .next t ∧ Sent u t m (body 1))))

/-- R222, R286, R306, R312, R339 to R342, R346: power-up passes through its stages in order: the islands of the part, the ports that trained,
the image that verifies with its T_REMOTE, the queue processor with queues 0 and 1, the report to the runtime and `$cycle` at 0; then the
attestation keys, and the reports that waited for them. A stack that fails, an image that does not verify and keys that cannot be derived
leave the part in recovery. The port status table at frame F + 2 (log 114, a DESIGN CHOICE), a T_REMOTE outside 1 to 255 giving 10 (log
115), and stages 1 to 5 in one event with stage 6 in the next (log 123) are the model's. -/
def Obligations.PowerUp : Prop :=
  ∀ (s : State), s.power.recovery = none →
    let o := s.power.outcome
    let img := s.power.flash
    let good := img.rsaOk = true ∧ img.slhOk = true ∧ s.power.fuse ≤ img.version ∧ o.failedStage ≠ 4
    let f := Config.firmwareFrames s.part img.number
    (s.power.stage = 0 →
      (∀ st k, o.failedStage = st → (st = 1 ∨ st = 2) → o.failedStack = some k → ∃ t, exec .powerUp s = .next t ∧ t.power.recovery = some (st, some k) ∧
        t.power.stage = st - 1 ∧ t.queues = s.queues ∧ t.mem = s.mem) ∧
      (o.failedStage ≠ 1 → o.failedStage ≠ 2 →
        (¬ good → ∃ t, exec .powerUp s = .next t ∧ t.power.recovery = some (4, none) ∧ t.power.stage = 3 ∧ t.power.running = s.power.running ∧ t.queues = s.queues) ∧
        (good → ∃ t, exec .powerUp s = .next t ∧ t.power.stage = 5 ∧ t.power.recovery = none ∧ t.power.running = img ∧ t.cycle = 0 ∧
          t.mem.capacity = Config.frames s.part ∧ t.mem.phase = 0 ∧ t.fabric.position = o.position ∧
          t.fabric.tRemote = (if 1 ≤ img.tRemote ∧ img.tRemote ≤ 255 then img.tRemote else 10) ∧
          t.power.report = some ⟨f, f, f + 1, (f + 2) * 65536⟩ ∧ TableShown t t ∧
          (∀ n, n ≠ 0 → n ≠ 1 → (t.queueOf n).desc.enabled = false) ∧
          (∃ x, t.queue? 0 = some x ∧ x.ridx = 0 ∧ x.expect = 0 ∧ x.held = none ∧ x.stopped = false ∧
            x.desc = { base := 0x10000, rlog := 15, tenant := 0, asid := 0, exq := 1, enabled := true, devlaunch := false, exc := false }) ∧
          (∃ x, t.queue? 1 = some x ∧ x.desc = { base := 0x20000, rlog := 15, tenant := 0, asid := 0, exq := 0xFFFF, enabled := true, devlaunch := false, exc := true }) ∧
          (∃ n, t.mem.entry f = { vpn := 1, valid := true, wr := true, next := n }) ∧ (∃ n, t.mem.entry (f + 1) = { vpn := 2, valid := true, wr := true, next := n }) ∧
          t.part = s.part ∧ IslandsFresh t ∧
          ((o.trained.map (·.1)).Nodup → ∀ x ∈ o.trained, ∀ p, s.fabric.ports[x.1]? = some p → p.st ≠ .disabled →
            ∃ y, t.fabric.ports[x.1]? = some y ∧ y.st = .active ∧ y.partner = x.2.1 ∧ y.pport = x.2.2)))) ∧
    (s.power.stage = 5 →
      (o.failedStage = 6 → exec .powerUp s = .next { s with power := { s.power with recovery := some (6, none) } }) ∧
      (o.failedStage ≠ 6 →
        let k : AttestKey := ⟨Config.deviceSecret, Config.firmwareHash s.power.running.number⟩
        let u : State := { s with power := { s.power with stage := 6, key := some k }, spdm := { s.spdm with waiting := [] } }
        (s.spdm.waiting = [] → exec .powerUp s = .next u) ∧
        (∀ m, s.spdm.waiting = [(false, m)] → ∃ t, exec .powerUp s = .next t ∧ DeviceReports (u.pass 1) t m k)))

end

section

/-- R100 to R103: the arithmetic instructions on every type, form and operand kind: the value of each lane of exec, every other register, flag,
special register and byte of memory as before. R102, R104, R105: the bitwise instructions, shifts and bit fields. -/
def Obligations.IntegerOperations : Prop :=
  Sys2Proof.Spec.IntegerArithmetic ∧ Sys2Proof.Spec.IntegerLogic

/-- R117 to R119: FADD, FSUB, FMUL, FFMA, FMIN and FMAX: exact, rounded once, both elements of packed formats, flags raised, everything else as
before, when no lane raises an enabled flag. R120 to R124: the functions of one operand, FRINT, FCLASS, FCVT, FPACK and FUNPK. R116: where a
lane raises an enabled flag the instruction traps with the lowest code, and only the lanes that do not trap receive their results. -/
def Obligations.FloatOperations : Prop :=
  Sys2Proof.Spec.FloatArithmetic ∧ Sys2Proof.Spec.FloatUnary ∧ Sys2Proof.Spec.FloatTraps

/-- R89: the mask instructions of one and two masks; k0 reads all ones and discards writes. R89, R90: KPOPC, KFFS, KVOTE and KTOV. -/
def Obligations.MaskInstructions : Prop :=
  Sys2Proof.Spec.MaskLogic ∧ Sys2Proof.Spec.MaskMoves

/-- R126 to R130: the class instructions of lanes: each element rounded to the class, flags raised, `$srstate` advanced for a stochastic class,
when no lane traps. R131 to R133: CRED, CQNT and CDQ. -/
def Obligations.ClassOperations : Prop :=
  Sys2Proof.Spec.ClassArithmetic ∧ Sys2Proof.Spec.ClassReductions

/-- R74, R75: NOP, the branches, the calls with their links, and RET. R77: BRC runs on, branches, or divides the split: the taken lanes become a
split of the lowest free number, with the flags and SIG of the parent. -/
def Obligations.BranchesAndCalls : Prop :=
  Sys2Proof.Spec.BranchesAndCalls ∧ Sys2Proof.Spec.BrcDivides

/-- R79 to R82: JSET loads a slot; JARV passes an unarmed slot, and otherwise waits on it when the arrival does not complete the join; JQRY and
SPLQ read. R80, R83, R98: an arrival that completes a join, with no entry in the overflow area, merges the waiting splits under the lowest
of their numbers, at the join program counter, and frees the others; a debugger's step that completes it stops with the merged split as
focus. -/
def Obligations.Joins : Prop :=
  Sys2Proof.Spec.JoinsAndQueries ∧ Sys2Proof.Spec.JoinMerges

/-- R83: EXIT takes the split's lanes out of LIVE and frees its entry; the other entries go on. R83: EXIT of a group's last split ends the
group. -/
def Obligations.Exits : Prop :=
  Sys2Proof.Spec.ExitFreesTheSplit ∧ Sys2Proof.Spec.ExitEndsTheGroup

/-- R95, R93, R94: TRAP and BKPT enter the user handler, BKPT where no debugger is attached; TRET executes the instruction at `$xpc` again. R95,
R96: TRET outside a handler raises ILLEGAL_CONVERGENCE. -/
def Obligations.TrapsAndReturns : Prop :=
  Sys2Proof.Spec.TrapsAndReturns ∧ Sys2Proof.Spec.TretOutsideHandler

/-- R84, R97, R156: SIGRD reads SIG; SIGCHK of the right value sets SIG to all ones and is not folded; YIELD gives way; CODESYNC, where no
access of the split is outstanding, makes its launch, and the cores that run a group of it, see every store into the code pages of its
address space (R217). R169, R172: SRSEED seeds `$srstate`, never with zero; CAPRD reads the capability words of the part. -/
def Obligations.SignaturesAndSeeds : Prop :=
  Sys2Proof.Spec.SignaturesAndYield ∧ Sys2Proof.Spec.SeedAndCapabilities

/-- R109, R112, R168: BMIX, IRED and RNGC. R109: BMIX with a reserved code or a reserved bit set raises ILLEGAL_OPERAND with field code 6. -/
def Obligations.MixReduceDraw : Prop :=
  Sys2Proof.Spec.MixReduceDraw ∧ Sys2Proof.Spec.BmixReserved

/-- R16, R170: what MTS writes, register by register; read-only registers ignore it. R76: MTS to `$exec` moves lanes of the split between its
mask and the parked ones; lanes that are not the split's are discarded. -/
def Obligations.SystemRegisterWrites : Prop :=
  Sys2Proof.Spec.SystemRegisterWrites ∧ Sys2Proof.Spec.ExecWrites

/-- R16, R21, R170: `$stvec` in user mode raises PRIVILEGE, read or written. R48, R49, R93: words of no allocated opcode raise ILLEGAL_OPCODE,
words that break the rules of their form ILLEGAL_FORM with the reason, words of a unit that the part lacks UNIT_ABSENT first; the handler
finds the words in the trap registers. -/
def Obligations.PrivilegeAndIllegalWords : Prop :=
  Sys2Proof.Spec.StvecIsPrivileged ∧ Sys2Proof.Spec.IllegalWords

/-- R140, R143, R144, R146: LD, CLD and ATOM issue a read: their destinations become EMPTY until the pieces have arrived. R145: a CLD of a class
that traps has read its data when it completes: the values, the flags, and the class trap with its lanes. That a class load raises its flags
when its data arrive and none at issue is the model's reading (log 137); R143 does not say when. -/
def Obligations.ReadsIssue : Prop :=
  Sys2Proof.Spec.ReadsIssue ∧ Sys2Proof.Spec.TrappingClassLoads

/-- R24, R151, R152: CPASYNC and GATHER enter their engine with the ranges of their operands; the copy's token becomes EMPTY. They wait while 63
of their class are outstanding. R151, R152, R163: a copy's piece moves the source bytes of a destination sector; the oldest copy retires
with the count in its token, or with the failure as the token's state; a gather's piece brings the bytes of the rows that reach it; the
oldest gather retires when its pieces are written. A peer that refuses, or does not answer, a read of a gather's rows leaves the failure of
those rows held from then on (R150); that several failed sectors of one gather are held as one failure, a timeout as soon as one is, is log
50. -/
def Obligations.EnginesWork : Prop :=
  Sys2Proof.Spec.EnginesTakeWork ∧ Sys2Proof.Spec.EnginesComplete

/-- R158, R159: BARARV and the first half of BAR put the split's lanes into ARR, and the arrival that completes the round clears ARR for every
member; below the grid. R159, R161: at grid level a round cannot end while blocks of the grid have not started; when every block has started
and every member is complete it ends, and the launch counts it. So for BARARV and for the first half of BAR, which then waits in the round,
or goes on and drops the core's L1. R159, R149: BARWT and the second half of BAR end when no lane of the split stands in the round and its
reads have completed; at `.gang` and `.grid` they drop the core's L1. -/
def Obligations.Barriers : Prop :=
  Sys2Proof.Spec.BarrierArrivals ∧ Sys2Proof.Spec.GridRounds ∧ Sys2Proof.Spec.BarrierWaits

/-- R162, R163: TBINIT, TBEXP, TBARV and TBWAIT on the object, in one update; the round that they complete raises PHASE and reloads PEND. R151,
R163: a destination piece of a copy that is bound to an object lowers BYTES by its bytes, and may complete the round. -/
def Obligations.DataArrival : Prop :=
  Sys2Proof.Spec.DataArrival ∧ Sys2Proof.Spec.CopiesCountDown

/-- R165, R166: CRPUT sends the vector of the lanes of exec, −0 in the others; CRGET asks for the round and makes its registers EMPTY; they wait
while 63 collectives are outstanding. R165, R167, R320, R321, R325: a contribution leaves its group for its node, and is left out where it
comes after the root's timer has run out; a node that has its own input and its children's results combines them, own input first; a late
round is closed from the root; a node that the close reaches takes its missing input as identity. -/
def Obligations.Collectives : Prop :=
  Sys2Proof.Spec.CollectivesIssue ∧ Sys2Proof.Spec.RoundsCombine

/-- R176: every matrix instruction of a group that is not converged, its fields in order (the checks of R48 steps 2 to 6 come first), raises
ILLEGAL_CONVERGENCE with `$split` and `$exec`, and has no effect. R177, R180, R182 to R185, R187: MBEG and MEND open and close a tile's
chain at issue; MUNF takes the descriptor; MMA, MZERO and MLDA enter the engine, which holds at most 63 operations of a group. MBEG and MEND
raise the tile's epoch by one, and an operation carries its tile's: the model's numbering of chains, read from R182 (log 65). -/
def Obligations.MatrixIssues : Prop :=
  Sys2Proof.Spec.MatrixNeedsConvergence ∧ Sys2Proof.Spec.MatrixIssues

/-- R65, R186, R189: a drain of rows that do not trap converts each element through the destination class, to registers or to the scratchpad, by
pieces that are performed before the split goes on; MSTAT reads the tile's state. R57, R58, R188: MQNT quantises a tile of FP32 in the
scratchpad, transposed or not, into 128 blocks, written by pieces that are performed before the split goes on. -/
def Obligations.DrainsAndQuantisation : Prop :=
  Sys2Proof.Spec.Drains ∧ Sys2Proof.Spec.TileQuantisation

/-- R138: an access that fails the check in some lane has no effect and raises the cause of the lowest failing lane, with every lane that fails
with it; a page that has no translation enters the page-fault handler at `$stvec` in supervisor mode (R93, R228). R228 to R230: the page-
fault handler serves a first touch with a zeroed frame of the pool and returns to the instruction with the user's trap registers; any other
fault parks the group until the record's ticket is answered. R50, R90, R101: under an empty `$exec` a vector instruction only retires: no
register, no flag, no fault, no access. -/
def Obligations.AccessFaults : Prop :=
  Sys2Proof.Spec.AccessFaults ∧ Sys2Proof.Spec.PageFaultHandler ∧ Sys2Proof.Spec.EmptyMask

/-- R78, R85 to R87: the swap puts the split that has waited longest into the slot of the topmost dormant entry, which takes its number and
becomes ready; the join watchdog merges without the missing lanes and counts the loss, or raises JOIN_TIMEOUT at the `JARV`. R98, R268: a
group that has been ready for 256 cycles is promoted; fydb steps the session's focus split, the lowest-numbered ready split where that one
cannot be stepped, or each ready split, holds the group after them, and lets it go on. -/
def Obligations.SplitAndGroupEvents : Prop :=
  Sys2Proof.Spec.SplitEvents ∧ Sys2Proof.Spec.GroupEvents

/-- R301: RESUME, SKIP and ABORT act on the record whose ticket they name, and ANSWER is cleared; an answer to none does nothing else. A queue
that another record holds stays stopped. R284, R301: every answer that names a record which awaits it completes, whatever the record and
whatever else the queue holds: the record awaits no longer; RESUME lets the queue or the parked group go on; SKIP passes over the packet,
lets a queue stopped by an UNRESOLVED gang go on, or kills the gang of a page fault; ABORT disables the queue and ends its launches, or
kills the gang. -/
def Obligations.Answers : Prop :=
  Sys2Proof.Spec.Answers ∧ Sys2Proof.Spec.AnswersComplete

/-- R290, R293, R294: NOP, TIMESTAMP, SIGNAL_WRITE and SIGNAL_WAIT on memory that the part holds, what PACKET_COMPLETION makes of a packet that
has begun, and the timeout of a wait: the record, STATUS 3 and DONESEQ. R290, R294: COPY begins, each piece of a copy between ranges that
have no byte in common puts the bytes of one destination sector in place, and the packet completes after the last; EVICT's last step takes
the page's entry away and returns its frame. That a COPY moves its pieces in rising or falling order, one sector at each PACKET_COMPLETION,
is the model's reading (log 72). -/
def Obligations.SignalAndCopyPackets : Prop :=
  Sys2Proof.Spec.SignalPackets ∧ Sys2Proof.Spec.CopyPackets

/-- R271, R229, R286, R294, R307, R323, R349: CONFIG packets that change the firmware's tables: queues, tenants, demand-zero ranges, the
retirement settings, ports, and the scale-out engine's endpoints, keys and timeout. R225, R226, R231, R236, R294, R349: MAP links an entry
for a frame of the pool, or for a page of a peer; UNMAP takes an entry away with its TLB copies; POOL gives and takes frames; EVICT begins
to copy a page out. Frames that R294 refuses end the packet with PROT or CAPACITY and change nothing. That a full remote-entry array gives
PROT is log 33, that UNMAP without an entry gives PAGE log 106, that POOL gives the code of the first frame that fails log 105, and that the
frame of the port status table is never given to the pool log 114: these are the model's readings. -/
def Obligations.ConfigPackets : Prop :=
  Sys2Proof.Spec.ConfigTables ∧ Sys2Proof.Spec.ConfigMemory

/-- R219, R293, R294: a launch that has run to its end, or has been ended, and of which no write is outstanding, leaves: its packet completes,
with what became of it in the response; the entries of code pages that serve the newest version, or one that another launch is bound to,
stay. R219: a code page entry that served only versions which no launch runs in, no queued packet resumes and no image holds goes when a
launch completes, its TLB copies with it, and its frame returns to the pool. Which images keep a code version, queued ones that resume and
those that the package saved, is the model's reading (log 151). -/
def Obligations.LaunchesComplete : Prop :=
  Sys2Proof.Spec.LaunchesComplete ∧ Sys2Proof.Spec.VersionsAreFreed

/-- R264, R279, R283, R284: a gang whose groups have ended with nothing outstanding is logged complete and its units are free; T moves on over a
block that has ended; two equal digests let a gang's first run stand, a third run settles two that differ, and three that differ leave the
gang UNRESOLVED, its queue stopped for an answer. R266, R337: heartbeats missed in exchanges that follow one another are counted, one in
each exchange of 10 µs; the third in a row, or a missed one of a die that its base logic has reported failed, kills the die: sectors of
memory whose home it was may be poisoned, the lowest-numbered live die leads, and the gangs that the dead die had and that were not complete
are killed with DIE_LOST. The manual names no leader after the last die. That exchanges of heartbeats are counted from cycle 0 in steps of
9,400 cycles, that a second miss in one exchange counts nothing, and the fault after the last die are the model's choices (log 97). What a
die's death does to its gangs is stated for none and for one that may be replayed. -/
def Obligations.GangsComplete : Prop :=
  Sys2Proof.Spec.GangsComplete ∧ Sys2Proof.Spec.HeartbeatsMissed

/-- R343, R344: the SPDM requests: version, capabilities, algorithms and certificates are answered; a session takes a key exchange with mutual
authentication, both encapsulated requests in order and an authentic FINISH, and ends on request; anything else is turned away. An event for
a request that the message in the receive buffer does not make does nothing. R343, R345: a device report and a usage report are signed, each
in a cycle of its own; before stage 6 a report waits, and a part in recovery gives none. The bytes of SPDM answers are free (log 83). That
an event of another request does nothing and that the order of requests is not enforced (log 118), and that a report takes a cycle and is
refused in recovery (log 119), are the model's readings. -/
def Obligations.AttestationMessages : Prop :=
  Sys2Proof.Spec.SpdmRequests ∧ Sys2Proof.Spec.AttestationReports

end
end

