-- ==== Sys2Proof/Laws/State.lean ====
section
/-! SUPPORT. The small updates of the state, field by field: what each leaves and what each sets, by `rfl`. -/

namespace Sys2Proof.Machine


/-! ## onRegs -/

@[simp] theorem State.onRegs_part (s : State) (f : RegFile → RegFile) : (s.onRegs f).part = s.part := rfl
@[simp] theorem State.onRegs_cycle (s : State) (f : RegFile → RegFile) : (s.onRegs f).cycle = s.cycle := rfl
@[simp] theorem State.onRegs_others (s : State) (f : RegFile → RegFile) : (s.onRegs f).others = s.others := rfl
@[simp] theorem State.onRegs_blocks (s : State) (f : RegFile → RegFile) : (s.onRegs f).blocks = s.blocks := rfl
@[simp] theorem State.onRegs_launches (s : State) (f : RegFile → RegFile) : (s.onRegs f).launches = s.launches := rfl
@[simp] theorem State.onRegs_nextLaunch (s : State) (f : RegFile → RegFile) : (s.onRegs f).nextLaunch = s.nextLaunch := rfl
@[simp] theorem State.onRegs_mem (s : State) (f : RegFile → RegFile) : (s.onRegs f).mem = s.mem := rfl
@[simp] theorem State.onRegs_queues (s : State) (f : RegFile → RegFile) : (s.onRegs f).queues = s.queues := rfl
@[simp] theorem State.onRegs_awaited (s : State) (f : RegFile → RegFile) : (s.onRegs f).awaited = s.awaited := rfl
@[simp] theorem State.onRegs_waitingRecs (s : State) (f : RegFile → RegFile) : (s.onRegs f).waitingRecs = s.waitingRecs := rfl
@[simp] theorem State.onRegs_nextTicket (s : State) (f : RegFile → RegFile) : (s.onRegs f).nextTicket = s.nextTicket := rfl
@[simp] theorem State.onRegs_bindings (s : State) (f : RegFile → RegFile) : (s.onRegs f).bindings = s.bindings := rfl
@[simp] theorem State.onRegs_nextBind (s : State) (f : RegFile → RegFile) : (s.onRegs f).nextBind = s.nextBind := rfl
@[simp] theorem State.onRegs_tenants (s : State) (f : RegFile → RegFile) : (s.onRegs f).tenants = s.tenants := rfl
@[simp] theorem State.onRegs_debts (s : State) (f : RegFile → RegFile) : (s.onRegs f).debts = s.debts := rfl
@[simp] theorem State.onRegs_period (s : State) (f : RegFile → RegFile) : (s.onRegs f).period = s.period := rfl
@[simp] theorem State.onRegs_dies (s : State) (f : RegFile → RegFile) : (s.onRegs f).dies = s.dies := rfl
@[simp] theorem State.onRegs_leader (s : State) (f : RegFile → RegFile) : (s.onRegs f).leader = s.leader := rfl
@[simp] theorem State.onRegs_ages (s : State) (f : RegFile → RegFile) : (s.onRegs f).ages = s.ages := rfl
@[simp] theorem State.onRegs_places (s : State) (f : RegFile → RegFile) : (s.onRegs f).places = s.places := rfl
@[simp] theorem State.onRegs_turn (s : State) (f : RegFile → RegFile) : (s.onRegs f).turn = s.turn := rfl
@[simp] theorem State.onRegs_laneStacks (s : State) (f : RegFile → RegFile) : (s.onRegs f).laneStacks = s.laneStacks := rfl
@[simp] theorem State.onRegs_fabric (s : State) (f : RegFile → RegFile) : (s.onRegs f).fabric = s.fabric := rfl
@[simp] theorem State.onRegs_scout (s : State) (f : RegFile → RegFile) : (s.onRegs f).scout = s.scout := rfl
@[simp] theorem State.onRegs_power (s : State) (f : RegFile → RegFile) : (s.onRegs f).power = s.power := rfl
@[simp] theorem State.onRegs_spdm (s : State) (f : RegFile → RegFile) : (s.onRegs f).spdm = s.spdm := rfl
@[simp] theorem State.onRegs_errs (s : State) (f : RegFile → RegFile) : (s.onRegs f).errs = s.errs := rfl
@[simp] theorem State.onRegs_agenda (s : State) (f : RegFile → RegFile) : (s.onRegs f).agenda = s.agenda := rfl
@[simp] theorem State.onRegs_stvec (s : State) (f : RegFile → RegFile) : (s.onRegs f).stvec = s.stvec := rfl
@[simp] theorem State.onRegs_fresh (s : State) (f : RegFile → RegFile) : (s.onRegs f).fresh = s.fresh := rfl
@[simp] theorem State.onRegs_cur_resident (s : State) (f : RegFile → RegFile) : (s.onRegs f).cur.resident = s.cur.resident := rfl
@[simp] theorem State.onRegs_cur_ended (s : State) (f : RegFile → RegFile) : (s.onRegs f).cur.ended = s.cur.ended := rfl
@[simp] theorem State.onRegs_cur_launch (s : State) (f : RegFile → RegFile) : (s.onRegs f).cur.launch = s.cur.launch := rfl
@[simp] theorem State.onRegs_cur_run (s : State) (f : RegFile → RegFile) : (s.onRegs f).cur.run = s.cur.run := rfl
@[simp] theorem State.onRegs_cur_block (s : State) (f : RegFile → RegFile) : (s.onRegs f).cur.block = s.cur.block := rfl
@[simp] theorem State.onRegs_cur_index (s : State) (f : RegFile → RegFile) : (s.onRegs f).cur.index = s.cur.index := rfl
@[simp] theorem State.onRegs_cur_cluster (s : State) (f : RegFile → RegFile) : (s.onRegs f).cur.cluster = s.cur.cluster := rfl
@[simp] theorem State.onRegs_cur_running (s : State) (f : RegFile → RegFile) : (s.onRegs f).cur.running = s.cur.running := rfl
@[simp] theorem State.onRegs_cur_regs (s : State) (f : RegFile → RegFile) : (s.onRegs f).cur.regs = f s.cur.regs := rfl
@[simp] theorem State.onRegs_cur_splits (s : State) (f : RegFile → RegFile) : (s.onRegs f).cur.splits = s.cur.splits := rfl
@[simp] theorem State.onRegs_cur_ovf (s : State) (f : RegFile → RegFile) : (s.onRegs f).cur.ovf = s.cur.ovf := rfl
@[simp] theorem State.onRegs_cur_ovfWait (s : State) (f : RegFile → RegFile) : (s.onRegs f).cur.ovfWait = s.cur.ovfWait := rfl
@[simp] theorem State.onRegs_cur_joins (s : State) (f : RegFile → RegFile) : (s.onRegs f).cur.joins = s.cur.joins := rfl
@[simp] theorem State.onRegs_cur_ctl (s : State) (f : RegFile → RegFile) : (s.onRegs f).cur.ctl = s.cur.ctl := rfl
@[simp] theorem State.onRegs_cur_trap (s : State) (f : RegFile → RegFile) : (s.onRegs f).cur.trap = s.cur.trap := rfl
@[simp] theorem State.onRegs_cur_sup (s : State) (f : RegFile → RegFile) : (s.onRegs f).cur.sup = s.cur.sup := rfl
@[simp] theorem State.onRegs_cur_parked (s : State) (f : RegFile → RegFile) : (s.onRegs f).cur.parked = s.cur.parked := rfl
@[simp] theorem State.onRegs_cur_fydb (s : State) (f : RegFile → RegFile) : (s.onRegs f).cur.fydb = s.cur.fydb := rfl
@[simp] theorem State.onRegs_cur_arr (s : State) (f : RegFile → RegFile) : (s.onRegs f).cur.arr = s.cur.arr := rfl
@[simp] theorem State.onRegs_cur_unfold (s : State) (f : RegFile → RegFile) : (s.onRegs f).cur.unfold = s.cur.unfold := rfl
@[simp] theorem State.onRegs_cur_pend (s : State) (f : RegFile → RegFile) : (s.onRegs f).cur.pend = s.cur.pend := rfl
@[simp] theorem State.onRegs_cur_iss (s : State) (f : RegFile → RegFile) : (s.onRegs f).cur.iss = s.cur.iss := rfl
@[simp] theorem State.onRegs_cur_fydbFocus (s : State) (f : RegFile → RegFile) : (s.onRegs f).cur.fydbFocus = s.cur.fydbFocus := rfl
@[simp] theorem State.onRegs_cur_shadow (s : State) (f : RegFile → RegFile) : (s.onRegs f).cur.shadow = s.cur.shadow := rfl

/-! ## onCtl -/

@[simp] theorem State.onCtl_part (s : State) (f : GroupRegs → GroupRegs) : (s.onCtl f).part = s.part := rfl
@[simp] theorem State.onCtl_cycle (s : State) (f : GroupRegs → GroupRegs) : (s.onCtl f).cycle = s.cycle := rfl
@[simp] theorem State.onCtl_others (s : State) (f : GroupRegs → GroupRegs) : (s.onCtl f).others = s.others := rfl
@[simp] theorem State.onCtl_blocks (s : State) (f : GroupRegs → GroupRegs) : (s.onCtl f).blocks = s.blocks := rfl
@[simp] theorem State.onCtl_launches (s : State) (f : GroupRegs → GroupRegs) : (s.onCtl f).launches = s.launches := rfl
@[simp] theorem State.onCtl_nextLaunch (s : State) (f : GroupRegs → GroupRegs) : (s.onCtl f).nextLaunch = s.nextLaunch := rfl
@[simp] theorem State.onCtl_mem (s : State) (f : GroupRegs → GroupRegs) : (s.onCtl f).mem = s.mem := rfl
@[simp] theorem State.onCtl_queues (s : State) (f : GroupRegs → GroupRegs) : (s.onCtl f).queues = s.queues := rfl
@[simp] theorem State.onCtl_awaited (s : State) (f : GroupRegs → GroupRegs) : (s.onCtl f).awaited = s.awaited := rfl
@[simp] theorem State.onCtl_waitingRecs (s : State) (f : GroupRegs → GroupRegs) : (s.onCtl f).waitingRecs = s.waitingRecs := rfl
@[simp] theorem State.onCtl_nextTicket (s : State) (f : GroupRegs → GroupRegs) : (s.onCtl f).nextTicket = s.nextTicket := rfl
@[simp] theorem State.onCtl_bindings (s : State) (f : GroupRegs → GroupRegs) : (s.onCtl f).bindings = s.bindings := rfl
@[simp] theorem State.onCtl_nextBind (s : State) (f : GroupRegs → GroupRegs) : (s.onCtl f).nextBind = s.nextBind := rfl
@[simp] theorem State.onCtl_tenants (s : State) (f : GroupRegs → GroupRegs) : (s.onCtl f).tenants = s.tenants := rfl
@[simp] theorem State.onCtl_debts (s : State) (f : GroupRegs → GroupRegs) : (s.onCtl f).debts = s.debts := rfl
@[simp] theorem State.onCtl_period (s : State) (f : GroupRegs → GroupRegs) : (s.onCtl f).period = s.period := rfl
@[simp] theorem State.onCtl_dies (s : State) (f : GroupRegs → GroupRegs) : (s.onCtl f).dies = s.dies := rfl
@[simp] theorem State.onCtl_leader (s : State) (f : GroupRegs → GroupRegs) : (s.onCtl f).leader = s.leader := rfl
@[simp] theorem State.onCtl_ages (s : State) (f : GroupRegs → GroupRegs) : (s.onCtl f).ages = s.ages := rfl
@[simp] theorem State.onCtl_places (s : State) (f : GroupRegs → GroupRegs) : (s.onCtl f).places = s.places := rfl
@[simp] theorem State.onCtl_turn (s : State) (f : GroupRegs → GroupRegs) : (s.onCtl f).turn = s.turn := rfl
@[simp] theorem State.onCtl_laneStacks (s : State) (f : GroupRegs → GroupRegs) : (s.onCtl f).laneStacks = s.laneStacks := rfl
@[simp] theorem State.onCtl_fabric (s : State) (f : GroupRegs → GroupRegs) : (s.onCtl f).fabric = s.fabric := rfl
@[simp] theorem State.onCtl_scout (s : State) (f : GroupRegs → GroupRegs) : (s.onCtl f).scout = s.scout := rfl
@[simp] theorem State.onCtl_power (s : State) (f : GroupRegs → GroupRegs) : (s.onCtl f).power = s.power := rfl
@[simp] theorem State.onCtl_spdm (s : State) (f : GroupRegs → GroupRegs) : (s.onCtl f).spdm = s.spdm := rfl
@[simp] theorem State.onCtl_errs (s : State) (f : GroupRegs → GroupRegs) : (s.onCtl f).errs = s.errs := rfl
@[simp] theorem State.onCtl_agenda (s : State) (f : GroupRegs → GroupRegs) : (s.onCtl f).agenda = s.agenda := rfl
@[simp] theorem State.onCtl_stvec (s : State) (f : GroupRegs → GroupRegs) : (s.onCtl f).stvec = s.stvec := rfl
@[simp] theorem State.onCtl_fresh (s : State) (f : GroupRegs → GroupRegs) : (s.onCtl f).fresh = s.fresh := rfl
@[simp] theorem State.onCtl_cur_resident (s : State) (f : GroupRegs → GroupRegs) : (s.onCtl f).cur.resident = s.cur.resident := rfl
@[simp] theorem State.onCtl_cur_ended (s : State) (f : GroupRegs → GroupRegs) : (s.onCtl f).cur.ended = s.cur.ended := rfl
@[simp] theorem State.onCtl_cur_launch (s : State) (f : GroupRegs → GroupRegs) : (s.onCtl f).cur.launch = s.cur.launch := rfl
@[simp] theorem State.onCtl_cur_run (s : State) (f : GroupRegs → GroupRegs) : (s.onCtl f).cur.run = s.cur.run := rfl
@[simp] theorem State.onCtl_cur_block (s : State) (f : GroupRegs → GroupRegs) : (s.onCtl f).cur.block = s.cur.block := rfl
@[simp] theorem State.onCtl_cur_index (s : State) (f : GroupRegs → GroupRegs) : (s.onCtl f).cur.index = s.cur.index := rfl
@[simp] theorem State.onCtl_cur_cluster (s : State) (f : GroupRegs → GroupRegs) : (s.onCtl f).cur.cluster = s.cur.cluster := rfl
@[simp] theorem State.onCtl_cur_running (s : State) (f : GroupRegs → GroupRegs) : (s.onCtl f).cur.running = s.cur.running := rfl
@[simp] theorem State.onCtl_cur_regs (s : State) (f : GroupRegs → GroupRegs) : (s.onCtl f).cur.regs = s.cur.regs := rfl
@[simp] theorem State.onCtl_cur_splits (s : State) (f : GroupRegs → GroupRegs) : (s.onCtl f).cur.splits = s.cur.splits := rfl
@[simp] theorem State.onCtl_cur_ovf (s : State) (f : GroupRegs → GroupRegs) : (s.onCtl f).cur.ovf = s.cur.ovf := rfl
@[simp] theorem State.onCtl_cur_ovfWait (s : State) (f : GroupRegs → GroupRegs) : (s.onCtl f).cur.ovfWait = s.cur.ovfWait := rfl
@[simp] theorem State.onCtl_cur_joins (s : State) (f : GroupRegs → GroupRegs) : (s.onCtl f).cur.joins = s.cur.joins := rfl
@[simp] theorem State.onCtl_cur_ctl (s : State) (f : GroupRegs → GroupRegs) : (s.onCtl f).cur.ctl = f s.cur.ctl := rfl
@[simp] theorem State.onCtl_cur_trap (s : State) (f : GroupRegs → GroupRegs) : (s.onCtl f).cur.trap = s.cur.trap := rfl
@[simp] theorem State.onCtl_cur_sup (s : State) (f : GroupRegs → GroupRegs) : (s.onCtl f).cur.sup = s.cur.sup := rfl
@[simp] theorem State.onCtl_cur_parked (s : State) (f : GroupRegs → GroupRegs) : (s.onCtl f).cur.parked = s.cur.parked := rfl
@[simp] theorem State.onCtl_cur_fydb (s : State) (f : GroupRegs → GroupRegs) : (s.onCtl f).cur.fydb = s.cur.fydb := rfl
@[simp] theorem State.onCtl_cur_arr (s : State) (f : GroupRegs → GroupRegs) : (s.onCtl f).cur.arr = s.cur.arr := rfl
@[simp] theorem State.onCtl_cur_unfold (s : State) (f : GroupRegs → GroupRegs) : (s.onCtl f).cur.unfold = s.cur.unfold := rfl
@[simp] theorem State.onCtl_cur_pend (s : State) (f : GroupRegs → GroupRegs) : (s.onCtl f).cur.pend = s.cur.pend := rfl
@[simp] theorem State.onCtl_cur_iss (s : State) (f : GroupRegs → GroupRegs) : (s.onCtl f).cur.iss = s.cur.iss := rfl
@[simp] theorem State.onCtl_cur_fydbFocus (s : State) (f : GroupRegs → GroupRegs) : (s.onCtl f).cur.fydbFocus = s.cur.fydbFocus := rfl
@[simp] theorem State.onCtl_cur_shadow (s : State) (f : GroupRegs → GroupRegs) : (s.onCtl f).cur.shadow = s.cur.shadow := rfl

/-! ## onSp -/

@[simp] theorem State.onSp_part (s : State) (f : Split → Split) : (s.onSp f).part = s.part := rfl
@[simp] theorem State.onSp_cycle (s : State) (f : Split → Split) : (s.onSp f).cycle = s.cycle := rfl
@[simp] theorem State.onSp_others (s : State) (f : Split → Split) : (s.onSp f).others = s.others := rfl
@[simp] theorem State.onSp_blocks (s : State) (f : Split → Split) : (s.onSp f).blocks = s.blocks := rfl
@[simp] theorem State.onSp_launches (s : State) (f : Split → Split) : (s.onSp f).launches = s.launches := rfl
@[simp] theorem State.onSp_nextLaunch (s : State) (f : Split → Split) : (s.onSp f).nextLaunch = s.nextLaunch := rfl
@[simp] theorem State.onSp_mem (s : State) (f : Split → Split) : (s.onSp f).mem = s.mem := rfl
@[simp] theorem State.onSp_queues (s : State) (f : Split → Split) : (s.onSp f).queues = s.queues := rfl
@[simp] theorem State.onSp_awaited (s : State) (f : Split → Split) : (s.onSp f).awaited = s.awaited := rfl
@[simp] theorem State.onSp_waitingRecs (s : State) (f : Split → Split) : (s.onSp f).waitingRecs = s.waitingRecs := rfl
@[simp] theorem State.onSp_nextTicket (s : State) (f : Split → Split) : (s.onSp f).nextTicket = s.nextTicket := rfl
@[simp] theorem State.onSp_bindings (s : State) (f : Split → Split) : (s.onSp f).bindings = s.bindings := rfl
@[simp] theorem State.onSp_nextBind (s : State) (f : Split → Split) : (s.onSp f).nextBind = s.nextBind := rfl
@[simp] theorem State.onSp_tenants (s : State) (f : Split → Split) : (s.onSp f).tenants = s.tenants := rfl
@[simp] theorem State.onSp_debts (s : State) (f : Split → Split) : (s.onSp f).debts = s.debts := rfl
@[simp] theorem State.onSp_period (s : State) (f : Split → Split) : (s.onSp f).period = s.period := rfl
@[simp] theorem State.onSp_dies (s : State) (f : Split → Split) : (s.onSp f).dies = s.dies := rfl
@[simp] theorem State.onSp_leader (s : State) (f : Split → Split) : (s.onSp f).leader = s.leader := rfl
@[simp] theorem State.onSp_ages (s : State) (f : Split → Split) : (s.onSp f).ages = s.ages := rfl
@[simp] theorem State.onSp_places (s : State) (f : Split → Split) : (s.onSp f).places = s.places := rfl
@[simp] theorem State.onSp_turn (s : State) (f : Split → Split) : (s.onSp f).turn = s.turn := rfl
@[simp] theorem State.onSp_laneStacks (s : State) (f : Split → Split) : (s.onSp f).laneStacks = s.laneStacks := rfl
@[simp] theorem State.onSp_fabric (s : State) (f : Split → Split) : (s.onSp f).fabric = s.fabric := rfl
@[simp] theorem State.onSp_scout (s : State) (f : Split → Split) : (s.onSp f).scout = s.scout := rfl
@[simp] theorem State.onSp_power (s : State) (f : Split → Split) : (s.onSp f).power = s.power := rfl
@[simp] theorem State.onSp_spdm (s : State) (f : Split → Split) : (s.onSp f).spdm = s.spdm := rfl
@[simp] theorem State.onSp_errs (s : State) (f : Split → Split) : (s.onSp f).errs = s.errs := rfl
@[simp] theorem State.onSp_agenda (s : State) (f : Split → Split) : (s.onSp f).agenda = s.agenda := rfl
@[simp] theorem State.onSp_stvec (s : State) (f : Split → Split) : (s.onSp f).stvec = s.stvec := rfl
@[simp] theorem State.onSp_fresh (s : State) (f : Split → Split) : (s.onSp f).fresh = s.fresh := rfl
@[simp] theorem State.onSp_cur_resident (s : State) (f : Split → Split) : (s.onSp f).cur.resident = s.cur.resident := rfl
@[simp] theorem State.onSp_cur_ended (s : State) (f : Split → Split) : (s.onSp f).cur.ended = s.cur.ended := rfl
@[simp] theorem State.onSp_cur_launch (s : State) (f : Split → Split) : (s.onSp f).cur.launch = s.cur.launch := rfl
@[simp] theorem State.onSp_cur_run (s : State) (f : Split → Split) : (s.onSp f).cur.run = s.cur.run := rfl
@[simp] theorem State.onSp_cur_block (s : State) (f : Split → Split) : (s.onSp f).cur.block = s.cur.block := rfl
@[simp] theorem State.onSp_cur_index (s : State) (f : Split → Split) : (s.onSp f).cur.index = s.cur.index := rfl
@[simp] theorem State.onSp_cur_cluster (s : State) (f : Split → Split) : (s.onSp f).cur.cluster = s.cur.cluster := rfl
@[simp] theorem State.onSp_cur_running (s : State) (f : Split → Split) : (s.onSp f).cur.running = s.cur.running := rfl
@[simp] theorem State.onSp_cur_regs (s : State) (f : Split → Split) : (s.onSp f).cur.regs = s.cur.regs := rfl
@[simp] theorem State.onSp_cur_ovf (s : State) (f : Split → Split) : (s.onSp f).cur.ovf = s.cur.ovf := rfl
@[simp] theorem State.onSp_cur_ovfWait (s : State) (f : Split → Split) : (s.onSp f).cur.ovfWait = s.cur.ovfWait := rfl
@[simp] theorem State.onSp_cur_joins (s : State) (f : Split → Split) : (s.onSp f).cur.joins = s.cur.joins := rfl
@[simp] theorem State.onSp_cur_ctl (s : State) (f : Split → Split) : (s.onSp f).cur.ctl = s.cur.ctl := rfl
@[simp] theorem State.onSp_cur_trap (s : State) (f : Split → Split) : (s.onSp f).cur.trap = s.cur.trap := rfl
@[simp] theorem State.onSp_cur_sup (s : State) (f : Split → Split) : (s.onSp f).cur.sup = s.cur.sup := rfl
@[simp] theorem State.onSp_cur_parked (s : State) (f : Split → Split) : (s.onSp f).cur.parked = s.cur.parked := rfl
@[simp] theorem State.onSp_cur_fydb (s : State) (f : Split → Split) : (s.onSp f).cur.fydb = s.cur.fydb := rfl
@[simp] theorem State.onSp_cur_arr (s : State) (f : Split → Split) : (s.onSp f).cur.arr = s.cur.arr := rfl
@[simp] theorem State.onSp_cur_unfold (s : State) (f : Split → Split) : (s.onSp f).cur.unfold = s.cur.unfold := rfl
@[simp] theorem State.onSp_cur_pend (s : State) (f : Split → Split) : (s.onSp f).cur.pend = s.cur.pend := rfl
@[simp] theorem State.onSp_cur_iss (s : State) (f : Split → Split) : (s.onSp f).cur.iss = s.cur.iss := rfl
@[simp] theorem State.onSp_cur_fydbFocus (s : State) (f : Split → Split) : (s.onSp f).cur.fydbFocus = s.cur.fydbFocus := rfl
@[simp] theorem State.onSp_cur_shadow (s : State) (f : Split → Split) : (s.onSp f).cur.shadow = s.cur.shadow := rfl

/-! ## onLaunch -/

@[simp] theorem State.onLaunch_part (s : State) (id : Nat) (f : Launch → Launch) : (s.onLaunch id f).part = s.part := rfl
@[simp] theorem State.onLaunch_cycle (s : State) (id : Nat) (f : Launch → Launch) : (s.onLaunch id f).cycle = s.cycle := rfl
@[simp] theorem State.onLaunch_cur (s : State) (id : Nat) (f : Launch → Launch) : (s.onLaunch id f).cur = s.cur := rfl
@[simp] theorem State.onLaunch_others (s : State) (id : Nat) (f : Launch → Launch) : (s.onLaunch id f).others = s.others := rfl
@[simp] theorem State.onLaunch_blocks (s : State) (id : Nat) (f : Launch → Launch) : (s.onLaunch id f).blocks = s.blocks := rfl
@[simp] theorem State.onLaunch_nextLaunch (s : State) (id : Nat) (f : Launch → Launch) : (s.onLaunch id f).nextLaunch = s.nextLaunch := rfl
@[simp] theorem State.onLaunch_mem (s : State) (id : Nat) (f : Launch → Launch) : (s.onLaunch id f).mem = s.mem := rfl
@[simp] theorem State.onLaunch_queues (s : State) (id : Nat) (f : Launch → Launch) : (s.onLaunch id f).queues = s.queues := rfl
@[simp] theorem State.onLaunch_awaited (s : State) (id : Nat) (f : Launch → Launch) : (s.onLaunch id f).awaited = s.awaited := rfl
@[simp] theorem State.onLaunch_waitingRecs (s : State) (id : Nat) (f : Launch → Launch) : (s.onLaunch id f).waitingRecs = s.waitingRecs := rfl
@[simp] theorem State.onLaunch_nextTicket (s : State) (id : Nat) (f : Launch → Launch) : (s.onLaunch id f).nextTicket = s.nextTicket := rfl
@[simp] theorem State.onLaunch_bindings (s : State) (id : Nat) (f : Launch → Launch) : (s.onLaunch id f).bindings = s.bindings := rfl
@[simp] theorem State.onLaunch_nextBind (s : State) (id : Nat) (f : Launch → Launch) : (s.onLaunch id f).nextBind = s.nextBind := rfl
@[simp] theorem State.onLaunch_tenants (s : State) (id : Nat) (f : Launch → Launch) : (s.onLaunch id f).tenants = s.tenants := rfl
@[simp] theorem State.onLaunch_debts (s : State) (id : Nat) (f : Launch → Launch) : (s.onLaunch id f).debts = s.debts := rfl
@[simp] theorem State.onLaunch_period (s : State) (id : Nat) (f : Launch → Launch) : (s.onLaunch id f).period = s.period := rfl
@[simp] theorem State.onLaunch_dies (s : State) (id : Nat) (f : Launch → Launch) : (s.onLaunch id f).dies = s.dies := rfl
@[simp] theorem State.onLaunch_leader (s : State) (id : Nat) (f : Launch → Launch) : (s.onLaunch id f).leader = s.leader := rfl
@[simp] theorem State.onLaunch_ages (s : State) (id : Nat) (f : Launch → Launch) : (s.onLaunch id f).ages = s.ages := rfl
@[simp] theorem State.onLaunch_places (s : State) (id : Nat) (f : Launch → Launch) : (s.onLaunch id f).places = s.places := rfl
@[simp] theorem State.onLaunch_turn (s : State) (id : Nat) (f : Launch → Launch) : (s.onLaunch id f).turn = s.turn := rfl
@[simp] theorem State.onLaunch_laneStacks (s : State) (id : Nat) (f : Launch → Launch) : (s.onLaunch id f).laneStacks = s.laneStacks := rfl
@[simp] theorem State.onLaunch_fabric (s : State) (id : Nat) (f : Launch → Launch) : (s.onLaunch id f).fabric = s.fabric := rfl
@[simp] theorem State.onLaunch_scout (s : State) (id : Nat) (f : Launch → Launch) : (s.onLaunch id f).scout = s.scout := rfl
@[simp] theorem State.onLaunch_power (s : State) (id : Nat) (f : Launch → Launch) : (s.onLaunch id f).power = s.power := rfl
@[simp] theorem State.onLaunch_spdm (s : State) (id : Nat) (f : Launch → Launch) : (s.onLaunch id f).spdm = s.spdm := rfl
@[simp] theorem State.onLaunch_errs (s : State) (id : Nat) (f : Launch → Launch) : (s.onLaunch id f).errs = s.errs := rfl
@[simp] theorem State.onLaunch_agenda (s : State) (id : Nat) (f : Launch → Launch) : (s.onLaunch id f).agenda = s.agenda := rfl
@[simp] theorem State.onLaunch_stvec (s : State) (id : Nat) (f : Launch → Launch) : (s.onLaunch id f).stvec = s.stvec := rfl
@[simp] theorem State.onLaunch_fresh (s : State) (id : Nat) (f : Launch → Launch) : (s.onLaunch id f).fresh = s.fresh := rfl

/-! ## onBlock -/

@[simp] theorem State.onBlock_part (s : State) (launch run index : Nat) (f : Block → Block) : (s.onBlock launch run index f).part = s.part := rfl
@[simp] theorem State.onBlock_cycle (s : State) (launch run index : Nat) (f : Block → Block) : (s.onBlock launch run index f).cycle = s.cycle := rfl
@[simp] theorem State.onBlock_cur (s : State) (launch run index : Nat) (f : Block → Block) : (s.onBlock launch run index f).cur = s.cur := rfl
@[simp] theorem State.onBlock_others (s : State) (launch run index : Nat) (f : Block → Block) : (s.onBlock launch run index f).others = s.others := rfl
@[simp] theorem State.onBlock_launches (s : State) (launch run index : Nat) (f : Block → Block) : (s.onBlock launch run index f).launches = s.launches := rfl
@[simp] theorem State.onBlock_nextLaunch (s : State) (launch run index : Nat) (f : Block → Block) : (s.onBlock launch run index f).nextLaunch = s.nextLaunch := rfl
@[simp] theorem State.onBlock_mem (s : State) (launch run index : Nat) (f : Block → Block) : (s.onBlock launch run index f).mem = s.mem := rfl
@[simp] theorem State.onBlock_queues (s : State) (launch run index : Nat) (f : Block → Block) : (s.onBlock launch run index f).queues = s.queues := rfl
@[simp] theorem State.onBlock_awaited (s : State) (launch run index : Nat) (f : Block → Block) : (s.onBlock launch run index f).awaited = s.awaited := rfl
@[simp] theorem State.onBlock_waitingRecs (s : State) (launch run index : Nat) (f : Block → Block) : (s.onBlock launch run index f).waitingRecs = s.waitingRecs := rfl
@[simp] theorem State.onBlock_nextTicket (s : State) (launch run index : Nat) (f : Block → Block) : (s.onBlock launch run index f).nextTicket = s.nextTicket := rfl
@[simp] theorem State.onBlock_bindings (s : State) (launch run index : Nat) (f : Block → Block) : (s.onBlock launch run index f).bindings = s.bindings := rfl
@[simp] theorem State.onBlock_nextBind (s : State) (launch run index : Nat) (f : Block → Block) : (s.onBlock launch run index f).nextBind = s.nextBind := rfl
@[simp] theorem State.onBlock_tenants (s : State) (launch run index : Nat) (f : Block → Block) : (s.onBlock launch run index f).tenants = s.tenants := rfl
@[simp] theorem State.onBlock_debts (s : State) (launch run index : Nat) (f : Block → Block) : (s.onBlock launch run index f).debts = s.debts := rfl
@[simp] theorem State.onBlock_period (s : State) (launch run index : Nat) (f : Block → Block) : (s.onBlock launch run index f).period = s.period := rfl
@[simp] theorem State.onBlock_dies (s : State) (launch run index : Nat) (f : Block → Block) : (s.onBlock launch run index f).dies = s.dies := rfl
@[simp] theorem State.onBlock_leader (s : State) (launch run index : Nat) (f : Block → Block) : (s.onBlock launch run index f).leader = s.leader := rfl
@[simp] theorem State.onBlock_ages (s : State) (launch run index : Nat) (f : Block → Block) : (s.onBlock launch run index f).ages = s.ages := rfl
@[simp] theorem State.onBlock_places (s : State) (launch run index : Nat) (f : Block → Block) : (s.onBlock launch run index f).places = s.places := rfl
@[simp] theorem State.onBlock_turn (s : State) (launch run index : Nat) (f : Block → Block) : (s.onBlock launch run index f).turn = s.turn := rfl
@[simp] theorem State.onBlock_laneStacks (s : State) (launch run index : Nat) (f : Block → Block) : (s.onBlock launch run index f).laneStacks = s.laneStacks := rfl
@[simp] theorem State.onBlock_fabric (s : State) (launch run index : Nat) (f : Block → Block) : (s.onBlock launch run index f).fabric = s.fabric := rfl
@[simp] theorem State.onBlock_scout (s : State) (launch run index : Nat) (f : Block → Block) : (s.onBlock launch run index f).scout = s.scout := rfl
@[simp] theorem State.onBlock_power (s : State) (launch run index : Nat) (f : Block → Block) : (s.onBlock launch run index f).power = s.power := rfl
@[simp] theorem State.onBlock_spdm (s : State) (launch run index : Nat) (f : Block → Block) : (s.onBlock launch run index f).spdm = s.spdm := rfl
@[simp] theorem State.onBlock_errs (s : State) (launch run index : Nat) (f : Block → Block) : (s.onBlock launch run index f).errs = s.errs := rfl
@[simp] theorem State.onBlock_agenda (s : State) (launch run index : Nat) (f : Block → Block) : (s.onBlock launch run index f).agenda = s.agenda := rfl
@[simp] theorem State.onBlock_stvec (s : State) (launch run index : Nat) (f : Block → Block) : (s.onBlock launch run index f).stvec = s.stvec := rfl
@[simp] theorem State.onBlock_fresh (s : State) (launch run index : Nat) (f : Block → Block) : (s.onBlock launch run index f).fresh = s.fresh := rfl

/-! ## pushAgenda -/

@[simp] theorem State.pushAgenda_part (s : State) (l : List Agenda) : (s.pushAgenda l).part = s.part := rfl
@[simp] theorem State.pushAgenda_cycle (s : State) (l : List Agenda) : (s.pushAgenda l).cycle = s.cycle := rfl
@[simp] theorem State.pushAgenda_cur (s : State) (l : List Agenda) : (s.pushAgenda l).cur = s.cur := rfl
@[simp] theorem State.pushAgenda_others (s : State) (l : List Agenda) : (s.pushAgenda l).others = s.others := rfl
@[simp] theorem State.pushAgenda_blocks (s : State) (l : List Agenda) : (s.pushAgenda l).blocks = s.blocks := rfl
@[simp] theorem State.pushAgenda_launches (s : State) (l : List Agenda) : (s.pushAgenda l).launches = s.launches := rfl
@[simp] theorem State.pushAgenda_nextLaunch (s : State) (l : List Agenda) : (s.pushAgenda l).nextLaunch = s.nextLaunch := rfl
@[simp] theorem State.pushAgenda_mem (s : State) (l : List Agenda) : (s.pushAgenda l).mem = s.mem := rfl
@[simp] theorem State.pushAgenda_queues (s : State) (l : List Agenda) : (s.pushAgenda l).queues = s.queues := rfl
@[simp] theorem State.pushAgenda_awaited (s : State) (l : List Agenda) : (s.pushAgenda l).awaited = s.awaited := rfl
@[simp] theorem State.pushAgenda_waitingRecs (s : State) (l : List Agenda) : (s.pushAgenda l).waitingRecs = s.waitingRecs := rfl
@[simp] theorem State.pushAgenda_nextTicket (s : State) (l : List Agenda) : (s.pushAgenda l).nextTicket = s.nextTicket := rfl
@[simp] theorem State.pushAgenda_bindings (s : State) (l : List Agenda) : (s.pushAgenda l).bindings = s.bindings := rfl
@[simp] theorem State.pushAgenda_nextBind (s : State) (l : List Agenda) : (s.pushAgenda l).nextBind = s.nextBind := rfl
@[simp] theorem State.pushAgenda_tenants (s : State) (l : List Agenda) : (s.pushAgenda l).tenants = s.tenants := rfl
@[simp] theorem State.pushAgenda_debts (s : State) (l : List Agenda) : (s.pushAgenda l).debts = s.debts := rfl
@[simp] theorem State.pushAgenda_period (s : State) (l : List Agenda) : (s.pushAgenda l).period = s.period := rfl
@[simp] theorem State.pushAgenda_dies (s : State) (l : List Agenda) : (s.pushAgenda l).dies = s.dies := rfl
@[simp] theorem State.pushAgenda_leader (s : State) (l : List Agenda) : (s.pushAgenda l).leader = s.leader := rfl
@[simp] theorem State.pushAgenda_ages (s : State) (l : List Agenda) : (s.pushAgenda l).ages = s.ages := rfl
@[simp] theorem State.pushAgenda_places (s : State) (l : List Agenda) : (s.pushAgenda l).places = s.places := rfl
@[simp] theorem State.pushAgenda_turn (s : State) (l : List Agenda) : (s.pushAgenda l).turn = s.turn := rfl
@[simp] theorem State.pushAgenda_laneStacks (s : State) (l : List Agenda) : (s.pushAgenda l).laneStacks = s.laneStacks := rfl
@[simp] theorem State.pushAgenda_fabric (s : State) (l : List Agenda) : (s.pushAgenda l).fabric = s.fabric := rfl
@[simp] theorem State.pushAgenda_scout (s : State) (l : List Agenda) : (s.pushAgenda l).scout = s.scout := rfl
@[simp] theorem State.pushAgenda_power (s : State) (l : List Agenda) : (s.pushAgenda l).power = s.power := rfl
@[simp] theorem State.pushAgenda_spdm (s : State) (l : List Agenda) : (s.pushAgenda l).spdm = s.spdm := rfl
@[simp] theorem State.pushAgenda_errs (s : State) (l : List Agenda) : (s.pushAgenda l).errs = s.errs := rfl
@[simp] theorem State.pushAgenda_stvec (s : State) (l : List Agenda) : (s.pushAgenda l).stvec = s.stvec := rfl
@[simp] theorem State.pushAgenda_fresh (s : State) (l : List Agenda) : (s.pushAgenda l).fresh = s.fresh := rfl

/-! ## Entries of the split table -/

@[simp] theorem Group.setEntry_entry_same (g : Group) (n : BitVec 3) (e : Split) : (g.setEntry n e).entry n = e := by
  simp [Group.setEntry, Group.entry]

theorem Group.setEntry_entry_other (g : Group) {n m : BitVec 3} (e : Split) (h : m ≠ n) :
    (g.setEntry n e).entry m = g.entry m := by
  have : n.toNat ≠ m.toNat := fun x => h (BitVec.eq_of_toNat_eq x.symm)
  simp [Group.setEntry, Group.entry, Vector.getElem_set_ne _ _ this]

@[simp] theorem State.onSp_cur_sp (s : State) (f : Split → Split) : (s.onSp f).cur.sp = f s.cur.sp := by
  simp [State.onSp, Group.sp, Group.setSp, Group.setEntry, Group.entry]

theorem State.onSp_cur_entry (s : State) (f : Split → Split) {n : BitVec 3} (h : n ≠ s.cur.running) :
    (s.onSp f).cur.entry n = s.cur.entry n := Group.setEntry_entry_other _ _ h

@[simp] theorem State.onRegs_cur_sp (s : State) (f : RegFile → RegFile) : (s.onRegs f).cur.sp = s.cur.sp := rfl
@[simp] theorem State.onRegs_cur_entry (s : State) (f : RegFile → RegFile) (n : BitVec 3) : (s.onRegs f).cur.entry n = s.cur.entry n := rfl
@[simp] theorem State.onCtl_cur_sp (s : State) (f : GroupRegs → GroupRegs) : (s.onCtl f).cur.sp = s.cur.sp := rfl
@[simp] theorem State.onCtl_cur_entry (s : State) (f : GroupRegs → GroupRegs) (n : BitVec 3) : (s.onCtl f).cur.entry n = s.cur.entry n := rfl

/-- A change of the running split touches the split table alone. -/
theorem State.onSp_eq (s : State) (f : Split → Split) : s.onSp f = { s with cur := { s.cur with splits := (s.onSp f).cur.splits } } := rfl

/-- Two changes of the running split are one. -/
theorem State.onSp_onSp (s : State) (f g : Split → Split) : (s.onSp f).onSp g = s.onSp fun e => g (f e) := by
  simp [State.onSp, Group.setSp, Group.setEntry, Group.sp, Group.entry]

/-- A change of the running split acts on its entry as it stands. -/
theorem State.onSp_congr (s : State) {f g : Split → Split} (h : f s.cur.sp = g s.cur.sp) : s.onSp f = s.onSp g := by
  simp [State.onSp, h]

/-- Setting the running split to what it is changes nothing. -/
theorem State.onSp_self (s : State) {f : Split → Split} (h : f s.cur.sp = s.cur.sp) : s.onSp f = s := by
  have e : s.cur.setSp s.cur.sp = s.cur := by
    simp [Group.setSp, Group.setEntry, Group.sp, Group.entry, Vector.set_getElem_self]
  simp [State.onSp, h, e]

end Sys2Proof.Machine
end

