-- ==== Sys2Proof/Laws/Regs.lean ====
section
/-! SUPPORT. Laws of the register files: a read after a write of the same register and of another, and the state of a
register (R9, R10). -/

namespace Sys2Proof.Machine

/-! ## v registers -/

/-- A lane of a made register. -/
theorem Lanes.get_mk (f : Fin 32 → Word) (l : Fin 32) : (Lanes.mk f).get l = f l := by
  simp [Lanes.mk, Lanes.get]

theorem RegFile.getV_putV_same (r : RegFile) (n : BitVec 8) (m : Word) (x : Lanes) (l : Fin 32) :
    ((r.putV n m x).getV n).get l = if maskBit m l then x.get l else (r.getV n).get l := by
  simp [RegFile.putV, RegFile.getV, Lanes.get_mk]

theorem RegFile.getV_putV_other (r : RegFile) {n k : BitVec 8} (m : Word) (x : Lanes) (h : k ≠ n) :
    (r.putV n m x).getV k = r.getV k := by
  have : n.toNat ≠ k.toNat := fun e => h (BitVec.eq_of_toNat_eq e.symm)
  simp [RegFile.putV, RegFile.getV, Vector.getElem_set_ne _ _ this]

@[simp] theorem RegFile.getV_setSt (r : RegFile) (x : RegSt) (g : Reg) (n : BitVec 8) : (r.setSt x g).getV n = r.getV n := by
  cases g <;> rfl
@[simp] theorem RegFile.getS_setSt (r : RegFile) (x : RegSt) (g : Reg) (n : BitVec 8) : (r.setSt x g).getS n = r.getS n := by
  cases g <;> rfl
@[simp] theorem RegFile.getK_setSt (r : RegFile) (x : RegSt) (g : Reg) (n : BitVec 8) : (r.setSt x g).getK n = r.getK n := by
  cases g <;> rfl
@[simp] theorem RegFile.getS_putV (r : RegFile) (n k : BitVec 8) (m : Word) (x : Lanes) : (r.putV n m x).getS k = r.getS k := rfl
@[simp] theorem RegFile.getK_putV (r : RegFile) (n k : BitVec 8) (m : Word) (x : Lanes) : (r.putV n m x).getK k = r.getK k := rfl
@[simp] theorem RegFile.getV_putS (r : RegFile) (n k : BitVec 8) (x : Word) : (r.putS n x).getV k = r.getV k := rfl
@[simp] theorem RegFile.getK_putS (r : RegFile) (n k : BitVec 8) (x : Word) : (r.putS n x).getK k = r.getK k := rfl
@[simp] theorem RegFile.stOf_putV (r : RegFile) (n : BitVec 8) (m : Word) (x : Lanes) (g : Reg) :
    (r.putV n m x).stOf g = r.stOf g := by cases g <;> rfl
@[simp] theorem RegFile.stOf_putS (r : RegFile) (n : BitVec 8) (x : Word) (g : Reg) : (r.putS n x).stOf g = r.stOf g := by
  cases g <;> rfl

/-! ## s registers -/

theorem RegFile.getS_putS_same (r : RegFile) (n : BitVec 8) (x : Word) : (r.putS n x).getS n = x := by
  simp [RegFile.putS, RegFile.getS]

theorem RegFile.getS_putS_other (r : RegFile) {n k : BitVec 8} (x : Word) (h : sIdx k ≠ sIdx n) :
    (r.putS n x).getS k = r.getS k := by
  simp [RegFile.putS, RegFile.getS, Vector.getElem_set_ne _ _ (Ne.symm h)]

/-- Numbers below 64 name different s registers. -/
theorem sIdx_ne {n k : BitVec 8} (hn : n.toNat < 64) (hk : k.toNat < 64) (h : k ≠ n) : sIdx k ≠ sIdx n := by
  unfold sIdx
  rw [Nat.mod_eq_of_lt hn, Nat.mod_eq_of_lt hk]
  exact fun e => h (BitVec.eq_of_toNat_eq e)

/-! ## k registers -/

/-- k0 discards a write (R9). -/
theorem RegFile.setK_zero (r : RegFile) {n : BitVec 8} (x : Word) (h : kIdx n = 0) : r.setK n x = r := by
  simp [RegFile.setK, h]

theorem RegFile.getK_setK_same (r : RegFile) {n : BitVec 8} (x : Word) (h : kIdx n ≠ 0) : (r.setK n x).getK n = x := by
  simp [RegFile.setK, RegFile.getK, h]

theorem RegFile.getK_setK_other (r : RegFile) {n k : BitVec 8} (x : Word) (h : kIdx k ≠ kIdx n) :
    (r.setK n x).getK k = r.getK k := by
  unfold RegFile.setK
  split
  · rfl
  · simp [RegFile.getK, Vector.getElem_set_ne _ _ (Ne.symm h)]

theorem kIdx_ne {n k : BitVec 8} (hn : n.toNat < 16) (hk : k.toNat < 16) (h : k ≠ n) : kIdx k ≠ kIdx n := by
  unfold kIdx
  rw [Nat.mod_eq_of_lt hn, Nat.mod_eq_of_lt hk]
  exact fun e => h (BitVec.eq_of_toNat_eq e)

@[simp] theorem RegFile.getV_setK (r : RegFile) (n k : BitVec 8) (x : Word) : (r.setK n x).getV k = r.getV k := by
  unfold RegFile.setK; split <;> rfl
@[simp] theorem RegFile.getS_setK (r : RegFile) (n k : BitVec 8) (x : Word) : (r.setK n x).getS k = r.getS k := by
  unfold RegFile.setK; split <;> rfl
@[simp] theorem RegFile.stOf_setK (r : RegFile) (n : BitVec 8) (x : Word) (g : Reg) : (r.setK n x).stOf g = r.stOf g := by
  unfold RegFile.setK; split
  · rfl
  · cases g <;> rfl

/-! ## States -/

theorem RegFile.stOf_setSt_v_same (r : RegFile) (x : RegSt) (n : BitVec 8) : (r.setSt x (.v n)).stOf (.v n) = x := by
  simp [RegFile.setSt, RegFile.stOf]

theorem RegFile.stOf_setSt_s_same (r : RegFile) (x : RegSt) (n : BitVec 8) : (r.setSt x (.s n)).stOf (.s n) = x := by
  simp [RegFile.setSt, RegFile.stOf]

theorem RegFile.stOf_setSt_v_other (r : RegFile) (x : RegSt) {n k : BitVec 8} (h : k ≠ n) :
    (r.setSt x (.v n)).stOf (.v k) = r.stOf (.v k) := by
  have : n.toNat ≠ k.toNat := fun e => h (BitVec.eq_of_toNat_eq e.symm)
  simp [RegFile.setSt, RegFile.stOf, Vector.getElem_set_ne _ _ this]

theorem RegFile.stOf_setSt_s_other (r : RegFile) (x : RegSt) {n k : BitVec 8} (h : sIdx k ≠ sIdx n) :
    (r.setSt x (.s n)).stOf (.s k) = r.stOf (.s k) := by
  simp [RegFile.setSt, RegFile.stOf, Vector.getElem_set_ne _ _ (Ne.symm h)]

@[simp] theorem RegFile.stOf_setSt_vs (r : RegFile) (x : RegSt) (n k : BitVec 8) : (r.setSt x (.v n)).stOf (.s k) = r.stOf (.s k) := rfl
@[simp] theorem RegFile.stOf_setSt_sv (r : RegFile) (x : RegSt) (n k : BitVec 8) : (r.setSt x (.s n)).stOf (.v k) = r.stOf (.v k) := rfl

/-! ## Writes of instructions -/

@[simp] theorem RegFile.getS_writeV (r : RegFile) (n k : BitVec 8) (m : Word) (x : Lanes) : (r.writeV n m x).getS k = r.getS k := rfl
@[simp] theorem RegFile.getK_writeV (r : RegFile) (n k : BitVec 8) (m : Word) (x : Lanes) : (r.writeV n m x).getK k = r.getK k := rfl
@[simp] theorem RegFile.getV_writeS (r : RegFile) (n k : BitVec 8) (x : Word) : (r.writeS n x).getV k = r.getV k := rfl
@[simp] theorem RegFile.getK_writeS (r : RegFile) (n k : BitVec 8) (x : Word) : (r.writeS n x).getK k = r.getK k := rfl
@[simp] theorem RegFile.stOf_writeV_s (r : RegFile) (n k : BitVec 8) (m : Word) (x : Lanes) : (r.writeV n m x).stOf (.s k) = r.stOf (.s k) := rfl
@[simp] theorem RegFile.stOf_writeS_v (r : RegFile) (n k : BitVec 8) (x : Word) : (r.writeS n x).stOf (.v k) = r.stOf (.v k) := rfl

@[simp] theorem RegFile.stOf_writeV_same (r : RegFile) (n : BitVec 8) (m : Word) (x : Lanes) : (r.writeV n m x).stOf (.v n) = .full :=
  RegFile.stOf_setSt_v_same _ _ _
@[simp] theorem RegFile.stOf_writeS_same (r : RegFile) (n : BitVec 8) (x : Word) : (r.writeS n x).stOf (.s n) = .full :=
  RegFile.stOf_setSt_s_same _ _ _

theorem RegFile.stOf_writeV_other (r : RegFile) {n k : BitVec 8} (m : Word) (x : Lanes) (h : k ≠ n) :
    (r.writeV n m x).stOf (.v k) = r.stOf (.v k) := by
  rw [RegFile.writeV, RegFile.stOf_setSt_v_other _ _ h, RegFile.stOf_putV]

theorem RegFile.stOf_writeS_other (r : RegFile) {n k : BitVec 8} (x : Word) (h : sIdx k ≠ sIdx n) :
    (r.writeS n x).stOf (.s k) = r.stOf (.s k) := by
  rw [RegFile.writeS, RegFile.stOf_setSt_s_other _ _ h, RegFile.stOf_putS]

theorem RegFile.getV_writeV_same (r : RegFile) (n : BitVec 8) (m : Word) (x : Lanes) (l : Fin 32) :
    ((r.writeV n m x).getV n).get l = if maskBit m l then x.get l else (r.getV n).get l := by
  rw [RegFile.writeV, RegFile.getV_setSt, RegFile.getV_putV_same]

theorem RegFile.getV_writeV_other (r : RegFile) {n k : BitVec 8} (m : Word) (x : Lanes) (h : k ≠ n) :
    (r.writeV n m x).getV k = r.getV k := by
  rw [RegFile.writeV, RegFile.getV_setSt, RegFile.getV_putV_other _ _ _ h]

@[simp] theorem RegFile.getS_writeS_same (r : RegFile) (n : BitVec 8) (x : Word) : (r.writeS n x).getS n = x := by
  rw [RegFile.writeS, RegFile.getS_setSt, RegFile.getS_putS_same]

theorem RegFile.getS_writeS_other (r : RegFile) {n k : BitVec 8} (x : Word) (h : sIdx k ≠ sIdx n) :
    (r.writeS n x).getS k = r.getS k := by
  rw [RegFile.writeS, RegFile.getS_setSt, RegFile.getS_putS_other _ _ h]

end Sys2Proof.Machine
end

