-- ==== Sys2Proof/Laws/Issue.lean ====
section
/-! SUPPORT. Laws of the issue of an instruction: when its effect is what `issue` answers, and what retiring leaves. -/

namespace Sys2Proof.Machine

/-- Sources that are FULL and unmarked are read at once. -/
theorem examine_ok {g : Group} {l : List Src}
    (h : ∀ x ∈ l, g.regs.stOf x.reg = .full ∧ g.regs.poisoned x.reg = false) : examine g l = .ok := by
  induction l with
  | nil => rfl
  | cons x l ih =>
    have hx := h x List.mem_cons_self
    simp only [examine, hx.1, hx.2]
    exact ih fun y hy => h y (List.mem_cons_of_mem _ hy)

/-- The sources of a plan are the row's and the extra ones. -/
theorem Plan.mem_srcs {p : Plan} {x : Src} (h : x ∈ p.srcs) : x ∈ sources p.row p.f ∨ x ∈ p.xsrc := by
  simp only [Plan.srcs, List.mem_flatMap, List.mem_filter, List.mem_append] at h
  obtain ⟨_, _, h, _⟩ := h
  exact h.imp (fun h => h.1) id

/-- An instruction whose checks pass has its effect. -/
theorem issue_passes {i : Instr} {p : Plan} {body : State → Res} {s : State} (h1 : p.vector = true → s.cur.exec ≠ 0)
    (h2 : p.err s.limits = none) (h3 : p.priv = none)
    (h4 : ∀ x ∈ p.srcs, s.cur.regs.stOf x.reg = .full ∧ s.cur.regs.poisoned x.reg = false)
    (h5 : ∀ r ∈ p.dsts, s.cur.producing r = false) : issue i p body s = finish i (body s) := by
  have h6 : p.dsts.any s.cur.producing = false := by
    simp only [List.any_eq_false]
    intro r hr
    simp [h5 r hr]
  unfold issue
  simp only [h2, h3, examine_ok h4, h6]
  split
  · next h => simp only [Bool.and_eq_true, decide_eq_true_eq] at h; exact absurd h.2 (h1 h.1)
  · rfl

/-- A vector form under an empty mask only retires (R50, R90). -/
theorem issue_empty {i : Instr} {p : Plan} {body : State → Res} {s : State} (h1 : p.vector = true) (h2 : s.cur.exec = 0) :
    issue i p body s = s.retire i := by
  unfold issue
  simp [h1, h2]

/-- The plan of a row alone fails where the row's fields fail. -/
theorem planOf_err (op : BitVec 7) (f : Fields) (lm : Limits) : (planOf op f).err lm = fieldErr lm (rowFor op f) f := by
  simp only [Plan.err, planOf]
  cases fieldErr lm (rowFor op f) f <;> rfl

/-- The same for a plan that always executes. -/
theorem planAlways_err (op : BitVec 7) (f : Fields) (lm : Limits) : (planAlways op f).err lm = fieldErr lm (rowFor op f) f := by
  simp only [Plan.err, planAlways]
  cases fieldErr lm (rowFor op f) f <;> rfl

/-- SIG of the running split when an instruction has been folded (R97, R333). -/
def State.sigFolded (s : State) (i : Instr) : Word :=
  match i.foldBits with
  | some b => if s.cur.folds then foldSig s.cur.sp.sig b else s.cur.sp.sig
  | none => s.cur.sp.sig

/-- Folding changes SIG of the running split alone. -/
theorem State.foldSp_eq (s : State) (i : Instr) : s.foldSp i = s.onSp fun e => { e with sig := s.sigFolded i } := by
  unfold State.foldSp State.sigFolded
  cases h : i.foldBits with
  | none => exact (State.onSp_self s rfl).symm
  | some b =>
    dsimp only
    split
    · exact State.onSp_congr s rfl
    · exact (State.onSp_self s rfl).symm

/-- Retiring changes the running split alone: SIG, the program counter, and a waiting half. -/
theorem State.retire_eq (s : State) (i : Instr) : s.retire i =
    s.onSp fun e => { e with sig := s.sigFolded i, pc := s.cur.sp.pc + BitVec.ofNat 56 i.size, half := false } := by
  rw [State.retire, State.foldSp_eq, State.goto, State.onSp_onSp]

/-- A write of a register does not change what is folded. -/
theorem State.sigFolded_onRegs (s : State) (i : Instr) (f : RegFile → RegFile) : (s.onRegs f).sigFolded i = s.sigFolded i := rfl

end Sys2Proof.Machine
end

