-- ==== Sys2Proof/Laws/Memory.lean ====
section
/-! SUPPORT. Laws of the memory list: a read after a write, and the canonical form that every operation keeps. -/

namespace Sys2Proof.Machine

/-! ## The canonical form -/

/-- The form of a list above an address, as a statement. -/
theorem Memory.risesFrom_cons (a k : Nat) (b : Byte) (m : Memory) :
    Memory.risesFrom a ((k, b) :: m) = true ↔ a < k ∧ b ≠ unlisted ∧ Memory.risesFrom k m = true := by
  simp [Memory.risesFrom, and_assoc]

/-- A list that rises above an address rises above every lower one. -/
theorem Memory.risesFrom_mono {a a' : Nat} {m : Memory} (h : a' ≤ a) (hm : Memory.risesFrom a m = true) :
    Memory.risesFrom a' m = true := by
  cases m with
  | nil => rfl
  | cons p m =>
    obtain ⟨k, b⟩ := p
    rw [Memory.risesFrom_cons] at hm ⊢
    exact ⟨by omega, hm.2⟩

/-- The canonical form of a list with a first entry. -/
theorem Memory.wf_cons (k : Nat) (b : Byte) (m : Memory) :
    Memory.wf ((k, b) :: m) = true ↔ b ≠ unlisted ∧ Memory.risesFrom k m = true := by
  simp [Memory.wf]

/-- A list that rises above an address is canonical. -/
theorem Memory.wf_of_risesFrom {a : Nat} {m : Memory} (h : Memory.risesFrom a m = true) : m.wf = true := by
  cases m with
  | nil => rfl
  | cons p m =>
    obtain ⟨k, b⟩ := p
    rw [Memory.risesFrom_cons] at h
    exact (Memory.wf_cons k b m).2 h.2

/-- Removal keeps the form. -/
theorem Memory.erase_risesFrom {c : Nat} {m : Memory} (a : Nat) (h : Memory.risesFrom c m = true) :
    Memory.risesFrom c (m.erase a) = true := by
  induction m generalizing c with
  | nil => rfl
  | cons p m ih =>
    obtain ⟨k, b⟩ := p
    have h' := (Memory.risesFrom_cons c k b m).1 h
    unfold Memory.erase
    split
    · exact Memory.risesFrom_mono (by omega) (ih h'.2.2)
    · exact (Memory.risesFrom_cons _ _ _ _).2 ⟨h'.1, h'.2.1, ih h'.2.2⟩

/-- Listing a byte that is not the unlisted one keeps the form. -/
theorem Memory.put_risesFrom {c : Nat} {m : Memory} {a : Nat} {x : Byte} (hx : x ≠ unlisted) (ha : c < a)
    (h : Memory.risesFrom c m = true) : Memory.risesFrom c (m.put a x) = true := by
  induction m generalizing c with
  | nil => simp [Memory.put, Memory.risesFrom, ha, hx]
  | cons p m ih =>
    obtain ⟨k, b⟩ := p
    have h' := (Memory.risesFrom_cons c k b m).1 h
    unfold Memory.put
    split
    · next e => subst e; exact (Memory.risesFrom_cons _ _ _ _).2 ⟨ha, hx, h'.2.2⟩
    · split
      · next e => exact (Memory.risesFrom_cons _ _ _ _).2 ⟨ha, hx, (Memory.risesFrom_cons _ _ _ _).2 ⟨e, h'.2⟩⟩
      · exact (Memory.risesFrom_cons _ _ _ _).2 ⟨h'.1, h'.2.1, ih (by omega) h'.2.2⟩

/-- Removal keeps the canonical form. -/
theorem Memory.erase_wf {m : Memory} (a : Nat) (h : m.wf = true) : (m.erase a).wf = true := by
  cases m with
  | nil => rfl
  | cons p m =>
    obtain ⟨k, b⟩ := p
    have h' := (Memory.wf_cons k b m).1 h
    unfold Memory.erase
    split
    · exact Memory.wf_of_risesFrom (Memory.erase_risesFrom a h'.2)
    · exact (Memory.wf_cons _ _ _).2 ⟨h'.1, Memory.erase_risesFrom a h'.2⟩

/-- Listing a byte that is not the unlisted one keeps the canonical form. -/
theorem Memory.put_wf {m : Memory} {a : Nat} {x : Byte} (hx : x ≠ unlisted) (h : m.wf = true) : (m.put a x).wf = true := by
  cases m with
  | nil => simp [Memory.put, Memory.wf, Memory.risesFrom, hx]
  | cons p m =>
    obtain ⟨k, b⟩ := p
    have h' := (Memory.wf_cons k b m).1 h
    unfold Memory.put
    split
    · next e => subst e; exact (Memory.wf_cons _ _ _).2 ⟨hx, h'.2⟩
    · split
      · next e => exact (Memory.wf_cons _ _ _).2 ⟨hx, (Memory.risesFrom_cons _ _ _ _).2 ⟨e, h'⟩⟩
      · exact (Memory.wf_cons _ _ _).2 ⟨h'.1, Memory.put_risesFrom hx (by omega) h'.2⟩

/-- A write keeps the canonical form. -/
theorem Memory.write_wf {m : Memory} (a : Nat) (x : Byte) (h : m.wf = true) : (m.write a x).wf = true := by
  unfold Memory.write
  split
  · exact Memory.erase_wf a h
  · next hx => exact Memory.put_wf hx h

/-- A write of bytes upward keeps the canonical form. -/
theorem Memory.writeN_wf {m : Memory} (a : Nat) (bs : List Byte) (h : m.wf = true) : (m.writeN a bs).wf = true := by
  induction bs generalizing m a with
  | nil => exact h
  | cons b bs ih => exact ih (a + 1) (Memory.write_wf a b h)

/-- A write of listed bytes keeps the canonical form. -/
theorem Memory.writeList_wf {m : Memory} (l : List (Nat × Byte)) (h : m.wf = true) : (m.writeList l).wf = true := by
  unfold Memory.writeList
  induction l generalizing m with
  | nil => exact h
  | cons p l ih => exact ih (Memory.write_wf p.1 p.2 h)

/-- What a list holds after a byte is listed. -/
theorem Memory.mem_put {m : Memory} {a : Nat} {x : Byte} {q : Nat × Byte} (h : q ∈ m.put a x) : q = (a, x) ∨ q ∈ m := by
  induction m with
  | nil => simpa [Memory.put] using h
  | cons p m ih =>
    obtain ⟨k, b⟩ := p
    unfold Memory.put at h
    split at h
    · obtain h | h := List.mem_cons.1 h
      · exact .inl h
      · exact .inr (List.mem_cons_of_mem _ h)
    · split at h
      · obtain h | h := List.mem_cons.1 h
        · exact .inl h
        · exact .inr h
      · obtain h | h := List.mem_cons.1 h
        · exact .inr (h ▸ List.mem_cons_self ..)
        · exact (ih h).imp id (List.mem_cons_of_mem _)

/-- Listing a byte keeps the order of addresses. -/
theorem Memory.put_rises {m : Memory} (a : Nat) (x : Byte) (h : m.rises) : (m.put a x).rises := by
  induction m with
  | nil => simp [Memory.put]
  | cons p m ih =>
    obtain ⟨k, b⟩ := p
    obtain ⟨hk, hm⟩ := List.pairwise_cons.1 h
    unfold Memory.put
    split
    · next e => subst e; exact List.pairwise_cons.2 ⟨hk, hm⟩
    · split
      · next hlt =>
        refine List.pairwise_cons.2 ⟨fun q hq => ?_, h⟩
        obtain rfl | hq := List.mem_cons.1 hq
        · exact hlt
        · exact Nat.lt_trans hlt (hk q hq)
      · refine List.pairwise_cons.2 ⟨fun q hq => ?_, ih hm⟩
        obtain rfl | hq := Memory.mem_put hq
        · exact Nat.lt_of_le_of_ne (Nat.le_of_not_lt ‹_›) ‹_›
        · exact hk q hq

/-- Listing bytes keeps the order of addresses. -/
theorem Memory.putList_rises {m : Memory} (l : List (Nat × Byte)) (h : m.rises) : (m.putList l).rises := by
  unfold Memory.putList
  induction l generalizing m with
  | nil => exact h
  | cons p l ih => exact ih (Memory.put_rises p.1 p.2 h)

/-! ## Reads after writes -/

/-- A listed byte reads back. -/
theorem Memory.byteAt_put_same (m : Memory) (a : Nat) (x : Byte) : byteAt (m.put a x) a = some x := by
  induction m with
  | nil => simp [Memory.put, byteAt]
  | cons p m ih =>
    obtain ⟨k, b⟩ := p
    unfold Memory.put
    split
    · simp [byteAt]
    · split
      · simp [byteAt]
      · next h1 _ => simpa [byteAt, h1] using ih

/-- Listing a byte leaves what is listed elsewhere alone. -/
theorem Memory.byteAt_put_other (m : Memory) {a c : Nat} (x : Byte) (h : c ≠ a) : byteAt (m.put a x) c = byteAt m c := by
  induction m with
  | nil => simp [Memory.put, byteAt, Ne.symm h]
  | cons p m ih =>
    obtain ⟨k, b⟩ := p
    unfold Memory.put
    split
    · next e => subst e; simp [byteAt, Ne.symm h]
    · split
      · simp [byteAt, Ne.symm h]
      · by_cases hk : k = c
        · simp [byteAt, hk]
        · simpa [byteAt, hk] using ih

/-- Reading a listed byte. -/
theorem Memory.read_put_same (m : Memory) (a : Nat) (x : Byte) : (m.put a x).read a = x := by
  induction m with
  | nil => simp [Memory.put, Memory.read]
  | cons p m ih =>
    obtain ⟨k, b⟩ := p
    unfold Memory.put
    split
    · simp [Memory.read]
    · split
      · simp [Memory.read]
      · next h1 _ => simp [Memory.read, h1, ih]

/-- Listing a byte leaves the others alone. -/
theorem Memory.read_put_other (m : Memory) {a c : Nat} (x : Byte) (h : c ≠ a) : (m.put a x).read c = m.read c := by
  induction m with
  | nil => simp [Memory.put, Memory.read, Ne.symm h]
  | cons p m ih =>
    obtain ⟨k, b⟩ := p
    unfold Memory.put
    split
    · next e => subst e; simp only [Memory.read, if_neg (Ne.symm h)]
    · split
      · simp only [Memory.read, if_neg (Ne.symm h)]
      · simp only [Memory.read, ih]

/-- Removal leaves the others alone, and the address reads as unlisted. -/
theorem Memory.read_erase (m : Memory) (a c : Nat) : (m.erase a).read c = if c = a then unlisted else m.read c := by
  induction m with
  | nil => simp [Memory.erase, Memory.read]
  | cons p m ih =>
    obtain ⟨k, b⟩ := p
    unfold Memory.erase
    split
    · next e =>
      subst e
      rw [ih]
      split
      · rfl
      · next e => simp only [Memory.read, if_neg (Ne.symm e)]
    · next e =>
      simp only [Memory.read, ih]
      split
      · next e1 => subst e1; rw [if_neg e]
      · rfl

/-- A read after a write to the same address. -/
theorem Memory.read_write_same (m : Memory) (a : Nat) (x : Byte) : (m.write a x).read a = x := by
  unfold Memory.write
  split
  · next e => rw [Memory.read_erase, if_pos rfl, e]
  · exact Memory.read_put_same m a x

/-- A read after a write to another address. -/
theorem Memory.read_write_other (m : Memory) {a c : Nat} (x : Byte) (h : c ≠ a) : (m.write a x).read c = m.read c := by
  unfold Memory.write
  split
  · rw [Memory.read_erase, if_neg h]
  · exact Memory.read_put_other m x h

/-- Bytes outside a write upward are unchanged. -/
theorem Memory.read_writeN_other (m : Memory) {a c : Nat} (bs : List Byte) (h : c < a ∨ a + bs.length ≤ c) :
    (m.writeN a bs).read c = m.read c := by
  induction bs generalizing m a with
  | nil => rfl
  | cons b bs ih =>
    simp only [List.length_cons] at h
    unfold Memory.writeN
    rw [ih _ (by omega), Memory.read_write_other m b (by omega)]

/-- The bytes of a write upward. -/
theorem Memory.read_writeN_at (m : Memory) (a i : Nat) (bs : List Byte) (h : i < bs.length) :
    (m.writeN a bs).read (a + i) = bs.getD i 0 := by
  induction bs generalizing m a i with
  | nil => simp at h
  | cons b bs ih =>
    unfold Memory.writeN
    cases i with
    | zero => rw [Memory.read_writeN_other _ _ (by omega)]; simpa using Memory.read_write_same m a b
    | succ i =>
      have := ih (m.write a b) (a + 1) i (by simpa using h)
      rw [show a + (i + 1) = a + 1 + i by omega, this]
      simp

/-- Bytes outside a list of written bytes are unchanged. -/
theorem Memory.read_writeList_other (m : Memory) {c : Nat} (l : List (Nat × Byte)) (h : ∀ p ∈ l, p.1 ≠ c) :
    (m.writeList l).read c = m.read c := by
  unfold Memory.writeList
  induction l generalizing m with
  | nil => rfl
  | cons p l ih =>
    simp only [List.foldl_cons]
    rw [ih _ (fun q hq => h q (List.mem_cons_of_mem _ hq)), Memory.read_write_other m p.2 (Ne.symm (h p List.mem_cons_self))]

/-- The bytes of a list in which no address stands twice. -/
theorem Memory.read_writeList_at (m : Memory) (l : List (Nat × Byte)) (p : Nat × Byte) (hp : p ∈ l) (hl : (l.map (·.1)).Nodup) :
    (m.writeList l).read p.1 = p.2 := by
  unfold Memory.writeList
  induction l generalizing m with
  | nil => simp at hp
  | cons q l ih =>
    simp only [List.map_cons, List.nodup_cons] at hl
    simp only [List.foldl_cons]
    rcases List.mem_cons.1 hp with e | e
    · subst e
      have := Memory.read_writeList_other (m.write p.1 p.2) (c := p.1) l
        (fun r hr hx => hl.1 (List.mem_map.2 ⟨r, hr, hx⟩))
      unfold Memory.writeList at this
      rw [this, Memory.read_write_same]
    · exact ih _ e hl.2

/-! ## Bytes and numbers -/

/-- Bytes of a number, read back, are the number modulo their range. -/
theorem leNat_leBytes (n x : Nat) : leNat (leBytes n x) = x % 256 ^ n := by
  induction n generalizing x with
  | zero => simp [leBytes, leNat, Nat.mod_one]
  | succ n ih =>
    simp only [leBytes, leNat, ih, BitVec.toNat_ofNat]
    rw [show 256 ^ (n + 1) = 256 * 256 ^ n by rw [Nat.pow_succ, Nat.mul_comm], Nat.mod_mul]

/-- The number of bytes. -/
theorem leBytes_length (n x : Nat) : (leBytes n x).length = n := by
  induction n generalizing x with
  | zero => rfl
  | succ n ih => simp [leBytes, ih]

end Sys2Proof.Machine
end

