-- ==== Sys2Proof/Laws/Order.lean ====
section
/-! SUPPORT. Laws of what the step does around an instruction: the order between splits, the registers of a pair (R171, R197). -/

namespace Sys2Proof.Machine

/-! ## onShadows: only what splits may miss changes -/

@[simp] theorem State.onShadows_part (s : State) (p : GRef → Bool) (f : Shadow → Shadow) : (s.onShadows p f).part = s.part := rfl
@[simp] theorem State.onShadows_cycle (s : State) (p : GRef → Bool) (f : Shadow → Shadow) : (s.onShadows p f).cycle = s.cycle := rfl
@[simp] theorem State.onShadows_blocks (s : State) (p : GRef → Bool) (f : Shadow → Shadow) : (s.onShadows p f).blocks = s.blocks := rfl
@[simp] theorem State.onShadows_launches (s : State) (p : GRef → Bool) (f : Shadow → Shadow) : (s.onShadows p f).launches = s.launches := rfl
@[simp] theorem State.onShadows_nextLaunch (s : State) (p : GRef → Bool) (f : Shadow → Shadow) : (s.onShadows p f).nextLaunch = s.nextLaunch := rfl
@[simp] theorem State.onShadows_laneStacks (s : State) (p : GRef → Bool) (f : Shadow → Shadow) : (s.onShadows p f).laneStacks = s.laneStacks := rfl
@[simp] theorem State.onShadows_mem (s : State) (p : GRef → Bool) (f : Shadow → Shadow) : (s.onShadows p f).mem = s.mem := rfl
@[simp] theorem State.onShadows_queues (s : State) (p : GRef → Bool) (f : Shadow → Shadow) : (s.onShadows p f).queues = s.queues := rfl
@[simp] theorem State.onShadows_awaited (s : State) (p : GRef → Bool) (f : Shadow → Shadow) : (s.onShadows p f).awaited = s.awaited := rfl
@[simp] theorem State.onShadows_waitingRecs (s : State) (p : GRef → Bool) (f : Shadow → Shadow) : (s.onShadows p f).waitingRecs = s.waitingRecs := rfl
@[simp] theorem State.onShadows_nextTicket (s : State) (p : GRef → Bool) (f : Shadow → Shadow) : (s.onShadows p f).nextTicket = s.nextTicket := rfl
@[simp] theorem State.onShadows_bindings (s : State) (p : GRef → Bool) (f : Shadow → Shadow) : (s.onShadows p f).bindings = s.bindings := rfl
@[simp] theorem State.onShadows_nextBind (s : State) (p : GRef → Bool) (f : Shadow → Shadow) : (s.onShadows p f).nextBind = s.nextBind := rfl
@[simp] theorem State.onShadows_tenants (s : State) (p : GRef → Bool) (f : Shadow → Shadow) : (s.onShadows p f).tenants = s.tenants := rfl
@[simp] theorem State.onShadows_debts (s : State) (p : GRef → Bool) (f : Shadow → Shadow) : (s.onShadows p f).debts = s.debts := rfl
@[simp] theorem State.onShadows_period (s : State) (p : GRef → Bool) (f : Shadow → Shadow) : (s.onShadows p f).period = s.period := rfl
@[simp] theorem State.onShadows_dies (s : State) (p : GRef → Bool) (f : Shadow → Shadow) : (s.onShadows p f).dies = s.dies := rfl
@[simp] theorem State.onShadows_leader (s : State) (p : GRef → Bool) (f : Shadow → Shadow) : (s.onShadows p f).leader = s.leader := rfl
@[simp] theorem State.onShadows_ages (s : State) (p : GRef → Bool) (f : Shadow → Shadow) : (s.onShadows p f).ages = s.ages := rfl
@[simp] theorem State.onShadows_places (s : State) (p : GRef → Bool) (f : Shadow → Shadow) : (s.onShadows p f).places = s.places := rfl
@[simp] theorem State.onShadows_turn (s : State) (p : GRef → Bool) (f : Shadow → Shadow) : (s.onShadows p f).turn = s.turn := rfl
@[simp] theorem State.onShadows_fabric (s : State) (p : GRef → Bool) (f : Shadow → Shadow) : (s.onShadows p f).fabric = s.fabric := rfl
@[simp] theorem State.onShadows_scout (s : State) (p : GRef → Bool) (f : Shadow → Shadow) : (s.onShadows p f).scout = s.scout := rfl
@[simp] theorem State.onShadows_power (s : State) (p : GRef → Bool) (f : Shadow → Shadow) : (s.onShadows p f).power = s.power := rfl
@[simp] theorem State.onShadows_spdm (s : State) (p : GRef → Bool) (f : Shadow → Shadow) : (s.onShadows p f).spdm = s.spdm := rfl
@[simp] theorem State.onShadows_errs (s : State) (p : GRef → Bool) (f : Shadow → Shadow) : (s.onShadows p f).errs = s.errs := rfl
@[simp] theorem State.onShadows_agenda (s : State) (p : GRef → Bool) (f : Shadow → Shadow) : (s.onShadows p f).agenda = s.agenda := rfl
@[simp] theorem State.onShadows_stvec (s : State) (p : GRef → Bool) (f : Shadow → Shadow) : (s.onShadows p f).stvec = s.stvec := rfl
@[simp] theorem State.onShadows_fresh (s : State) (p : GRef → Bool) (f : Shadow → Shadow) : (s.onShadows p f).fresh = s.fresh := rfl

/-- The running group changes in its shadow alone. -/
theorem State.onShadows_cur (s : State) (p : GRef → Bool) (f : Shadow → Shadow) :
    (s.onShadows p f).cur = { s.cur with shadow := (s.onShadows p f).cur.shadow } := by
  unfold State.onShadows State.mapGroups
  dsimp only
  split <;> rfl

/-- An update of shadows is one of the running group's and of the others'. -/
theorem State.onShadows_eq (s : State) (p : GRef → Bool) (f : Shadow → Shadow) :
    s.onShadows p f = { s with cur := (s.onShadows p f).cur, others := (s.onShadows p f).others } := rfl

/-! ## The registers of a pair (R171) -/

/-- A split that issues alone, or first, finds the registers as they stand. -/
theorem State.atCycleStart_single {s : State} (h : s.turn.second = false) : s.atCycleStart = s := by
  unfold State.atCycleStart; rw [h]

/-- Nothing is put together after it. -/
theorem State.rejoin_single {s : State} (t : State) (h : s.turn.second = false) : s.rejoin t = t := by
  unfold State.rejoin; simp [h]

end Sys2Proof.Machine
end

