-- ==== Sys2Proof/Tests/Slice0.lean ====
section
/-! SUPPORT. Tests: words decoded by the encoding tables, ill-formed terms refused, one step of a small state, and for every
statement of Obligations.lean states and operands that meet the hypotheses of each of its clauses. -/

set_option Elab.async false

namespace Sys2Proof.Tests
open Machine Spec

/-- A part that has come up, with one resident group of a fresh launch: 32 lanes, registers FULL and zero. -/
def st : State := State.reset.withFetchWord 32 0

/-- The same with the running group changed. -/
def stG (f : Group → Group) : State := { st with cur := f st.cur }

/-- The same with a handler named. -/
def stH : State := stG fun g => { g with ctl := { g.ctl with utvec := 0x1000 } }

/-- The same with registers changed. -/
def stR (f : RegFile → RegFile) : State := stG fun g => { g with regs := f g.regs, ctl := { g.ctl with utvec := 0x1000 } }

/-- The same with the entry of the running split changed. -/
def stS (f : Split → Split) : State := stG fun g => { g.setSp (f g.sp) with ctl := { g.ctl with utvec := 0x1000 } }


/-- NOP as the first instruction after placing: the next program counter. -/
theorem test_nop_steps : (match step (State.reset.withFetchWord 32 0) with
    | .next t => t.cur.sp.pc
    | _ => 0) = 0x100000004#56 := by decide +kernel

/-! ## Decoding: every constructor that words stand for, by a word written from R30 to R47 -/

theorem test_decode_control_1 :
    decode [0x0] = some .nop ∧
    decode [0x5, 0x0, 0xFFFFFFF4] = some (.bra { form := .e, w2 := 0xFFFFFFF4 }) ∧
    decode [0x1E0009, 0x0, 0x8] = some (.brc { form := .e, a := 15, w2 := 8 }) ∧
    decode [0x7C000C] = some (.brx { form := .b, a := 62 }) ∧
    decode [0x7811, 0x0, 0x7FFFFFFC] = some (.call { form := .e, d := 60, w2 := 0x7FFFFFFC }) ∧
    decode [0x47414] = some (.callx { form := .b, d := 58, a := 2 }) ∧
    decode [0x780018] = some (.ret { form := .b, a := 60 }) ∧
    decode [0x1C] = some .exit := by decide +kernel

theorem test_decode_control_2 :
    decode [0x120E21, 0x0, 0x10] = some (.jset { form := .e, d := 7, a := 9, w2 := 16 }) ∧
    decode [0xC24] = some (.jarv { form := .b, d := 6 }) ∧
    decode [0xA7E28] = some (.jqry { form := .b, d := 63, a := 5 }) ∧
    decode [0x422D, 0x0, 0x105] = some (.splq { form := .e, d := 33, w2 := 0x105 }) ∧
    decode [0x30] = some .yield ∧
    decode [0x35, 0x0, 0xCAFEF00D] = some (.trap { form := .e, w2 := 0xCAFEF00D }) ∧
    decode [0x38] = some (.tret { form := .b }) ∧
    decode [0x39, 0x100000, 0x0] = some (.tretNext { form := .e, sub := 1 }) := by decide +kernel

theorem test_decode_control_3 :
    decode [0x3C] = some .bkpt ∧
    decode [0x41, 0x0, 0x12345678] = some (.sigchk { form := .e, w2 := 0x12345678 }) ∧
    decode [0x2244] = some (.sigrd { form := .b, d := 17 }) := by decide +kernel

theorem test_decode_masks_1 :
    decode [0x1A1C49, 0xC, 0x0] = some (.kand { form := .e, d := 14, a := 13, b := 12, sub := 0 }) ∧
    decode [0x1A1C49, 0x10000C, 0x0] = some (.kor { form := .e, d := 14, a := 13, b := 12, sub := 1 }) ∧
    decode [0x1A1C49, 0x20000C, 0x0] = some (.kxor { form := .e, d := 14, a := 13, b := 12, sub := 2 }) ∧
    decode [0x1A1C49, 0x30000C, 0x0] = some (.kandn { form := .e, d := 14, a := 13, b := 12, sub := 3 }) ∧
    decode [0x1E0249, 0x400000, 0x0] = some (.knot { form := .e, d := 1, a := 15, sub := 4 }) ∧
    decode [0x21E49, 0x500000, 0x0] = some (.kmov { form := .e, d := 15, a := 1, sub := 5 }) ∧
    decode [0x6504D, 0x0, 0x0] = some (.kpopc { form := .e, d := 40, a := 3, sub := 0 }) ∧
    decode [0x8524D, 0x100000, 0x0] = some (.kffs { form := .e, d := 41, a := 4, sub := 1 }) := by decide +kernel

theorem test_decode_masks_2 :
    decode [0x1900A4D, 0x200000, 0x0] = some (.kvote { form := .e, d := 5, a := 200, sub := 2 }) ∧
    decode [0xD924D, 0x300000, 0x0] = some (.ktov { form := .e, d := 201, a := 6, sub := 3 }) := by decide +kernel

theorem test_decode_integer_1 :
    decode [0x7E224450] = some (.iadd { form := .b, u := false, b6 := 63, a := 17, d := 34 }) ∧
    decode [0xFC244654] = some (.isub { form := .b, u := true, b6 := 62, a := 18, d := 35 }) ∧
    decode [0x7A26485C] = some (.imul { form := .b, u := false, b6 := 61, a := 19, d := 36 }) ∧
    decode [0xF8284A60] = some (.imulh { form := .b, u := true, b6 := 60, a := 20, d := 37 }) ∧
    decode [0x762A4C68] = some (.imin { form := .b, u := false, b6 := 59, a := 21, d := 38 }) ∧
    decode [0xF42C4E6C] = some (.imax { form := .b, u := true, b6 := 58, a := 22, d := 39 }) ∧
    decode [0x722E5070] = some (.and { form := .b, u := false, b6 := 57, a := 23, d := 40 }) ∧
    decode [0xF0305274] = some (.or { form := .b, u := true, b6 := 56, a := 24, d := 41 }) := by decide +kernel

theorem test_decode_integer_2 :
    decode [0x6E325478] = some (.xor { form := .b, u := false, b6 := 55, a := 25, d := 42 }) ∧
    decode [0xEC34567C] = some (.andn { form := .b, u := true, b6 := 54, a := 26, d := 43 }) ∧
    decode [0x6A365880] = some (.shl { form := .b, u := false, b6 := 53, a := 27, d := 44 }) ∧
    decode [0xE8385A84] = some (.shr { form := .b, u := true, b6 := 52, a := 28, d := 45 }) ∧
    decode [0x663A5C88] = some (.sar { form := .b, u := false, b6 := 51, a := 29, d := 46 }) ∧
    decode [0xE43C5E8C] = some (.rotl { form := .b, u := true, b6 := 50, a := 30, d := 47 }) ∧
    decode [0x154AA98] = some (.not { form := .b, a := 170, d := 85 }) ∧
    decode [0x80542AA8] = some (.mov { form := .b, u := true, a := 42, d := 21 }) := by decide +kernel

theorem test_decode_integer_3 :
    decode [0x10B2, 0x55667788, 0x11223344] = some (.movl { form := .l, d := 8, lit := 0x1122334455667788 }) := by decide +kernel

theorem test_decode_integerExt_1 :
    decode [0xC99051, 0x700000FF, 0xFFFFFF80] = some (.iaddExt { form := .e, b := 255, bs := true, w2 := 0xFFFFFF80, mod3 := 6, d := 200, a := 100 }) ∧
    decode [0x80080655, 0x6B000015, 0x0] = some (.isubExt { form := .e, u := true, b := 21, mod3 := 5, fe := 3, d := 3, a := 4, bs := true }) ∧
    decode [0x14125E, 0x80000000, 0xFFFFFFFF] = some (.imulExt { form := .l, d := 9, a := 10, lit := 0xFFFFFFFF80000000 }) ∧
    decode [0x180C63, 0x580000FF, 0x0, 0x3, 0x80000000] = some (.imulhExt { form := .x, b := 255, bs := true, mod3 := 3, d := 6, a := 12, lit := 0x8000000000000003 }) ∧
    decode [0xD19869, 0x700000FF, 0xFFFFFF84] = some (.iminExt { form := .e, b := 255, bs := true, w2 := 0xFFFFFF84, mod3 := 6, d := 204, a := 104 }) ∧
    decode [0x8008066D, 0x6B000019, 0x0] = some (.imaxExt { form := .e, u := true, b := 25, mod3 := 5, fe := 3, d := 3, a := 4, bs := true }) ∧
    decode [0x141272, 0x80000000, 0xFFFFFFFF] = some (.andExt { form := .l, d := 9, a := 10, lit := 0xFFFFFFFF80000000 }) ∧
    decode [0x381C77, 0x580000FF, 0x0, 0x7, 0x80000000] = some (.orExt { form := .x, b := 255, bs := true, mod3 := 3, d := 14, a := 28, lit := 0x8000000000000007 }) := by decide +kernel

theorem test_decode_integerExt_2 :
    decode [0xD9A079, 0x700000FF, 0xFFFFFF88] = some (.xorExt { form := .e, b := 255, bs := true, w2 := 0xFFFFFF88, mod3 := 6, d := 208, a := 108 }) ∧
    decode [0x8008067D, 0x6B00001D, 0x0] = some (.andnExt { form := .e, u := true, b := 29, mod3 := 5, fe := 3, d := 3, a := 4, bs := true }) ∧
    decode [0x141282, 0x80000000, 0xFFFFFFFF] = some (.shlExt { form := .l, d := 9, a := 10, lit := 0xFFFFFFFF80000000 }) ∧
    decode [0x582C87, 0x580000FF, 0x0, 0x1F, 0x0] = some (.shrExt { form := .x, b := 255, bs := true, mod3 := 3, d := 22, a := 44, lit := 31 }) ∧
    decode [0xE1A889, 0x700000FF, 0xFFFFFF8C] = some (.sarExt { form := .e, b := 255, bs := true, w2 := 0xFFFFFF8C, mod3 := 6, d := 212, a := 112 }) ∧
    decode [0x8008068D, 0x6B000021, 0x0] = some (.rotlExt { form := .e, u := true, b := 33, mod3 := 5, fe := 3, d := 3, a := 4, bs := true }) ∧
    decode [0xC1099, 0x18000000, 0x0] = some (.notExt { form := .e, mod3 := 3, a := 6, d := 8 }) ∧
    decode [0x12A9, 0x400000FF, 0xFFFFFFFF] = some (.movExt { form := .e, d := 9, b := 255, bs := true, w2 := 0xFFFFFFFF }) := by decide +kernel

theorem test_decode_integerExt_3 :
    decode [0x20859, 0xC7000302, 0x0] = some (.iadd3 { form := .e, a := 1, b := 2, c := 3, d := 4, bs := true, cs := true, fe := 7 }) ∧
    decode [0x41065, 0x38000604, 0x0] = some (.imad { form := .e, mod3 := 7, a := 2, b := 4, c := 6, d := 8 }) ∧
    decode [0x20891, 0x302, 0x0] = some (.bfx { form := .e, a := 1, b := 2, c := 3, d := 4 }) ∧
    decode [0x20897, 0xC00021FF, 0x0, 0x5, 0x0] = some (.bfi { form := .x, a := 1, b := 255, bs := true, c := 33, cs := true, d := 4, lit := 5 }) ∧
    decode [0x8CA09D, 0x8000000, 0x0] = some (.iabs { form := .e, a := 70, d := 80, sub := 0, mod3 := 1 }) ∧
    decode [0x8EA29D, 0x10100000, 0x0] = some (.ineg { form := .e, a := 71, d := 81, sub := 1, mod3 := 2 }) ∧
    decode [0x90A49D, 0x20200000, 0x0] = some (.popc { form := .e, a := 72, d := 82, sub := 2, mod3 := 4 }) ∧
    decode [0x92A69D, 0x28300000, 0x0] = some (.clz { form := .e, a := 73, d := 83, sub := 3, mod3 := 5 }) := by decide +kernel

theorem test_decode_integerExt_4 :
    decode [0x94A89D, 0x30400000, 0x0] = some (.ctz { form := .e, a := 74, d := 84, sub := 4, mod3 := 6 }) ∧
    decode [0x96AA9D, 0x500000, 0x0] = some (.brev { form := .e, a := 75, d := 85, sub := 5, mod3 := 0 }) ∧
    decode [0xC0AA1, 0x10500007, 0x0] = some (.icmp { form := .e, d := 5, a := 6, b := 7, sub := 5, mod3 := 2 }) ∧
    decode [0xC0AA5, 0x807, 0x0] = some (.isel { form := .e, d := 5, a := 6, b := 7, c := 8, bs := false }) ∧
    decode [0x1FEAD, 0x0, 0x80000001] = some (.movi { form := .e, d := 255, w2 := 0x80000001 }) ∧
    decode [0x1208B5, 0x40000002, 0x40] = some (.lea { form := .e, u := false, d := 4, a := 9, bs := true, b := 2, w2 := 64 }) := by decide +kernel

theorem test_decode_lanes_1 :
    decode [0x402B9, 0x300003, 0x0] = some (.shfl { form := .e, d := 1, a := 2, b := 3, sub := 3 }) ∧
    decode [0x402BD, 0x40000021, 0x0] = some (.bcast { form := .e, d := 1, a := 2, b := 33, bs := true }) ∧
    decode [0x1A18C1, 0x30500000, 0x0] = some (.ired { form := .e, d := 12, a := 13, sub := 5, mod3 := 6 }) ∧
    decode [0x1A18C5, 0x100000, 0x0] = some (.ipsum { form := .e, d := 12, a := 13, sub := 1, mod3 := 0 }) ∧
    decode [0x402C9, 0x3, 0x76543210] = some (.bmix { form := .e, d := 1, a := 2, b := 3, w2 := 0x76543210 }) := by decide +kernel

theorem test_decode_float_1 :
    decode [0x500612D0] = some (.fadd { form := .b, a := 3, d := 9, b6 := 40 }) ∧
    decode [0x520814D4] = some (.fsub { form := .b, a := 4, d := 10, b6 := 41 }) ∧
    decode [0x540A16D8] = some (.fmul { form := .b, a := 5, d := 11, b6 := 42 }) ∧
    decode [0x560C18E0] = some (.fmin { form := .b, a := 6, d := 12, b6 := 43 }) ∧
    decode [0x580E1AE4] = some (.fmax { form := .b, a := 7, d := 13, b6 := 44 }) ∧
    decode [0x101CEC] = some (.frcp { form := .b, a := 8, d := 14 }) ∧
    decode [0x121EF0] = some (.frsq { form := .b, a := 9, d := 15 }) ∧
    decode [0x1420F4] = some (.fsqrt { form := .b, a := 10, d := 16 }) := by decide +kernel

theorem test_decode_float_2 :
    decode [0x1622F8] = some (.fexp2 { form := .b, a := 11, d := 17 }) ∧
    decode [0x1824FC] = some (.flog2 { form := .b, a := 12, d := 18 }) ∧
    decode [0x1A2700] = some (.fsinp { form := .b, a := 13, d := 19 }) ∧
    decode [0x1C2904] = some (.fcosp { form := .b, a := 14, d := 20 }) ∧
    decode [0x1E2B08] = some (.frint { form := .b, a := 15, d := 21 }) ∧
    decode [0x202D0C] = some (.fclass { form := .b, a := 16, d := 22 }) := by decide +kernel

theorem test_decode_floatExt_1 :
    decode [0x612D1, 0x188000C8, 0x0] = some (.faddExt { form := .e, a := 3, d := 9, sub := 8, b := 200, mod3 := 3 }) ∧
    decode [0x814D5, 0x181000C9, 0x0] = some (.fsubExt { form := .e, a := 4, d := 10, sub := 1, b := 201, mod3 := 3 }) ∧
    decode [0xA16D9, 0x182000CA, 0x0] = some (.fmulExt { form := .e, a := 5, d := 11, sub := 2, b := 202, mod3 := 3 }) ∧
    decode [0xC18E1, 0x9000CB, 0x0] = some (.fminExt { form := .e, a := 6, d := 12, sub := 9, b := 203 }) ∧
    decode [0xE1AE5, 0xA000CC, 0x0] = some (.fmaxExt { form := .e, a := 7, d := 13, sub := 10, b := 204 }) ∧
    decode [0x101CED, 0x800000, 0x0] = some (.frcpExt { form := .e, a := 8, d := 14, sub := 8 }) ∧
    decode [0x121EF1, 0x100000, 0x0] = some (.frsqExt { form := .e, a := 9, d := 15, sub := 1 }) ∧
    decode [0x1420F5, 0x200000, 0x0] = some (.fsqrtExt { form := .e, a := 10, d := 16, sub := 2 }) := by decide +kernel

theorem test_decode_floatExt_2 :
    decode [0x1622F9, 0x900000, 0x0] = some (.fexp2Ext { form := .e, a := 11, d := 17, sub := 9 }) ∧
    decode [0x1824FD, 0xA00000, 0x0] = some (.flog2Ext { form := .e, a := 12, d := 18, sub := 10 }) ∧
    decode [0x1A2701, 0x800000, 0x0] = some (.fsinpExt { form := .e, a := 13, d := 19, sub := 8 }) ∧
    decode [0x1C2905, 0x100000, 0x0] = some (.fcospExt { form := .e, a := 14, d := 20, sub := 1 }) ∧
    decode [0x1E2B09, 0x18200000, 0x0] = some (.frintExt { form := .e, a := 15, d := 21, sub := 2, mod3 := 3 }) ∧
    decode [0x202D0D, 0x900000, 0x0] = some (.fclassExt { form := .e, a := 16, d := 22, sub := 9 }) ∧
    decode [0x208DD, 0x14800302, 0x0] = some (.ffma { form := .e, a := 1, b := 2, c := 3, d := 4, mod3 := 2, fe := 4, sub := 8 }) ∧
    decode [0xC0AE9, 0x38000007, 0x0] = some (.fcmp { form := .e, d := 5, a := 6, b := 7, mod3 := 7 }) := by decide +kernel

theorem test_decode_floatExt_3 :
    decode [0x40311, 0x8F00000, 0x0] = some (.fcvt { form := .e, d := 1, a := 2, sub := 15, mod3 := 1 }) ∧
    decode [0x40315, 0x18200003, 0x0] = some (.fpack { form := .e, d := 1, a := 2, b := 3, sub := 2, mod3 := 3 }) ∧
    decode [0xE0519, 0x100000, 0x0] = some (.funpk { form := .e, d := 2, a := 7, sub := 1 }) := by decide +kernel

theorem test_decode_class_1 :
    decode [0x20721, 0xF0002, 0x0] = some (.cadd { form := .e, a := 1, b := 2, d := 3, cls := 15 }) ∧
    decode [0x20725, 0xE0002, 0x0] = some (.csub { form := .e, a := 1, b := 2, d := 3, cls := 14 }) ∧
    decode [0x20729, 0xD0002, 0x0] = some (.cmul { form := .e, a := 1, b := 2, d := 3, cls := 13 }) ∧
    decode [0x2092D, 0x80302, 0x0] = some (.cfma { form := .e, a := 1, b := 2, c := 3, d := 4, cls := 8 }) ∧
    decode [0x20731, 0x20002, 0x0] = some (.cmin { form := .e, a := 1, b := 2, d := 3, cls := 2 }) ∧
    decode [0x20735, 0x10002, 0x0] = some (.cmax { form := .e, a := 1, b := 2, d := 3, cls := 1 }) ∧
    decode [0x20739, 0x490000, 0x0] = some (.ccvt { form := .e, a := 1, d := 3, cls := 9, sub := 4 }) ∧
    decode [0x1F4793D, 0x270000, 0x0] = some (.cred { form := .e, a := 250, d := 60, cls := 7, sub := 2 }) := by decide +kernel

theorem test_decode_class_2 :
    decode [0x1F45141, 0x40070029, 0x0] = some (.cqnt { form := .e, a := 250, d := 40, b := 41, bs := true, cls := 7 }) ∧
    decode [0x51F545, 0x40070029, 0x0] = some (.cdq { form := .e, a := 40, d := 250, b := 41, bs := true, cls := 7 }) ∧
    decode [0x20749, 0x40000, 0x0] = some (.cchk { form := .e, a := 1, d := 3, cls := 4 }) ∧
    decode [0x2054D, 0x40040004, 0x8] = some (.clea { form := .e, a := 1, d := 2, b := 4, bs := true, cls := 4, w2 := 8 }) := by decide +kernel

theorem test_decode_memory_1 :
    decode [0x121161, 0x60600002, 0xFFFFFFF0] = some (.ld { form := .e, a := 9, d := 8, b := 2, bs := true, sub := 6, mod3 := 4, w2 := 0xFFFFFFF0 }) ∧
    decode [0x80120165, 0xC8500C02, 0x0] = some (.st { form := .e, u := true, a := 9, b := 2, bs := true, c := 12, cs := true, sub := 5, mod3 := 1 }) ∧
    decode [0x120F6B, 0x400300FF, 0x4, 0x0, 0x2] = some (.cld { form := .x, a := 9, d := 7, b := 255, bs := true, cls := 3, w2 := 4, lit := 0x200000000 }) ∧
    decode [0x12016D, 0x40030704, 0x0] = some (.cst { form := .e, a := 9, c := 7, b := 4, bs := true, cls := 3 }) ∧
    decode [0xE121171, 0x58701402, 0x0] = some (.atom { form := .e, b6 := 7, a := 9, d := 8, b := 2, bs := true, c := 20, sub := 7, mod3 := 3 }) ∧
    decode [0xC120175, 0x50501502, 0x0] = some (.red { form := .e, b6 := 6, a := 9, b := 2, bs := true, c := 21, sub := 5, mod3 := 2 }) ∧
    decode [0x178] = some (.fence { form := .b }) ∧
    decode [0x179, 0x20200000, 0x0] = some (.fenceExt { form := .e, sub := 2, mod3 := 4 }) := by decide +kernel

theorem test_decode_memory_2 :
    decode [0x80087D7D, 0xC0100806, 0x1000] = some (.cpasync { form := .e, u := true, a := 4, b := 6, bs := true, c := 8, cs := true, d := 62, sub := 1, w2 := 0x1000 }) ∧
    decode [0x1900181, 0xC0000806, 0x20] = some (.gather { form := .e, a := 200, b := 6, bs := true, c := 8, cs := true, w2 := 32 }) ∧
    decode [0x120185, 0x40100002, 0x40] = some (.pref { form := .e, a := 9, b := 2, bs := true, sub := 1, w2 := 64 }) ∧
    decode [0x188] = some .codesync ∧
    decode [0xA7F8C] = some (.waitcnt { form := .b, a := 5, d := 63 }) ∧
    decode [0x44390] = some (.cntrd { form := .b, a := 2, d := 33 }) := by decide +kernel

theorem test_decode_sync_1 :
    decode [0x1A1, 0x18000000, 0x3] = some (.bar { form := .e, mod3 := 3, w2 := 3 }) ∧
    decode [0x1A5, 0x8000000, 0xF] = some (.bararv { form := .e, mod3 := 1, w2 := 15 }) ∧
    decode [0x1A9, 0x10000000, 0x7] = some (.barwt { form := .e, mod3 := 2, w2 := 7 }) ∧
    decode [0x801AD, 0x0, 0x9] = some (.tbinit { form := .e, a := 4, w2 := 9 }) ∧
    decode [0x801AD, 0x100000, 0x1000] = some (.tbexp { form := .e, a := 4, sub := 1, w2 := 0x1000 }) ∧
    decode [0x843AD, 0x200000, 0x0] = some (.tbarv { form := .e, a := 4, d := 33, sub := 2 }) ∧
    decode [0x801AD, 0x40300021, 0x0] = some (.tbwait { form := .e, a := 4, b := 33, bs := true, sub := 3 }) ∧
    decode [0x19001B1, 0x40050021, 0x3] = some (.crput { form := .e, a := 200, b := 33, bs := true, cls := 5, w2 := 3 }) := by decide +kernel

theorem test_decode_sync_2 :
    decode [0x1191B5, 0x40050021, 0x3] = some (.crget { form := .e, a := 8, d := 200, b := 33, bs := true, cls := 5, w2 := 3 }) ∧
    decode [0x80047FB9, 0x40000004, 0x0] = some (.launch { form := .e, u := true, a := 2, b := 4, bs := true, d := 63 }) ∧
    decode [0x29E1, 0x0, 0x805] = some (.mfs { form := .e, d := 20, w2 := 0x805 }) ∧
    decode [0x2801E5, 0x0, 0x405] = some (.mts { form := .e, a := 20, w2 := 0x405 }) ∧
    decode [0x802801E5, 0x0, 0x10] = some (.mtsExec { form := .e, u := true, a := 20, w2 := 16 }) ∧
    decode [0x205E9, 0x40000006, 0xABCD] = some (.rngc { form := .e, a := 1, d := 2, b := 6, bs := true, w2 := 0xABCD }) ∧
    decode [0x800C01ED, 0x0, 0x7] = some (.srseed { form := .e, u := true, a := 6, w2 := 7 }) ∧
    decode [0x29ED, 0x100000, 0x1] = some (.caprd { form := .e, d := 20, sub := 1, w2 := 1 }) := by decide +kernel

theorem test_decode_matrix_1 :
    decode [0xE01C1, 0x0, 0x0] = some (.mbeg { form := .e, a := 7 }) ∧
    decode [0xC01C1, 0x100000, 0x0] = some (.mend { form := .e, a := 6, sub := 1 }) ∧
    decode [0x100FC5, 0x4032000C, 0x1F3F] = some (.mma { form := .e, a := 8, b := 12, bs := true, d := 7, cls := 2, sub := 3, w2 := 0x1F3F }) ∧
    decode [0x1FE0FC5, 0x4032000C, 0x5] = some (.mmaUnfold { form := .e, a := 255, b := 12, bs := true, d := 7, cls := 2, sub := 3, w2 := 5 }) ∧
    decode [0x1001C9, 0x4000000C, 0x0] = some (.munf { form := .e, a := 8, b := 12, bs := true }) ∧
    decode [0xA01CC] = some (.mzero { form := .b, a := 5 }) ∧
    decode [0xE29D1, 0x40000, 0xF013F] = some (.mdrn { form := .e, a := 7, d := 20, cls := 4, w2 := 0xF013F }) ∧
    decode [0xFFFD1, 0x40040008, 0xF013F] = some (.mdrnScratch { form := .e, a := 7, d := 255, b := 8, bs := true, cls := 4, w2 := 0xF013F }) := by decide +kernel

theorem test_decode_matrix_2 :
    decode [0xFD5, 0xC0040908, 0x105] = some (.mlda { form := .e, d := 7, b := 8, bs := true, c := 9, cs := true, cls := 4, w2 := 0x105 }) ∧
    decode [0x11D9, 0x4004000C, 0x10001] = some (.mqnt { form := .e, d := 8, b := 12, bs := true, cls := 4, w2 := 0x10001 }) ∧
    decode [0xE7FDC] = some (.mstat { form := .b, a := 7, d := 63 }) := by decide +kernel

/-! ## The worked encodings after R50, and the checks of R48 in the order of their reason codes -/

theorem test_worked_encodings :
    decode [0x80040453, 0x580000FF, 0, 0, 1] = some (.iaddExt { form := .x, u := true, a := 2, d := 2, bs := true, mod3 := 3, b := 0xFF, lit := 0x100000000 }) ∧
    decode [0x80040451, 0x400000FF, 0x1000] = some (.iaddExt { form := .e, u := true, a := 2, d := 2, bs := true, b := 0xFF, w2 := 0x1000 }) ∧
    decode [0x80040453, 0x580000FF, 7, 0, 1] = some (.illegalForm [0x80040453, 0x580000FF, 7, 0, 1] .rsvd) ∧
    decode [0xFFFFFFFF, 1, 2, 3, 4, 5] = some (.illegalOpcode [0xFFFFFFFF, 1, 2, 3, 4]) ∧
    decode [0x000001FC] = some (.illegalOpcode [0x000001FC]) ∧
    decode [0x0000001D, 0, 0] = some (.illegalForm [0x0000001D, 0, 0] .form) ∧
    decode [0x00020209, 0, 0x24] = some (.illegalForm [0x00020209, 0, 0x24] .rsvd) ∧
    decode [0x800A8CA8] = some (.mov { form := .b, u := true, a := 5, d := 70 }) ∧
    decode [0x000001C9, 0, 0] = some (.illegalForm [0x000001C9, 0, 0] .kind) ∧ decode [0x00000001, 0] = none := by decide +kernel

theorem test_worked_bytes : decodeBytes [0x53, 0x04, 0x04, 0x80, 0xFF, 0, 0, 0x58, 0, 0, 0, 0, 0, 0, 0, 0, 1, 0, 0, 0, 0xEE] =
    .ok (.iaddExt { form := .x, u := true, a := 2, d := 2, bs := true, mod3 := 3, b := 0xFF, lit := 0x100000000 }, [0xEE]) := by decide +kernel

theorem test_ill_formed :
    -- FORM: EXIT has form B only, and NOP in form E; UBIT: BRA with U; RSVD: an unused D, B6 of form L, a distance that is no multiple of 4
    (Instr.bra { form := .b }).wellFormed = false ∧ (Instr.bra { form := .e, u := true }).wellFormed = false ∧
    (Instr.bra { form := .e, d := 1 }).wellFormed = false ∧ (Instr.movl { form := .l, b6 := 1 }).wellFormed = false ∧
    (Instr.bra { form := .e, w2 := 2 }).wellFormed = false ∧
    -- SUBC, MODC, EXTC, KIND (an FE bit of an immediate, BS of a v register), LITH, IMMP
    (Instr.ld { form := .e, a := 0xFF, bs := true, sub := 7 }).wellFormed = false ∧ (Instr.bar { form := .e, mod3 := 4 }).wellFormed = false ∧
    (Instr.iaddExt { form := .e, cls := 1 }).wellFormed = false ∧ (Instr.iaddExt { form := .e, bs := true, b := 0xFF, fe := 2 }).wellFormed = false ∧
    (Instr.iaddExt { form := .e, u := true, b := 3 }).wellFormed = false ∧ (Instr.iaddExt { form := .l, lit := 0x80000000 }).wellFormed = true ∧
    (Instr.iaddExt { form := .l, lit := 0x100000000 }).wellFormed = false ∧ (Instr.iaddExt { form := .x, bs := true, b := 3 }).wellFormed = false ∧
    -- fields of another form; another constructor's SUB, form or field; words that are legal, or too short
    (Instr.iadd { form := .b, w2 := 1 }).wellFormed = false ∧ (Instr.iadd { form := .b, lit := 1 }).wellFormed = false ∧
    (Instr.iaddExt { form := .b }).wellFormed = false ∧ (Instr.kand { form := .e, sub := 1 }).wellFormed = false ∧
    (Instr.mma { form := .e, a := 0xFF, bs := true }).wellFormed = false ∧ (Instr.illegalOpcode [0]).wellFormed = false ∧
    (Instr.illegalForm [0x0000001D, 0, 0] .rsvd).wellFormed = false ∧ (Instr.illegalForm [0x0000001D, 0] .form).wellFormed = false := by decide +kernel

theorem test_EncodedWords : Obligations.EncodedWords := by
  unfold Obligations.EncodedWords; decide +kernel

/-! ## Witnesses: operands and states that meet the hypotheses of the statements -/

theorem wit_IntegerArithmetic : ∃ i x, arith i = some x ∧ i.wellFormed = true ∧ Acts x.f st ∧ Ready x.op x.f st :=
  ⟨.iadd { form := .b, b6 := 63, a := 63, d := 63, u := true }, _, rfl, by decide +kernel, by unfold Acts; decide +kernel,
    by unfold Ready Readable Free; decide +kernel⟩

theorem wit_IntegerLogic : ∃ i x, logic i = some x ∧ i.wellFormed = true ∧ Acts x.f st ∧ Ready x.op x.f st :=
  ⟨.shlExt { form := .e, mod3 := 3, a := 22, d := 22, bs := true, b := 0xFF, w2 := 64 }, _, rfl, by decide +kernel, by unfold Acts; decide +kernel,
    by unfold Ready Readable Free; decide +kernel⟩

theorem wit_MovesAndLanes : ∃ i x, moves i = some x ∧ i.wellFormed = true ∧ Acts x.f st ∧ Ready x.op x.f st :=
  ⟨.movl { form := .l, d := 22, lit := 0xFFFFFFFFFFFFFFFF }, _, rfl, by decide +kernel, by unfold Acts; decide +kernel,
    by unfold Ready Readable Free; decide +kernel⟩

theorem wit_FloatArithmetic : ∃ i x, fpArith i = some x ∧ i.wellFormed = true ∧ Acts x.f st ∧ Ready x.op x.f st ∧
    ∀ l ∈ activeLanes x.f.u st.cur.exec, (x.out st l).flags &&& st.fpEnables = 0 :=
  ⟨.fadd { form := .b, b6 := 1, a := 23, d := 23 }, _, rfl, by decide +kernel, by unfold Acts; decide +kernel,
    by unfold Ready Readable Free; decide +kernel, by decide +kernel⟩

theorem wit_FloatUnary : ∃ i x, fpUnary i = some x ∧ i.wellFormed = true ∧ Acts x.f st ∧ Ready x.op x.f st ∧
    ∀ l ∈ activeLanes x.f.u st.cur.exec, (x.out st l).flags &&& st.fpEnables = 0 :=
  ⟨.funpk { form := .e, sub := 2, a := 0, d := 22 }, _, rfl, by decide +kernel, by unfold Acts; decide +kernel,
    by unfold Ready Readable Free; decide +kernel, by decide +kernel⟩

/-- Enabled NV and DZ. -/
def stFp : State := stG fun g => { g with ctl := { g.ctl with utvec := 0x1000, fpctl := 0x1F } }

theorem wit_FloatTraps : (∃ i x, fpArith i = some x ∧ i.wellFormed = true ∧ Acts x.f stFp ∧ Ready x.op x.f stFp ∧ Handles stFp ∧
      fpBadLanes x.f.u stFp (fun l => (x.out stFp l).flags) ≠ []) ∧
    (∃ i x, fpUnary i = some x ∧ i.wellFormed = true ∧ Acts x.f stFp ∧ Ready x.op x.f stFp ∧ Handles stFp ∧
      fpBadLanes x.f.u stFp (fun l => (x.out stFp l).flags) ≠ []) :=
  ⟨⟨.faddExt { form := .e, a := 0, d := 0, bs := true, b := 0xFF, w2 := 0x7F800001 }, _, rfl, by decide +kernel, by unfold Acts; decide +kernel,
    by unfold Ready Readable Free; decide +kernel, by unfold Handles; decide +kernel, by decide +kernel⟩,
   ⟨.frcp { form := .b, a := 0, d := 0 }, _, rfl, by decide +kernel, by unfold Acts; decide +kernel,
    by unfold Ready Readable Free; decide +kernel, by unfold Handles; decide +kernel, by decide +kernel⟩⟩

def fCmpNan : Fields := { form := .e, mod3 := 2, d := 15, bs := true, b := 0xFF, w2 := 0x7FC00000 }

theorem wit_FcmpTraps : Acts fCmpNan stFp ∧ Ready 0x3A fCmpNan stFp ∧ Handles stFp ∧
    fpBadLanes fCmpNan.u stFp (fun l => condNv fCmpNan.mod3 (fcmpOp fCmpNan (rawA fCmpNan stFp.cur.regs false l))
      (fcmpOp fCmpNan (rawB fCmpNan stFp.cur.regs false l))) ≠ [] := by
  unfold Acts Ready Readable Free Handles; decide +kernel

theorem wit_Comparisons : Acts fCmpNan st ∧ Ready 0x28 fCmpNan st ∧ Ready 0x3A fCmpNan st ∧ st.fpEnables.getLsbD 4 = false ∧
    Ready 0x52 { form := .e, d := 15 } st := by
  unfold Acts Ready Readable Free; decide +kernel

theorem wit_MaskLogic : ∃ i x, maskOf2 i = some x ∧ i.wellFormed = true ∧ Ready 0x12 x.1 st :=
  ⟨.kand { form := .e, d := 0, a := 15, b := 15 }, _, rfl, by decide +kernel, by unfold Ready Readable Free; decide +kernel⟩

theorem wit_MaskMoves : ∀ n : Fin 4, Ready 0x13 { form := .e, sub := BitVec.ofNat 4 n.val, d := 15, a := 15 } st ∧ st.cur.exec ≠ 0 := by
  unfold Ready Readable Free; decide +kernel

theorem wit_ClassArithmetic : ∃ i x, clsArith i = some x ∧ i.wellFormed = true ∧ Acts x.f st ∧ Ready x.op x.f st ∧
    ∀ l ∈ activeLanes x.f.u st.cur.exec, (x.out st l).trapping = false :=
  ⟨.cadd { form := .e, cls := 15, a := 23, b := 23, d := 23 }, _, rfl, by decide +kernel, by unfold Acts; decide +kernel,
    by unfold Ready Readable Free; decide +kernel, by decide +kernel⟩

/-- A class that traps: FP32 with TRG, TUF and TNAN. -/
def stC (e : DWord) : State := { stFp with launches := stFp.launches.map fun l => { l with cbind := Vector.ofFn fun _ => e } }

/-- The trapping class, with a NaN in v0. -/
def stNan : State :=
  let s := stC 0xB40000003F800000
  { s with cur := { s.cur with regs := s.cur.regs.putV 0 0xFFFFFFFF (Lanes.all 0x7FC00000) } }

theorem wit_ClassTraps : ∃ i x, clsArith i = some x ∧ i.wellFormed = true ∧ Acts x.f stNan ∧ Ready x.op x.f stNan ∧ Handles stNan ∧
    (activeLanes x.f.u stNan.cur.exec).filter (fun l => (x.out stNan l).trapping) ≠ [] :=
  ⟨.cadd { form := .e, a := 0, b := 1, d := 2 }, _, rfl, by decide +kernel, by unfold Acts; decide +kernel,
    by unfold Ready Readable Free; decide +kernel, by unfold Handles; decide +kernel, by decide +kernel⟩

/-- Every class names block-scaled planes, four a block. -/
def stP : State := stC 0x801A20003F800000

/-- Per-tensor planes, 14 a tensor. -/
def stQ : State := stC 0x802770003F800000

theorem wit_Cred : let f : Fields := { form := .e, a := 23, d := 63 }
    Acts f st ∧ Ready 0x4F f st ∧ (credElem f st 0).reason = 0 ∧ (credHigh f st).reason = 0 := by
  unfold Acts Ready Readable Free; decide +kernel

theorem wit_Cqnt : let f : Fields := { form := .e, a := 23, d := 59 }
    Acts f stP ∧ entPlanes (stP.ent f.cls) = true ∧ f.d.toNat + planeRun (stP.ent f.cls) ≤ 64 ∧
    ReadyWith 0x50 f stP ((sources (rowFor 0x50 f) f).filter fun x => x.field ≠ 2 ∨ entMKIND (stP.ent f.cls) = 4)
      (dests (rowFor 0x50 f) f ++ (runRegs (stP.ent f.cls) f.d).map Reg.s) ∧ (quantOf f stP).reason = 0 := by
  unfold Acts ReadyWith Readable Free; decide +kernel

theorem wit_Cdq : let f : Fields := { form := .e, a := 59, d := 23 }
    Acts f stP ∧ entPlanes (stP.ent f.cls) = true ∧ f.a.toNat + planeRun (stP.ent f.cls) ≤ 64 ∧
    ReadyWith 0x51 f stP (((sources (rowFor 0x51 f) f).filter fun x => x.field ≠ 2 ∨ entMKIND (stP.ent f.cls) = 4) ++
      (runRegs (stP.ent f.cls) f.a).map fun n => Src.mk (.s n) 1 (f.fe.getLsbD 0)) (dests (rowFor 0x51 f) f) ∧
    (let n := entMPL (stP.ent f.cls)
     let w := (List.range n).map fun i => stP.cur.regs.getS (f.a + BitVec.ofNat 8 i)
     ∀ l ∈ activeLanes f.u stP.cur.exec, (clsOut (stP.ent f.cls) stP.cur.ctl.srstate l.val [planeElem w 0 n l.val]).trapping = false) := by
  unfold Acts ReadyWith Readable Free; decide +kernel

theorem wit_BranchesAndCalls : let f : Fields := { form := .e, a := 62, d := 62 }
    Ready 0x01 f st ∧ Ready 0x03 f st ∧ (st.cur.regs.getPair f.a).extractLsb' 0 2 = 0 ∧ Ready 0x04 f st ∧ Ready 0x05 f st ∧ Ready 0x06 f st := by
  unfold Ready Readable Free; decide +kernel

/-- k15 names the lanes of `m`, and the group has `n` overflow entries and every entry in use where `full`. -/
def stK (m : Word) (full : Bool) (n : Nat) : State := stG fun g => { g with
  regs := g.regs.setK 15 m, ctl := { g.ctl with utvec := 0x1000 }, ovf := n
  splits := if full then Vector.ofFn fun i => { v := true, mask := if i = 0 then 0xFFFFFFFF else 0 } else g.splits }

theorem wit_BrcDivides : let f : Fields := { form := .e, a := 15 }
    Ready 0x02 f (stK 0 false 0) ∧ Ready 0x02 f (stK 0xFFFFFFFF false 0) ∧ Ready 0x02 f (stK 1 false 0) ∧
    (stK 0 false 0).cur.regs.getK f.a &&& (stK 0 false 0).cur.exec = 0 ∧
    (stK 0xFFFFFFFF false 0).cur.exec &&& ~~~(stK 0xFFFFFFFF false 0).cur.regs.getK f.a = 0 ∧
    (let s := stK 1 false 0
     s.cur.regs.getK f.a &&& s.cur.exec ≠ 0 ∧ s.cur.exec &&& ~~~s.cur.regs.getK f.a ≠ 0 ∧ s.cur.sp.v = true ∧ Partitioned s ∧
     s.cur.sp.mask &&& s.cur.sp.park = 0 ∧ s.cur.freeNum = some 1) ∧
    (let s := stK 1 true 16
     Ready 0x02 f s ∧ s.cur.regs.getK f.a &&& s.cur.exec ≠ 0 ∧ s.cur.freeNum = none ∧ 16 ≤ s.cur.ovf ∧ Handles s) := by
  unfold Ready Readable Free Partitioned Handles; decide +kernel

/-- Join slot 7 armed for all lanes; where `two`, split 1 with the upper lanes waits on it and split 0 has the lower ones. -/
def stJ (two : Bool) : State := stG fun g => { g with
  joins := Vector.ofFn fun i => if i = 7 then { rejoin := 0xFFFFFFFF, arrived := if two then 0xFFFF0000 else 0, pc := 0x2000, armed := true } else {}
  splits := if two then Vector.ofFn fun i =>
      if i = 0 then { v := true, mask := 0x0000FFFF } else if i = 1 then { v := true, mask := 0xFFFF0000, st := .waiting, jslot := 7 } else {}
    else Vector.ofFn fun i =>
      if i = 0 then { v := true, mask := 0x0000FFFF } else if i = 1 then { v := true, mask := 0xFFFF0000 } else {} }

theorem wit_JoinsAndQueries : let f : Fields := { form := .e, d := 7 }
    (Ready 0x08 f st ∧ st.waitsOn (f.d.extractLsb' 0 3) = false) ∧
    (Ready 0x09 f st ∧ (st.cur.join (f.d.extractLsb' 0 3)).armed = false) ∧
    (let s := stJ false
     let x := s.cur.join 7
     Ready 0x09 f s ∧ Partitioned s ∧ x.armed = true ∧ s.cur.sp.v = true ∧ (s.cur.sp.mask ||| s.cur.sp.park) &&& ~~~x.rejoin = 0 ∧
     x.arrived ||| (s.cur.sp.mask ||| s.cur.sp.park) ≠ x.rejoin &&& s.cur.ctl.live) ∧
    Ready 0x0A { form := .e, a := 7, d := 63 } st ∧
    Ready 0x0B { form := .e, d := 63, w2 := 0x77 } st ∧ (0x77#32) &&& ~~~0x77#32 = 0 := by
  unfold Ready Readable Free Partitioned; decide +kernel

theorem wit_JoinMerges : let f : Fields := { form := .e, d := 7 }
    let s := stJ true
    let x := s.cur.join (f.d.extractLsb' 0 3)
    Ready 0x09 f s ∧ Partitioned s ∧ s.cur.ovf = 0 ∧ x.armed = true ∧ s.cur.sp.v = true ∧ s.cur.sp.lanes &&& ~~~x.rejoin = 0 ∧
    x.arrived ||| s.cur.sp.lanes = x.rejoin &&& s.cur.ctl.live := by
  unfold Ready Readable Free Partitioned; decide +kernel

/-- Two splits and no join. -/
def stTwo : State := { stJ false with cur := { (stJ false).cur with joins := Vector.ofFn fun _ => {} } }

theorem wit_Exits : (Partitioned stTwo ∧ stTwo.cur.resident = true ∧ stTwo.cur.ovf = 0 ∧ (∀ j, (stTwo.cur.join j).armed = false) ∧ stTwo.cur.sp.v = true ∧
      ∃ n, n ≠ stTwo.cur.running ∧ (stTwo.cur.entry n).v = true) ∧
    (Partitioned st ∧ st.cur.resident = true ∧ st.cur.ovf = 0 ∧ (∀ j, (st.cur.join j).armed = false) ∧ st.cur.sp.v = true ∧
      ∀ n, n ≠ st.cur.running → (st.cur.entry n).v = false) := by
  unfold Partitioned; decide +kernel

/-- The split stands in the user handler, `$xpc` at the entry of the launch. -/
def stInh : State := stG fun g => { g.setSp { g.sp with inh := true } with trap := { g.trap with pc := 0x100000000 } }

theorem wit_TrapsAndReturns : let f : Fields := { form := .e, w2 := 0xFFFFFFFF }
    (Handles stH ∧ Ready 0x0D f stH) ∧ (Ready 0x0E f stInh ∧ stInh.cur.sup = none ∧ stInh.cur.sp.inh = true) ∧
    (Handles stH ∧ stH.cur.sup = none ∧ Ready 0x0E f stH) := by
  unfold Ready Readable Free Handles; decide +kernel

theorem wit_TretNext : stInh.fetchWord stInh.cur stInh.cur.exec stInh.cur.trap.pc = .words [0] stInh := by rfl

theorem wit_SignaturesAndYield : Ready 0x11 { form := .e, d := 63 } st ∧ Ready 0x10 { form := .e, w2 := 0xFFFFFFFF } st ∧
    st.cur.sp.sig = 0xFFFFFFFF ∧ Homed st ∧ st.relPending .dev = false := by
  unfold Ready Readable Free Homed; decide +kernel

def fMix : Fields := { form := .e, a := 23, b := 23, d := 23, w2 := 0xEEEE }
def fIred : Fields := { form := .e, a := 22, d := 62, mod3 := 3, sub := 5 }
def fRngc : Fields := { form := .e, a := 23, bs := true, b := 62, d := 23 }

theorem wit_MixReduceDraw : Acts fMix st ∧ ((Instr.bmix fMix).wellFormed = true ∧ Ready 0x32 fMix st ∧ mixCodes fMix.w2) ∧
    ((Instr.ired fIred).wellFormed = true ∧ Ready 0x30 fIred st) ∧ (Instr.rngc fRngc).wellFormed = true ∧ Ready 0x7A fRngc st := by
  unfold Acts Ready Readable Free mixCodes; decide +kernel

theorem wit_BmixReserved : let f := { fMix with w2 := 0x0000F000 }
    (Instr.bmix f).wellFormed = true ∧ Acts f stH ∧ Handles stH ∧ fieldErr stH.limits (rowFor 0x32 f) f = none ∧ ¬ mixCodes f.w2 := by
  unfold Acts Handles mixCodes; decide +kernel

theorem wit_SeedAndCapabilities : Acts { form := .e, a := 62, u := true } st ∧ Ready 0x7B { form := .e, a := 62, u := true } st ∧
    Ready 0x7B { form := .e, sub := 1, d := 23, w2 := 1 } st := by
  unfold Acts Ready Readable Free; decide +kernel

theorem wit_SystemRegisterReads : MfsReady { form := .e, d := 22, w2 := 0x038 } st true ∧ MfsReady { form := .e, d := 22, w2 := 0x10F } st true ∧
    MfsReady { form := .e, d := 23, w2 := 0x000 } st false ∧ (MfsReady { form := .e, d := 63, u := true, w2 := 0x011 } st false ∧ st.cur.ovf ≤ 16) ∧
    (MfsReady { form := .e, d := 63, u := true, w2 := 0x041 } st false ∧ ∀ n < 4, st.cur.count n < 256) ∧
    MfsReady { form := .e, d := 23, w2 := 0x037 } st false := by
  unfold MfsReady Acts Free; decide +kernel

/-- The split stands in the page-fault handler. -/
def stSup : State := stG fun g => { g with sup := some { split := 0, k15 := 0xFFFFFFFF, fault := {} } }

theorem wit_StvecInHandler : MfsReady { form := .e, d := 22, w2 := 0x039 } stSup true ∧ stSup.cur.supervisor = true ∧
    MtsReady (.mts { form := .e, a := 22, w2 := 0x039 }) { form := .e, a := 22, w2 := 0x039 } stSup true := by
  unfold MfsReady MtsReady Acts Free Readable; decide +kernel

theorem wit_SystemRegisterWrites : LowestLane { form := .e, a := 23, w2 := 0x037 } st 0 ∧
    MtsReady (.mts { form := .e, a := 23, w2 := 0x037 }) { form := .e, a := 23, w2 := 0x037 } st false ∧
    MtsReady (.mts { form := .e, a := 63, u := true, w2 := 0x012 }) { form := .e, a := 63, u := true, w2 := 0x012 } st false ∧
    MtsReady (.mts { form := .e, a := 22, w2 := 0x030 }) { form := .e, a := 22, w2 := 0x030 } st true := by
  unfold LowestLane MtsReady Acts Readable; decide +kernel

theorem wit_ExecWrites : LowestLane { form := .e, a := 23, w2 := 0x010 } st 0 ∧
    MtsReady (.mtsExec { form := .e, a := 23, w2 := 0x010 }) { form := .e, a := 23, w2 := 0x010 } st false ∧ Partitioned st := by
  unfold LowestLane MtsReady Acts Readable Partitioned; decide +kernel

theorem wit_StvecIsPrivileged : let f : Fields := { form := .e, a := 22, d := 22, w2 := 0x039 }
    stH.cur.supervisor = false ∧ Handles stH ∧ Acts f stH ∧ (Instr.mfs { f with a := 0 }).wellFormed = true ∧ kindOk stH.limits f.u f.u (.r 2) f.d = true ∧
    (Instr.mts { f with d := 0 }).wellFormed = true ∧ kindOk stH.limits f.u f.u (.r 2) f.a = true := by
  unfold Handles Acts; decide +kernel

theorem wit_IllegalWords : Handles stH ∧ Config.hasUnfold stH.part = true := by unfold Handles; decide +kernel

/-- s2 holds an address of the scratchpad, s4 one further on. -/
def stM : State := stR fun r => (r.putS 3 0x00FE0000).putS 4 0x1000 |>.putS 5 0x00FE0000

def fLd : Fields := { form := .e, a := 0xFF, bs := true, b := 2, d := 20, sub := 6 }
def fAtom : Fields := { form := .e, a := 0xFF, bs := true, b := 2, d := 22, b6 := 3, sub := 7, c := 20 }
def fCld : Fields := { form := .e, a := 0xFF, bs := true, b := 2, d := 23 }
def fSt : Fields := { form := .e, a := 0xFF, bs := true, b := 2, c := 20, sub := 6 }
def fRed : Fields := { form := .e, a := 0xFF, bs := true, b := 2, c := 22, b6 := 3 }
def fCst : Fields := { form := .e, a := 0xFF, bs := true, b := 2, c := 23 }

theorem wit_Ld : Acts fLd stM ∧ (Instr.ld fLd).wellFormed = true ∧ Ready 0x58 fLd stM ∧ Allowed fLd stM 0 (sizeBytes fLd.sub) := by
  unfold Acts Ready Readable Free Allowed; decide +kernel

theorem wit_Atom : Acts fAtom stM ∧ (Instr.atom fAtom).wellFormed = true ∧ Ready 0x5C fAtom stM ∧ Allowed fAtom stM 2 (atomWidth fAtom.b6) ∧
    Unticketed stM (lanesAt fAtom stM (atomWidth fAtom.b6)) ∧ stM.cur.resident = true := by
  unfold Acts Ready Readable Free Allowed Unticketed; decide +kernel

theorem wit_Cld : let e := stM.ent fCld.cls
    (Instr.cld fCld).wellFormed = true ∧ Acts fCld stM ∧ Ready 0x5A fCld stM ∧ entTRG e = false ∧ entTUF e = false ∧ entTNAN e = false ∧
    entPlanes e = false ∧ fCld.c = 0 ∧ fCld.cs = false ∧ Allowed fCld stM 4 (clsWidth e) := by
  unfold Acts Ready Readable Free Allowed; decide +kernel

/-- The addresses of stM with classes of an entry. -/
def stMC (e : DWord) : State := { stM with launches := stM.launches.map fun l => { l with cbind := Vector.ofFn fun _ => e } }

theorem wit_CldPlanes : let f := { fCld with c := 4, cs := true }
    let s := stMC 0x801A20003F800000
    let e := s.ent f.cls
    (Instr.cld f).wellFormed = true ∧ Acts f s ∧ Ready 0x5A f s ∧ entTRG e = false ∧ entTUF e = false ∧ entTNAN e = false ∧
    entPlanes e = true ∧ f.u = false ∧ f.a = 0xFF ∧ f.cs = true ∧ ScalePair f.c ∧
    Readable s [⟨.s f.c, 3, f.fe.getLsbD 2⟩, ⟨.s (f.c + 1), 3, f.fe.getLsbD 2⟩] ∧ (addrOf f s.cur.regs 0).toNat % 4 = 0 ∧ Allowed f s 4 (4 * entMPL e) ∧
    s.checkLanes s.cur 4 ((activeLanes f.u s.cur.exec).map fun l => (l, s.cur.regs.getPair f.c, 1)) = none := by
  unfold Acts Ready Readable Free Allowed ScalePair; decide +kernel

theorem wit_TrappingClassLoads : let s := stMC 0xB40000003F800000
    let e := s.ent fCld.cls
    (Instr.cld fCld).wellFormed = true ∧ Acts fCld s ∧ Ready 0x5A fCld s ∧ entPlanes e = false ∧ entTRG e = true ∧ Allowed fCld s 4 (clsWidth e) ∧
    (s.lchOf s.cur).img.det = false ∧ (lanesAt fCld s (clsWidth e)).flatMap LaneReq.locs ≠ [] ∧
    ((activeLanes fCld.u s.cur.exec).all fun l =>
      !(cloadOut e s.cur.ctl.srstate l.val ((byteLocs (locOf l (addrOf fCld s.cur.regs l)) (clsWidth e)).map (s.byteOf s.cur))).trapping) = true := by
  unfold Acts Ready Readable Free Allowed; decide +kernel

/-- A property of the bytes of a sector, from the 32 of them. -/
theorem of_sector {p : Nat → Prop} {x : Nat} (h : ∀ k : Fin 32, p (32 * x + k.val)) : ∀ a, a / 32 = x → p a := by
  intro a ha
  have h1 := h ⟨a % 32, Nat.mod_lt _ (by decide)⟩
  have h2 : 32 * x + a % 32 = a := by rw [← ha]; exact Nat.div_add_mod a 32
  rwa [h2] at h1

/-- No byte of a location list stands in device memory. -/
theorem not_mem_of {s : State} {a : Nat} {b o : Nat} (h : s.placeOf s.cur a = .scratch b o) : ∀ p e, s.placeOf s.cur a ≠ .mem p e := by
  intro p e; rw [h]; intro h1; cases h1

/-- The scratchpad window, and its sector. -/
def pad : Nat := 0xFE000000000000
def padSec : Nat := pad / 32

theorem wit_St : Acts fSt stM ∧ (Instr.st fSt).wellFormed = true ∧ Ready 0x59 fSt stM ∧ Allowed fSt stM 1 (sizeBytes fSt.sub) ∧
    Unticketed stM (lanesAt fSt stM (sizeBytes fSt.sub)) := by
  unfold Acts Ready Readable Free Allowed Unticketed; decide +kernel

theorem wit_Red : Acts fRed stM ∧ (Instr.red fRed).wellFormed = true ∧ Ready 0x5D fRed stM ∧ Allowed fRed stM 3 (atomWidth fRed.b6) ∧
    Unticketed stM (lanesAt fRed stM (atomWidth fRed.b6)) := by
  unfold Acts Ready Readable Free Allowed Unticketed; decide +kernel

theorem wit_Cst : let e := stM.ent fCst.cls
    (Instr.cst fCst).wellFormed = true ∧ Acts fCst stM ∧ Ready 0x5B fCst stM ∧ entPlanes e = false ∧ fCst.d = 0 ∧ Allowed fCst stM 5 (clsWidth e) ∧
    Unticketed stM (lanesAt fCst stM (clsWidth e)) ∧ ∀ l ∈ activeLanes fCst.u stM.cur.exec,
      (cstOut e stM.cur.ctl.srstate l.val (clsElems e (rawC fCst stM.cur.regs false l))).r0 = 0 ∧
      (cstOut e stM.cur.ctl.srstate l.val (clsElems e (rawC fCst stM.cur.regs false l))).r1 = 0 := by
  unfold Acts Ready Readable Free Allowed Unticketed; decide +kernel

theorem wit_CstPlanes : let f := { fCst with d := 4 }
    let s := stMC 0x801A20003F800000
    let e := s.ent f.cls
    let base := addrOf f s.cur.regs 0
    let scale := s.cur.regs.getPair f.d
    let n := entMPL e
    (Instr.cst f).wellFormed = true ∧ Acts f s ∧ Ready 0x5B f s ∧ entPlanes e = true ∧ 0 < entMPL e ∧ entMKIND e = 3 ∧ f.u = false ∧ f.a = 0xFF ∧
    ScalePair f.d ∧ Readable s [⟨.s f.d, 0, false⟩, ⟨.s (f.d + 1), 0, false⟩] ∧ window (base.toNat % 2 ^ 56) ≠ 0xFD ∧
    base.toNat % 4 = 0 ∧ (quantBlock e s.cur.ctl.srstate n (laneList.map fun l =>
      if maskBit s.cur.exec l then (clsElems e (rawC f s.cur.regs false l)).headD (.zero false) else .zero false)).reason = 0 ∧
    Allowed f s 5 (4 * n) ∧ s.checkLanes s.cur 5 ((activeLanes f.u s.cur.exec).map fun l => (l, scale, 1)) = none ∧
    (activeLanes f.u s.cur.exec).head? = some 0 ∧ Unticketed s [⟨0, locOf 0 base, 4 * n⟩] ∧ Unticketed s [⟨0, locOf 0 scale, 1⟩] := by
  unfold Acts Ready Readable Free Allowed Unticketed ScalePair; decide +kernel

theorem wit_CstTensor : let f := { fCst with d := 4 }
    let s := stMC 0x802220003F800000
    let e := s.ent f.cls
    let base := addrOf f s.cur.regs 0
    let scale := s.cur.regs.getPair f.d
    let n := entMPL e
    (Instr.cst f).wellFormed = true ∧ Acts f s ∧ Ready 0x5B f s ∧ entPlanes e = true ∧ 0 < entMPL e ∧ entMKIND e = 4 ∧ f.u = false ∧ f.a = 0xFF ∧
    ScalePair f.d ∧ Readable s [⟨.s f.d, 0, false⟩, ⟨.s (f.d + 1), 0, false⟩] ∧ base.toNat % 4 = 0 ∧ Allowed f s 5 (4 * n) ∧
    s.checkLanes s.cur 4 ((activeLanes f.u s.cur.exec).map fun l => (l, scale, 1)) = none ∧ (s.lchOf s.cur).img.det = false ∧
    (activeLanes f.u s.cur.exec).head? = some 0 ∧ Unticketed s [⟨0, locOf 0 base, 4 * n⟩] ∧
    (quantTensor e s.cur.ctl.srstate n (s.byteOf s.cur (locOf 0 scale)).toNat (laneList.map fun l =>
      if maskBit s.cur.exec l then (clsElems e (rawC f s.cur.regs false l)).headD (.zero false) else .zero false)).reason = 0 := by
  unfold Acts Ready Readable Free Allowed Unticketed ScalePair; decide +kernel

theorem wit_CstTensor_near : let s := stMC 0x802220003F800000
    NearBy s [locOf 0 (s.cur.regs.getPair 4)] := by
  refine ⟨by decide +kernel, by decide +kernel, by unfold Homed; decide +kernel, rfl, fun a ha => ?_⟩
  obtain rfl := List.mem_singleton.1 ha
  have h : ∃ b o, (stMC 0x802220003F800000).placeOf (stMC 0x802220003F800000).cur
      (locOf 0 ((stMC 0x802220003F800000).cur.regs.getPair 4) / 32 * 32) = .scratch b o := ⟨0, 4096, by decide +kernel⟩
  obtain ⟨b, o, h⟩ := h
  exact ⟨by decide +kernel, by decide +kernel, by decide +kernel, not_mem_of h⟩

/-- An access of the trapping class to a block whose first word is a NaN where `nan`. -/
def stMT (nan : Bool) : State :=
  let s := stMC 0xB40000003F800000
  { s with blocks := s.blocks.map fun b => { b with scratch := if nan then b.scratch.writeN 0 [0, 0, 0xC0, 0x7F] else b.scratch } }

theorem stMT_place : ∀ k : Fin 4, (stMT true).placeOf (stMT true).cur ((pad + k.val) / 32 * 32) = .scratch 0 0 := by decide +kernel

theorem stMT_locs : ∀ a ∈ (lanesAt fCld (stMT true) 4).flatMap LaneReq.locs, pad ≤ a ∧ a < pad + 4 := by decide +kernel

theorem stMT_near : NearBy (stMT true) ((lanesAt fCld (stMT true) (clsWidth ((stMT true).ent fCld.cls))).flatMap LaneReq.locs) := by
  have hw : clsWidth ((stMT true).ent fCld.cls) = 4 := by decide +kernel
  rw [hw]
  refine ⟨by decide +kernel, by decide +kernel, by unfold Homed; decide +kernel, rfl, fun a ha => ?_⟩
  have h := stMT_locs a ha
  have h1 : ∀ k : Fin 4, isGlobal ((pad + k.val) / 32 * 32) = false ∧ (stMT true).remoteOf (stMT true).cur ((pad + k.val) / 32) = none ∧
      (stMT true).markedAt (stMT true).cur (pad + k.val) = false := by decide +kernel
  obtain ⟨k, hk⟩ : ∃ k : Fin 4, a = pad + k.val := ⟨⟨a - pad, by omega⟩, by simp; omega⟩
  subst hk
  exact ⟨(h1 k).1, (h1 k).2.1, (h1 k).2.2, not_mem_of (stMT_place k)⟩

theorem wit_TrappingClassLoadTraps : Handles (stMT true) ∧ (Instr.cld fCld).wellFormed = true ∧ Acts fCld (stMT true) ∧ Ready 0x5A fCld (stMT true) ∧
    (let e := (stMT true).ent fCld.cls
     Allowed fCld (stMT true) 4 (clsWidth e) ∧ ((activeLanes fCld.u (stMT true).cur.exec).filter fun l =>
      (cloadOut e (stMT true).cur.ctl.srstate l.val ((byteLocs (locOf l (addrOf fCld (stMT true).cur.regs l)) (clsWidth e)).map
        ((stMT true).byteOf (stMT true).cur))).trapping) ≠ []) := by
  unfold Handles Acts Ready Readable Free Allowed; decide +kernel

/-- The group with an operation outstanding. -/
def stOp (o : MemOp) : State := { stM with cur := { stM.cur with pend := { stM.cur.pend with mem := [o] } } }

def opLoad (left : List Nat) (locs : Nat) : MemOp :=
  { id := 0, split := .entry 0, pc := 0, kind := .load 6, acc := 0, scope := .grp, lanes := [⟨31, locs, 16⟩], dst := regsFrom false 4 252, left := left }

/-- A sector of the core's scratchpad is read as it stands. -/
theorem fresh_of {s : State} {o : MemOp} {x b n : Nat} (h : s.placeOf s.cur (x * 32) = .scratch b n) (hd : (s.lchOf s.cur).img.det = false)
    (hh : Homed s) (hs : s.cur.shadow = []) : Fresh s o x := by
  refine ⟨?_, ?_, hd, hh, hs, .inr ?_⟩
  · intro e n; rw [h]; intro h1; cases h1
  · rw [h]; intro h1; cases h1
  · intro pa e h1; rw [h] at h1; cases h1

/-- The group's only operation is next in each of its sectors. -/
theorem next_one (o : MemOp) (x : Nat) (hx : x ∈ o.left) : Next (stOp o) o x := by
  refine ⟨rfl, List.mem_singleton.2 rfl, by simp [stOp], hx, ?_⟩
  intro p hp _ hlt
  obtain rfl : p = o := List.mem_singleton.1 hp
  exact absurd hlt (Nat.lt_irrefl _)


theorem wit_ReadsDeliver_last : let o := opLoad [padSec] pad
    Next (stOp o) o padSec ∧ Fresh (stOp o) o padSec ∧ (∀ a, a / 32 = padSec → (stOp o).markedAt (stOp o).cur a = false) ∧
    (o.lanes.map (·.lane)).Nodup ∧ o.kind.loads = true ∧ o.left = [padSec] ∧ (∀ a ∈ o.locs, a / 32 = padSec) ∧ o.dst = regsFrom false 4 252 ∧
    252 + 4 ≤ 256 ∧ ∀ r ∈ o.lanes, (Spec.arrived (stOp o) o r).length = 4 :=
  ⟨next_one _ _ (by decide), fresh_of (b := 0) (n := 0) (by decide +kernel) (by decide +kernel) (by unfold Homed; decide +kernel) rfl, of_sector (by decide +kernel), by decide +kernel, rfl, rfl, by decide +kernel, rfl, by decide, by decide +kernel⟩

theorem wit_ReadsDeliver_first : let o := opLoad [padSec, padSec + 1] (pad + 24)
    Next (stOp o) o padSec ∧ Fresh (stOp o) o padSec ∧ (∀ a, a / 32 = padSec → (stOp o).markedAt (stOp o).cur a = false) ∧ o.lanes ≠ [] ∧
    ∀ r ∈ o.lanes, ∃ a ∈ r.locs, ∃ y ∈ o.left, y ≠ padSec ∧ a / 32 = y :=
  ⟨next_one _ _ (by decide), fresh_of (b := 0) (n := 0) (by decide +kernel) (by decide +kernel) (by unfold Homed; decide +kernel) rfl, of_sector (by decide +kernel), by decide, by decide +kernel⟩

def opAtom : MemOp :=
  { id := 0, split := .entry 0, pc := 0, kind := .atomic 7 3, acc := 2, scope := .grp, lanes := [⟨31, pad + 24, 8⟩], dst := regsFrom true 2 62
    args := [(31, 0, 1)], left := [padSec] }

/-- A range stands in a scratchpad, byte by byte. -/
theorem inScratch_of {s : State} {loc n block off : Nat} (h : (s.block? s.cur.launch s.cur.run block).isSome = true)
    (hk : ∀ k : Fin n, s.placeOf s.cur (loc + k.val) = .scratch block (off + k.val)) : InScratch s loc n block off :=
  ⟨h, fun k hlt => hk ⟨k, hlt⟩⟩

theorem wit_ReadsDeliver_atomic : Next (stOp opAtom) opAtom padSec ∧ Fresh (stOp opAtom) opAtom padSec ∧ opAtom.lanes = [⟨31, pad + 24, atomWidth 3⟩] ∧
    (pad + 24) / 32 = padSec ∧ (pad + 24) % 32 + atomWidth 3 ≤ 32 ∧ opAtom.dst = regsFrom true (atomWidth 3 / 4) 62 ∧ 62 + atomWidth 3 / 4 ≤ 64 ∧
    InScratch (stOp opAtom) (pad + 24) (atomWidth 3) 0 24 ∧ ∃ n, (stOp opAtom).placeOf (stOp opAtom).cur (padSec * 32) = .scratch 0 n :=
  ⟨next_one _ _ (by decide), fresh_of (b := 0) (n := 0) (by decide +kernel) (by decide +kernel) (by unfold Homed; decide +kernel) rfl, rfl, by decide +kernel, by decide +kernel, rfl,
    by decide, inScratch_of (by decide +kernel) (by decide +kernel), 0, by decide +kernel⟩

def opStore (left : List Nat) : MemOp :=
  { id := 0, split := .entry 0, pc := 0, kind := .store, acc := 1, scope := .grp, lanes := [⟨0, left.headD 0 * 32, 4⟩], left := left
    data := [(left.headD 0 * 32, 0xFF)] }

theorem wit_StoresPerform_scratch : let o := opStore [padSec]
    Next (stOp o) o padSec ∧ o.kind = .store ∧ ((stOp o).lchOf (stOp o).cur).img.det = false ∧ InScratch (stOp o) (padSec * 32) 32 0 0 :=
  ⟨next_one _ _ (by decide), rfl, by decide +kernel, inScratch_of (by decide +kernel) (by decide +kernel)⟩

/-- The first sector of the page that holds the program. -/
def codeSec : Nat := 0x100000000 / 32

theorem wit_StoresPerform_memory : let o := opStore [codeSec]
    let e : IptEntry := { vpn := 0x10000, valid := true, code := true, vspan := 0xFF, next := chainEnd }
    Next (stOp o) o codeSec ∧ (stOp o).placeOf (stOp o).cur (codeSec * 32) = .mem 0x1000000000 e ∧ 0x1000000000 % 32 = 0 ∧
    (stOp o).mem.refuses (stOp o).s0 (0x1000000000 / 32) = false ∧
    ∀ k < 32, (stOp o).placeOf (stOp o).cur (codeSec * 32 + k) = .mem (0x1000000000 + k) e :=
  ⟨next_one _ _ (by decide), by decide +kernel, by decide, by decide +kernel, by decide +kernel⟩

/-- A group with no access outstanding makes no fence wait. -/
theorem not_outstanding {s : State} (h : s.cur.pend.mem = []) (a r : Bool) (sc : Scope) : ¬ Outstanding s a r sc := by
  rintro ⟨o, ho, -⟩
  rw [h] at ho
  cases ho

/-- A load that is outstanding makes an acquire wait. -/
theorem outstanding_load (r : Bool) (sc : Scope) : Outstanding (stOp (opLoad [padSec] pad)) true r sc :=
  ⟨_, List.mem_singleton.2 rfl, rfl, .inl ⟨.inl rfl, rfl⟩⟩

/-- A store to the scratchpad makes a release wait. -/
theorem outstanding_store (sc : Scope) : Outstanding (stOp (opStore [padSec])) false true sc := by
  refine ⟨opStore [padSec], List.mem_singleton.2 rfl, rfl, .inr ⟨rfl, padSec, List.mem_singleton.2 rfl, ?_⟩⟩
  have h : (stOp (opStore [padSec])).placeOf (stOp (opStore [padSec])).cur (padSec * 32) = .scratch 0 0 := by decide +kernel
  unfold ReleaseWaits
  rw [h]
  trivial

theorem wit_Fences : (Instr.fence { form := .b }).wellFormed = true ∧ (Instr.fenceExt { form := .e, sub := 2, mod3 := 4 }).wellFormed = true ∧
    Scope.ofCode 4 = .sys ∧ (stOp (opLoad [padSec] pad)).cur.resident = true ∧ Homed stM ∧ Homed (stOp (opLoad [padSec] pad)) ∧ NoneHeld stM ∧
    stM.cur.pend.mem = [] := by
  unfold Homed NoneHeld; decide +kernel

/-- A copy of one sector from device memory to the scratchpad. -/
def cp1 (left : List Nat) (dab : Option Nat) : CopyOp :=
  { id := 0, split := .entry 0, pc := 0, src := 0x100000000, dst := pad, count := 32, token := 63, left := left, dab := dab }

def stCp (l : List CopyOp) : State := { stM with cur := { stM.cur with pend := { stM.cur.pend with cp := l } } }

theorem wit_Counters : let f : Fields := { form := .b, a := 0, d := 63 }
    (Instr.waitcnt f).wellFormed = true ∧ Ready 0x63 f stM ∧ f.d.toNat ≤ 63 ∧ NoneHeld stM ∧ stM.cur.count f.a.toNat ≤ f.d.toNat ∧
    (let s := stCp [cp1 [] none]
     (Instr.waitcnt { f with d := 0 }).wellFormed = true ∧ Ready 0x63 { f with d := 0 } s ∧ NoneHeld s ∧ 0 < s.cur.count f.a.toNat) ∧
    (Instr.cntrd { f with a := 3 }).wellFormed = true ∧ Ready 0x64 { f with a := 3 } stM ∧
    (let g : Fields := { form := .e, a := 0xFF, bs := true, b := 2, sub := 1 }
     (Instr.pref g).wellFormed = true ∧ Acts g stM ∧ fieldErr stM.limits (rowFor 0x61 g) g = none ∧ Unmarked stM (sources (rowFor 0x61 g) g)) := by
  unfold Ready Readable Free NoneHeld Acts Unmarked; decide +kernel

/-- A data page at virtual page 0x20000 and a page of a peer at 0x30000, both writable. -/
def withPages (s : State) : State :=
  { s with mem := (s.mem.link 0x100001 { vpn := 0x20000, wr := true }).link 0x1200000 { vpn := 0x30000, wr := true, rem := true, peer := 511 } }

def farSec : Nat := 0x300000000 / 32
def stFar : State := withPages (stOp (opStore [farSec]))
def failed0 : HeldFail := ⟨7, .entry 0, [(31, 0x300000000)], 1, 2⟩
def stHeld : State := { stM with cur := { stM.cur with pend := { stM.cur.pend with held := [failed0] } } }

theorem wit_RemoteFailuresAreHeld : (stFar.cur.resident = true ∧ opStore [farSec] ∈ stFar.cur.pend.mem ∧ (stFar.cur.pend.mem.map (·.id)).Nodup ∧
      (opStore [farSec]).lanes ≠ [] ∧ (opStore [farSec]).first = none ∧ (∀ h ∈ stFar.cur.pend.held, h.id ≠ (opStore [farSec]).id) ∧ (∀ r ∈ (opStore [farSec]).lanes, ∃ a ∈ r.locs, a / 32 = farSec) ∧ (stFar.remoteOf stFar.cur farSec).isSome = true) ∧
    (Handles stHeld ∧ (Instr.waitcnt { form := .b }).wellFormed = true ∧ Ready 0x63 { form := .b } stHeld ∧ stHeld.cur.sp.half = false ∧
      (Instr.fenceExt { form := .e, sub := 1, mod3 := 4 }).wellFormed = true ∧ Homed stHeld ∧ stHeld.cur.pend.mem = [] ∧ failed0 ∈ stHeld.cur.pend.held ∧
      failed0.split = .entry stHeld.cur.running ∧ ∀ y ∈ stHeld.cur.pend.held, y ≠ failed0 → y.split = .entry stHeld.cur.running → failed0.id < y.id) := by
  unfold Handles Ready Readable Free Homed; decide +kernel

/-- s6 holds the address of the data page. -/
def stE (n m : Nat) : State :=
  let s := withPages (stR fun r => ((((r.putS 3 0x00FE0000).putS 4 0x1000).putS 5 0x00FE0000).putS 6 0).putS 7 2)
  { s with cur := { s.cur with pend := { s.cur.pend with
      cp := List.replicate n (cp1 [] none)
      ga := List.replicate m { id := 0, split := .entry 0, pc := 0, rows := 4, dst := pad, srcs := [] } } } }

theorem wit_Cpasync : ∀ n : Fin 2, let s := stE (n.val * 63) 0
    let f : Fields := { form := .e, u := true, a := 4, bs := true, b := 6, cs := true, c := 2, d := 62, sub := 1, w2 := 4096 }
    s.cur.resident = true ∧ s.cur.pend.mem = [] ∧ Homed s ∧ (Instr.cpasync f).wellFormed = true ∧ Ready 0x5F f s ∧ (s.cur.regs.getPair f.a).toNat % 4 = 0 ∧
    (s.cur.regs.getPair f.b).toNat % 4 = 0 ∧ f.w2.toNat % 4 = 0 ∧ RangeOk s 6 (s.cur.regs.getPair f.b) 4096 ∧ RangeOk s 7 (s.cur.regs.getPair f.a) 4096 ∧
    (s.cur.regs.getPair f.c).toNat % 16 = 0 ∧ RangeOk s 10 (s.cur.regs.getPair f.c) 16 ∧ s.cur.pend.cp.length = n.val * 63 := by
  unfold Ready Readable Free RangeOk Homed; decide +kernel

theorem wit_Gather : ∀ n : Fin 2, let s := stE 0 (n.val * 63)
    let f : Fields := { form := .e, a := 23, bs := true, b := 6, cs := true, c := 4, w2 := 4 }
    let on := laneList.filter (maskBit s.cur.exec)
    (Instr.gather f).wellFormed = true ∧ Acts f s ∧ Ready 0x60 f s ∧ f.a ≠ 0xFF ∧ (s.cur.regs.getPair f.c).toNat % 4 = 0 ∧
    s.checkLanes s.cur 8 (on.map fun l => (l, s.cur.regs.getPair f.b + ((0 : Word) ++ (s.cur.regs.getV f.a).get l), 4)) = none ∧
    s.checkLanes s.cur 9 (on.map fun l => (l, s.cur.regs.getPair f.c + BitVec.ofNat 64 (l.val * 4), 4)) = none ∧
    s.cur.pend.ga.length = n.val * 63 := by
  unfold Acts Ready Readable Free; decide +kernel

theorem wit_CopyPiece : let s := stCp [cp1 [padSec] none]
    let c := cp1 [padSec] none
    s.cur.resident = true ∧ (s.lchOf s.cur).img.det = false ∧ c ∈ s.cur.pend.cp ∧ (s.cur.pend.cp.map (·.id)).Nodup ∧ padSec ∈ c.left ∧
    InScratch s (padSec * 32) 32 0 0 ∧ padSec * 32 + 32 ≤ 2 ^ 56 ∧
    ∀ d ∈ c.dstLocs padSec, (s.remoteOf s.cur (c.srcLoc d / 32)) = none ∧ s.markedAt s.cur (c.srcLoc d) = false :=
  ⟨by decide +kernel, by decide +kernel, by decide +kernel, by decide +kernel, by decide +kernel,
    inScratch_of (by decide +kernel) (by decide +kernel), by decide +kernel, by decide +kernel⟩

theorem wit_CopyRetires : (stCp [cp1 [] none]).cur.pend.cp = cp1 [] none :: [] ∧ (cp1 [] none).left = [] ∧ (cp1 [] none).waitSrc = [] ∧
    (cp1 [] none).token.toNat < 64 := by decide +kernel

def ga1 : GatherOp := { id := 0, split := .entry 0, pc := 0, rows := 4, dst := pad, srcs := [(0, 0x100000000), (31, 0x10000FFFC)] }

def stGa (o : GatherOp) : State := { stM with cur := { stM.cur with pend := { stM.cur.pend with ga := [o] } } }

theorem wit_GatherPiece : let o := { ga1 with left := [padSec] }
    let s := stGa o
    (o ∈ s.cur.pend.ga ∧ (s.cur.pend.ga.map (·.id)).Nodup ∧ (∀ c ∈ s.cur.pend.cp, c.id ≠ o.id) ∧ padSec ∈ o.left ∧ o.waitSrc = [] ∧ o.failed = [] ∧
    o.marked = [] ∧ (o.srcs.map (·.1)).Nodup ∧ (∀ p ∈ o.srcs, p.2 < 2 ^ 56) ∧ o.dst + 32 * o.rows < 2 ^ 56) ∧ InScratch s (padSec * 32) 32 0 0 ∧
    ∀ p ∈ o.srcs, ∀ a ∈ byteLocs p.2 o.rows, s.markedAt s.cur a = false :=
  ⟨by decide +kernel, inScratch_of (by decide +kernel) (by decide +kernel), by decide +kernel⟩

theorem wit_GatherRetires : (stGa ga1).cur.pend.ga = ga1 :: [] ∧ ga1.waitSrc = [] ∧ ga1.left = [] ∧ ga1.failed = [] ∧
    ∀ h ∈ (stGa ga1).cur.pend.held, h.id ≠ ga1.id := by decide +kernel

/-- Rows on a peer's page, of which a read was sent in cycle 0 and waits for its answer; the page's port is ACTIVE. -/
def gaFar : GatherOp := { ga1 with srcs := [(0, 0x300000000), (31, 0x30000001C)], waitSrc := [farSec] }
def reqGa : OutReq := { id := 6, owner := .gatherRead st.cur.ref 0 farSec, asid := 0, queue := 3, peer := 511, pframe := 0, off := 0, va := 0, acc := 0 }
def stGr (now : DWord) : State := { stGa gaFar with cycle := now, fabric := { st.fabric with reqs := [reqGa], ports := [{ st := .active }] } }

theorem wit_GatherAnswers : ∀ due : Bool, let s := stGr (if due then 470000 else 469999)
    gaFar ∈ s.cur.pend.ga ∧ (s.cur.pend.ga.map (·.id)).Nodup ∧ reqGa ∈ s.fabric.reqs ∧ (s.fabric.reqs.map (·.id)).Nodup ∧
    reqGa.owner = .gatherRead s.cur.ref gaFar.id farSec ∧ gaFar.timed = false ∧ gaFar.nackCode = 0 ∧ s.cur.pend.held = [] ∧
    (gaFar.srcs.filterMap fun p => ((byteLocs p.2 gaFar.rows).find? fun a => a / 32 = farSec).map fun a => (p.1, a)) = gaFar.srcs ∧
    (reqGa.sent + s.fabric.tRemote * 47000 ≤ s.cycle.toNat ↔ due = true) ∧ ∃ p ∈ s.fabric.ports, p.st = .active := by
  decide +kernel

/-! Barriers -/

/-- Two groups of one block, the other one with ARR of a barrier as given; the running group's lanes stand in the round where `stuck`. -/
def stB (lvl : Level) (n : Nat) (other : Word) (stuck half : Bool) : State :=
  let g := st.cur
  { st with
    cur := { (g.setSp { g.sp with half := half }) with arr := if stuck then g.arr.set lvl n 0xFFFFFFFF else g.arr }
    others := [{ g with index := 1, arr := g.arr.set lvl n other }] }

/-- A split with no access outstanding may arrive unless its lanes stand in the round. -/
theorem mayArrive_of {s : State} {lvl : Level} {n : Nat} (h : ownLanes s &&& s.cur.arr.get lvl n = 0) (hm : s.cur.pend.mem = []) :
    MayArrive s lvl n := ⟨h, fun _ => not_outstanding hm _ _ _⟩

def fBar (lvl : Level) (n : Word) : Fields := { form := .e, mod3 := BitVec.ofNat 3 (levelCode lvl), w2 := n }

theorem wit_BarrierArrivals : let f := fBar .blk 15
    (Instr.bararv f).wellFormed = true ∧ (Instr.bar f).wellFormed = true ∧ f.w2.toNat < levelCount .blk ∧
    (let s := stB .blk 15 0xFFFFFFFF false false
     s.cur.resident = true ∧ Homed s ∧ s.cur.sp.half = false ∧ s.cur.pend.mem = [] ∧ ownLanes s &&& s.cur.arr.get .blk 15 = 0 ∧ ownLanes s ≠ 0 ∧ s.cur.arr.get .blk 15 ||| ownLanes s = s.cur.ctl.live ∧
      s.cur.ctl.live ≠ 0 ∧ ∀ h ∈ s.others, h.ctl.live &&& ~~~h.arr.get .blk 15 = 0 ∧ h.ctl.live ≠ 0) ∧
    (let s := stB .blk 15 0 false false
     s.cur.pend.mem = [] ∧ ownLanes s &&& s.cur.arr.get .blk 15 = 0 ∧ ∃ h ∈ s.others, (h.resident = true ∧ h.launch = s.cur.launch ∧ h.run = s.cur.run ∧ h.block = s.cur.block) ∧
      h.ended = false ∧ h.ctl.live &&& ~~~h.arr.get .blk 15 ≠ 0) ∧
    (let s := stB .blk 15 0 true false
     ownLanes s &&& s.cur.arr.get .blk 15 ≠ 0) := by
  unfold ownLanes Homed; decide +kernel

theorem ends_blk : EndsRound (stB .blk 15 0xFFFFFFFF false false) .blk 15 :=
  ⟨.inr (by decide +kernel), fun h hh _ => by
    have : ∀ h ∈ (stB .blk 15 0xFFFFFFFF false false).others, AllIn h (h.arr.get .blk 15) := by unfold AllIn; decide +kernel
    exact this h hh⟩

theorem not_ends_blk : ¬ EndsRound (stB .blk 15 0 false false) .blk 15 := by
  rintro ⟨-, h⟩
  have h1 := h _ (List.mem_singleton.2 rfl) ⟨rfl, rfl, rfl, rfl⟩
  revert h1; unfold AllIn; decide +kernel

/-- The launch has `n` blocks in its grid, of which one has started. -/
def stGrid (n : Word) : State := { st with launches := st.launches.map fun l => { l with img := { l.img with griddim := n } } }

theorem wit_GridRounds : let f := fBar .grid 3
    (Instr.bararv f).wellFormed = true ∧ f.mod3 = 3 ∧ f.w2.toNat < 4 ∧
    (∃ l, (stGrid 2).launch? (stGrid 2).cur.launch = some l ∧ l.next < l.img.griddim.toNat) ∧ MayArrive (stGrid 2) .grid 3 ∧
    (∃ l, (stGrid 1).launch? (stGrid 1).cur.launch = some l ∧ l.img.griddim.toNat ≤ l.next ∧ ∀ k ∈ l.gangs, k.st = .placed ∨ k.st = .complete) ∧
    MayArrive (stGrid 1) .grid 3 ∧ EndsRound (stGrid 1) .grid 3 ∧ (stGrid 1).cur.arr.get .grid 3 ||| ownLanes (stGrid 1) ≠ 0 :=
  ⟨by decide +kernel, by decide, by decide, ⟨_, rfl, by decide +kernel⟩, mayArrive_of (by unfold ownLanes; decide +kernel) (by decide +kernel),
    ⟨_, rfl, by decide +kernel⟩, mayArrive_of (by unfold ownLanes; decide +kernel) (by decide +kernel),
    ⟨.inr (by unfold ownLanes; decide +kernel), fun h hh => by rw [show (stGrid 1).others = [] by decide +kernel] at hh; cases hh⟩, by unfold ownLanes; decide +kernel⟩

/-- At `BAR.grid` the group's lanes stand in the round, or the split is at its first half. -/
theorem wit_GridRoundsOfBar : (Instr.bar (fBar .grid 3)).wellFormed = true ∧ (stGrid 2).cur.sp.half = false ∧ (stGrid 1).cur.sp.half = false ∧ ownLanes (stGrid 2) ≠ 0 ∧
    (stB .grid 3 0 true false).cur.sp.half = false ∧ Homed (stB .grid 3 0 true false) ∧ ¬ MayArrive (stB .grid 3 0 true false) .grid 3 :=
  ⟨by decide +kernel, by decide +kernel, by decide +kernel, by unfold ownLanes; decide +kernel, by decide +kernel, by unfold Homed; decide +kernel,
    fun h => absurd h.1 (by unfold ownLanes; decide +kernel)⟩

theorem wit_BarrierWaits : (Instr.barwt (fBar .gang 7)).wellFormed = true ∧ (fBar .gang 7).w2.toNat < levelCount .gang ∧ MayPass st .gang 7 ∧
    (let s := stB .gang 7 0 true true
     (Instr.bar (fBar .gang 7)).wellFormed = true ∧ s.cur.sp.half = true ∧ ¬ MayPass s .gang 7) := by
  unfold MayPass ownLanes; decide +kernel

/-- An object at the start of the scratchpad with PHASE 0xFFF, RELOAD and PEND as given and no byte awaited. -/
def stTb (pend : BitVec 16) : State :=
  { stM with blocks := stM.blocks.map fun b => { b with scratch := b.scratch.writeN 0 (leBytes 8 (0xFFF0000000200000 + pend.toNat)) } }

def fTb (sub : BitVec 4) (u : Bool) : Fields := { form := .e, u := u, a := 2, sub := sub, d := if sub = 2 then 62 else 0, bs := sub = 3, b := if sub = 3 then 4 else 0, w2 := if sub = 0 then 65535 else if sub = 1 then 0x7FFFFFFF else 0 }

theorem tbReady (pend : BitVec 16) (sub : BitVec 4) (u : Bool) (h1 : Acts (fTb sub u) (stTb pend)) (h2 : Ready 0x6B (fTb sub u) (stTb pend))
    (h3 : (stTb pend).checkLanes (stTb pend).cur 10 ((activeLanes (fTb sub u).u (stTb pend).cur.exec).map fun l =>
      (l, (stTb pend).cur.regs.getPair (fTb sub u).a, 16)) = none)
    (h4 : pad = ((stTb pend).cur.regs.getPair (fTb sub u).a).toNat) (h5 : ∀ k : Fin 16, (stTb pend).placeOf (stTb pend).cur (pad + k.val) = .scratch 0 (0 + k.val))
    (h6 : ((stTb pend).block? (stTb pend).cur.launch (stTb pend).cur.run 0).isSome = true)
    (h7 : Homed (stTb pend)) : TbReady (fTb sub u) (stTb pend) pad 0 0 :=
  ⟨h1, h2, rfl, rfl, h7, h4, by decide +kernel, by decide +kernel, h3, inScratch_of h6 h5⟩

theorem wit_DataArrival : TbReady (fTb 0 false) (stTb 1) pad 0 0 ∧ TbReady (fTb 1 false) (stTb 1) pad 0 0 ∧ TbReady (fTb 2 true) (stTb 1) pad 0 0 ∧
    TbReady (fTb 2 false) (stTb 1) pad 0 0 ∧ TbReady (fTb 3 false) (stTb 1) pad 0 0 := by
  refine ⟨?_, ?_, ?_, ?_, ?_⟩ <;>
  exact tbReady _ _ _ (by unfold Acts; decide +kernel) (by unfold Ready Readable Free; decide +kernel) (by decide +kernel) (by decide +kernel)
    (by decide +kernel) (by decide +kernel) (by unfold Homed; decide +kernel)

theorem wit_DataArrivalValues : HasFields (objAt (stTb 1) 0 0) 0xFFF 0 0x20 1 0 ∧ (∀ n : Fin 4, ((fTb (BitVec.ofNat 4 n.val) true).sub = BitVec.ofNat 4 n.val)) ∧
    (Instr.tbinit (fTb 0 false)).wellFormed = true ∧ (Instr.tbexp (fTb 1 false)).wellFormed = true ∧ (Instr.tbarv (fTb 2 true)).wellFormed = true ∧
    (Instr.tbarv (fTb 2 false)).wellFormed = true ∧ (Instr.tbwait (fTb 3 false)).wellFormed = true ∧ Handles (stTb 1) ∧ (stTb 1).cur.ovf = 0 ∧
    (0xFFF#12) = ((stTb 1).cur.regs.getS 4).extractLsb' 0 12 ∨ (0xFFF#12) ≠ ((stTb 1).cur.regs.getS 4).extractLsb' 0 12 := by
  unfold HasFields Handles; decide +kernel

theorem wit_CopiesCountDown : let c := cp1 [padSec + 1] (some pad)
    let s : State := { stTb 1 with cur := { (stTb 1).cur with pend := { (stTb 1).cur.pend with cp := [{ c with dst := pad + 32 }] } } }
    let c := { c with dst := pad + 32 }
    s.cur.resident = true ∧ (s.lchOf s.cur).img.det = false ∧ c ∈ s.cur.pend.cp ∧ (s.cur.pend.cp.map (·.id)).Nodup ∧ padSec + 1 ∈ c.left ∧
    c.dab = some pad ∧ InScratch s ((padSec + 1) * 32) 32 0 32 ∧ c.dstLocs (padSec + 1) ≠ [] ∧
    (∀ d ∈ c.dstLocs (padSec + 1), (s.remoteOf s.cur (c.srcLoc d / 32)) = none ∧ s.markedAt s.cur (c.srcLoc d) = false) ∧
    InScratch s pad 16 0 0 ∧ 0 + 16 ≤ 32 ∧ HasFields (objAt s 0 0) 0xFFF 0 0x20 1 0 :=
  ⟨by decide +kernel, by decide +kernel, by decide +kernel, by decide +kernel, by decide +kernel, rfl,
    inScratch_of (by decide +kernel) (by decide +kernel), by decide +kernel, by decide +kernel,
    inScratch_of (by decide +kernel) (by decide +kernel), by decide, by unfold HasFields; decide +kernel⟩

/-! Collectives -/

/-- A communicator with a root node and one child, both of this package, whose class is c0: position 0 is the running group's. -/
def com : Comm :=
  { index := 4095, cls := 0, root := 0, rootPos := 0, tmo := 0, ident := 0, pos := [(0, 0, 0, 0)]
    nodes := [{ pkg := 0, cluster := 0, parent := 0, ch := [1], own := some 0 }, { pkg := 0, cluster := 1, parent := 0, ch := [], own := none }] }

def stCo (co : List CollOp) (x : List Slot) (p : Nat) : State :=
  let s := stR fun r => r.putS 4 (BitVec.ofNat 32 (4095 + 4096 * 15))
  { s with cycle := 188000
           launches := s.launches.map fun l => { l with comms := [{ com with rootPos := p }], slots := x }
           cur := { s.cur with pend := { s.cur.pend with co := co } } }

def fCr (get : Bool) : Fields := { form := .e, a := if get then 60 else 23, d := if get then 23 else 0, bs := true, b := 4, w2 := 65535 }

theorem wit_CollectivesIssue : ∀ n : Fin 2, let s := stCo (List.replicate (n.val * 63) (.put 4095 15 0 0 (Lanes.all 0) 0xFFFFFFFF [])) [] 0
    Acts (fCr false) s ∧ Names (fCr false) s com 0 15 65535 ∧ (Instr.crput (fCr false)).wellFormed = true ∧ Ready 0x6C (fCr false) s ∧
    s.cur.pend.co.length = n.val * 63 ∧ Names (fCr true) s com 0 15 65535 ∧ (Instr.crget (fCr true)).wellFormed = true ∧ Ready 0x6D (fCr true) s := by
  unfold Acts Names Ready Readable Free; decide +kernel

def vec (w : Word) : Partial := { words := Lanes.all w, posns := 1 }
def slot0 (nodes : List NodeSt) (closing : Bool) : Slot :=
  { comm := 4095, slot := 15, rounds := [{ tag := 7, opened := true, nodes := nodes, collect := true, closing := closing }]
    flight := [(7, 0, Lanes.all 0)] }
def rr : RoundRef := ⟨1, 4095, 15, 7⟩

theorem holds_of {s : State} {l : Launch} {c : Comm} {x : Slot} {rd : Round} {r : RoundRef}
    (h1 : s.launch? r.launch = some l) (h2 : l.comm? r.comm = some c) (h3 : l.slots.find? (fun y => y.comm = r.comm ∧ y.slot = r.slot) = some x)
    (h4 : x.rounds.find? (·.tag = r.tag) = some rd) : HoldsRound s r l c x rd := ⟨h1, h2, h3, h4⟩

theorem wit_ContributionAccepted : let s := stCo [.put 4095 15 7 0 (Lanes.all 0) 0xFFFFFFFF []] [] 0
    s.cur.resident = true ∧ (∃ l, s.launch? s.cur.launch = some l ∧ l.comm? 4095 = some com) ∧ com.nodeAt s.fabric.position (com.nodeOf 0) = true :=
  ⟨by decide +kernel, ⟨_, rfl, by decide +kernel⟩, by decide +kernel⟩

theorem wit_RoundsCombine : ∃ l, (stCo [] [slot0 [{ ch := [.awaited] }, { result := some (vec 0) }] true] 0).launch? 1 = some l ∧
    HoldsRound (stCo [] [slot0 [{ ch := [.awaited] }, { result := some (vec 0) }] true] 0) rr l com (slot0 [{ ch := [.awaited] }, { result := some (vec 0) }] true)
      { tag := 7, opened := true, nodes := [{ ch := [.awaited] }, { result := some (vec 0) }], collect := true, closing := true } ∧
    entExact (l.cbind[com.cls.toNat]'com.cls.isLt) = false ∧ 0 + 200 * 940 ≤ (188000#64).toNat :=
  ⟨_, rfl, holds_of rfl (by decide +kernel) (by decide +kernel) (by decide +kernel), by decide +kernel, by decide⟩

theorem wit_OwnInput : let nodes : List NodeSt := [{ }, { result := some (vec 0) }]
    let s := stCo [] [slot0 nodes false] 0
    ∃ l, s.launch? 1 = some l ∧
    HoldsRound s rr l com (slot0 nodes false) { tag := 7, opened := true, nodes := nodes, collect := true } ∧
    (slot0 nodes false).remembered ≠ some rr.tag ∧ com.nodeAt s.fabric.position 0 = true ∧ s.cycle.toNat ≤ 0 + 200 * 940 ∧
    (rr.tag, 0, Lanes.all 0) ∈ (slot0 nodes false).flight ∧
    ((slot0 nodes false).flight.filter fun q => q.1 = rr.tag ∧ q.2.1 = 0) = [(rr.tag, 0, Lanes.all 0)] :=
  ⟨_, rfl, holds_of rfl (by decide +kernel) (by decide +kernel) (by decide +kernel), by decide +kernel, by decide +kernel, by decide +kernel,
    by decide +kernel, by decide +kernel⟩

/-- One cycle after the root's timer. -/
theorem wit_LateInput : let nodes : List NodeSt := [{ }, { result := some (vec 0) }]
    let s := { stCo [] [slot0 nodes false] 0 with cycle := 188001 }
    let rd : Round := { tag := 7, opened := true, nodes := nodes, collect := true }
    ∃ l, s.launch? 1 = some l ∧ HoldsRound s rr l com (slot0 nodes false) rd ∧ ¬ InTime s com rd := by
  refine ⟨_, rfl, holds_of rfl (by decide +kernel) (by decide +kernel) (by decide +kernel), ?_⟩
  rintro (h | ⟨st, h, h1⟩ | h)
  · exact Bool.noConfusion h
  · obtain rfl := Option.some.inj h
    exact h1 rfl
  · exact absurd h (by decide +kernel)

theorem wit_ChildInput : let nodes : List NodeSt := [{ own := .here (vec 0x3F800000), ch := [.awaited] }, { result := some (vec 0x3F800000) }]
    let s := stCo [] [slot0 nodes false] 0
    ∃ l, s.launch? 1 = some l ∧
    HoldsRound s rr l com (slot0 nodes false) { tag := 7, opened := true, nodes := nodes, collect := true } ∧
    (slot0 nodes false).remembered ≠ some rr.tag ∧ com.nodeAt s.fabric.position 0 = true ∧ (com.nodes[0]?).map (·.ch) = some [1] ∧ nodes[1]? = some { result := some (vec 0x3F800000) } ∧ com.cls = 0 :=
  ⟨_, rfl, holds_of rfl (by decide +kernel) (by decide +kernel) (by decide +kernel), by decide +kernel, by decide +kernel, by decide +kernel,
    by decide +kernel, rfl⟩

theorem wit_CrgetRetires : let nodes : List NodeSt := [{ result := some (vec 0x3F800000) }, { result := some (vec 0x3F800000) }]
    let s := stCo [.get 4095 15 7 0xFFFFFFFF 23 60 none [], .put 4095 15 8 0 (Lanes.all 0) 0xFFFFFFFF []] [slot0 nodes false] 0
    s.cur.resident = true ∧ s.others = [] ∧ (60#8).toNat + 4 ≤ 64 ∧ ∃ l, s.launch? 1 = some l ∧
    HoldsRound s ⟨s.cur.launch, com.index, 15, 7⟩ l com (slot0 nodes false) { tag := 7, opened := true, nodes := nodes, collect := true } ∧
    entExact (l.cbind[com.cls.toNat]'com.cls.isLt) = false ∧ s.fabric.dead = [] ∧ (∀ k < com.pos.length, (vec 0).posns.getLsbD k = true) ∧ com.pos ≠ [] :=
  ⟨by decide +kernel, by decide +kernel, by decide, _, rfl, holds_of rfl (by decide +kernel) (by decide +kernel) (by decide +kernel),
    by decide +kernel, by decide +kernel, by decide +kernel, by decide⟩

/-- Addresses of the scratchpad, of 256 KiB, in s8 to s19; classes of an entry. -/
def stX (e : DWord) : State :=
  let s := stMC e
  let w := fun (r : RegFile) (n : BitVec 8) (x : Word) => (r.putS n x).putS (n + 1) 0x00FE0000
  { s with launches := s.launches.map fun l => { l with img := { l.img with part := 0x00181001 } }
           cur := { s.cur with regs := w (w (w (w (w (w s.cur.regs 8 0) 10 0x8000) 12 0x10000) 14 0x18000) 16 0x20000) 18 0x28000 } }

/-- The group of which split 1 has the upper lanes. -/
def stDiv (s : State) : State := { s with cur := { s.cur with splits := Vector.ofFn fun i =>
  if i = 0 then { v := true, mask := 0x0000FFFF } else if i = 1 then { v := true, mask := 0xFFFF0000 } else {} } }

def planes4 : DWord := 0x801A20003F800000
def fMma : Fields := { form := .e, d := 7, a := 8, bs := true, b := 12, w2 := 2 }

theorem wit_MatrixNeedsConvergence : let s := stDiv (stX planes4)
    ¬ Converged s ∧ Handles s ∧ (Instr.mbeg { form := .e, a := 7 }).wellFormed = true ∧ Ready 0x70 { form := .e, a := 7 } s ∧
    (Instr.mend { form := .e, a := 7, sub := 1 }).wellFormed = true ∧ Ready 0x70 { form := .e, a := 7, sub := 1 } s ∧
    (Instr.mma fMma).wellFormed = true ∧ Ready 0x71 fMma s ∧ MmaFields fMma s ∧ fMma.w2.toNat < 65536 ∧
    (Instr.mzero { form := .b, a := 7 }).wellFormed = true ∧ Ready 0x73 { form := .b, a := 7 } s ∧
    (Instr.mstat { form := .b, a := 7, d := 63 }).wellFormed = true ∧ Ready 0x77 { form := .b, a := 7, d := 63 } s := by
  unfold Converged Handles Ready Readable Free MmaFields PlaneClass; decide +kernel

/-- The chain bit of the tiles set, and a number of operations in the engine. -/
def stMx (e : DWord) (chain : Bool) (l : List MatOp) : State :=
  let s := stX e
  { s with blocks := s.blocks.map fun b => { b with tiles := Vector.ofFn fun _ => { chain := chain } }
           cur := { s.cur with pend := { s.cur.pend with mx := l } } }

theorem wit_Chains : let s := stMx planes4 false []
    let t := stMx planes4 true []
    Converged s ∧ HasBlock s ∧ s.cur.pend.mem = [] ∧ Ready 0x70 { form := .e, a := 7 } s ∧ (s.tileOf s.cur 7).chain = false ∧
    Converged t ∧ HasBlock t ∧ (t.tileOf t.cur 7).chain = true ∧ (Instr.mzero { form := .b, a := 7 }).wellFormed = true ∧
    Ready 0x73 { form := .b, a := 7 } s := by
  unfold Converged HasBlock Ready Readable Free; decide +kernel

theorem wit_Mma : ∀ n : Fin 2, let s := stMx planes4 false (List.replicate (n.val * 63) (.zero 0 0))
    let r := s.cur.regs
    Converged s ∧ HasBlock s ∧ Ready 0x71 fMma s ∧ MmaFields fMma s ∧ s.cur.pend.mx.length = n.val * 63 ∧
    RangesOk s (tensorRanges (s.ent fMma.cls) (r.getPair fMma.a) (r.getPair (fMma.a + 2)) 1 12 fMma.w2.toNat ++
      tensorRanges (s.ent fMma.sub) (r.getPair fMma.b) (r.getPair (fMma.b + 2)) 2 12 fMma.w2.toNat) := by
  unfold Converged HasBlock Ready Readable Free MmaFields PlaneClass RangesOk; decide +kernel

/-- A descriptor: 8 by 8 pixels of 32 channels, 3 by 3 taps, stride 1, dilation 1, padding 1. -/
def desc0 : List Word := [0x00080008, 0x03030020, 0x01010101, 0x00010001, 0, 0, 0, 0]

theorem wit_MmaUnfold : let s0 := stMx planes4 false []
    let s := { s0 with cur := { s0.cur with unfold := { valid := true, planes := 0xFE000000020000, scales := 0xFE000000028000, desc := desc0 } } }
    let f := { fMma with a := 0xFF, w2 := 0x00080001 }
    let d := Conv.ofWords s.cur.unfold.desc
    Converged s ∧ HasBlock s ∧ s.cur.pend.mem = [] ∧ (Instr.mmaUnfold f).wellFormed = true ∧ Config.hasUnfold s.part = true ∧ Ready 0x71 f s ∧ MmaFields f s ∧
    8 + 1 ≤ d.kh * d.kw * (d.c / 32) ∧
    RangesOk s (aRanges (s.ent f.cls) none s.cur.unfold 8 1 ++ tensorRanges (s.ent f.sub) (s.cur.regs.getPair f.b) (s.cur.regs.getPair (f.b + 2)) 2 12 1) := by
  unfold Converged HasBlock Ready Readable Free MmaFields PlaneClass RangesOk; decide +kernel

theorem wit_Munf : let s0 := stMx planes4 false []
    let s := { s0 with blocks := s0.blocks.map fun b => { b with scratch := b.scratch.writeN 0x10000 (desc0.flatMap bytesOfWord) } }
    let f : Fields := { form := .e, a := 8, bs := true, b := 12 }
    (Instr.munf f).wellFormed = true ∧ Ready 0x72 f s ∧ (s.cur.regs.getPair f.a).toNat % 4 = 0 ∧
    RangesOk s [MRange.one (s.cur.regs.getPair f.b) true 2 14 32] ∧
    (∀ k < 32, s.markedAt s.cur (((s.cur.regs.getPair f.b).toNat % 2 ^ 56 + k) % 2 ^ 56) = false) ∧
    GoodDescriptor ((List.range 8).map fun k => BitVec.ofNat 32 (leNat ((List.range 4).map fun j =>
      s.byteOf s.cur (((s.cur.regs.getPair f.b).toNat % 2 ^ 56 + 4 * k + j) % 2 ^ 56)))) := by
  unfold Ready Readable Free RangesOk GoodDescriptor; decide +kernel

/-- FP32 with an exact class beside it: every class entry has MKIND 0 and XPL 4. -/
def fp32x : DWord := 0x800020003F800000

theorem wit_Mlda : let s := stMx fp32x false []
    let f : Fields := { form := .e, d := 7, bs := true, b := 8, cs := true, c := 63, w2 := 0xF0000 }
    (Instr.mlda f).wellFormed = true ∧ Ready 0x75 f s ∧ entMKIND (s.ent f.cls) ≤ 2 ∧ f.w2 &&& ~~~0xF0000#32 = 0 ∧
    entV (s.ent (f.w2.extractLsb' 16 4)) = true ∧ entXPL (s.ent (f.w2.extractLsb' 16 4)) ≠ 0 ∧ (s.tileOf s.cur 7).chain = false ∧
    RangesOk s [MRange.one (s.cur.regs.getPair f.b) false 2 12 (4096 * 4)] := by
  unfold Ready Readable Free RangesOk; decide +kernel

/-- Nothing of a state carries a mark. -/
theorem markedAt_clean {s : State} (h1 : ∀ b ∈ s.blocks, b.poison = [] ∧ b.stack.poison = []) (h2 : s.mem.poison = []) (h3 : s.mem.lost = []) (g : Group) (a : Nat) :
    s.markedAt g a = false := by
  unfold State.markedAt
  split
  · rename_i b o _
    cases hb : s.block? g.launch g.run b with
    | none => simp
    | some x =>
      have hx : x ∈ s.blocks := List.mem_of_find?_eq_some hb
      simp [(h1 x hx).1]
  · simp [State.marked, Mem.marked, h2, h3]
  · unfold State.blockOf State.stackMarked
    cases hb : s.block? g.launch g.run g.block with
    | none => simp [h3]
    | some x =>
      have hx : x ∈ s.blocks := List.mem_of_find?_eq_some hb
      simp [(h1 x hx).2, h3]
  · rfl

theorem clean_stMx (e : DWord) (c : Bool) (l : List MatOp) (g : Group) (a : Nat) : (stMx e c l).markedAt g a = false :=
  markedAt_clean (fun b hb => by simp [stMx, stX, stMC, stM, stR, stG, st, State.withFetchWord, State.reset] at hb; simp [hb]) rfl rfl g a

def mma1 : MmaOp := { pc := 0, split := 0, tile := 7, ca := 0, cb := 0, a := some (0xFE000000000000, 0xFE000000008000), u := {}, bp := 0xFE000000010000, bs := 0xFE000000018000, m := 1, k0 := 0 }
def mld1 : MldOp := { pc := 0, split := 0, tile := 7, cn := 0, ck := 15, addr := 0xFE000000000000, count := 0xFFFFFFFF }

theorem alone_stMx (e : DWord) (o : MatOp) (rest : List MatOp) (h : HasBlock (stMx e false (o :: rest))) : Alone (stMx e false (o :: rest)) o rest :=
  ⟨h, rfl, rfl, fun _ _ => clean_stMx _ _ _ _ _⟩

theorem wit_MatrixOperations : Alone (stMx planes4 false [.zero 7 0]) (.zero 7 0) [] ∧ Alone (stMx planes4 false [.mma mma1]) (.mma mma1) [] ∧
    Alone (stMx fp32x false [.load mld1]) (.load mld1) [] :=
  ⟨alone_stMx _ _ _ (by unfold HasBlock; decide +kernel), alone_stMx _ _ _ (by unfold HasBlock; decide +kernel),
    alone_stMx _ _ _ (by unfold HasBlock; decide +kernel)⟩

theorem drain_row (f : Fields) (s : State) (fm : Fmt) (h : ∀ r c : Fin 64, f.w2.toNat % 256 ≤ r.val ∧ r.val < f.w2.toNat % 256 + f.w2.toNat / 256 % 256 →
    (drained f s fm r c).reason = 0) : ∀ r c, inDrain f r → (drained f s fm r c).reason = 0 := fun r c hr => h r c hr

def fDrn : Fields := { form := .e, a := 7, d := 20, w2 := 0xF013F }

theorem wit_Mdrn : let s := stMx fp32x false []
    (Converged s ∧ DrainReady fDrn s) ∧ (Instr.mdrn fDrn).wellFormed = true ∧ Ready 0x74 fDrn s ∧ DrainFields fDrn s ∧
    fDrn.d.toNat + 1 * 2 ≤ s.limits.nv ∧ fDrn.d.toNat + 1 * 2 ≤ 256 ∧ (∀ k < 2, s.cur.producing (.v (fDrn.d + BitVec.ofNat 8 k)) = false) ∧
    ∀ r c, inDrain fDrn r → (drained fDrn s (entFmt (s.ent fDrn.cls)) r c).reason = 0 :=
  ⟨by unfold Converged DrainReady HasBlock; decide +kernel, by decide +kernel, by unfold Ready Readable Free; decide +kernel,
    by unfold DrainFields; decide +kernel, by decide +kernel, by decide +kernel, by decide +kernel, by unfold inDrain; decide +kernel⟩

theorem wit_MdrnScratch : let s := stMx fp32x false []
    let f := { fDrn with d := 0xFF, bs := true, b := 8 }
    (Instr.mdrnScratch f).wellFormed = true ∧ Ready 0x74 f s ∧ DrainFields f s ∧ entMKIND (s.ent f.cls) ≤ 2 ∧ s.cur.pend.mem = [] ∧
    (s.lchOf s.cur).img.det = false ∧ RangesOk s [MRange.one (s.cur.regs.getPair f.b) false 2 13 (1 * 64 * 4)] ∧ (s.cur.regs.getPair f.b).toNat < 2 ^ 56 ∧
    (∀ r c, inDrain f r → (drained f s (fmtOf (entMKIND (s.ent f.cls))) r c).reason = 0) ∧
    InScratch s (s.cur.regs.getPair f.b).toNat (1 * 64 * 4) 0 0 :=
  ⟨by decide +kernel, by unfold Ready Readable Free; decide +kernel, by unfold DrainFields; decide +kernel, by decide +kernel, by decide +kernel,
    by decide +kernel, by unfold RangesOk; decide +kernel, by decide +kernel, by unfold inDrain; decide +kernel,
    inScratch_of (by decide +kernel) (by decide +kernel)⟩

theorem wit_Mstat : let s := stMx fp32x false []
    let f : Fields := { form := .b, a := 7, d := 63 }
    Converged s ∧ DrainReady f s ∧ (Instr.mstat f).wellFormed = true ∧ Ready 0x77 f s := by
  unfold Converged DrainReady HasBlock Ready Readable Free; decide +kernel

def fQnt : Fields := { form := .e, d := 8, bs := true, b := 12, w2 := 1 }

theorem wit_Mqnt : let s := stMx planes4 false []
    let e := s.ent fQnt.cls
    Converged s ∧ HasBlock s ∧ s.cur.pend.mx = [] ∧ (Instr.mqnt fQnt).wellFormed = true ∧ Ready 0x76 fQnt s ∧ entMKIND e = 3 ∧ fQnt.w2.toNat / 65536 = 0 ∧
    fQnt.w2.toNat % 256 ≤ 1 ∧ fQnt.w2.toNat / 256 = 0 ∧ 0 < entMPL e ∧
    RangesOk s ((tensorRanges e (s.cur.regs.getPair fQnt.d) (s.cur.regs.getPair (fQnt.d + 2)) 0 13 2).take 2 ++
      [MRange.one (s.cur.regs.getPair fQnt.b) false 2 12 16384]) := by
  unfold Converged HasBlock Ready Readable Free RangesOk; decide +kernel

/-- Nothing that the group reaches holds a byte. -/
theorem byteOf_zero {s : State} (h1 : ∀ b ∈ s.blocks, b.scratch = []) (h2 : s.mem.bytes = []) {a : Nat} (ha : a < 2 ^ 60) :
    s.byteOf s.cur a = 0 := by
  unfold State.byteOf
  split
  · rename_i b o _
    cases hb : s.block? s.cur.launch s.cur.run b with
    | none => rfl
    | some x => simp [h1 x (List.mem_of_find?_eq_some hb), Memory.read, unlisted]
  · next o e =>
    unfold State.placeOf at e
    rw [if_neg (by omega)] at e
    split at e
    · split at e <;> cases e
    · split at e
      · cases e
      · split at e <;> cases e
  · simp [h2, Memory.read, unlisted]
  · rfl
  · rfl

theorem zero_stMx (a : Nat) : (stMx planes4 false []).byteOf (stMx planes4 false []).cur (a % 2 ^ 56) = 0 :=
  byteOf_zero (by decide +kernel) (by decide +kernel) (by omega)

theorem wit_MqntBlocks : let s := stMx planes4 false []
    let e := s.ent fQnt.cls
    let elem := fun (a b : Nat) => fp32.decode (leNat ((List.range 4).map fun k => s.byteOf s.cur ((0xFE000000010000 + 4 * (64 * a + b) + k) % 2 ^ 56)))
    ∀ row < 64, ∀ kb < 2, (quantBlock e s.cur.ctl.srstate (entMPL e) ((List.range 32).map fun i => elem (32 * kb + i) row)).reason = 0 := by
  intro s e elem row _ kb _
  have h : (List.range 32).map (fun i => elem (32 * kb + i) row) = List.replicate 32 (fp32.decode 0) := by
    refine List.eq_replicate_iff.2 ⟨by simp, fun x hx => ?_⟩
    obtain ⟨i, -, rfl⟩ := List.mem_map.1 hx
    show fp32.decode (leNat ((List.range 4).map fun k => s.byteOf s.cur _)) = _
    simp only [s, zero_stMx]
    rfl
  rw [h]
  decide +kernel

theorem wit_MqntRanges : let s := stMx planes4 false []
    (∀ a, ¬ ((∃ k < 512 * 4, a = (0xFE000000000000 + k) % 2 ^ 56) ∧ ∃ k < 128, a = (0xFE000000008000 + k) % 2 ^ 56)) ∧
    ∀ k < 16384, s.markedAt s.cur ((0xFE000000010000 + k) % 2 ^ 56) = false :=
  ⟨by rintro a ⟨⟨k, h1, h2⟩, m, h3, h4⟩; omega, fun _ _ => clean_stMx _ _ _ _ _⟩

/-- The other matrix instructions of the group that split 1 divides. -/
theorem wit_MatrixNeedsConvergenceToo : (let s := stDiv (stMx planes4 false [])
     let f := { fMma with a := 0xFF, w2 := 0x00080001 }
     let u : Fields := { form := .e, a := 8, bs := true, b := 12 }
     ¬ Converged s ∧ Handles s ∧ Config.hasUnfold s.part = true ∧ (Instr.mmaUnfold f).wellFormed = true ∧ Ready 0x71 f s ∧ MmaFields f s ∧
     (Instr.munf u).wellFormed = true ∧ Ready 0x72 u s ∧ (Instr.mqnt fQnt).wellFormed = true ∧ Ready 0x76 fQnt s ∧ QuantFields fQnt s) ∧
    (let s := stDiv (stMx fp32x false [])
     let d := { fDrn with d := 0xFF, bs := true, b := 8 }
     let l : Fields := { form := .e, d := 7, bs := true, b := 8, cs := true, c := 63, w2 := 0xF0000 }
     ¬ Converged s ∧ Handles s ∧ (Instr.mdrn fDrn).wellFormed = true ∧ Ready 0x74 fDrn s ∧ DrainFields fDrn s ∧
     fDrn.w2.toNat / 256 % 256 * (if entPacked (s.ent fDrn.cls) then 1 else 2) = 2 ∧ fDrn.d.toNat + 2 ≤ s.limits.nv ∧
     (∀ k < 2, s.cur.producing (.v (fDrn.d + BitVec.ofNat 8 k)) = false) ∧
     (Instr.mdrnScratch d).wellFormed = true ∧ Ready 0x74 d s ∧ DrainFields d s ∧ entMKIND (s.ent d.cls) ≤ 2 ∧
     (Instr.mlda l).wellFormed = true ∧ Ready 0x75 l s ∧ LoadFields l s) := by
  unfold Converged Handles Ready Readable Free MmaFields PlaneClass QuantFields LoadFields DrainFields
  exact ⟨by decide +kernel, by decide +kernel⟩

/-! ## Part 9 -/

theorem wit_StepRunsTheInstruction : Issuing st ∧ CodeAt st st.cur.sp.pc.toNat [0] ∧ [(0 : Word)].length = (formOf 0).words ∧ decode [0] = some .nop := by
  refine ⟨by unfold Issuing; decide +kernel, ⟨by decide +kernel, fun k hk => ?_⟩, by decide, by decide⟩
  obtain rfl : k = 0 := by simp at hk; omega
  exact ⟨by decide +kernel, by decide +kernel, 0x100000, _, rfl, by decide +kernel, by decide +kernel, by decide +kernel, by decide +kernel, by decide +kernel⟩

/-- The running split is the second of its pair, which began with other group-scoped registers. -/
theorem wit_StepOfAPair : let s := { st with turn := { st.turn with second := true, ctl := some ({ st.cur.ctl with utvec := 0x1000 }, { st.cur.trap with pc := 4 }) } }
    s.turn.second = true ∧ s.turn.ctl = some ({ st.cur.ctl with utvec := 0x1000 }, { st.cur.trap with pc := 4 }) ∧ s.cur.ctl.utvec ≠ 0x1000 ∧ Issuing s ∧ st.turn.second = false := by
  unfold Issuing; decide +kernel

theorem wit_DecodeAndEncodeAgree : (Instr.iadd { form := .b, a := 255, b6 := 63, d := 255 }).wellFormed = true ∧
    encode (.iadd { form := .b, a := 255, b6 := 63, d := 255 }) ≠ [] ∧ decode [0xFFFFFFFF, 0xFFFFFFFF, 0xFFFFFFFF, 0xFFFFFFFF, 0xFFFFFFFF] ≠ none := by
  decide +kernel

theorem wit_StepKeepsMemories : memoriesCanonical st ∧ (match step st with | .next _ => true | _ => false) = true := by
  unfold memoriesCanonical; decide +kernel

/-- A range of a page that may be written, of a part without marks. -/
theorem inPage_of {s : State} {asid : BitVec 16} {va n i : Nat} {e : IptEntry} (h : va % 65536 + n ≤ 65536 ∧ (e.code = false ∧ e.rem = false ∧ e.wr = true) ∧
    s.mem.walk asid (va / 65536 % 2 ^ 40) (s.mem.versOf asid).newest = some (i, e) ∧ s.mem.beyond i = false ∧ s.mem.poison = [] ∧ s.mem.lost = []) :
    InPage s asid va n (i * 65536 + va % 65536) := by
  obtain ⟨h1, h2, h3, h4, h5, h6⟩ := h
  exact ⟨h1, ⟨i, e, rfl, h2.1, h2.2.1, h2.2.2, h3, h4⟩, fun x _ _ => ⟨by simp [State.marked, Mem.marked, h5, h6], by simp [Mem.refuses, h6]⟩⟩

/-- Device queue 5 with its header at the start of the data page, WIDX as given; a LAUNCH_IMAGE packet stands in the scratchpad. -/
def stL (widx : Nat) (stopped : Bool) (flags : BitVec 16) : State :=
  let s := withPages (stR fun r => (r.putS 3 0x00FE0000).putS 4 5)
  { s with
    mem := { s.mem with bytes := s.mem.bytes.writeN (0x100001 * 65536) (leBytes 8 widx) }
    queues := [{ num := 5, desc := { base := 0x200000000, enabled := true, devlaunch := true }, stopped := stopped }]
    launches := s.launches.map fun l => { l with img := { l.img with flags := flags } }
    blocks := s.blocks.map fun b => { b with scratch := b.scratch.writeN 0 [4, 0, 1, 0] } }

def fLaunch : Fields := { form := .e, u := true, a := 2, bs := true, b := 4, d := 63 }

/-- What a LAUNCH needs of its operands and of the packet. -/
def LaunchOk (s : State) : Prop :=
  (Instr.launch fLaunch).wellFormed = true ∧ Acts fLaunch s ∧ Ready 0x6E fLaunch s ∧ (s.lchOf s.cur).img.det = false ∧
  (s.cur.regs.getPair fLaunch.a).toNat = pad ∧ (s.cur.regs.getS fLaunch.b).toNat = 5 ∧ (s.queueOf 5).desc.tenant = (s.lchOf s.cur).tenant ∧
  (s.queueOf 5).desc.enabled = true ∧ (s.queueOf 5).desc.devlaunch = true ∧ s.cur.resident = true ∧ s.cur.pend.mem = [] ∧
  window (pad % 2 ^ 56) ≠ 0xFD ∧ RangeOk s 0 (s.cur.regs.getPair fLaunch.a) 64 ∧
  (∀ k < 64, s.remoteOf s.cur ((pad % 2 ^ 56 + k) / 32) = none ∧ s.markedAt s.cur (pad % 2 ^ 56 + k) = false) ∧
  (∀ pa e, s.placeOf s.cur (pad % 2 ^ 56) = .mem pa e → ∀ c ∈ s.mem.l1, c.core ≠ s.coreOf s.cur) ∧
  s.byteOf s.cur (pad % 2 ^ 56) = 4 ∧ leNat [s.byteOf s.cur (pad % 2 ^ 56 + 2), s.byteOf s.cur (pad % 2 ^ 56 + 3)] = 1

theorem launchOk_of {s : State} (h : (Instr.launch fLaunch).wellFormed = true ∧ Acts fLaunch s ∧ Ready 0x6E fLaunch s ∧ (s.lchOf s.cur).img.det = false ∧
    (s.cur.regs.getPair fLaunch.a).toNat = pad ∧ (s.cur.regs.getS fLaunch.b).toNat = 5 ∧ (s.queueOf 5).desc.tenant = (s.lchOf s.cur).tenant ∧
    (s.queueOf 5).desc.enabled = true ∧ (s.queueOf 5).desc.devlaunch = true ∧ s.cur.resident = true ∧ s.cur.pend.mem = [] ∧
    window (pad % 2 ^ 56) ≠ 0xFD ∧ RangeOk s 0 (s.cur.regs.getPair fLaunch.a) 64)
    (h1 : ∀ k : Fin 64, s.remoteOf s.cur ((pad % 2 ^ 56 + k.val) / 32) = none ∧ s.markedAt s.cur (pad % 2 ^ 56 + k.val) = false)
    (h2 : s.mem.l1 = []) (h3 : s.byteOf s.cur (pad % 2 ^ 56) = 4) (h4 : leNat [s.byteOf s.cur (pad % 2 ^ 56 + 2), s.byteOf s.cur (pad % 2 ^ 56 + 3)] = 1) :
    LaunchOk s := by
  obtain ⟨a, b, c, d, e, f, g, i, j, k, l, m, n⟩ := h
  exact ⟨a, b, c, d, e, f, g, i, j, k, l, m, n, fun k hk => h1 ⟨k, hk⟩, fun _ _ _ x hx => by rw [h2] at hx; simp at hx, h3, h4⟩

theorem wit_DeviceLaunchStopped : LaunchOk (stL 0 true 0) ∧ ((stL 0 true 0).queueOf 5).stopped = true ∧ 64 ≤ ((stL 0 true 0).queueOf 5).desc.ringBytes :=
  ⟨launchOk_of (by unfold Acts Ready Readable Free RangeOk; decide +kernel) (by decide +kernel) (by decide +kernel) (by decide +kernel) (by decide +kernel),
    by decide +kernel, by decide +kernel⟩

theorem wit_DeviceLaunchFull : let s := stL 4096 false 0
    LaunchOk s ∧ (s.queueOf 5).stopped = false ∧ 64 ≤ (s.queueOf 5).desc.ringBytes ∧
    InPage s (s.queueOf 5).desc.asid (s.queueOf 5).desc.base.toNat 8 (0x100001 * 65536) ∧
    (s.queueOf 5).desc.ringBytes < word64 s (0x100001 * 65536) - (s.queueOf 5).ridx + 64 :=
  ⟨launchOk_of (by unfold Acts Ready Readable Free RangeOk; decide +kernel) (by decide +kernel) (by decide +kernel) (by decide +kernel) (by decide +kernel),
    by decide +kernel, by decide +kernel,
    inPage_of (i := 0x100001) (e := (stL 4096 false 0).mem.entry 0x100001) (by decide +kernel),
    by decide +kernel⟩

theorem wit_DeviceLaunch : let s := stL 4032 false 0
    LaunchOk s ∧ (s.queueOf 5).stopped = false ∧
    InPage s (s.queueOf 5).desc.asid (s.queueOf 5).desc.base.toNat 8 (0x100001 * 65536) ∧
    (∃ r, InPage s (s.queueOf 5).desc.asid ((s.queueOf 5).desc.ringAddr (word64 s (0x100001 * 65536))) 64 r ∧ 0x100001 * 65536 + 8 ≤ r) ∧
    word64 s (0x100001 * 65536) - (s.queueOf 5).ridx + 64 ≤ (s.queueOf 5).desc.ringBytes ∧ word64 s (0x100001 * 65536) + 64 < 2 ^ 64 :=
  ⟨launchOk_of (by unfold Acts Ready Readable Free RangeOk; decide +kernel) (by decide +kernel) (by decide +kernel) (by decide +kernel) (by decide +kernel),
    by decide +kernel,
    inPage_of (i := 0x100001) (e := (stL 4032 false 0).mem.entry 0x100001) (by decide +kernel),
    ⟨_, inPage_of (i := 0x100001) (e := (stL 4032 false 0).mem.entry 0x100001) (by decide +kernel), by decide +kernel⟩, by decide +kernel, by decide +kernel⟩

theorem wit_DeviceLaunchTraps : (Handles (stL 0 false 0) ∧ Acts fLaunch (stL 0 false 0) ∧ Ready 0x6E fLaunch (stL 0 false 0)) ∧
    (let s := stL 0 false 1
     Handles s ∧ Acts fLaunch s ∧ Ready 0x6E fLaunch s ∧ (s.lchOf s.cur).img.det = true) ∧
    (let s := stR fun r => (r.putS 2 32).putS 4 2048
     Handles s ∧ (s.lchOf s.cur).img.det = false ∧ (s.cur.regs.getPair 2).toNat % 64 ≠ 0 ∧ ¬ (s.cur.regs.getS 4).toNat < 2048) := by
  unfold Handles Acts Ready Readable Free; decide +kernel

/-- s2 and s3 hold an address; accesses are scalar. -/
def stA (lo hi : Word) : State := withPages (stR fun r => (r.putS 2 lo).putS 3 hi)

def fAcc : Fields := { form := .e, u := true, a := 0xFF, bs := true, b := 2, d := 8, sub := 4 }

/-- The cause that the check of a scalar access answers, of the kind given. -/
def causeOf (s : State) (acc w : Nat) : Option Nat :=
  (s.checkLanes s.cur acc ((activeLanes true s.cur.exec).map fun l => (l, addrOf fAcc s.cur.regs l, w))).map (·.cause)

theorem wit_AccessFaults : let s := stA 0 2
    (Instr.ld fAcc).wellFormed = true ∧ Acts fAcc s ∧ Ready 0x58 fAcc s ∧ causeOf (stA 0 3) 0 4 = none ∧ s.cur.sup = none ∧ s.cur.fydb = .off ∧
    (let t := stA 0 4
     Acts fAcc t ∧ Ready 0x58 fAcc t ∧ causeOf t 0 4 = some Cause.pageFault ∧ t.cur.sup = none) ∧
    (let t := stA 0x00000000 0x00FD0000
     Handles t ∧ Acts fAcc t ∧ Ready 0x59 fAcc t ∧ causeOf t 1 4 = some Cause.accessViolation) ∧
    (let t := stA 0x1C 2
     Handles t ∧ Ready 0x5C fAcc t ∧ Ready 0x5D fAcc t ∧ causeOf t 2 8 = some Cause.atomicAlign ∧ causeOf t 3 8 = some Cause.atomicAlign) := by
  unfold Handles Acts Ready Readable Free; decide +kernel

theorem wit_AccessFaultsLimits : (window 0xFD000000000000 = 0xFD ∧ (st.lchOf st.cur).img.stack < 0xFD000000000000 % 2 ^ 48 + 1) ∧
    (window 0xFCFFFFFFFFFFF0 < 0xFD ∧ 0xFCFFFFFFFFFFF0 + 16 ≤ 0xFD * 2 ^ 48 ∧ 0xFCFFFFFFFFFFF0 % 65536 + 16 ≤ 65536 ∧ st.xlate st.cur 0xFCFFFFFFFFFFF0 = none) ∧
    32 < 0x20000001D % 32 + 4 ∧
    (let s := { stA 0 2 with mem := { (stA 0 2).mem with capacity := 0x100001 } }
     ∃ e, s.xlate s.cur 0x200000000 = some (0x100001, e) ∧ e.rem = false ∧ s.mem.beyond 0x100001 = true) ∧
    (let s := stA 0 1
     ∃ e, s.xlate s.cur 0x100000000 = some (0x100000, e) ∧ e.rem = false ∧ s.mem.beyond 0x100000 = false ∧ e.code = true ∧ e.sm = false) :=
  ⟨by decide +kernel, by decide +kernel, by decide, ⟨_, rfl, by decide +kernel, by decide +kernel⟩, ⟨_, rfl, by decide +kernel, by decide +kernel, by decide +kernel, by decide +kernel⟩⟩

/-- A fault of lane 31 at an address of page 0x40000. -/
def sup31 : SupSave :=
  let z : TrapRegs := {}
  { split := 0, k15 := 0, fault := { z with mask := 0x80000000, val := (z.val.set 0 (Lanes.all 0xFFFFFFFC)).set 1 (Lanes.all 4) } }

/-- A first touch of page 0x40000 by lane 31, with a demand-zero range and two frames in the pool, or without. -/
def stF (zero : Bool) : State :=
  let s := stG fun g => { g with
    sup := some sup31
    regs := g.regs.setK 15 0x80000000 }
  { s with mem := { s.mem with pool := [0x200000, 0x200001, 0x200002], zero := if zero then [{ asid := 0, index := 0, base := 0x400000000, size := 0x100000000, wr := true }] else [] } }

theorem wit_PageFaultHandler : (let s := stF true
     Faulted s sup31 31 0x4FFFFFFFC ∧ s.mem.zeroRange (s.lchOf s.cur).asid (0x4FFFFFFFC / 65536) ≠ none ∧
     s.mem.hasEntry (s.lchOf s.cur).asid (0x4FFFFFFFC / 65536) = false ∧ s.mem.reserve < s.mem.pool.length ∧ s.mem.bytes.wf = true) ∧
    (let s := stF false
     Faulted s sup31 31 0x4FFFFFFFC ∧ s.mem.zeroRange (s.lchOf s.cur).asid (0x4FFFFFFFC / 65536) = none) := by
  unfold Faulted; decide +kernel

theorem wit_EmptyMask : let s := stG fun g => { g with regs := g.regs.setK 0 0 }
    let s1 := { s with cur := s.cur.setSp { s.cur.sp with mask := 0 } }
    (Instr.fadd { form := .b, a := 0xFF, b6 := 63, d := 0xFE }).parts = some (0x34, { form := .b, a := 0xFF, b6 := 63, d := 0xFE }) ∧
    (Instr.fadd { form := .b, a := 0xFF, b6 := 63, d := 0xFE }).wellFormed = true ∧ s1.cur.exec = 0 ∧ vectorOp 0x34 { form := .b } := by
  unfold vectorOp; decide +kernel

theorem wit_DeviceLaunchHomed : ∀ w ∈ [0, 4032, 4096], ∀ x : Bool, Homed (stL w x 0) ∧ (stL w x 0).cur.shadow = [] := by
  unfold Homed; decide +kernel

/-! ## Part 10 -/

/-- Every entry waits on join slot 7, each with four lanes but the last; the last lane is dormant in the overflow area. -/
def stW (last : SplitSt) (n : Nat) : State :=
  let s := stG fun g => { g with
    splits := Vector.ofFn fun i => { v := true, st := .waiting, jslot := 7, wait := 5, mask := if i = 7 then 0x70000000 else 0xF <<< (4 * i.val) } }
  s.setOvfs (List.replicate n { v := true, st := .waiting, jslot := 1 } ++ [{ v := true, st := last, mask := 0x80000000, pc := 0x4000 }])

theorem wit_SplitSwap : let s := stW .dormant 15
    s.cur.resident = true ∧ Partitioned s ∧ (∀ m, (s.cur.entry m).v = true → (s.cur.entry m).st = .waiting) ∧ (s.cur.entry 0).v = true ∧
    (∀ m, (s.cur.entry m).v = true → (s.cur.entry m).wait ≤ (s.cur.entry 0).wait ∧ ((s.cur.entry m).wait = (s.cur.entry 0).wait → (0 : BitVec 3).toNat ≤ m.toNat)) ∧
    s.cur.ovf ≤ 16 ∧ 15 < s.cur.ovf ∧ (s.ovfEntry s.cur 15).st = .dormant ∧ s.cur.ovfWait.length = s.cur.ovf ∧
    (s.block? s.cur.launch s.cur.run s.cur.block).isSome = true ∧ (s.lchOf s.cur).img.scratchSize ≥ 512 * (s.cur.index + 1) := by
  unfold Partitioned; decide +kernel

theorem wit_SplitSwapTop : ∀ k, 15 < k → k < (stW .dormant 15).cur.ovf → ((stW .dormant 15).ovfEntry (stW .dormant 15).cur k).st ≠ .dormant := by
  have h : (stW .dormant 15).cur.ovf = 16 := by decide +kernel
  intro k h1 h2
  omega

/-- Split 7 waits on slot 7 for the rest of the group; the watchdog's word is `w`. -/
def stJw (w : Word) : State := stG fun g => { g with
  joins := Vector.ofFn fun i => if i = 7 then { rejoin := 0xFFFFFFFF, arrived := 0x80000000, pc := 0x2000, armed := true } else {}
  ctl := { g.ctl with utvec := 0x1000, jwd := w }
  splits := Vector.ofFn fun i => if i = 0 then { v := true, mask := 0x7FFFFFFF } else if i = 7 then { v := true, mask := 0x80000000, st := .waiting, jslot := 7, wait := 1 } else {} }

theorem wit_JoinWatchdog : let s := stJw 1
    s.cur.resident = true ∧ Partitioned s ∧ s.cur.ovf = 0 ∧ s.cur.fydb = .off ∧ s.cur.parked = none ∧ (∀ m, (s.cur.entry m).v = true → (s.cur.entry m).inh = false) ∧
    s.cur.ctl.jwd.toNat % 2 ^ 26 ≠ 0 ∧ s.cur.ctl.jwd.getLsbD 31 = false ∧
    ((s.cur.entry 7).v = true ∧ (s.cur.entry 7).st = .waiting ∧ (s.cur.entry 7).jslot = BitVec.ofNat 3 7 ∧ s.cur.ctl.jwd.toNat % 2 ^ 26 ≤ (s.cur.entry 7).wait) ∧
    (let t := stJw 0x80000001
     Partitioned t ∧ t.cur.ctl.jwd.getLsbD 31 = true ∧ t.cur.ctl.utvec ≠ 0 ∧ t.cur.ctl.jwd.toNat % 2 ^ 26 ≤ (t.cur.entry 7).wait ∧
     ∀ n, (t.cur.entry n).v = true → (t.cur.entry n).st = .waiting → n = 7) := by
  unfold Partitioned; decide +kernel

theorem wit_GroupEvents : let s := stG fun g => { g with iss := { g.iss with readyFor := 256 }, fydb := .stopped }
    s.cur.resident = true ∧ s.cur.ovf = 0 ∧ 256 ≤ s.cur.iss.readyFor ∧ (s.cur.entry 0).v = true ∧ (s.cur.entry 0).st = .ready ∧
    (∀ m, (s.cur.entry m).v = true → (s.cur.entry m).st = .ready → (0 : BitVec 3).toNat ≤ m.toNat) ∧ s.cur.fydb.holds = true ∧
    (let t := stW .waiting 0
     t.cur.resident = true ∧ ∀ n, (t.cur.entry n).v = true → (t.cur.entry n).st ≠ .ready) := by
  decide +kernel

/-! ## A queue in the data page -/

/-- Where the data page stands. -/
def dp : Nat := 0x100001 * 65536

theorem walkFrom_bytes (m : Mem) (b : Memory) (p : List Nat) (a : BitVec 16) (v : Nat) (w : Word) : ∀ n i, { m with bytes := b, pool := p }.walkFrom a v w n i = m.walkFrom a v w n i
  | 0, _ => rfl
  | n + 1, i => by
    unfold Mem.walkFrom
    rw [walkFrom_bytes m b p a v w n]
    rfl

theorem walk_bytes (m : Mem) (b : Memory) (p : List Nat) (a : BitVec 16) (v : Nat) :
    { m with bytes := b, pool := p }.walk a v ({ m with bytes := b, pool := p }.versOf a).newest = m.walk a v (m.versOf a).newest := walkFrom_bytes m b p a v _ _ _

/-- The data page translates, and nothing of a part without marks refuses it. -/
theorem inData {s : State} (b : Memory) (p : List Nat) (hm : s.mem = { (withPages st).mem with bytes := b, pool := p }) {va n : Nat} (h1 : va / 65536 = 0x20000) (h2 : va % 65536 + n ≤ 65536) :
    InPage s 0 va n (dp + va % 65536) := by
  refine inPage_of (e := (withPages st).mem.entry 0x100001) ⟨h2, by decide +kernel, ?_, ?_, ?_, ?_⟩
  · rw [hm, h1]
    exact (walk_bytes (withPages st).mem b p 0 _).trans (by decide +kernel)
  · rw [hm]; exact (show (withPages st).mem.beyond 0x100001 = false by decide +kernel)
  · rw [hm]; exact (show (withPages st).mem.poison = [] by decide +kernel)
  · rw [hm]; exact (show (withPages st).mem.lost = [] by decide +kernel)

/-- Queue 3 and its exception queue 64 in the data page, with words of the page written. -/
def sq (w : List (Nat × Nat)) (f : Queue → Queue) : State :=
  let s := withPages (stR id)
  { s with
    mem := { s.mem with bytes := w.foldl (fun m p => m.writeN (dp + p.1) (leBytes 8 p.2)) s.mem.bytes }
    queues := [f { num := 3, desc := { base := 0x200000000, tenant := 0, exq := 64, enabled := true } },
               { num := 64, desc := { base := 0x200008000, exq := 0xFFFF, enabled := true, exc := true } }] }

theorem sq_mem (w : List (Nat × Nat)) (f : Queue → Queue) :
    (sq w f).mem = { (withPages st).mem with bytes := w.foldl (fun m p => m.writeN (dp + p.1) (leBytes 8 p.2)) (withPages (stR id)).mem.bytes, pool := [] } := rfl

theorem at_page {s : State} {w : List (Nat × Nat)} {f : Queue → Queue} (hm : s.mem = (sq w f).mem) {va n : Nat} (h1 : va / 65536 = 0x20000) (h2 : va % 65536 + n ≤ 65536) :
    InPage s 0 va n (dp + va % 65536) :=
  inData _ _ (hm.trans (sq_mem w f)) h1 h2

theorem sq_page (w : List (Nat × Nat)) (f : Queue → Queue) {va n : Nat} (h1 : va / 65536 = 0x20000) (h2 : va % 65536 + n ≤ 65536) : InPage (sq w f) 0 va n (dp + va % 65536) :=
  at_page rfl h1 h2

/-- A packet of 64 bytes: opcode, BAR, SEQ 0, 64-bit fields. -/
def pk (op bar : Nat) (fs : List Nat) : Packet :=
  { bytes := leBytes 1 op ++ leBytes 1 bar ++ leBytes 2 1 ++ leBytes 4 0 ++ fs.flatMap (leBytes 8) ++ List.replicate (56 - 8 * fs.length) 0, pos := 0, seq := 0 }

def q3 : Queue := { num := 3, desc := { base := 0x200000000, exq := 64, enabled := true } }

theorem sq_queue (w : List (Nat × Nat)) (f : Queue → Queue) (h : (f q3).num = 3) : (sq w f).queue? 3 = some (f q3) := by
  have h1 : (sq w f).queues = [f q3, { num := 64, desc := { base := 0x200008000, exq := 0xFFFF, enabled := true, exc := true } }] := rfl
  simp [State.queue?, h1, h]

/-- A NOP is the next packet of queue 3. -/
def sqNext : State := sq [(0, 64), (64, 0x10000)] id
def pkNext : Packet := { bytes := sqNext.mem.bytes.readN (dp + 64) 64, pos := 0, seq := 0 }

theorem wit_NextPacket : NextPacket sqNext 3 q3 dp (dp + 64) pkNext :=
  ⟨by decide +kernel, by decide +kernel, by decide +kernel, sq_page _ _ (by decide +kernel) (by decide +kernel), by decide +kernel, rfl, by decide +kernel, by decide +kernel,
    by decide +kernel⟩

theorem wit_QueuePasses : sqNext.queue? 3 = some q3 ∧ q3.stopped = false ∧ HeaderAt sqNext q3 dp ∧ q3.ridx < 2 ^ 64 - 2 ^ 32 ∧ sqNext.power.recovery = none ∧
    sqNext.waitingRecs = [] ∧ q3.held = none ∧ word64 sqNext (dp + 32) % 4 = 0 ∧ ∀ n, n / 32 = 3 / 32 → n ≠ 3 → sqNext.queue? n = none :=
  ⟨by decide +kernel, by decide +kernel, sq_page _ _ (by decide +kernel) (by decide +kernel), by decide +kernel, by decide +kernel, by decide +kernel, by decide +kernel,
    by decide +kernel, by
      intro n h1 h2
      refine List.find?_eq_none.2 fun y hy => ?_
      obtain rfl | rfl := (List.mem_pair.1 hy : y = q3 ∨ y = _)
      · exact fun h => h2 (of_decide_eq_true h).symm
      · have : 64 ≠ n := by omega
        exact fun h => this (of_decide_eq_true h)⟩

/-- A pass serves the heads of its queues, class by class: each opcode in one of the classes. -/
theorem wit_QueueServes : ∀ o : Fin 9, ∃ c : Fin 7, let x : Queue := { q3 with held := some (pk o.val 0 []) }
    (sq [] fun _ => x).queue? 3 = some x ∧ x.stopped = false ∧ (pk o.val 0 []).opcode = o.val ∧ o.val ∈ serviceOrder.getD c.val [] := by
  decide +kernel

theorem wit_WidxWrite : let x : Queue := { q3 with ridx := 128, desc := { q3.desc with exq := 0xFFFF } }
    let s := sq [] fun _ => x
    s.queue? 3 = some x ∧ x.desc.enabled = true ∧ x.desc.exc = false ∧ x.stopped = false ∧ HeaderAt s x dp ∧ x.ridx < 2 ^ 64 - 2 ^ 32 ∧
    (x.ridx ≤ 4224 ∧ 4224 ≤ x.ridx + x.desc.ringBytes ∧ 4224 % 64 = 0) ∧ ¬ (x.ridx ≤ 64) ∧ ¬ (4288 ≤ x.ridx + x.desc.ringBytes) :=
  ⟨by decide +kernel, rfl, rfl, rfl, sq_page _ _ (by decide +kernel) (by decide +kernel), by decide +kernel, by decide +kernel, by decide +kernel, by decide +kernel⟩

/-- Queue 3, stopped with a record that awaits an answer, which the header gives. -/
def stAns (code kind : Nat) (x : Queue) : State :=
  { sq [(0, x.ridx), (32, 7 * 2 ^ 32 + code)] fun _ => x with
    awaited := [{ ticket := 7, queue := 3, kind := kind, code := 14, group := some ⟨1, 0, 0, 1⟩ }] }

def qStop : Queue := { q3 with stopped := true, skip := 64, ridx := 128 }

theorem ans_page (code kind : Nat) (x : Queue) {va n : Nat} (h1 : va / 65536 = 0x20000) (h2 : va % 65536 + n ≤ 65536) : InPage (stAns code kind x) 0 va n (dp + va % 65536) :=
  at_page (w := [(0, x.ridx), (32, 7 * 2 ^ 32 + code)]) (f := fun _ => x) rfl h1 h2

theorem wit_Answers : (let s := stAns 1 1 qStop
     s.queue? 3 = some qStop ∧ qStop.desc.enabled = true ∧ qStop.desc.exc = false ∧ HeaderAt s qStop dp ∧ qStop.ridx < 2 ^ 64 - 2 ^ 32 ∧ qStop.stopped = true ∧
     word64 s (dp + 32) % 4 = 1 ∧ word64 s (dp + 32) / 2 ^ 32 = (7 : Word).toNat ∧ (s.awaited.map fun a => (a.ticket, a.queue, a.kind)) = [(7, 3, 1)]) ∧
    (let s := { stAns 1 1 qStop with awaited := [] }
     word64 s (dp + 32) / 2 ^ 32 = (7 : Word).toNat ∧ ∀ a ∈ s.awaited, ¬ (a.ticket = 7 ∧ a.queue = 3)) ∧
    (let s := { stAns 1 3 q3 with cur := { st.cur with sup := some { split := 0, k15 := 0, fault := {} }, parked := some 7 } }
     word64 s (dp + 32) % 4 = 1 ∧ (s.awaited.map fun a => (a.ticket, a.queue, a.kind, a.group)) = [(7, 3, 3, some s.cur.ref)] ∧ s.cur.resident = true) ∧
    (let s := stAns 2 1 qStop
     word64 s (dp + 32) % 4 = 2 ∧ qStop.skip = 64 ∧
     (match s.ringUnit qStop.desc qStop.ridx with | .ok b => decide (({ bytes := b, pos := 0, seq := 0 } : Packet).resp = 0) | .error _ => false) = true) ∧
    (let s := stAns 3 1 qStop
     word64 s (dp + 32) % 4 = 3 ∧ qStop.held = none ∧ word64 s dp = qStop.ridx ∧ ∀ l ∈ s.launches, l.queue ≠ 3) :=
  ⟨⟨by decide +kernel, rfl, rfl, ans_page _ _ _ (by decide +kernel) (by decide +kernel), by decide, rfl, by decide +kernel⟩, by decide +kernel, by decide +kernel, by decide +kernel, by decide +kernel⟩

theorem wit_AnswersNotAlone : let s := { stAns 1 1 qStop with awaited := [{ ticket := 7, queue := 3, kind := 1, code := 14 }, { ticket := 8, queue := 3, kind := 6, code := 0 }] }
    word64 s (dp + 32) % 4 = 1 ∧ (∀ b ∈ s.awaited, b.ticket = 7 → b = { ticket := 7, queue := 3, kind := 1, code := 14 }) ∧
    ∃ b ∈ s.awaited, b.queue = 3 ∧ b.kind = 6 ∧ b.ticket ≠ 7 := by decide +kernel

/-- The running group is parked on a page fault that awaits an answer. -/
def stPark (code : Nat) : State :=
  let s := stAns code 3 q3
  { s with
    cur := { st.cur with sup := some { split := 0, k15 := 0, fault := {} }, parked := some 7 }
    awaited := [{ ticket := 7, queue := 3, kind := 3, code := 1, group := some st.cur.ref, launch := 1, gang := 0 }] }

theorem park_page (code : Nat) : HeaderAt (stPark code) q3 dp :=
  at_page (w := [(0, 0), (32, 7 * 2 ^ 32 + code)]) (f := fun _ => q3) rfl (va := 0x200000000) (n := 64) (by decide) (by decide)

theorem wit_AnswersComplete_queue : ∀ k : Fin 2, ∀ c : Fin 3, let s := stAns (c.val + 1) (1 + 5 * k.val) qStop
    s.queue? 3 = some qStop ∧ (s.awaited.map fun a => (a.ticket, a.queue, a.kind)) = [(7, 3, 1 + 5 * k.val)] ∧ word64 s (dp + 32) % 4 = c.val + 1 ∧
    word64 s (dp + 32) / 2 ^ 32 = (7 : Word).toNat ∧ (s.launches.map (·.id)).Nodup := by
  decide +kernel

theorem wit_AnswersComplete_group : ∀ c : Fin 3, let s := stPark (c.val + 1)
    s.queue? 3 = some q3 ∧ s.cur.resident = true ∧
    s.awaited = [{ ticket := 7, queue := 3, kind := 3, code := 1, group := some s.cur.ref, launch := s.cur.launch, gang := s.gangOf s.cur }] ∧
    word64 s (dp + 32) % 4 = c.val + 1 ∧ word64 s (dp + 32) / 2 ^ 32 = (7 : Word).toNat ∧ (s.lchOf s.cur).aborted = false ∧
    ((s.lchOf s.cur).gang? 0 s.cur.run).isSome = true := by
  decide +kernel

theorem wit_AnswersComplete_header : ∀ c k, HeaderAt (stAns c k qStop) qStop dp ∧ HeaderAt (stPark c) q3 dp :=
  fun c k => ⟨ans_page c k qStop (va := 0x200000000) (n := 64) (by decide) (by decide), park_page c⟩

/-- A packet at the head of queue 3 for 940 cycles; the data page's word at 0x1000 is 5. -/
def stPk (p : Packet) (n : Nat) : State := { sq [(0x1000, 5)] fun x => { x with held := some p } with cycle := BitVec.ofNat 64 n }

theorem pk_head (p : Packet) (n : Nat) : Head (stPk p n) 3 p { q3 with held := some p } :=
  ⟨rfl, fun _ h => absurd h List.not_mem_nil, sq_queue [(0x1000, 5)] (fun x => { x with held := some p }) rfl, rfl, rfl, rfl, rfl, fun _ => rfl, fun _ h => absurd h (by simp [q3]), by show (0 : Nat) < 2 ^ 64; decide⟩

theorem pk_page (p : Packet) (n : Nat) {va k : Nat} (h1 : va / 65536 = 0x20000) (h2 : va % 65536 + k ≤ 65536) : InPage (stPk p n) 0 va k (dp + va % 65536) :=
  at_page (w := [(0x1000, 5)]) (f := fun x => { x with held := some p }) rfl h1 h2

theorem wit_SignalPackets : ∀ p n, Head (stPk p n) 3 p { q3 with held := some p } ∧ HeaderAt (stPk p n) { q3 with held := some p } dp ∧
    InPage (stPk p n) q3.desc.asid 0x200001000 8 (dp + 0x1000) :=
  fun p n => ⟨pk_head p n, pk_page p n (va := 0x200000000) (k := 64) (by decide) (by decide), pk_page p n (va := 0x200001000) (k := 8) (by decide) (by decide)⟩

theorem wit_SignalPacketFields : (pk 0 1 []).resp = 0 ∧ (pk 1 0 [0x200001000]).fld 0 8 % 2 ^ 56 = 0x200001000 ∧
    ((pk 2 0 [0x200001000, 9, 0]).fld 16 8 = 0 ∧ (pk 2 0 [0x200001000, 9, 1]).fld 16 8 = 1 ∧ (pk 2 0 [0x200001000, 9, 1]).fld 0 8 % 8 = 0) ∧
    (let w := pk 3 0 [0x200001000, 5, 2 + 1 * 2 ^ 32]
     waitHolds w (word64 (stPk w 0) (dp + 0x1000)) ∧ w.resp = 0 ∧ w.fld 16 4 ≤ 3) ∧
    (let w := pk 3 0 [0x200001000, 5, 3 + 1 * 2 ^ 32]
     ¬ waitHolds w (word64 (stPk w 940) (dp + 0x1000)) ∧ w.opcode = 3 ∧ w.resp = 0 ∧ w.fld 20 4 = 1 ∧ 0 + w.fld 20 4 * 940 ≤ (stPk w 940).cycle.toNat) := by
  unfold waitHolds; decide +kernel

/-- A packet that has begun, whose response goes to 0x1008 of the data page. -/
def rn : Running := { seq := 0, resp := 0x200001008, opcode := 2, status := 3, detail := 255 }
def stRn (r : Running) : State := sq [] fun x => { x with running := [r] }

theorem rn_runs (r : Running) (h : r.waits = []) (h1 : r.stale = false) : Runs (stRn r) 3 { q3 with running := [r] } r :=
  ⟨sq_queue [] (fun x => { x with running := [r] }) rfl, rfl, rfl, by simp, by simp, by simp, h, h1, by show (0 : Nat) < 2 ^ 64; decide⟩

theorem wit_PacketCompletes : Runs (stRn rn) 3 { q3 with running := [rn] } rn ∧ HeaderAt (stRn rn) { q3 with running := [rn] } dp ∧
    RespAt (stRn rn) { q3 with running := [rn] } dp rn.resp (some (dp + 0x1008)) ∧ rn.opcode ≠ 4 ∧ rn.copy = none ∧ rn.launch = none ∧ rn.status < 256 ∧ rn.detail < 256 :=
  ⟨rn_runs rn rfl rfl, sq_page _ _ (by decide +kernel) (by decide +kernel),
    ⟨by decide, sq_page _ _ (by decide +kernel) (by decide +kernel), by decide +kernel⟩, by decide, rfl, rfl, by decide, by decide⟩

def pkWait : Packet := pk 3 0 [0x200001000, 5, 3 + 1 * 2 ^ 32]

theorem wit_SignalWaitTimesOut : RecordAt (stPk pkWait 940) { q3 with held := some pkWait } dp (dp + 0x8000) (dp + 0x8040) := by
  have h : word64 (stPk pkWait 940) (dp + 0x8000) = 0 := by decide +kernel
  refine ⟨{ num := 64, desc := { base := 0x200008000, exq := 0xFFFF, enabled := true, exc := true } }, by decide +kernel, rfl, rfl, by decide, rfl,
    pk_page pkWait 940 (va := 0x200008000) (k := 64) (by decide) (by decide), ?_, ?_, ?_, by decide, by decide, by decide⟩
  · rw [h]; exact pk_page pkWait 940 (va := 0x200008040) (k := 64) (by decide) (by decide)
  · rw [h]; decide +kernel
  · rw [h]; decide

/-! ## Part 11 -/

/-- The head of queue 3, whose errors go nowhere. -/
def qCf (p : Packet) : Queue := { q3 with held := some p, desc := { q3.desc with exq := 0xFFFF } }

/-- A CONFIG packet at the head of queue 3, with a pool. -/
def stCf (p : Packet) (pool : List Nat) (more : List Queue) : State :=
  let s := sq [] fun _ => qCf p
  { s with mem := { s.mem with pool := pool }, queues := s.queues ++ more }

theorem cf_mem (p : Packet) (pool : List Nat) (more : List Queue) :
    (stCf p pool more).mem = { (withPages st).mem with bytes := (withPages (stR id)).mem.bytes, pool := pool } := by
  have h : (stCf p pool more).mem = { (sq [] fun _ => qCf p).mem with pool := pool } := rfl
  rw [h, sq_mem]
  generalize (withPages st).mem = m
  generalize (withPages (stR id)).mem.bytes = b
  rfl

theorem cf_page (p : Packet) (pool : List Nat) (more : List Queue) {va k : Nat} (h1 : va / 65536 = 0x20000) (h2 : va % 65536 + k ≤ 65536) :
    InPage (stCf p pool more) 0 va k (dp + va % 65536) := inData _ _ (cf_mem p pool more) h1 h2

theorem versOf_bytes (m : Mem) (b : Memory) (p : List Nat) (a : BitVec 16) : { m with bytes := b, pool := p }.versOf a = m.versOf a := rfl

theorem cf_queue (p : Packet) (pool : List Nat) (more : List Queue) : (stCf p pool more).queue? 3 = some (qCf p) := by
  have h : (stCf p pool more).queues = [qCf p, { num := 64, desc := { base := 0x200008000, exq := 0xFFFF, enabled := true, exc := true } }] ++ more := rfl
  simp [State.queue?, h, qCf, q3]

theorem cf_ok (p : Packet) (pool : List Nat) (more : List Queue) (h : p.resp = 0) : Configures (stCf p pool more) 3 p (qCf p) :=
  ⟨⟨rfl, fun _ h => absurd h List.not_mem_nil, cf_queue p pool more, rfl, rfl, rfl, rfl, fun _ => rfl, fun _ h => absurd h (by simp [qCf, q3]), by show (0 : Nat) < 2 ^ 64; decide⟩, h,
    by rw [cf_mem, versOf_bytes]; exact (show ((withPages st).mem.versOf 0).isOpen = true by decide +kernel), rfl, by
      have h1 : (stCf p pool more).groups = st.groups.map fun g => { g with ctl := { g.ctl with utvec := 0x1000 } } := rfl
      rw [h1]; decide +kernel⟩

/-- CONFIG of sub-operation `sub` with fields from offset 8 on. -/
def cf (sub : Nat) (fs : List Nat) : Packet := pk 7 0 (sub :: fs)

/-- QUEUE: number 5, in the data page at 0x4000. -/
def cfQ (n flags : Nat) : Packet := cf 0 [0x200004000, n + 12 * 2 ^ 16 + 0xFFFF * 2 ^ 48, flags]

theorem wit_ConfigTables : ∀ n flags, Configures (stCf (cfQ n flags) [] []) 3 (cfQ n flags) (qCf (cfQ n flags)) ∧
    HeaderAt (stCf (cfQ n flags) [] []) (qCf (cfQ n flags)) dp ∧ InPage (stCf (cfQ n flags) [] []) 0 0x200004000 64 (dp + 0x4000) := fun n flags =>
  ⟨cf_ok _ _ _ rfl, cf_page _ _ _ (va := 0x200000000) (k := 64) (by decide) (by decide), cf_page _ _ _ (va := 0x200004000) (k := 64) (by decide) (by decide)⟩

theorem wit_ConfigQueueFields : (let p := cfQ 5 3
     5 = p.fld 16 2 ∧ (descOf p).enabled = true ∧ (descOf p).devlaunch = true ∧ (descOf p).base = 0x200004000 ∧ (descOf p).asid = 0 ∧ (stCf p [] []).queue? 5 = none ∧
     ((stCf p [] []).mem.versOf (descOf p).asid).isOpen = true) ∧
    (let p := cfQ 5 0
     let y : Queue := { num := 5, desc := { base := 0x200008000, enabled := true } }
     let s := stCf p [] [y]
     5 = p.fld 16 2 ∧ (descOf p).enabled = false ∧ s.queue? 5 = some y ∧ word64 s (dp + 0x8000) = y.ridx ∧ (∀ l ∈ s.launches, l.queue ≠ 5) ∧
     (s.mem.versOf y.desc.asid).isOpen = true) := by
  decide +kernel

theorem wit_ConfigQueueDisables : let p := cfQ 5 0
    let y : Queue := { num := 5, desc := { base := 0x200008000, enabled := true } }
    Configures (stCf p [] [y]) 3 p (qCf p) ∧ HeaderAt (stCf p [] [y]) y (dp + 0x8000) ∧ HeaderAt (stCf p [] [y]) (qCf p) dp :=
  ⟨cf_ok _ _ _ rfl, cf_page _ _ _ (va := 0x200008000) (k := 64) (by decide) (by decide), cf_page _ _ _ (va := 0x200000000) (k := 64) (by decide) (by decide)⟩

theorem wit_ConfigOthers : (∀ p, p.resp = 0 → Configures (stCf p [] []) 3 p (qCf p)) ∧ (cf 1 [7 + 0xFFFF * 2 ^ 16]).resp = 0 ∧
    (cf 2 [63 * 2 ^ 16, 0x10000, 0x10000]).resp = 0 ∧ (cf 9 [1 + 0xF * 2 ^ 16]).resp = 0 ∧ (cf 8 [255]).fld 8 2 = 255 ∧
    ((stCf (cf 8 [255]) [] []).fabric.ports[255]?).isSome = true ∧ ((stCf (cf 8 [255]) [] []).power.islands.toList)[92 + 255 % 32]? ≠ some Island.off :=
  ⟨fun p h => cf_ok p _ _ h, by decide, by decide, by decide, by decide, by decide +kernel, by decide +kernel⟩

/-- MAP of frame `f` at page 0x50000 of ASID 0. -/
def cfMap (flags f : Nat) : Packet := cf 3 [flags * 2 ^ 16, 0x500000000, f + 511 * 2 ^ 32]

/-- A part holds fewer frames than the last one. -/
theorem firmware_low (f n : Nat) (h : 0x1100000 ≤ f) : Config.firmwareFrames .p4180 n ≤ f := by
  have h1 := (Config.firmwareExtraFrames n).isLt
  have h2 : Config.tableFrames .p4180 ≤ 0x800000 := by decide
  unfold Config.firmwareFrames
  omega

theorem wit_ConfigMap : let p := cfMap 4 0x11FFFFF
    let s := stCf p [0x11FFFFF] []
    Configures s 3 p (qCf p) ∧ (p.fld 10 1).testBit 3 = false ∧ p.fld 24 4 < s.mem.capacity ∧ p.fld 24 4 < 0x2000000 ∧ s.heldFrames ≤ p.fld 24 4 ∧
    s.mem.mapped (p.fld 24 4) = false ∧ p.fld 24 4 ∈ s.mem.pool :=
  ⟨cf_ok _ _ _ rfl, by decide +kernel, by decide +kernel, by decide +kernel, firmware_low _ _ (by decide +kernel), by decide +kernel, by decide +kernel⟩

/-- Every entry of the remote-entry array is in use. -/
def fullArray : List (Nat × IptEntry) := (List.range 65536).map fun i => (0x2000000 + i, { vpn := i, valid := true, rem := true })

theorem assoc_full : ∀ (l : List Nat) (f : Nat → IptEntry) (i : Nat), i ∈ l → assoc (l.map fun k => (0x2000000 + k, f k)) (0x2000000 + i) = some (f i)
  | k :: l, f, i, h => by
    by_cases e : k = i
    · simp [assoc, e]
    · have h1 := assoc_full l f i (by simpa [Ne.symm e] using h)
      simpa [assoc, e] using h1

/-- The state before a CONFIG packet with other entries in the table. -/
def stEntries (p : Packet) (l : List (Nat × IptEntry)) : State := { stCf p [] [] with mem := { (stCf p [] []).mem with ipt := l } }

theorem entries_ok (p : Packet) (l : List (Nat × IptEntry)) (h : p.resp = 0) : Configures (stEntries p l) 3 p (qCf p) :=
  ⟨⟨(cf_ok p [] [] h).1.1, (cf_ok p [] [] h).1.2.1, (cf_ok p [] [] h).1.2.2⟩, (cf_ok p [] [] h).2⟩

theorem entries_entry (p : Packet) (l : List (Nat × IptEntry)) (i : Nat) : (stEntries p l).mem.entry i = (assoc l i).getD {} := rfl

theorem wit_ConfigMapFull : (cfMap 15 0x1FFFFFF).resp = 0 ∧ ∀ i < 65536, ((stEntries (cfMap 15 0x1FFFFFF) fullArray).mem.entry (0x2000000 + i)).valid = true := by
  refine ⟨rfl, fun i hi => ?_⟩
  rw [entries_entry, fullArray, assoc_full _ (fun k => { vpn := k, valid := true, rem := true }) _ (List.mem_range.2 hi)]
  rfl

theorem wit_ConfigMapRefusals : (let p := cfMap 0 0x1200000
     (p.fld 10 1).testBit 3 = false ∧ (stCf p [] []).mem.capacity ≤ p.fld 24 4) ∧
    (let p := cfMap 0 0x11FFFFF
     p.fld 24 4 < (stCf p [] []).mem.capacity ∧ p.fld 24 4 ∉ (stCf p [] []).mem.pool) ∧
    (let p := cfMap 0 0
     p.fld 24 4 < (stCf p [] []).mem.capacity ∧ p.fld 24 4 < Config.tableFrames .p4180) ∧
    (let p := cfMap 15 0x1FFFFFF
     let s := stCf p [] []
     (p.fld 10 1).testBit 3 = true ∧ p.fld 10 1 < 16 ∧ (s.mem.entry (0x2000000 + 0)).valid = false) := by
  decide +kernel

theorem wit_ConfigUnmap : let p := cf 4 [2 ^ 16, 0x200000000]
    let s := stCf p [] []
    Configures s 3 p (qCf p) ∧ (∃ i e, s.mem.walk (BitVec.ofNat 16 (p.fld 8 2)) (p.fld 16 8 / 65536 % 2 ^ 40) (BitVec.ofNat 32 (p.fld 12 4)) = some (i, e)) ∧
    s.mem.walk 0 (0x60000 % 2 ^ 40) 0 = none :=
  ⟨cf_ok _ _ _ rfl, ⟨_, _, (by decide +kernel : _ = some (0x100001, (withPages st).mem.entry 0x100001))⟩, by decide +kernel⟩

theorem wit_ConfigPool : (let p := cf 5 [2 * 2 ^ 32, 0x11FFFFE]
     let s := stCf p [] []
     Configures s 3 p (qCf p) ∧ p.fld 16 4 = 0x11FFFFE ∧ p.fld 12 4 = 2 ∧ s.mem.capacity = 0x1200000 ∧ s.heldFrames ≤ 0x11FFFFE ∧
     ∀ q ∈ s.mem.ipt, q.1 < 0x11FFFFE ∨ 0x1200000 ≤ q.1) ∧
    (let p := cf 5 [2 ^ 32, 0x1200000]
     Configures (stCf p [] []) 3 p (qCf p) ∧ 0 < p.fld 12 4 ∧ (stCf p [] []).mem.capacity ≤ p.fld 16 4) ∧
    (let p := cf 5 [2 ^ 32, 0]
     Configures (stCf p [] []) 3 p (qCf p) ∧ 0 < p.fld 12 4 ∧ p.fld 16 4 < Config.tableFrames .p4180) ∧
    (let p := cf 5 [1 + 3 * 2 ^ 32, 0, 0x200001000]
     let s := stCf p [0x11FFFFE, 0x11FFFFF] []
     Configures s 3 p (qCf p) ∧ InPage s 0 0x200001000 12 (dp + 0x1000) ∧ p.fld 24 8 % 2 ^ 56 = 0x200001000 ∧
     4 + 4 * min (p.fld 12 4) (s.mem.pool.length - s.mem.reserve) = 12 ∧ s.mem.pool.Nodup) :=
  ⟨⟨cf_ok _ _ _ rfl, by decide +kernel, by decide +kernel, by decide +kernel, firmware_low _ _ (by decide +kernel), by decide +kernel⟩,
    ⟨cf_ok _ _ _ rfl, by decide +kernel, by decide +kernel⟩, ⟨cf_ok _ _ _ rfl, by decide +kernel, by decide +kernel⟩,
    ⟨cf_ok _ _ _ rfl, cf_page _ _ _ (va := 0x200001000) (k := 12) (by decide) (by decide), by decide +kernel, by decide +kernel, by decide +kernel⟩⟩

theorem wit_ConfigEvict : let p := cf 6 [0, 0x200000000, 0x300000000]
    let s := stCf p [] []
    Configures s 3 p (qCf p) ∧ s.mem.beyond 0x100001 = false ∧ ((withPages st).mem.entry 0x100001).rem = false ∧
    s.mem.walk (BitVec.ofNat 16 (p.fld 8 2)) (p.fld 16 8 / 65536 % 2 ^ 40) (s.mem.versOf (BitVec.ofNat 16 (p.fld 8 2))).newest = some (0x100001, (withPages st).mem.entry 0x100001) :=
  ⟨cf_ok _ _ _ rfl, by decide +kernel, by decide +kernel, by decide +kernel⟩

/-- COPY of 3 bytes across a sector's end: the last of them. -/
def rnCopy (off : Nat) (ev : Option (BitVec 16 × Nat)) : Running :=
  { seq := 0, resp := 0x200008008, opcode := 5, copy := some { src := 0x200001002, dst := 0x20000201E, count := 3, off := off, evict := ev } }

theorem wit_CopyPackets : (let p := pk 5 0 [0x200001002, 0x20000201E, 3]
     Head (stPk p 0) 3 p { q3 with held := some p }) ∧
    (let r := rnCopy 0 none
     Runs (stRn r) 3 { q3 with running := [r] } r ∧ 2 = min (32 - (0x20000201E + 0) % 32) (3 - 0) ∧ InPage (stRn r) 0 0x200001002 2 (dp + 0x1002) ∧
     InPage (stRn r) 0 0x20000201E 2 (dp + 0x201E) ∧
     0x200001002 + 3 ≤ 0x20000201E) ∧
    (let r := rnCopy 3 none
     Runs (stRn r) 3 { q3 with running := [r] } r ∧ HeaderAt (stRn r) { q3 with running := [r] } dp ∧
     RespAt (stRn r) { q3 with running := [r] } dp r.resp (some (dp + 0x8008)) ∧ ((stRn r).mem.versOf 0).isOpen = true) ∧
    (let r := rnCopy 3 (some (0, 0x200000000))
     Runs (stRn r) 3 { q3 with running := [r] } r ∧ (∀ g ∈ (stRn r).groups, g.pend.mem = []) ∧
     (stRn r).mem.walk 0 (0x200000000 / 65536 % 2 ^ 40) ((stRn r).mem.versOf 0).newest = some (0x100001, (withPages st).mem.entry 0x100001)) :=
  ⟨pk_head _ _, ⟨rn_runs _ rfl rfl, by decide, sq_page _ _ (va := 0x200001002) (n := 2) (by decide) (by decide), sq_page _ _ (va := 0x20000201E) (n := 2) (by decide) (by decide), by decide⟩,
    ⟨rn_runs _ rfl rfl, sq_page _ _ (va := 0x200000000) (n := 64) (by decide) (by decide),
      ⟨by decide, sq_page _ _ (va := 0x200008008) (n := 8) (by decide) (by decide), by decide⟩, by decide +kernel⟩,
    ⟨rn_runs _ rfl rfl, by decide +kernel, by decide +kernel⟩⟩

/-! ## Part 12 -/

/-- The class of N6: elementwise, 1000, 2^-20. -/
def dN6 : Decl := { cls := 1, norm := false, uses := 1, flags := 0, range := 0x447A0000, relExp := -20, accExp := -20, chain := 1, pinReg := 0, pinMem := 0 }

/-- The entry of a class, where it binds. -/
def entryOf (d : Decl) : Option DWord := match d.bind with | .ok b => some (b.entry 0) | .error _ => none

theorem wit_ClassBinding : (entryOf dN6).isSome = true ∧ (∃ k ∈ dN6.cands, (match dN6.try k with | .ok _ => true | .error _ => false) = true ∧ k.reg < 4 ∧ k.mem.kind < 8 ∧ k.mem.planes < 16) ∧
    2 ^ 23 ≤ dN6.range ∧ dN6.range < 254 * 2 ^ 23 ∧
    (let d := { dN6 with relExp := -64 }
     (entryOf d) = none ∧ ∃ k ∈ d.cands, (match d.try k with | .ok _ => true | .error _ => false) = false) ∧
    (let d := { dN6 with flags := 2 }
     d.exact = true ∧ (entryOf d).isSome = true) := by
  decide +kernel

/-- A section table entry. -/
def sect (kind off size : Nat) : List Byte := leBytes 4 kind ++ leBytes 4 0 ++ leBytes 4 off ++ leBytes 4 size ++ leBytes 8 0

/-- A module from its section table on: one code section (an EXIT), c1 of N6 or with `rel`, no image; the units that it requires. -/
def modTail (rel units : Nat) : List Byte :=
  sect 1 136 4 ++ sect 3 140 480 ++ sect 4 620 16 ++ leBytes 4 0x1C ++
  (leBytes 4 0x10001 ++ leBytes 4 0x447A0000 ++ leBytes 2 rel ++ leBytes 2 0xFFEC ++ leBytes 4 1 ++ List.replicate 16 0) ++ List.replicate 448 0 ++
  (leBytes 4 0x444C5946 ++ leBytes 4 0 ++ leBytes 4 units ++ leBytes 4 0)

/-- The module: header and tail. -/
def modOf (rel units : Nat) : List Byte :=
  leBytes 4 0x314D5946 ++ leBytes 4 0x10001 ++ leBytes 4 3 ++ leBytes 4 0 ++ sha256 (modTail rel units) ++ List.replicate 16 0 ++ modTail rel units

theorem wit_Modules : (parseModule (modOf 0xFFEC 1)).map (·.units) = some 1 ∧ Config.hasUnfold .p4140 = false ∧ parseModule [] = none ∧
    (bindModule true (modOf 0xFFEC 0)).status = 0 ∧ (bindModule true (modOf 0xFFC0 0)).status ≠ 0 ∧ (modOf 0xFFEC 0).length = 636 := by
  decide +kernel

/-- Bytes in the data page at 0x2000, and a packet at the head of queue 3. -/
def stIn (p : Packet) (b : List Byte) (bs : List Binding) : State :=
  let s := stCf p [] []
  { s with mem := { s.mem with bytes := s.mem.bytes.writeN (dp + 0x2000) b }, bindings := bs }

theorem stIn_mem (p : Packet) (b : List Byte) (bs : List Binding) :
    (stIn p b bs).mem = { (withPages st).mem with bytes := (withPages (stR id)).mem.bytes.writeN (dp + 0x2000) b, pool := [] } := by
  have h : (stIn p b bs).mem = { (stCf p [] []).mem with bytes := (stCf p [] []).mem.bytes.writeN (dp + 0x2000) b } := rfl
  rw [h, cf_mem]

theorem stIn_page (p : Packet) (b : List Byte) (bs : List Binding) {va k : Nat} (h1 : va / 65536 = 0x20000) (h2 : va % 65536 + k ≤ 65536) :
    InPage (stIn p b bs) 0 va k (dp + va % 65536) := inData _ _ (stIn_mem p b bs) h1 h2

theorem stIn_stands (p : Packet) (b : List Byte) (bs : List Binding) (h : b.length ≤ 4096) : Stands (stIn p b bs) 0 0x200002000 b := by
  intro k hk
  obtain ⟨-, ⟨i, e, h1, -, h2, -, h3, h4⟩, h5⟩ := stIn_page p b bs (va := 0x200002000 + k) (k := 1) (by omega) (by omega)
  have h6 : (0x200002000 + k) % 65536 = 0x2000 + k := by omega
  rw [h6] at h1 h5 ⊢
  have h7 : i * 65536 + (0x2000 + k) = dp + 0x2000 + k := by rw [← h1]; omega
  refine ⟨i, e, h3, h2, h4, ?_, ?_⟩
  · rw [h7, ← Nat.add_assoc] at *
    exact (h5 _ (Nat.le_refl _) (by omega)).1
  · rw [h7, stIn_mem]
    exact Memory.read_writeN_at _ _ _ _ hk

theorem stIn_head (p : Packet) (b : List Byte) (bs : List Binding) : Head (stIn p b bs) 3 p (qCf p) := by
  have h : (stIn p b bs).queues = (stCf p [] []).queues := rfl
  refine ⟨rfl, fun _ h => absurd h List.not_mem_nil, ?_, rfl, rfl, rfl, rfl, fun _ => rfl, fun _ h => absurd h (by simp [qCf, q3]), by show (0 : Nat) < 2 ^ 64; decide⟩
  unfold State.queue?
  rw [h]
  exact cf_queue p [] []

/-- BIND of the module at 0x2000, its record to 0x4000. -/
def pkBind : Packet := { pk 6 0 [0x200002000, 636, 0x200004000, 0x200008008] with pos := 0 }

theorem wit_BindPackets : ∀ rel, (modOf rel 0).length ≤ 4096 → let s := stIn pkBind (modOf rel 0) []
    Head s 3 pkBind (qCf pkBind) ∧ (qCf pkBind).failed = none ∧ Stands s 0 (pkBind.fld 0 8 % 2 ^ 56) (modOf rel 0) ∧ InPage s 0 (pkBind.fld 16 8 % 2 ^ 56) 608 (dp + 0x4000) :=
  fun rel h => ⟨stIn_head _ _ _, rfl, stIn_stands pkBind (modOf rel 0) [] h, stIn_page _ _ _ (va := 0x200004000) (k := 608) (by decide) (by decide)⟩

theorem wit_BindSize : ∀ rel : Fin 2, (modOf (0xFFC0 + 44 * rel.val) 0).length = pkBind.fld 8 8 ∧ (modOf (0xFFC0 + 44 * rel.val) 0).length ≤ 4096 := by decide +kernel

/-- BIND has begun. -/
def rnBind : Running := { seq := 0, resp := 0x200008008, opcode := 6, launch := some 1, detail := 0 }

theorem wit_BindCompletes : Runs (stRn rnBind) 3 { q3 with running := [rnBind] } rnBind ∧ rnBind.opcode = 6 ∧ rnBind.launch = some 1 ∧ rnBind.status = 0 ∧
    HeaderAt (stRn rnBind) { q3 with running := [rnBind] } dp ∧ RespAt (stRn rnBind) { q3 with running := [rnBind] } dp rnBind.resp (some (dp + 0x8008)) :=
  ⟨rn_runs _ rfl rfl, rfl, rfl, rfl, sq_page _ _ (va := 0x200000000) (n := 64) (by decide) (by decide),
    by decide, sq_page _ _ (va := 0x200008008) (n := 8) (by decide) (by decide), by decide⟩

/-- A launch image: flags, binding, grid and block dimensions, partition word, NV; one INPUT range and one PRIVATE range. -/
def imgOf (magic flags bind grid bdim part nv : Nat) (own : List (List Nat)) : List Byte :=
  leBytes 4 magic ++ leBytes 2 1 ++ leBytes 2 flags ++ leBytes 4 bind ++ leBytes 4 0 ++ leBytes 8 0x100000000 ++ leBytes 4 grid ++ leBytes 4 bdim ++ leBytes 4 part ++
  leBytes 2 nv ++ leBytes 2 0 ++ leBytes 4 0x100000 ++ leBytes 4 0xFFFFFFFF ++ leBytes 8 0x1000 ++ leBytes 4 0 ++ leBytes 4 0 ++ leBytes 8 0 ++ leBytes 8 0 ++ leBytes 4 0 ++
  List.replicate 44 0 ++ (own.flatMap fun r => leBytes 8 (r.getD 0 0) ++ leBytes 8 (r.getD 1 0) ++ leBytes 8 (r.getD 2 0) ++ leBytes 8 (r.getD 3 0)) ++
  List.replicate (512 - 32 * own.length) 0

def ownOk : List (List Nat) := [[0x200000000, 0x10000, 0, 1], [0x300000000, 0x20, 0x40, 2], [0xFF000000000000, 0x1000000000000, 0, 3]]

/-- 94 units of a core: 24 of v registers, 46 of scratchpad, 24 of tiles. -/
def imgOk : List Byte := imgOf 0x494C5946 0 9 4 0x101 0x182E18 256 ownOk

def bound9 : Binding := { id := 9, asid := 0, bound := true, entries := Vector.ofFn fun _ => 0x800000003F800000 }

/-- LAUNCH_IMAGE of the image at 0x2000, with the save area at 0x4000. -/
def pkImg (size : Nat) : Packet := pk 4 0 [0x200002000, 0x200004000, size, 0x200008008]

theorem wit_LaunchImages : let s := stIn (pkImg 0x1000000) imgOk [bound9]
    Head s 3 (pkImg 0x1000000) (qCf (pkImg 0x1000000)) ∧ Stands s 0 ((pkImg 0x1000000).fld 0 8 % 2 ^ 56) imgOk ∧ imgOk.length = 640 :=
  ⟨stIn_head _ _ _, stIn_stands (pkImg 0x1000000) imgOk [bound9] (by decide +kernel), by decide +kernel⟩

theorem wit_LaunchImageRules : HeaderKept imgOk ∧ PartKept imgOk ∧ MapKept imgOk ∧ SaveKept imgOk ((pkImg 0x1000000).fld 16 8) ∧ (num imgOk 6 2).testBit 3 = false ∧
    Binds (stIn (pkImg 0x1000000) imgOk [bound9]) 0 (BitVec.ofNat 32 (num imgOk 8 4)) bound9 :=
  ⟨by unfold HeaderKept; decide +kernel, by unfold PartKept; decide +kernel, by unfold MapKept ranges rangeEnd; decide +kernel, by unfold SaveKept; decide +kernel, by decide +kernel,
    by simp [stIn], by decide +kernel, rfl, rfl, by simp [stIn, bound9]⟩

theorem wit_LaunchImageVersions : let s := stIn (pkImg 0x1000000) imgOk [bound9]
    (∀ k : Fin 128, s.mem.walk 0 (0xFC00000000 + k.val) (s.mem.versOf 0).newest = none) ∧ (s.mem.versOf 0).isOpen = true := by
  decide +kernel

theorem wit_LaunchImagesRefused : ¬ HeaderKept (imgOf 0 0 9 4 0x101 0x182E18 256 ownOk) ∧
    ¬ PartKept (imgOf 0x494C5946 0 9 4 0x101 0x182F18 256 ownOk) ∧ HeaderKept (imgOf 0x494C5946 0 9 4 0x101 0x182F18 256 ownOk) ∧
    ¬ PartKept (imgOf 0x494C5946 1 9 4 0x101 0x182E18 256 ownOk) ∧
    ¬ MapKept (imgOf 0x494C5946 0 9 4 0x101 0x182E18 256 [[0x200000000, 0x10000, 0, 1], [0x20000FFE0, 0x20, 0, 3]]) ∧
    ¬ MapKept (imgOf 0x494C5946 1 9 4 0x101 0x010101 8 []) ∧ ¬ SaveKept imgOk 704 :=
  ⟨by unfold HeaderKept; decide +kernel, by unfold PartKept; decide +kernel, by unfold HeaderKept; decide +kernel, by unfold PartKept; decide +kernel,
    by unfold MapKept ranges rangeEnd; decide +kernel, by unfold MapKept ranges rangeEnd; decide +kernel, by unfold SaveKept; decide +kernel⟩

/-- A launch of queue 3 whose one gang is complete, or which was ended; its packet runs. -/
def lDone (ab : Bool) : Launch := { id := 7, queue := 3, img := { codever := 5 }, gangs := [{ index := 0, st := .complete }], next := 1, aborted := ab }
def rnLaunch : Running := { seq := 0, resp := 0x200008008, opcode := 4, launch := some 7 }
def stDone (ab : Bool) : State := { stRn rnLaunch with launches := [lDone ab] }

theorem done_page (ab : Bool) {va k : Nat} (h1 : va / 65536 = 0x20000) (h2 : va % 65536 + k ≤ 65536) : InPage (stDone ab) 0 va k (dp + va % 65536) :=
  at_page (w := []) (f := fun x => { x with running := [rnLaunch] }) rfl h1 h2

theorem wit_LaunchesComplete : ∀ ab : Bool, let s := stDone ab
    let x : Queue := { q3 with running := [rnLaunch] }
    s.launch? 7 = some (lDone ab) ∧ Runs s 3 x rnLaunch ∧ (∀ y ∈ x.running, y.launch = some 7 → y = rnLaunch) ∧ HeaderAt s x dp ∧ RespAt s x dp rnLaunch.resp (some (dp + 0x8008)) :=
  fun ab => ⟨rfl, ⟨sq_queue [] (fun x => { x with running := [rnLaunch] }) rfl, rfl, rfl, by simp, by simp, by simp, rfl, rfl, by show (0 : Nat) < 2 ^ 64; decide⟩,
    by simp, done_page ab (va := 0x200000000) (k := 64) (by decide) (by decide), by decide, done_page ab (va := 0x200008008) (k := 8) (by decide) (by decide), by decide⟩

theorem done_code : (0 : Word) ∈ ((stDone true).mem.versOf 0).held ∧ ((stDone true).mem.versOf 0).newest = 0 ∧
    ∀ p ∈ (stDone true).mem.ipt, p.2.valid = true → p.2.code = true → p.2.asid = 0 → ((stDone true).mem.walk 0 p.2.vpn 0).map (·.1) = some p.1 := by
  decide +kernel

/-- The page of the running code, entry 0x100003, is walked to by the newest version. -/
theorem wit_LaunchesCompleteState : (∀ y ∈ (stDone true).fabric.reqs, y.owner ≠ .launch 7) ∧
    ((lDone false).img.griddim.toNat ≤ (lDone false).next ∧ (∀ k ∈ (lDone false).gangs, k.st = .complete ∨ k.st = .unresolved) ∧ (lDone false).staged = [] ∧ (lDone false).img.det = false) ∧
    ∀ p ∈ (stDone true).mem.ipt, p.2.valid = true → p.2.code = true → p.2.asid = 0 → ∃ v ∈ ((stDone true).mem.versOf 0).held,
      (v = ((stDone true).mem.versOf 0).newest ∨ ∃ y ∈ (stDone true).launches, y.id ≠ 7 ∧ y.asid = 0 ∧ y.img.codever = v) ∧
      ((stDone true).mem.walk 0 p.2.vpn v).map (·.1) = some p.1 :=
  ⟨by decide +kernel, by decide +kernel, fun p h h1 h2 h3 => ⟨0, done_code.1, .inl done_code.2.1.symm, done_code.2.2 p h h1 h2 h3⟩⟩

/-- The page of code that served version 5 only: version 6 has one of its own. -/
def stOld : State :=
  let s := { stDone true with queues := [] }
  { s with mem := { ((s.mem.link 0x100005 { vpn := 0x70000, code := true, vfirst := 5, vspan := 0 }).link 0x100006 { vpn := 0x70000, code := true, vfirst := 6 }) with
      vers := [{ asid := 0, newest := 6, isOpen := true, held := [5, 6] }] } }

theorem stOld_walk : (stOld.mem.versOf 0).held = [5, 6] ∧ (stOld.mem.versOf 0).newest = 6 ∧ (stOld.mem.entry 0x100005).vpn = 0x70000 ∧
    (stOld.mem.walk 0 0x70000 6).map (·.1) = some 0x100006 ∧ (stOld.mem.walk 0 0x70000 5).map (·.1) = some 0x100005 := by decide +kernel

theorem wit_VersionsAreFreed : (stOld.launch? 7 = some (lDone true) ∧ (lDone true).aborted = true ∧ stOld.fabric.reqs = [] ∧ (stOld.queueOf 3).running = []) ∧
    (∃ e, (0x100005, e) ∈ stOld.mem.ipt ∧ stOld.mem.entry 0x100005 = e ∧ e.valid = true ∧ e.code = true ∧ e.asid = 0 ∧ ((stOld.mem.versOf 0).newest - e.vfirst).toNat < 2 ^ 31 ∧
      ∀ v ∈ (stOld.mem.versOf 0).held, v = (stOld.mem.versOf 0).newest → (stOld.mem.walk 0 e.vpn v).map (·.1) ≠ some 0x100005) ∧
    stOld.queues = [] ∧ stOld.laneStacks = [] ∧ (∀ y ∈ stOld.launches, y.id = 7) ∧ 0x100005 < stOld.mem.capacity := by
  refine ⟨by decide +kernel, ⟨stOld.mem.entry 0x100005, ?_⟩, by decide +kernel⟩
  have h : (0x100005, stOld.mem.entry 0x100005) ∈ stOld.mem.ipt ∧ (stOld.mem.entry 0x100005).valid = true ∧ (stOld.mem.entry 0x100005).code = true ∧
      (stOld.mem.entry 0x100005).asid = 0 ∧ ((stOld.mem.versOf 0).newest - (stOld.mem.entry 0x100005).vfirst).toNat < 2 ^ 31 := by decide +kernel
  refine ⟨h.1, rfl, h.2.1, h.2.2.1, h.2.2.2.1, h.2.2.2.2, fun v _ e => ?_⟩
  rw [e, stOld_walk.2.1, stOld_walk.2.2.1, stOld_walk.2.2.2.1]; decide

/-- A scale-out write of 1 byte that runs, 100 ms old: it stands at `off`. -/
def rnScout (off : Nat) : Running := { seq := 0, resp := 0x200008008, opcode := 8, launch := some 4, copy := some { src := 0x200001000, dst := 0x200001000, count := 1, off := off } }
def scoutQ (p : Packet) (off : Nat) (x : Queue) : Queue := { x with held := some p, running := [rnScout off], begun := 1, desc := { x.desc with exq := 0xFFFF } }
def trScout : Transfer := { id := 4, queue := 3, packet := 0, write := true, bytes := 1, remote := [], udp := 0, rkey := 0, raddr := 0, started := 0 }
def stScout (p : Packet) (k : List ScoutKey) (off : Nat) : State :=
  { sq [] (scoutQ p off) with cycle := 94000000, scout := { locals := [(0, 7, [])], keys := k, timeout := 100, transfers := [trScout] } }

theorem scout_page (p : Packet) (k : List ScoutKey) (off : Nat) {va n : Nat} (h1 : va / 65536 = 0x20000) (h2 : va % 65536 + n ≤ 65536) : InPage (stScout p k off) 0 va n (dp + va % 65536) :=
  at_page (w := []) (f := scoutQ p off) rfl h1 h2

theorem scout_queue (p : Packet) (k : List ScoutKey) (off : Nat) : (stScout p k off).queue? 3 = some (scoutQ p off q3) := sq_queue [] (scoutQ p off) rfl

/-- SCOUT of a byte at 0x1000. -/
def pkScout : Packet := { pk 8 0 [0, 0x200001000, 1] with seq := 1 }

theorem wit_ScoutBegins : Head (stScout pkScout [] 0) 3 pkScout (scoutQ pkScout 0 q3) ∧ 0 < pkScout.fld 16 8 ∧
    (∀ k < pkScout.fld 16 8, ∃ i e, (stScout pkScout [] 0).mem.walk 0 ((0x200001000 + k) / 65536 % 2 ^ 40) ((stScout pkScout [] 0).mem.versOf 0).newest = some (i, e) ∧ e.rem = false ∧
      (stScout pkScout [] 0).mem.beyond i = false ∧ e.wr = true) := by
  refine ⟨⟨rfl, fun _ h => absurd h List.not_mem_nil, scout_queue _ _ _, rfl, rfl, rfl, rfl, by decide +kernel, by decide +kernel, by decide +kernel⟩, by decide +kernel, fun k hk => ?_⟩
  obtain rfl : k = 0 := by
    have : pkScout.fld 16 8 = 1 := by decide +kernel
    omega
  exact ⟨0x100001, (withPages st).mem.entry 0x100001, by decide +kernel, by decide +kernel, by decide +kernel, by decide +kernel⟩

theorem scout_runs (off : Nat) : Runs (stScout pkScout [] off) 3 (scoutQ pkScout off q3) (rnScout off) :=
  ⟨scout_queue _ _ _, rfl, rfl, by simp [scoutQ], by simp [scoutQ], by simp [scoutQ], rfl, rfl, by show (0 : Nat) < 2 ^ 64; decide⟩

theorem scout_transfers (off : Nat) : ∀ z ∈ (stScout pkScout [] off).scout.transfers, z.id = trScout.id → z = trScout := by
  simp [stScout]

theorem wit_ScoutMoves : let s := stScout pkScout [] 0
    let c : PkCopy := { src := 0x200001000, dst := 0x200001000, count := 1 }
    Runs s 3 (scoutQ pkScout 0 q3) (rnScout 0) ∧ (rnScout 0).opcode = 8 ∧ (rnScout 0).launch = some trScout.id ∧ trScout ∈ s.scout.transfers ∧ (rnScout 0).copy = some c ∧
    c.evict = none ∧ c.down = false ∧ c.orig = [] ∧ c.off < c.count ∧ s.scout.locals ≠ [] ∧ 1 = min (32 - (c.dst + c.off) % 32) (c.count - c.off) ∧
    InPage s 0 (c.dst + c.off) 1 (dp + 0x1000) :=
  ⟨scout_runs 0, rfl, rfl, by simp [stScout], rfl, rfl, rfl, rfl, by decide, by simp [stScout], by decide, scout_page _ _ _ (va := 0x200001000) (by decide) (by decide)⟩

theorem wit_ScoutEnds : let s := stScout pkScout [] 1
    Runs s 3 (scoutQ pkScout 1 q3) (rnScout 1) ∧ HeaderAt s (scoutQ pkScout 1 q3) dp ∧ RespAt s (scoutQ pkScout 1 q3) dp (rnScout 1).resp (some (dp + 0x8008)) ∧
    trScout ∈ s.scout.transfers ∧ trScout.queue = 3 ∧ trScout.packet = (rnScout 1).id ∧ trScout.started + s.scout.timeout * 940000 ≤ s.cycle.toNat ∧
    (∀ c, (rnScout 1).copy = some c → c.count ≤ c.off) ∧ s.scout.locals ≠ [] :=
  ⟨scout_runs 1, scout_page _ _ _ (va := 0x200000000) (n := 64) (by decide) (by decide), ⟨by decide, scout_page _ _ _ (va := 0x200008008) (n := 8) (by decide) (by decide), by decide⟩,
    by simp [stScout], rfl, rfl, by decide +kernel, by simp [rnScout], by simp [stScout]⟩

def keyAll : ScoutKey := { slot := 4095, rkey := 9, asid := 0, base := 0x200001000, size := 32, rd := true, wr := true }

theorem wit_ScoutInbound : let s := stScout pkScout [keyAll] 0
    Config.hasScout s.part = true ∧ s.scout.locals ≠ [] ∧ keyAll ∈ s.scout.keys ∧ keyAll.base ≤ 0x20000101F ∧ 0x20000101F + 1 ≤ keyAll.base + keyAll.size ∧
    ¬ (0x20000101F + 2 ≤ keyAll.base + keyAll.size) ∧ InPage s 0 0x20000101F 1 (dp + 0x101F) :=
  ⟨by decide +kernel, by decide +kernel, by decide +kernel, by decide, by decide, by decide, scout_page _ _ _ (va := 0x20000101F) (n := 1) (by decide) (by decide)⟩

/-! ## Part 13 -/

/-- A launch with flags, a grid, one block a gang, gangs, and the first block never granted. -/
def lG (flags : BitVec 16) (grid : Word) (gs : List Gang) (next : Nat) : Launch :=
  { id := 1, queue := 3, img := { flags := flags, griddim := grid, part := 0x00180101, wall := 1 }, gangs := gs, next := next }

/-- The package with one launch, its resident group that of gang 0, and queue 3 with its exception queue. -/
def stL1 (l : Launch) (more : State → State) : State := more { sq [] id with launches := [l] }

theorem l1_holds (l : Launch) (_ : l.id = 1) (h1 : (l.gangs.map fun k => (k.index, k.run)).Nodup) : Holds (stL1 l id) l := by
  refine ⟨?_, by simp [stL1], h1⟩
  simp [State.launch?, stL1]

/-- A launch is granted, placed and replayed outside recovery, and not in it. -/
theorem wit_Recovery : ∀ l, (stL1 l id).power.recovery = none ∧
    (let s := stL1 l fun s => { s with power := { s.power with recovery := some (4, none) } }
     s.power.recovery.isSome = true ∧ s.launch? l.id = some l) := fun l =>
  ⟨rfl, rfl, by simp [State.launch?, stL1]⟩

def placed0 : Gang := { index := 0, st := .placed, placedOnce := true }
def granted1 : Gang := { index := 1, st := .granted }
def waiting1 : Gang := { index := 1, st := .waiting, attempts := 2 }

theorem wit_GangGrants : ∀ flags : Fin 2, let l := lG (BitVec.ofNat 16 (5 * flags.val)) 3 [placed0] 1
    Holds (stL1 l id) l ∧ l.aborted = false ∧ (stL1 l id).dieAlive 3 = true ∧ (∀ k ∈ l.gangs, k.st ≠ .waiting ∧ (k.st = .preempted → k.gridWait = true)) ∧
    0 < min (64 / l.img.bdim) (l.img.gangs - (l.next + l.img.bdim - 1) / l.img.bdim) ∧ (∀ k ∈ l.gangs, k.st = .granted → k.die ≠ 3) ∧
    Takes (stL1 l id) l { index := 1, st := .granted, die := 3 } 48 := fun flags =>
  ⟨l1_holds _ rfl (by simp [lG]), rfl, by revert flags; decide +kernel, by revert flags; decide +kernel, by revert flags; decide +kernel, by simp [lG, placed0],
    by unfold Takes; revert flags; decide +kernel⟩

theorem wit_NoRoom : let l := lG 0 3 [{ index := 0, st := .granted, die := 3 }] 1
    Holds (stL1 l id) l ∧ (stL1 l id).dieAlive 3 = true ∧ (∀ k ∈ l.gangs, k.st ≠ .waiting ∧ (k.st = .preempted → k.gridWait = true)) ∧
    ¬ ∀ k ∈ l.gangs, k.st = .granted → k.die ≠ 3 :=
  ⟨l1_holds _ rfl (by decide +kernel), by decide +kernel, by decide +kernel, by decide +kernel⟩

theorem wit_OtherDie : let l := lG 5 3 [placed0] 1
    l.img.verify = true ∧ (stL1 l id).dieAlive 0 = true ∧ Takes (stL1 l id) l { index := 1, run := 2, st := .granted, die := 3 } 0 :=
  ⟨by decide +kernel, by decide +kernel, by unfold Takes; decide +kernel⟩

theorem wit_GangPlaces : let l := lG 0 3 [placed0, granted1] 2
    let s := stL1 l id
    Holds s l ∧ granted1 ∈ l.gangs ∧ (∀ y ∈ l.gangs, y.st = .granted → y.index = 1 → y = granted1) ∧ s.dieAlive 0 = true ∧
    (∀ y ∈ l.gangs, y.st = .granted → y.die = 0 → 1 ≤ y.index) ∧ s.mayUse l.tenant = true ∧ Absent s l granted1 ∧ Takes s l granted1 0 ∧ 0 / 16 = granted1.die :=
  ⟨l1_holds _ rfl (by decide +kernel), by decide +kernel, by decide +kernel, by decide +kernel, by decide +kernel, by decide +kernel, by unfold Absent InRun; decide +kernel,
    by unfold Takes; decide +kernel, rfl⟩

/-- The clusters of die 0 are off. -/
def offDie (s : State) : State := { s with power := { s.power with islands := Vector.ofFn fun i => if i.val < 16 then .off else .on } }

theorem wit_GangWaits : let l := lG 0 3 [placed0, granted1] 2
    ∀ c, c / 16 = granted1.die → ¬ Takes (stL1 l offDie) l granted1 c := by
  intro l c h h1
  have h2 : c < 16 := by
    have : c / 16 = 0 := h
    omega
  have h3 : ∀ c : Fin 16, ¬ (((stL1 l offDie).power.islands.toList)[c.val]? = some .on ∨ ((stL1 l offDie).power.islands.toList)[c.val]? = some .idle) := by decide +kernel
  exact h3 ⟨c, h2⟩ h1.2.1

theorem wit_GangReplays : let l := lG 2 3 [placed0, waiting1] 2
    let s := stL1 l offDie
    s.power.recovery = none ∧ Holds (stL1 l id) l ∧ waiting1 ∈ l.gangs ∧ waiting1.st = .waiting ∧ waiting1.index * l.img.bdim < l.img.griddim.toNat ∧ s.dieAlive 0 = true ∧ s.mayUse l.tenant = true ∧
    Absent s l waiting1 ∧ Takes s l waiting1 16 ∧ ∀ d < 16, ¬ (((s.power.islands.toList)[d]? = some .on ∨ (s.power.islands.toList)[d]? = some .idle)) :=
  ⟨rfl, l1_holds _ rfl (by decide +kernel), by decide +kernel, by decide +kernel, by decide +kernel, by decide +kernel, by decide +kernel, by unfold Absent InRun; decide +kernel,
    by unfold Takes; decide +kernel, by decide +kernel⟩

theorem wit_ReplayWaits : let l := lG 2 3 [{ index := 0, st := .granted, die := 1 }, waiting1] 2
    let s := stL1 l offDie
    s.launch? 1 = some l ∧ waiting1 ∈ l.gangs ∧ Takes s l waiting1 16 ∧ (∀ d < 16, ¬ Takes s l waiting1 d) ∧ ∃ y ∈ l.gangs, y.st = .granted ∧ y.die = 16 / 16 ∧ y.index < waiting1.index :=
  ⟨rfl, by decide +kernel, by unfold Takes; decide +kernel, by unfold Takes; decide +kernel, by decide +kernel⟩

theorem wit_ReplayNowhere : let l := lG 2 3 [placed0, waiting1] 2
    let s := stL1 l fun s => { s with power := { s.power with islands := Vector.replicate 128 .off } }
    s.launch? 1 = some l ∧ waiting1 ∈ l.gangs ∧ (∀ c : Fin 128, ¬ Takes s l waiting1 c.val) ∧ Config.clusters s.part ≤ 128 :=
  ⟨rfl, by decide +kernel, by unfold Takes; decide +kernel, by decide +kernel⟩

theorem wit_GangCompletes : let l := lG 0 1 [{ placed0 with st := .ended }] 1
    let s := stL1 l id
    Holds s l ∧ (∀ k ∈ l.gangs, k.st = .ended) ∧ l.img.verify = false ∧ (∃ h ∈ s.groups, InRun l 0 1 h) ∧
    ∀ h ∈ s.groups, h.pend.mem = [] ∧ h.pend.cp = [] ∧ h.pend.ga = [] ∧ h.pend.mx = [] ∧ h.pend.co = [] :=
  ⟨l1_holds _ rfl (by decide +kernel), by decide +kernel, by decide +kernel, ⟨_, List.mem_of_mem_head? rfl, by unfold InRun; decide +kernel⟩, by decide +kernel⟩

theorem wit_TicketAdvances : let l := lG 1 1 [{ index := 0, st := .complete }] 1
    Holds (stL1 l id) l ∧ l.img.det = true ∧ l.img.verify = false ∧ l.ticket < l.img.griddim.toNat ∧ l.ticket < l.next ∧
    (∀ e ∈ l.staged, e.block ≠ l.ticket ∧ e.block ≠ l.ticket + 1) ∧ (∀ k ∈ l.gangs, k.index = l.ticket / l.img.bdim → k.st = .complete) ∧
    (∃ k ∈ l.gangs, k.index = l.ticket / l.img.bdim) ∧ l.ticket + 1 = l.img.griddim.toNat ∧ ∀ y ∈ (stL1 l id).fabric.reqs, y.owner ≠ .launch l.id :=
  ⟨l1_holds _ rfl (by decide +kernel), by decide +kernel⟩

/-- Runs of gang 1, ended, with the digests of a list. -/
def runsOf (ds : List DWord) : List Gang := (ds.zip (List.range 4)).map fun p => { index := 1, run := p.2 + 1, st := .ended, digest := p.1 }

theorem wit_VerifyVerdicts : ∀ ds ∈ [[5, 5], [5, 6], [5, 6, 5], [5, 6, 6], [5, 6, 7], [5, 6, 6, 6]], let l := lG 5 2 (runsOf ds) 2
    let s := stL1 l fun s => { s with queues := [] }
    s.launch? 1 = some l ∧ l.img.verify = true ∧ (∃ k1, l.gang? 1 1 = some k1 ∧ k1.st = .ended) ∧ (∃ k2, l.gang? 1 2 = some k2 ∧ k2.st = .ended) ∧
    (∀ h ∈ s.groups, h.launch = 1 → h.block / l.img.bdim ≠ 1) ∧ (s.queueOf l.queue).desc.exq = 0xFFFF ∧ (l.gang? 1 3).isSome = decide (3 ≤ ds.length) ∧
    (l.gang? 1 4).isSome = decide (4 ≤ ds.length) := by
  intro ds hds
  simp only [List.mem_cons, List.not_mem_nil, or_false] at hds
  rcases hds with rfl | rfl | rfl | rfl | rfl | rfl <;>
    exact ⟨rfl, by decide +kernel, ⟨_, rfl, rfl⟩, ⟨_, rfl, rfl⟩, by decide +kernel, by decide +kernel, by decide +kernel, by decide +kernel⟩

theorem l1_page (l : Launch) {va n : Nat} (h1 : va / 65536 = 0x20000) (h2 : va % 65536 + n ≤ 65536) : InPage (stL1 l id) 0 va n (dp + va % 65536) :=
  at_page (w := []) (f := id) rfl h1 h2

theorem l1_exq (l : Launch) : ExqAt (stL1 l id) 3 (dp + 0x8000) (dp + 0x8040) := by
  have h : word64 (stL1 l id) (dp + 0x8000) = 0 := by
    have h1 : word64 (stL1 l id) = word64 (sq [] id) := rfl
    rw [h1]; decide +kernel
  have h2 : word64 (stL1 l id) (dp + 0x8000 + 8) = 0 := by
    have h1 : word64 (stL1 l id) = word64 (sq [] id) := rfl
    rw [h1]; decide +kernel
  refine ⟨q3, { num := 64, desc := { base := 0x200008000, exq := 0xFFFF, enabled := true, exc := true } }, rfl, rfl, by decide, rfl, rfl, rfl, rfl,
    l1_page l (va := 0x200008000) (n := 64) (by decide) (by decide), ?_, ?_, ?_, by decide⟩
  · rw [h]; exact l1_page l (va := 0x200008040) (n := 64) (by decide) (by decide)
  · rw [h, h2]; decide
  · rw [h]; decide

/-- A gang of one block that was placed and may be replayed, or not. -/
def lK (flags : BitVec 16) (attempts rounds : Nat) : Launch :=
  { lG flags 1 [{ placed0 with attempts := attempts }] 1 with gridRounds := rounds, wallUsed := 940 }

theorem wit_Kills : let l := lK 2 3 0
    Holds (stL1 l id) l ∧ l.aborted = false ∧ Replayable l { placed0 with attempts := 3 } ∧ { placed0 with attempts := 3 } ∈ l.gangs ∧ ExqAt (stL1 l id) l.queue (dp + 0x8000) (dp + 0x8040) ∧
    (let s := stL1 l fun s => { s with queues := [] }
     s.launch? 1 = some l ∧ (s.queueOf l.queue).desc.exq = 0xFFFF) :=
  ⟨l1_holds _ rfl (by decide +kernel), rfl, by unfold Replayable; decide +kernel, by decide +kernel, l1_exq _, rfl, by decide +kernel⟩

theorem wit_KillsEnd : (lK 2 1 1).img.replay = true ∧ ∀ l ∈ [lK 0 1 0, lK 2 4 0, lK 2 1 1], let s := stL1 l fun s => { s with queues := [] }
    s.launch? 1 = some l ∧ (s.queueOf l.queue).desc.exq = 0xFFFF ∧ Owned s l ∧ (∀ k ∈ l.gangs, k.st = .placed ∧ 1 ≤ k.attempts) := by
  refine ⟨by decide +kernel, fun l hl => ?_⟩
  simp only [List.mem_cons, List.not_mem_nil, or_false] at hl
  rcases hl with rfl | rfl | rfl <;> exact ⟨rfl, by decide +kernel, by unfold Owned InRun; decide +kernel, by decide +kernel⟩

theorem wit_WallTime : let l := lK 0 1 0
    l.img.wall ≠ 0 ∧ l.img.wall * 940 ≤ l.wallUsed ∧ Owned (stL1 l id) l ∧ ExqAt (stL1 l id) l.queue (dp + 0x8000) (dp + 0x8040) ∧
    (let l := { l with wallUsed := 939 }
     Holds (stL1 l id) l ∧ l.aborted = false ∧ l.wallUsed < l.img.wall * 940) :=
  ⟨by decide +kernel, by decide +kernel, by unfold Owned InRun; decide +kernel, l1_exq _, l1_holds _ rfl (by decide +kernel), rfl, by decide +kernel⟩

/-- Die 0 has missed `n` heartbeats, the last in the exchange before this one; the others live or not. -/
def stBeat (l : Launch) (n : Nat) (others : Bool) : State :=
  stL1 l fun s => { s with queues := [], cycle := 9400, dies := { missed := n, lastMiss := 0 } :: List.replicate 3 { alive := others } }

theorem wit_Heartbeats : (stBeat (lK 2 1 0) 1 true).dies[0]? = some { missed := 1, lastMiss := 0 } ∧ (stBeat (lK 2 1 0) 2 false).dies[0]? = some { missed := 2, lastMiss := 0 } ∧
    (stBeat (lK 2 1 0) 2 true).cycle.toNat / 9400 = 1 ∧ (∀ n : Fin 4, n ≠ 0 → (stBeat (lK 2 1 0) 2 false).dieAlive n.val = false) ∧
    (let s := stBeat (lK 2 1 0) 2 true
     s.dieAlive 1 = true ∧ (s.queueOf 3).desc.exq = 0xFFFF ∧ Replayable (lK 2 1 0) placed0 ∧ placed0.die = 0 ∧ placed0 ∈ (lK 2 1 0).gangs ∧ s.launches.length = 1 ∧
     ∀ b ∈ s.blocks, b.stack.bytes = []) ∧
    ((stBeat (lK 2 1 0) 0 true).noteDieFails 0).dies[0]? = some { missed := 0, lastMiss := 0, failed := true } ∧
    (let s := stBeat (lG 0 1 [{ index := 0, st := .complete }] 1) 2 true
     ∀ l ∈ s.launches, l.aborted = false → ∀ k ∈ l.gangs, k.die = 0 → k.st ≠ .granted ∧ k.st ≠ .placed ∧ k.st ≠ .ended) := by
  unfold Replayable; decide +kernel

/-! ## Part 14 -/

/-- Queue 3 and a launch, whose group waits with every lane at `BAR.grid 0`. -/
def stAtGrid (l : Launch) (more : List Launch) : State :=
  let s := State.reset.withFetchWord 96 (0x1A1 + 3 * 2 ^ 59)
  { s with launches := l :: more, cur := { (s.cur.setSp { s.cur.sp with half := true }) with arr := { s.cur.arr with grid := Vector.ofFn fun i => if i = 0 then 0xFFFFFFFF else 0 } } }

/-- Its lowest cluster's gang runs, tenant 0 lends nothing. -/
def lRun : Launch := lG 0 2 [placed0] 1

theorem wit_GridBarrierPreempts : let s := stAtGrid lRun []
    s.launch? 1 = some lRun ∧ placed0 ∈ lRun.gangs ∧ placed0.st = .placed ∧ lRun.next < lRun.img.griddim.toNat ∧ Quiet s lRun placed0 ∧
    ∀ h ∈ s.groups, InRun lRun 0 1 h → s.waitsAtGrid h = true :=
  ⟨rfl, by decide +kernel, rfl, by decide +kernel, by unfold Quiet InRun; decide +kernel, by unfold InRun; decide +kernel⟩

/-- A launch of tenant 1 with a gang granted to a die that has no cluster on. -/
def lWant : Launch := { id := 2, queue := 3, tenant := 1, img := { part := 0x00180101 }, gangs := [{ index := 0, st := .granted }], next := 1 }
def stRecall : State := { offDie (stAtGrid lRun [lWant]) with tenants := [{ slot := 1, weight := 1 }] }

theorem wit_Recall : let s := stRecall
    s.launch? 1 = some lRun ∧ Quiet s lRun placed0 ∧ s.withinBudget (s.tenant 1) = true ∧ s.starved 1 = true ∧ s.withinBudget (s.tenant lRun.tenant) = false ∧
    (∀ y ∈ s.launches, y.aborted = false → s.withinBudget (s.tenant y.tenant) = false → ∀ g ∈ y.gangs, g.st = .placed → y.id = 1 ∧ g = placed0) ∧ s.withinBudget (s.tenant 2) = false :=
  ⟨rfl, by unfold Quiet InRun; decide +kernel, by decide +kernel, by decide +kernel, by decide +kernel, by decide +kernel, by decide +kernel⟩

/-- The record of a block whose group 0 has split 0 with every live lane, lane 31 of them in `$park`. -/
def rec0 : List Byte :=
  List.replicate 88 0 ++ leBytes 4 0xFFFFFFFF ++ List.replicate 228 0 ++ leBytes 4 0x80000000 ++ leBytes 4 0x1000 ++ leBytes 4 0 ++ leBytes 4 0x7FFFFFFF ++
  List.replicate 176 0 ++ leBytes 4 0x80000000 ++ List.replicate 28 0

def kPre : Gang := { index := 1, st := .preempted, placedOnce := true, record := [rec0] }
def lPre : Launch := lG 0 2 [placed0, kPre] 2

theorem rec0_split : ∀ r ∈ kPre.record, ∀ j < lPre.img.gdim, OneSplit lPre r j := by
  intro r hr j hj
  obtain rfl : r = rec0 := List.mem_singleton.1 hr
  have h1 : lPre.img.gdim = 1 := by decide +kernel
  obtain rfl : j = 0 := by omega
  have h : rec0.length ≤ 1728 := by decide +kernel
  refine ⟨by decide +kernel, by decide +kernel, by decide +kernel, by decide +kernel, by decide +kernel, fun i h2 _ => ?_⟩
  exact List.getD_eq_default _ _ (by omega)

theorem wit_GangResumes : let s := stL1 lPre id
    s.power.recovery = none ∧ Holds s lPre ∧ kPre ∈ lPre.gangs ∧ (∀ y ∈ lPre.gangs, y.index = 1 → y = kPre) ∧ kPre.gridWait = false ∧ kPre.saved = [] ∧ kPre.savedBlocks = [] ∧ s.mayUse lPre.tenant = true ∧
    Takes s lPre kPre 0 ∧ kPre.index * lPre.img.bdim < lPre.img.griddim.toNat ∧ kPre.record.length = (lPre.img.gangBlocks 1).length ∧ lPre.img.nv ≤ 256 ∧
    (∀ h ∈ s.groups, ¬ InRun lPre 1 1 h) ∧ (∀ b ∈ s.blocks, ¬ (b.launch = 1 ∧ b.run = 1 ∧ b.index / lPre.img.bdim = 1)) ∧
    ∀ r ∈ kPre.record, ∀ j < lPre.img.gdim, OneSplit lPre r j :=
  ⟨rfl, l1_holds _ rfl (by decide +kernel), by decide +kernel, by decide +kernel, rfl, rfl, rfl, by decide +kernel, by unfold Takes; decide +kernel, by decide +kernel, by decide +kernel,
    by decide +kernel, by unfold InRun; decide +kernel, by decide +kernel, rec0_split⟩

theorem wit_Periods : (let s := { st with cycle := 939999 }
     s.cycle.toNat < (s.period + 1) * 940000) ∧
    (let s := { st with cycle := 940000, tenants := [{ slot := 1, weight := 1, used := 5 }] }
     (s.period + 1) * 940000 ≤ s.cycle.toNat ∧ (∀ t ∈ s.tenants, t.used ≤ s.budget t * (940 * 94)) ∧ s.debts = []) ∧
    (let s := { st with cycle := 940000, tenants := [{ slot := 1, nextWeight := 1 }, { slot := 2, nextWeight := 3 }], debts := [⟨1, 2, 100000⟩] }
     (s.period + 1) * 940000 ≤ s.cycle.toNat ∧ (∀ t ∈ s.tenants, t.used ≤ s.budget t * (940 * 94))) := by
  decide +kernel

theorem wit_Errors : (∃ b ∈ st.blocks, (∀ y ∈ st.blocks, y.launch = b.launch → y.run = b.run → y.index = b.index → y = b) ∧ 16383 < (st.lch b.launch).img.scratchSize ∧ 7 < (st.lch b.launch).img.na ∧ b.launch = 1) ∧
    (255 : BitVec 8).toNat < (st.lchOf st.cur).img.nv ∧ 6143 < 6144 ∧ Config.frames st.part * 2048 - 1 < Config.frames st.part * 2048 ∧ 11 < Config.stackCount st.part :=
  ⟨⟨_, List.mem_of_mem_head? rfl, fun y hy _ _ _ => List.mem_singleton.1 hy, by decide +kernel, by decide +kernel, rfl⟩, by decide +kernel, by decide +kernel, by decide +kernel, by decide +kernel⟩

/-- Groups with the largest stacks. -/
def stStk : State := { st with launches := st.launches.map fun l => { l with img := { l.img with stack := 2 ^ 20 } } }

theorem wit_StackErrors : (∃ b ∈ stStk.blocks, (∀ y ∈ stStk.blocks, y.launch = b.launch → y.run = b.run → y.index = b.index → y = b) ∧
    32767 < 2 ^ 20 * (stStk.lch b.launch).img.gdim ∧ 32767 * 32 % 2 ^ 20 < (stStk.lch b.launch).img.stack) :=
  ⟨_, List.mem_of_mem_head? rfl, fun y hy _ _ _ => List.mem_singleton.1 hy, by decide +kernel, by decide +kernel⟩

/-- A replayable gang with a staged write of its block. -/
def lErr : Launch := { lK 2 1 0 with staged := [{ block := 0, run := 1, group := 0, core := 0, tag := 0, order := 0, sector := 0, bytes := [] }] }

theorem wit_ErrorsKill : let s := stL1 lErr fun s => { s with queues := [], cur := { s.cur with pend := { s.cur.pend with mem := [opAtom] } } }
    s.launch? 1 = some lErr ∧ placed0 ∈ lErr.gangs ∧ Replayable lErr placed0 ∧ s.cur.resident = true ∧ InRun lErr 0 1 s.cur ∧ (s.queueOf lErr.queue).desc.exq = 0xFFFF ∧
    (∃ o ∈ s.cur.pend.mem, o.id = 0 ∧ padSec ∈ o.left ∧ ∃ op typ, o.kind = .atomic op typ) ∧
    ∃ e, (lErr.staged.filter (·.block = s.cur.block))[0]? = some e ∧ e.run = 1 :=
  ⟨rfl, by decide +kernel, by unfold Replayable; decide +kernel, by decide +kernel, by unfold InRun; decide +kernel, by decide +kernel,
    ⟨opAtom, by simp [stL1], rfl, by decide +kernel, _, _, rfl⟩, ⟨_, rfl, rfl⟩⟩

/-- The retirement controller in a state; frames past the capacity are doomed. -/
def stRet (r : Retire) (cap : Nat) (pool : List Nat) : State :=
  let s := withPages st
  { s with mem := { s.mem with ret := r, capacity := cap, pool := pool } }

theorem wit_Retirement : ((stRet {} 0x1200000 [5]).mem.ret.st = .idle ∧ 11 < Config.stackCount st.part ∧ ((stRet {} 0x1200000 [5]).queueOf 0).desc.exq = 0xFFFF ∧
     (stRet {} 0x1200000 [5]).mem.lost = []) ∧
    (let r : Retire := { st := .sweep, stack := 11, oldCap := 0x1200000 }
     r.st ≠ .idle ∧ r.stack ≠ 10 ∧ 10 ∉ r.queued ∧ 10 ∉ r.dead ∧ (∀ h ∈ r.history, h.1 ≠ 10)) ∧
    (let s := stRet { st := .vacate, stack := 11, oldCap := 0x1200000 } 0x100001 [0x200]
     s.mem.ret.st = .vacate ∧ s.mem.doomed = [0x100001] ∧ s.mem.mapped 0x200 = false ∧ 0x200 < s.mem.capacity ∧ s.mem.lost = [] ∧ s.mem.ret.watermark < s.mem.capacity / 256 ∧
     (s.mem.ipt.map (·.1)).Nodup) ∧
    (let s := stRet { st := .vacate, stack := 11, oldCap := 0x1200000 } 0x100001 []
     s.mem.doomed ≠ [] ∧ s.mem.pool = [] ∧ s.mem.ret.waiting = false) ∧
    (let s := stRet { st := .sweep, stack := 11, oldCap := 0x1200000, watermark := 4094 } 0x100000 []
     s.mem.ret.nextSweep ≤ s.cycle.toNat ∧ s.mem.ret.watermark + 1 < s.mem.capacity / 256) ∧
    (let s := stRet { st := .sweep, stack := 11, oldCap := 0x1200000, watermark := 4095 } 0x100000 []
     s.mem.capacity / 256 ≤ s.mem.ret.watermark + 1 ∧ s.mem.ret.queued = []) ∧
    (let s := stRet { st := .sweep, nextSweep := 1 } 0x100000 []
     s.cycle.toNat < s.mem.ret.nextSweep) := by
  decide +kernel

theorem wit_RetireRequest : let p := cf 7 [11 * 2 ^ 8]
    let s := stCf p [] []
    Configures s 3 p (qCf p) ∧ p.fld 9 1 = 11 ∧ s.mem.ret.st = .idle ∧ 11 < Config.stackCount s.part ∧ (s.queueOf 0).desc.exq = 0xFFFF :=
  ⟨cf_ok _ _ _ rfl, by decide +kernel, by decide +kernel, by decide +kernel, by decide +kernel⟩

/-! ## Part 15 -/

/-- A port is ACTIVE; pages that the firmware cannot hold: of data at virtual page 0x20000, of code at 0x30000. -/
def stIb : State :=
  { st with mem := (st.mem.link 0x1100001 { vpn := 0x20000, wr := true }).link 0x1100003 { vpn := 0x30000, code := true, vspan := 0xFF }, queues := []
            fabric := { st.fabric with ports := [{ st := .active }] } }

theorem ib_clean (x : Nat) : stIb.marked x = false ∧ stIb.mem.refuses stIb.s0 x = false := by
  have h1 : stIb.mem.poison = [] := by decide +kernel
  have h2 : stIb.mem.lost = [] := by decide +kernel
  simp [State.marked, Mem.marked, Mem.refuses, h1, h2]

theorem wit_InboundReaches : ∀ n : Nat, 0 < n → n ≤ 8 → Reaches stIb 0 0x1100001 (65536 - n) n (stIb.mem.entry 0x1100001) := by
  intro n h0 h1
  exact ⟨⟨firmware_low _ _ (by decide), rfl, by decide +kernel, by decide +kernel, by decide +kernel, by decide +kernel, by decide +kernel⟩, by decide +kernel, by omega, h0,
    fun x _ _ => ib_clean x⟩

theorem wit_InboundCode : FrameOf stIb 0 0x1100003 (stIb.mem.entry 0x1100003) ∧ (stIb.mem.entry 0x1100003).code = true ∧
    (∃ n, stIb.mem.walk 0 (stIb.mem.entry 0x1100003).vpn (stIb.mem.versOf 0).newest = some (0x1100003, n)) ∧ 0x1100003 ∉ stIb.mem.ret.drops ∧ 0x1100003 < stIb.mem.capacity ∧
    Clean stIb (0x1100003 * 65536 + 65535) 1 :=
  ⟨⟨firmware_low _ _ (by decide), rfl, by decide +kernel, by decide +kernel, by decide +kernel, by decide +kernel, by decide +kernel⟩, by decide +kernel,
    ⟨stIb.mem.entry 0x1100003, by decide +kernel⟩, by decide +kernel, by decide +kernel, by decide, fun x _ _ => ib_clean x⟩

theorem wit_Inbound : stIb.power.recovery = none ∧ stIb.fabric.up = true ∧ st.fabric.up = false ∧ (stIb.mem.entry 0x1100001).wr = true ∧ (stIb.mem.entry 0x1100001).code = false ∧
    (let x : Inbound := { peer := 511, asid := 0, target := .frame 0x1100001 65528, kind := .atomic 0 3, size := 16, data := le 8 5 ++ le 8 6 }
     x.data = le (widthOf 3) 5 ++ le (widthOf 3) 6 ∧ 5 < 256 ^ widthOf 3) ∧
    ({ stIb with power := { stIb.power with recovery := some (4, none) } }).power.recovery.isSome = true ∧
    (stIb.fabric.drain = 0 ∧ Older stIb (stIb.fabric.epoch - 1) ∧ ¬ Older stIb stIb.fabric.epoch) := by
  unfold Older; decide +kernel

theorem wit_InboundRefused : 0 < Config.tableFrames .p4180 ∧ (stIb.mem.entry 0x1100002).valid = false ∧ (stIb.mem.entry 0x1100001).asid ≠ 1 ∧
    (let s := { stIb with mem := { stIb.mem with capacity := 0x1100001 } }
     s.mem.capacity ≤ 0x1100001) ∧ (∀ y ∈ stIb.queues, y.desc.exq = 0xFFFF) ∧
    (let s := { st with mem := (st.mem.link 0x1100001 { vpn := 0x20000 }) }
     (s.mem.entry 0x1100001).wr = false ∧ (s.mem.entry 0x1100001).code = false) ∧
    (let s := { stIb with mem := { stIb.mem with poison := [(0x1100001 * 65536 + 0) / 32] } }
     s.marked ((0x1100001 * 65536 + 0) / 32) = true) := by
  decide +kernel

theorem wit_InboundVirtual : InPage stIb 0 0x20000FFFF 1 (0x1100001 * 65536 + 0x20000FFFF % 65536) :=
  inPage_of (e := stIb.mem.entry 0x1100001) (by decide +kernel)

/-- A request that waits for an answer. -/
def reqOf (o : ReqOwner) : OutReq := { id := 6, owner := o, asid := 0, queue := 3, peer := 511, pframe := 0, off := 0, va := 0, acc := 1 }

/-- A state in which it waits, in a cycle: T_REMOTE is over in 470,000. -/
def stReq (s : State) (o : ReqOwner) (now : DWord) : State :=
  { s with cycle := now, queues := [], fabric := { s.fabric with reqs := [reqOf o], ports := [{ st := .active }] } }

/-- The answer to the request is due. -/
def Due (s : State) (r : OutReq) : Prop := r.sent + s.fabric.tRemote * 47000 ≤ s.cycle.toNat

theorem wit_RemoteAnswers : (let s := stReq st .nobody 470000
     (∀ q ∈ s.fabric.reqs, q.id ≠ 7) ∧ reqOf .nobody ∈ s.fabric.reqs ∧ (∀ q ∈ s.fabric.reqs, q.id = 6 → q = reqOf .nobody) ∧ Due s (reqOf .nobody)) ∧
    ¬ Due (stReq st .nobody 469999) (reqOf .nobody) ∧ (stReq st .nobody 469999).fabric.up = true ∧ st.fabric.up = false ∧
    (let k := { rn with waits := [6] }
     let s := { stReq (stRn k) (.packet 3 k.id) 469999 with queues := (stRn k).queues }
     s.queue? 3 = some { q3 with running := [k] } ∧ k.waits = [(reqOf (.packet 3 k.id)).id] ∧ s.fabric.up = true ∧ ¬ Due s (reqOf (.packet 3 k.id))) := by
  unfold Due; decide +kernel

theorem wit_RemoteStore : let o := opStore [farSec]
    let s := stReq (stOp o) (.mem st.cur.ref 0 farSec) 470000
    reqOf (.mem s.cur.ref o.id farSec) ∈ s.fabric.reqs ∧ s.cur.resident = true ∧ o ∈ s.cur.pend.mem ∧ (s.cur.pend.mem.map (·.id)).Nodup ∧ o.left = [farSec] ∧ o.hold = false ∧
    o.nacked = 0 ∧ o.timed = 0 ∧ o.bad = [] ∧ o.first = none ∧ s.cur.pend.held = [] ∧ o.done = 0 ∧ o.nackCode = 0 ∧ o.kind = .store ∧ o.dst = [] ∧ o.lanes ≠ [] ∧ (∀ l ∈ o.lanes, ∃ a ∈ l.locs, a / 32 = farSec) ∧
    (s.queueOf (reqOf .nobody).queue).desc.exq = 0xFFFF := by
  decide +kernel

theorem wit_RemoteLoad : let o := opLoad [farSec] 0x300000010
    let s := stReq (stOp o) (.mem st.cur.ref 0 farSec) 469999
    s.fabric.up = true ∧ (s.lchOf s.cur).img.verify = false ∧ o ∈ s.cur.pend.mem ∧ o.left = [farSec] ∧ o.hold = false ∧ o.kind = .load 6 ∧ o.dst = regsFrom false 4 252 ∧ (252 : BitVec 8).toNat + 4 ≤ 256 ∧ (o.lanes.map (·.lane)).Nodup ∧
    farSec * 32 + 32 ≤ 2 ^ 56 ∧ (∀ l ∈ o.lanes, ∀ a ∈ l.locs, a / 32 = farSec) ∧
    ∀ l ∈ o.lanes, (loaded 6 (l.locs.map fun a => (List.replicate 32 (0xA5 : Byte)).getD (a % 32) 0)).length = 4 := by
  unfold loaded; decide +kernel

/-- Port 255 in a state that it entered in cycle 0, a drain in its first round since then, in a cycle. -/
def stPort (x : PortSt) (now : DWord) : State :=
  { st with cycle := now, fabric := { st.fabric with epoch := 0xFFFFFFFF, drain := 1, ports := (st.fabric.ports.take 255) ++ [{ st := x }] } }

/-- At the end of a drain round a request of the epoch before waits for its answer. -/
def stDrain : State :=
  let s := stPort .active 47000
  { s with fabric := { s.fabric with reqs := [{ reqOf .nobody with epoch := 0xFFFFFFFE }] } }

theorem wit_Drain : stDrain.fabric.drain ≠ 0 ∧ stDrain.fabric.drainAt + stDrain.fabric.drain * 47000 ≤ stDrain.cycle.toNat ∧
    stDrain.fabric.reqs = [{ reqOf .nobody with epoch := 0xFFFFFFFE }] ∧ stDrain.fabric.replies = [] ∧ stDrain.fabric.sent = [] ∧ Older stDrain 0xFFFFFFFE ∧
    stDrain.fabric.up = true ∧ stDrain.cycle.toNat < 0 + stDrain.fabric.tRemote * 47000 ∧ (∀ r ∈ (stPort .active 47000).fabric.reqs, ¬ Older (stPort .active 47000) r.epoch) := by
  unfold Older; decide +kernel

theorem wit_Ports : (stPort .active 0).fabric.up = true ∧ (stPort .down 0).fabric.up = false ∧ (∀ x ∈ [PortSt.active, .down, .train, .fenced], ((stPort x 0).fabric.ports[255]?).map (fun p => (p.st, p.tried)) = some (x, 0)) ∧
    0 + 94000000 ≤ (stPort .down 94000000).cycle.toNat ∧ (stPort .down 93999999).cycle.toNat < 0 + 94000000 ∧
    (let u : LinkUpdate := { epoch := 0x7FFFFFFE, fenced := [255], deadPackages := [511] }
     u.own = false ∧ 0 < (u.epoch - (stPort .active 0).fabric.epoch).toNat ∧ (u.epoch - (stPort .active 0).fabric.epoch).toNat < 2 ^ 31) ∧
    2 ^ 31 ≤ ((0x7FFFFFFF : Word) - (stPort .active 0).fabric.epoch).toNat ∧
    (let due := fun s : State => s.fabric.drain ≠ 0 ∧ s.fabric.drainAt + s.fabric.drain * 47000 ≤ s.cycle.toNat
     due (stPort .active 47000) ∧ ¬ due (stPort .active 46999)) := by
  decide +kernel

/-- A message stands in the receive buffer; the owner's session, or less. -/
def stMsg (m : Mgmt) (f : Spdm → Spdm) : State := { st with spdm := f { st.spdm with inbox := m } }

/-- The owner's session. -/
def owned (d : Spdm) : Spdm := { d with session := true, peerRoot := 5, ownerRoot := some 5 }

/-- A message with a request, the four algorithms and slot 0, inside the session. -/
def askFor (r : SpdmRequest) : Mgmt := { request := r, offer := [.sha384, .secp384r1, .aes256gcm, .rsassa3072], secured := true }

theorem supported_asks (r : SpdmRequest) (h : r ≠ .other) (f : Spdm → Spdm) (hf : ∀ d, (f d).inbox = d.inbox) : Asks (stMsg (askFor r) f) r := by
  have h1 : ¬ Unsupported (askFor r) := by
    unfold Unsupported askFor
    simp [h]
  unfold Asks
  simp [h, stMsg, hf, h1]
  rfl

theorem wit_Asks : (∀ x ∈ requests, Asks (stMsg (askFor x.1) id) x.1) ∧ (∀ x ∈ requests, x.1 ≠ .other → ¬ Asks (stMsg (askFor .other) id) x.1) ∧
    (∀ m ∈ [{ askFor .negotiateAlgorithms with offer := [.sha384, .secp384r1, .aes256gcm] }, { askFor .getCertificate with slot := 1 }, { askFor .keyExchange with slot := 7 }],
      Asks (stMsg m id) .other) := by
  refine ⟨fun x _ => ?_, fun x _ h => by simp [Asks, h, stMsg, Unsupported, askFor], ?_⟩
  · by_cases h : x.1 = .other
    · rw [h]; exact .inl rfl
    · exact supported_asks _ h _ fun _ => rfl
  · unfold Asks Unsupported; decide +kernel

theorem wit_Spdm : ((stMsg (askFor .getEncapsulatedRequest) fun d => { d with handshake := some 0 }).spdm.handshake = some 0) ∧
    ((stMsg (askFor .deliverEncapsulatedResponse) fun d => { d with handshake := some 1 }).spdm.handshake = some 1) ∧
    (let s := stMsg { askFor .finish with authentic := true } fun d => { d with handshake := some 2 }
     s.spdm.handshake = some 2 ∧ s.spdm.inbox.authentic = true) ∧ (InSession (stMsg (askFor .endSession) owned)) ∧ ¬ InSession (stMsg { askFor .endSession with secured := false } owned) ∧
    (st.spdm.handshake ≠ some 0 ∧ st.spdm.handshake ≠ some 1 ∧ st.spdm.handshake ≠ some 2) := by
  unfold InSession; decide +kernel

theorem wit_Attestation : st.power.recovery = none ∧ 6 ≤ st.power.stage ∧ (∃ k, st.power.key = some k) ∧ State.reset.power.stage < 6 ∧ State.reset.power.recovery = none ∧
    ({ st with power := { st.power with recovery := some (4, none) } } : State).power.recovery.isSome = true :=
  ⟨by decide +kernel, by decide +kernel, ⟨_, rfl⟩, by decide +kernel, by decide +kernel, by decide +kernel⟩

theorem wit_Owner : (let s := stMsg (askFor .setOwner) fun d => { d with session := true }
     InSession s ∧ s.spdm.ownerRoot = none) ∧
    (let s := stMsg { askFor .clusterPower with index := 63, on := true, watts := 400 } owned
     OwnerRuns s ∧ s.spdm.inbox.index < Config.clusters s.part ∧ 400 ≤ s.spdm.inbox.watts ∧ s.spdm.inbox.watts ≤ Config.maxPower s.part) ∧
    (let s := stMsg { askFor .fabricIslandPower with index := 123 } owned
     OwnerRuns s ∧ 92 ≤ s.spdm.inbox.index ∧ s.spdm.inbox.index < 124) ∧
    (let s := { (stMsg { askFor .recoveryImage with index := 124, watts := 399 } owned) with power := { st.power with recovery := some (4, none) } }
     InOwner s ∧ ¬ OwnerRuns s ∧ 124 ≤ s.spdm.inbox.index ∧ Config.clusters s.part ≤ s.spdm.inbox.index ∧ s.spdm.inbox.watts < 400 ∧ s.power.recovery.isSome = true) ∧
    ¬ InOwner (stMsg { askFor .reset with secured := false } owned) ∧ ¬ InSession st := by
  unfold OwnerRuns InOwner InSession; decide +kernel

/-- A fragment stands on the agenda, fragment 0 of its message has come. -/
def stFrag (dst frag flags : Nat) : State :=
  { st with agenda := [.fragment (fragmentOf 1 dst 7 frag flags [5])], fabric := { st.fabric with ports := [{ st := .active }] }, spdm := { st.spdm with parts := [⟨1, 7, true, 1, [4]⟩] } }

theorem wit_Fragments : (∀ f ∈ [(0, 0), (0, 1), (1, 2), (1, 3), (2, 3)], (stFrag 0 f.1 f.2).agenda = .fragment (fragmentOf 1 0 7 f.1 f.2 [5]) :: []) ∧
    (0 = (stFrag 0 0 0).fabric.position ∧ 511 ≠ (stFrag 0 0 0).fabric.position ∧ (stFrag 0 0 0).fabric.up = true ∧ st.fabric.up = false) ∧
    ((stFrag 0 1 2).spdm.parts.find? fun p => decide (p.src = 1) && decide (p.xfer = BitVec.ofNat 32 7)) = some ⟨1, 7, true, 1, [4]⟩ ∧
    (∀ p ∈ (stFrag 0 2 3).spdm.parts, p.src = 1 → p.xfer = BitVec.ofNat 32 7 → p.next ≠ 2) := by
  decide +kernel

/-- What the bytes ask for is the link's (log 118): whichever request of the list it is, one event answers it. -/
theorem wit_FragmentAsks (m : Mgmt) (h : m.request ≠ .recoveryCause) (h1 : m.request ≠ .scaleOutKey) : ∃ x ∈ requests, Asks (stMsg m id) x.1 := by
  by_cases hu : Unsupported m
  · exact ⟨(.other, .unsupportedRequest), by decide, by simpa [Asks, stMsg] using hu⟩
  · have h2 : m.request ≠ .other := fun e => hu (.inl e)
    have h3 : ∃ x ∈ requests, x.1 = m.request := by
      revert h h1 h2
      cases m.request <;> decide
    obtain ⟨x, hx, e⟩ := h3
    exact ⟨x, hx, by simp [Asks, e, h2, stMsg, hu]⟩

/-- A message of the owner to a part, in recovery or not. -/
def stDeliver (m : Mgmt) (r : Option (Nat × Option Nat)) (part : Part) : State :=
  { st with agenda := [.deliver m], fabric := { st.fabric with ports := [{ st := .active }] }, part := part, power := { st.power with recovery := r }, spdm := owned st.spdm }

theorem wit_DeliverAsks : ∀ r ∈ [SpdmRequest.recoveryCause, .scaleOutKey], Asks (stMsg (askFor r) owned) r := by
  intro r hr
  exact supported_asks r (by rintro rfl; simp at hr) _ fun _ => rfl

theorem wit_Deliver : (∀ m r part, (stDeliver m r part).fabric.up = true) ∧
    (let u := { stDeliver (askFor .recoveryCause) (some (2, some 11)) .p4180 with spdm := { owned st.spdm with inbox := askFor .recoveryCause } }
     InOwner u ∧ u.power.recovery = some (2, some 11)) ∧ (stDeliver (askFor .recoveryCause) none .p4180).power.recovery = none ∧
    (let m := { askFor .scaleOutKey with key := { slot := 4095, rkey := 9, asid := 0, base := 0x200001000, size := 32, rd := true, wr := true } }
     let u := { stDeliver m none .p4180 with spdm := { owned st.spdm with inbox := m } }
     OwnerRuns u ∧ Config.hasScout u.part = true ∧ m.key.size ≠ 0) ∧ Config.hasScout .p4140 = false := by
  unfold OwnerRuns InOwner InSession
  exact ⟨fun _ _ _ => rfl, by decide +kernel⟩

/-- Before power-up, with what the boot logic meets. -/
def stBoot (o : PowerUpOutcome) (ok : Bool) : State :=
  { State.reset with power := { State.reset.power with outcome := o, flash := { number := 1, version := 0, rsaOk := true, slhOk := ok } } }

theorem wit_PowerUp : ∀ o ∈ [(⟨some 11, 1, [], 0⟩ : PowerUpOutcome), ⟨some 11, 2, [], 0⟩, ⟨none, 4, [], 0⟩, ⟨none, 6, [], 0⟩, ⟨none, 0, [(0, 1, 2), (143, 3, 4)], 511⟩], ∀ ok : Bool,
    (stBoot o ok).power.stage = 0 ∧ (stBoot o ok).power.recovery = none ∧ (o.trained.map (·.1)).Nodup ∧
    (∀ x ∈ o.trained, ∃ p ∈ (stBoot o ok).fabric.ports[x.1]?, p.st ≠ .disabled) ∧
    ((stBoot o ok).power.flash.rsaOk = true ∧ ((stBoot o ok).power.flash.slhOk = true ↔ ok = true) ∧ (stBoot o ok).power.fuse ≤ (stBoot o ok).power.flash.version) := by
  decide +kernel

/-- After stage 5, with report requests that wait. -/
def stFive (o : PowerUpOutcome) (w : List (Bool × Mgmt)) : State :=
  { State.reset with power := { State.reset.power with stage := 5, outcome := o }, spdm := { State.reset.spdm with waiting := w } }

theorem wit_StageSix : ∀ w ∈ [[], [(false, askFor .deviceReport)]], ∀ o ∈ [(⟨none, 6, [], 0⟩ : PowerUpOutcome), ⟨none, 0, [], 0⟩],
    (stFive o w).power.stage = 5 ∧ (stFive o w).power.recovery = none ∧ (stFive o w).spdm.waiting = w ∧ (stFive o w).power.outcome.failedStage = o.failedStage := by
  decide +kernel

end Sys2Proof.Tests
end

section
/-! PROOF. The state before power-up (R2, R286, R306, R339): what each of its parts holds, and O34 from them. -/

namespace Sys2Proof.Machine

/-! ## Empty memories, queues and registers -/

/-- A package without bytes, blocks, launches and saved stacks has nothing that could break the canonical form. -/
theorem memoriesCanonical_of_empty {s : State} (hm : s.mem.bytes = []) (hb : s.blocks = []) (hl : s.launches = [])
    (hy : s.laneStacks = []) : memoriesCanonical s := by
  unfold memoriesCanonical
  rw [hm, hb, hl, hy]
  exact ⟨rfl, by simp, by simp, by simp⟩

/-- No group is resident where the running one is not and there is no other. -/
theorem State.groups_of_none_resident {s : State} (hc : s.cur.resident = false) (ho : s.others = []) : s.groups = [] := by
  simp [State.groups, hc, ho]

/-- A queue that the firmware does not hold is a disabled one (R286). -/
theorem State.queueOf_of_no_queues {s : State} (h : s.queues = []) (q : Nat) : s.queueOf q = { num := q } := by
  simp [State.queueOf, State.queue?, h]

/-- The k registers of a fresh register file: k0 all ones, the others zero (R9). -/
theorem RegFile.getK_fresh (n : BitVec 8) : ({} : RegFile).getK n = if n.toNat % 16 = 0 then 0xFFFFFFFF else 0 := by
  unfold RegFile.getK
  by_cases h : kIdx n = 0
  · rw [if_pos h, if_pos (show n.toNat % 16 = 0 from h)]
  · have hne : (⟨kIdx n, kIdx_lt n⟩ : Fin 16) ≠ 0 := fun e => h (congrArg Fin.val e)
    rw [if_neg h, if_neg (show ¬ n.toNat % 16 = 0 from h), Vector.getElem_ofFn, if_neg hne]

/-! ## Ports and dies of a part -/

/-- The ports that a part enables are DOWN, the rest DISABLED (R306). -/
theorem initialPorts_st (p : Part) :
    (initialPorts p).map (·.st) = (List.range 256).map fun i => if i < Config.ports p then PortSt.down else .disabled := by
  rw [initialPorts, List.map_map]
  exact List.map_congr_left fun i _ => apply_ite Port.st (i < Config.ports p) {} { st := .disabled }

/-! ## The state before power-up -/

@[simp] theorem State.reset_part : State.reset.part = .p4180 := rfl
@[simp] theorem State.reset_cur : State.reset.cur = {} := rfl
@[simp] theorem State.reset_others : State.reset.others = [] := rfl
@[simp] theorem State.reset_blocks : State.reset.blocks = [] := rfl
@[simp] theorem State.reset_launches : State.reset.launches = [] := rfl
@[simp] theorem State.reset_laneStacks : State.reset.laneStacks = [] := rfl
@[simp] theorem State.reset_mem_bytes : State.reset.mem.bytes = [] := rfl
@[simp] theorem State.reset_queues : State.reset.queues = [] := rfl
@[simp] theorem State.reset_ports : State.reset.fabric.ports = initialPorts .p4180 := rfl
@[simp] theorem State.reset_dies : State.reset.dies = List.replicate (Config.dies .p4180) {} := rfl

theorem State.reset_memoriesCanonical : memoriesCanonical State.reset :=
  memoriesCanonical_of_empty reset_mem_bytes reset_blocks reset_launches reset_laneStacks

theorem State.reset_groups : State.reset.groups = [] := State.groups_of_none_resident rfl reset_others

theorem State.reset_read (a : Nat) : State.reset.mem.bytes.read a = 0 := by
  rw [State.reset_mem_bytes, Memory.read, unlisted]

theorem State.reset_queueOf_disabled (q : Nat) : (State.reset.queueOf q).desc.enabled = false := by
  rw [State.queueOf_of_no_queues State.reset_queues]

theorem State.reset_ports_st : State.reset.fabric.ports.map (·.st) =
    (List.range 256).map fun i => if i < Config.ports State.reset.part then PortSt.down else .disabled := by
  rw [State.reset_ports, State.reset_part, initialPorts_st]

theorem State.reset_dies_alive : State.reset.dies.map (·.alive) = List.replicate (Config.dies State.reset.part) true := by
  rw [State.reset_dies, State.reset_part, List.map_replicate]

theorem State.reset_getK (n : BitVec 8) : State.reset.cur.regs.getK n = if n.toNat % 16 = 0 then 0xFFFFFFFF else 0 := by
  rw [State.reset_cur, RegFile.getK_fresh]

end Sys2Proof.Machine

namespace Sys2Proof.Proofs
open Machine

/-- Settles O34: the memories are canonical because they are empty, no queue is held, so each is a disabled one, and the ports, dies
and k registers are the fresh ones of the part. -/
theorem resetState : Obligations.ResetState := by
  unfold Obligations.ResetState
  exact ⟨State.reset_memoriesCanonical, State.reset_groups, State.reset_launches, State.reset_read, rfl, rfl,
    State.reset_queueOf_disabled, State.reset_ports_st, State.reset_dies_alive, rfl, rfl, rfl, State.reset_getK⟩

end Sys2Proof.Proofs
end

section
/-! PROOF. MFS (R16, R170): what the issue of an instruction that only writes registers leaves, and O14 from it. -/

namespace Sys2Proof.Machine
open Spec

/-! ## Results of forms -/

theorem add_one_ne_self (d : BitVec 8) : d + 1 ≠ d := by simp

/-- The two s registers of a pair below 64 are different ones. -/
theorem sIdx_add_one_ne {d : BitVec 8} (h : d.toNat + 2 ≤ 64) : sIdx (d + 1) ≠ sIdx d :=
  sIdx_ne (by omega) (by bv_omega) (add_one_ne_self d)

/-- The result of a v register in one register, and in the pair (R101). -/
theorem RegFile.result_writeRes_v (r : RegFile) (wide : Bool) (d : BitVec 8) (exec : Word) (x : Fin 32 → DWord) :
    Result r (r.writeRes false wide d exec x) false wide d exec x := by
  have h1 := add_one_ne_self d
  cases wide
  · refine ⟨fun _ _ _ => rfl, ⟨fun l => ?_, RegFile.stOf_writeV_same ..⟩, nofun, fun n hn => ?_, fun _ _ _ => ⟨rfl, rfl⟩⟩
    · exact (RegFile.getV_writeV_same ..).trans (by rw [Lanes.get_mk])
    · have hn : n ≠ d := by simpa using hn
      exact ⟨RegFile.getV_writeV_other _ _ _ hn, RegFile.stOf_writeV_other _ _ _ hn⟩
  · refine ⟨fun _ _ _ => rfl, ⟨fun l => ?_, ?_⟩, fun _ => ⟨fun l => ?_, RegFile.stOf_writeV_same ..⟩, fun n hn => ?_,
      fun _ _ _ => ⟨rfl, rfl⟩⟩
    · simp only [RegFile.writeRes, Bool.false_eq_true, if_false, if_true]
      rw [RegFile.getV_writeV_other _ _ _ h1.symm, RegFile.getV_writeV_same, Lanes.get_mk]
    · exact (RegFile.stOf_writeV_other _ _ _ h1.symm).trans (RegFile.stOf_writeV_same ..)
    · simp only [RegFile.writeRes, Bool.false_eq_true, if_false, if_true]
      rw [RegFile.getV_writeV_same, RegFile.getV_writeV_other _ _ _ h1, Lanes.get_mk]
    · obtain ⟨hn, hn1⟩ : n ≠ d ∧ n ≠ d + 1 := by simpa using hn
      exact ⟨(RegFile.getV_writeV_other _ _ _ hn1).trans (RegFile.getV_writeV_other _ _ _ hn),
        (RegFile.stOf_writeV_other _ _ _ hn1).trans (RegFile.stOf_writeV_other _ _ _ hn)⟩

/-- The result of an s register, and of a pair of them, below 64 (R101). -/
theorem RegFile.result_writeRes_s (r : RegFile) (wide : Bool) (d : BitVec 8) (exec : Word) (x : Fin 32 → DWord)
    (hd : d.toNat + (if wide then 2 else 1) ≤ 64) : Result r (r.writeRes true wide d exec x) true wide d exec x := by
  cases wide
  · simp only [Bool.false_eq_true, if_false] at hd
    refine ⟨fun _ _ _ => rfl, ⟨RegFile.getS_writeS_same .., RegFile.stOf_writeS_same ..⟩, nofun, fun n h64 hn => ?_,
      fun _ _ => ⟨rfl, rfl⟩⟩
    have hn : sIdx n ≠ sIdx d := sIdx_ne (by omega) h64 (by simpa using hn)
    exact ⟨RegFile.getS_writeS_other _ _ hn, RegFile.stOf_writeS_other _ _ hn⟩
  · simp only [if_true] at hd
    have h1 := sIdx_add_one_ne hd
    refine ⟨fun _ _ _ => rfl, ⟨?_, ?_⟩, fun _ => ⟨RegFile.getS_writeS_same .., RegFile.stOf_writeS_same ..⟩, fun n h64 hn => ?_,
      fun _ _ => ⟨rfl, rfl⟩⟩
    · exact (RegFile.getS_writeS_other _ _ h1.symm).trans (RegFile.getS_writeS_same ..)
    · exact (RegFile.stOf_writeS_other _ _ h1.symm).trans (RegFile.stOf_writeS_same ..)
    · obtain ⟨hn, hn1⟩ : n ≠ d ∧ n ≠ d + 1 := by simpa using hn
      have hn := sIdx_ne (by omega) h64 hn
      have hn1 : sIdx n ≠ sIdx (d + 1) := sIdx_ne (by bv_omega) h64 hn1
      exact ⟨(RegFile.getS_writeS_other _ _ hn1).trans (RegFile.getS_writeS_other _ _ hn),
        (RegFile.stOf_writeS_other _ _ hn1).trans (RegFile.stOf_writeS_other _ _ hn)⟩

/-- What `writeRes` leaves is the result of its form. -/
theorem RegFile.result_writeRes (r : RegFile) (u wide : Bool) (d : BitVec 8) (exec : Word) (x : Fin 32 → DWord)
    (hd : u = true → d.toNat + (if wide then 2 else 1) ≤ 64) : Result r (r.writeRes u wide d exec x) u wide d exec x := by
  cases u
  · exact r.result_writeRes_v wide d exec x
  · exact r.result_writeRes_s wide d exec x (hd rfl)

/-- An s register or pair that a position names stands below 64 (R37). -/
theorem kindOk_r_lt {lm : Limits} {u side : Bool} {n : Nat} {x : BitVec 8} (h : kindOk lm u side (.r n) x = true) (hu : u = true) :
    x.toNat + n ≤ 64 := by
  subst hu
  simp only [kindOk, if_true, regRange, Bool.and_eq_true, decide_eq_true_eq] at h
  exact h.1

/-- SIG as the statements fold it is the model's (R97). -/
theorem State.sigFolded_eq (s : State) (i : Instr) : s.sigFolded i = sigAfter i s := by
  unfold State.sigFolded sigAfter
  rfl

/-- Retiring leaves the registers. -/
@[simp] theorem State.retire_cur_regs (s : State) (i : Instr) : (s.retire i).cur.regs = s.cur.regs := by
  rw [State.retire_eq, State.onSp_cur_regs]

/-- An instruction that has written registers alone completes past itself. -/
theorem State.plain_retire_onRegs (s : State) (i : Instr) (g : RegFile → RegFile) : Plain i s ((s.onRegs g).retire i) := by
  rw [State.retire_eq]
  refine ⟨⟨rfl, rfl, rfl, fun n hn => State.onSp_cur_entry _ _ hn, fun _ => rfl, fun _ _ => rfl, fun _ _ => rfl⟩, rfl, ?_⟩
  rw [State.onSp_cur_sp, State.sigFolded_onRegs, State.sigFolded_eq]
  simp [past]

/-! ## System registers -/

theorem sysIdx_of_w2 {f : Fields} {n : Nat} (h : f.w2 = BitVec.ofNat 32 n) : sysIdx f = BitVec.ofNat 12 n := by
  rw [sysIdx, h]
  apply BitVec.eq_of_toNat_eq
  simp only [BitVec.extractLsb'_toNat, BitVec.toNat_ofNat, Nat.shiftRight_zero]
  omega

/-- A word of a number below 2^32 as a raw operand. -/
theorem raw32_ofNat {n : Nat} (h : n < 2 ^ 32) : raw32 (BitVec.ofNat 32 n) = BitVec.ofNat 64 n := by
  unfold raw32
  apply BitVec.eq_of_toNat_eq
  simp only [BitVec.toNat_append, BitVec.toNat_ofNat]
  simp
  omega

theorem Group.validNums_length_le (g : Group) : g.validNums.length ≤ 8 := List.length_filter_le _ _

/-- MFS reads no general register. -/
theorem mfs_sources (f : Fields) : sources (rowFor 0x78 f) f = [] := by
  show List.map _ [] ++ List.map _ [] ++ List.map _ (if bImm f then [] else []) ++ List.map _ [] = ([] : List Src)
  simp

/-- The checks of R48 steps 5 and 6 let MFS of a register through, and it answers the register's value. -/
theorem mfs_gives {f : Fields} {s : State} {acc : SysAcc} {wide perLane : Bool} {x : Fin 32 → DWord}
    (hreg : sysReg (sysIdx f) = some ⟨acc, wide, perLane⟩) (hacc : acc = .so → s.cur.supervisor = true)
    (hlane : f.u = true → sysIdx f ≠ 0) (hready : MfsReady f s wide) (hx : ∀ l, s.sysRead (sysIdx f) l = x l) :
    MfsGives f s wide x := by
  obtain ⟨-, hacts, hkind, hfree⟩ := hready
  have hwide : sysWide f = wide := by simp [sysWide, hreg]
  have herr : (mfsPlan f s).err s.limits = none := by
    have hsys : sysErr f true s.limits = none := by simpa [sysErr, hreg, hkind, firstErr] using hlane
    have hrow : fieldErr s.limits (rowFor 0x78 f) f = none := rfl
    simp only [Plan.err, mfsPlan, planOf, hsys, hrow, firstErr]
  have hpriv : (mfsPlan f s).priv = none := by
    simp only [mfsPlan, sysPriv, hreg]
    by_cases h : acc = .so
    · simp [hacc h]
    · simp [h]
  have hsrcs : ∀ y ∈ (mfsPlan f s).srcs, s.cur.regs.stOf y.reg = .full ∧ s.cur.regs.poisoned y.reg = false := by
    intro y hy
    have h : sources (rowFor 0x78 f) f = [] := mfs_sources f
    rcases Plan.mem_srcs hy with hy | hy
    · exact absurd (h ▸ hy : y ∈ []) List.not_mem_nil
    · exact absurd hy List.not_mem_nil
  have hdsts : ∀ r ∈ (mfsPlan f s).dsts, s.cur.producing r = false := by
    intro r hr
    have : (mfsPlan f s).dsts = kindRegs f.u f.u (.r (if wide then 2 else 1)) f.d := by
      simp only [Plan.dsts, mfsPlan, hwide]; rfl
    exact hfree r (this ▸ hr)
  refine ⟨_, congrArg Host.Outcome.next (issue_passes (fun hv => hacts (by simpa [mfsPlan, planOf] using hv)) herr hpriv hsrcs hdsts),
    State.plain_retire_onRegs .., ?_⟩
  have hres := s.cur.regs.result_writeRes f.u wide f.d s.cur.exec x fun hu => by
    cases wide <;> exact kindOk_r_lt hkind hu
  rw [funext hx, hwide]
  exact (State.retire_cur_regs ..).symm ▸ hres

/-! ## The rows of R16 -/

/-- The rows that read the same in every lane are in the table with their width, none of them for the supervisor alone. -/
theorem uniformRegs_sysReg : ∀ e ∈ uniformRegs.map (fun e => (e.1, e.2.1)), BitVec.ofNat 12 e.1 ≠ 0 ∧
    ∃ acc ∈ [SysAcc.ro, .rw], sysReg (BitVec.ofNat 12 e.1) = some ⟨acc, e.2, false⟩ := by
  show ∀ e ∈ [(0x001, false), (0x002, false), (0x003, false), (0x004, false), (0x005, false), (0x006, false), (0x007, false),
    (0x008, false), (0x010, false), (0x012, false), (0x013, false), (0x020, false), (0x021, false), (0x022, false), (0x023, false),
    (0x030, true), (0x031, false), (0x032, false), (0x038, true), (0x040, true), (0x050, false), (0x051, false), (0x052, false),
    (0x053, false), (0x054, false), (0x055, false), (0x056, false), (0x057, false)], _
  decide

/-- They read what the table gives. -/
theorem uniformRegs_sysRead (s : State) (l : Fin 32) : ∀ e ∈ uniformRegs, s.sysRead (BitVec.ofNat 12 e.1) l = e.2.2 s := by
  simp only [uniformRegs, List.forall_mem_cons]
  exact ⟨rfl, rfl, rfl, rfl, rfl, rfl, rfl, rfl, rfl, rfl, rfl, rfl, rfl, rfl, rfl, rfl, rfl, rfl, rfl, rfl, rfl, rfl, rfl, rfl, rfl, rfl,
    rfl, rfl, nofun⟩

/-- The binding entries are in the table. -/
theorem sysReg_cbind : ∀ c : Fin 16, BitVec.ofNat 12 (0x100 + c.val) ≠ 0 ∧
    sysReg (BitVec.ofNat 12 (0x100 + c.val)) = some ⟨.ro, true, false⟩ := by decide

theorem sysRead_cbind (s : State) (c : Fin 16) (l : Fin 32) :
    s.sysRead (BitVec.ofNat 12 (0x100 + c.val)) l = (s.lchOf s.cur).cbind[c.val] := by
  fin_cases c <;> rfl

/-- `$xval0` to `$xval3` are in the table. -/
theorem sysReg_xval : ∀ k : Fin 4, BitVec.ofNat 12 (0x034 + k.val) ≠ 0 ∧
    sysReg (BitVec.ofNat 12 (0x034 + k.val)) = some ⟨.rw, false, true⟩ := by decide

theorem sysRead_xval (s : State) (k : Fin 4) (l : Fin 32) :
    s.sysRead (BitVec.ofNat 12 (0x034 + k.val)) l = (0 : Word) ++ ((trapsSeen s.cur).val[k.val]).get l := by
  fin_cases k <;> rfl

/-- `$split` as its fields, the overflow area holding what it has room for (R15). -/
theorem splitReg_eq (g : Group) (h : g.ovf ≤ 16) : raw32 g.splitReg =
    BitVec.ofNat 64 (65536 * g.sp.inh.toNat + 256 * g.ovf + 16 * g.validNums.length + g.running.toNat) := by
  have hv := g.validNums_length_le
  have hr := g.running.isLt
  have hi : (if g.sp.inh then 65536 else 0) = 65536 * g.sp.inh.toNat := by cases g.sp.inh <;> rfl
  have hb := Bool.toNat_le g.sp.inh
  unfold Group.splitReg
  rw [hi, raw32_ofNat (by omega)]
  congr 1
  omega

/-- `$cnt` as its fields, each count below 256. -/
theorem cntReg_eq (g : Group) (h : ∀ n < 4, g.count n < 256) : raw32 g.cntReg =
    BitVec.ofNat 64 (g.count 0 + 256 * g.count 1 + 65536 * g.count 2 + 16777216 * g.count 3) := by
  have h0 := h 0 (by decide)
  have h1 := h 1 (by decide)
  have h2 := h 2 (by decide)
  have h3 := h 3 (by decide)
  unfold Group.cntReg
  rw [raw32_ofNat (by omega)]
  congr 1
  omega

end Sys2Proof.Machine

namespace Sys2Proof.Proofs
open Machine Spec

/-- Settles O14: each register stands in the table with its width, so MFS passes its checks and answers what the table reads. -/
theorem systemRegisterReads : Obligations.SystemRegisterReads := by
  unfold Obligations.SystemRegisterReads
  intro f s
  refine ⟨fun e he hw hr => ?uniform, fun c hw hr => ?cbind, fun hw hu hr => ?lane, fun hw hr hovf => ?split, fun hw hr hcnt => ?cnt,
    fun k hw hr => ?xval, fun hw hr hsup => ?stvec⟩
  case uniform =>
    obtain ⟨h0, acc, hacc, hreg⟩ := uniformRegs_sysReg (e.1, e.2.1) (List.mem_map_of_mem he)
    have hi := sysIdx_of_w2 hw
    exact mfs_gives (hi ▸ hreg) (by rintro rfl; simp at hacc) (fun _ => hi ▸ h0) hr fun l => hi ▸ uniformRegs_sysRead s l e he
  case cbind =>
    obtain ⟨h0, hreg⟩ := sysReg_cbind c
    have hi := sysIdx_of_w2 hw
    exact mfs_gives (acc := .ro) (hi ▸ hreg) nofun (fun _ => hi ▸ h0) hr fun l => hi ▸ sysRead_cbind s c l
  case lane =>
    have hi : sysIdx f = 0x000 := sysIdx_of_w2 hw
    exact mfs_gives (acc := .ro) (perLane := true) (hi ▸ rfl) nofun (by simp [hu]) hr fun l => hi ▸ rfl
  case split =>
    have hi : sysIdx f = 0x011 := sysIdx_of_w2 hw
    exact mfs_gives (acc := .ro) (perLane := false) (hi ▸ rfl) nofun (fun _ => hi ▸ by decide) hr
      fun l => hi ▸ splitReg_eq s.cur hovf
  case cnt =>
    have hi : sysIdx f = 0x041 := sysIdx_of_w2 hw
    exact mfs_gives (acc := .ro) (perLane := false) (hi ▸ rfl) nofun (fun _ => hi ▸ by decide) hr
      fun l => hi ▸ cntReg_eq s.cur hcnt
  case xval =>
    obtain ⟨h0, hreg⟩ := sysReg_xval k
    have hi := sysIdx_of_w2 hw
    exact mfs_gives (acc := .rw) (hi ▸ hreg) nofun (fun _ => hi ▸ h0) hr fun l => hi ▸ sysRead_xval s k l
  case stvec =>
    have hi : sysIdx f = 0x039 := sysIdx_of_w2 hw
    exact mfs_gives (acc := .so) (perLane := false) (hi ▸ rfl) (fun _ => hsup) (fun _ => hi ▸ by decide) hr fun l => hi ▸ rfl

end Sys2Proof.Proofs
end

section
/-! PROOF. Traps into the user handler (R49, R93): what taking one leaves, and O16 from it. -/

namespace Sys2Proof.Machine
open Spec

/-! ## Taking a trap -/

/-- Writing the wait counts into the overflow area touches the blocks alone (R15). -/
theorem State.syncWaits_eq (s : State) : ∃ bs, s.syncWaits = { s with blocks := bs } := by
  suffices h : ∀ (l : List Nat) (s : State), ∃ bs, l.foldl (fun s i => s.setOvf i (s.ovfEntry s.cur i)) s = { s with blocks := bs } from
    h _ s
  intro l
  induction l with
  | nil => exact fun s => ⟨s.blocks, rfl⟩
  | cons i l ih => exact fun s => ih (s.setOvf i (s.ovfEntry s.cur i))

/-- The trap registers that a trap into the user handler writes (R93). -/
def State.trapRegs (s : State) (t : TrapInfo) : TrapRegs :=
  ⟨s.cur.sp.pc, causeWord s.cur.running false t.cause, t.lanes, t.val⟩

/-- The entry of the split that stands at the handler's first instruction (R93). -/
def State.inHandler (s : State) (e : Split) : Split := { e with inh := true, half := false, pc := alignPc s.cur.ctl.utvec }

/-- A trap other than a page fault enters the handler: the running split stands there with INH set, the trap registers are
written, and beside the blocks nothing else changes (R93). -/
theorem State.takeTrap_eq {s : State} {t : TrapInfo} (hs : Handles s) (ht : t.cause ≠ Cause.pageFault) :
    ∃ bs, s.takeTrap t = { s with
      cur := { (s.onSp s.inHandler).cur with trap := s.trapRegs t }
      blocks := bs } := by
  obtain ⟨hdbg, hinh, hvec⟩ := hs
  have hd : s.cur.debugged = false := by simp [Group.debugged, hdbg]
  unfold State.takeTrap
  simp only [hd, ht, hinh, hvec, Bool.false_and, Bool.false_eq_true, if_false]
  exact State.syncWaits_eq _

/-- What the handler finds: the trap whose values are those of the cause. -/
theorem State.trapped_takeTrap {s : State} {t : TrapInfo} {val : Fin 4 → Fin 32 → Word} (hs : Handles s)
    (ht : t.cause ≠ Cause.pageFault) (hval : ∀ (k : Fin 4) l, (t.val[k.val]).get l = val k l) :
    Trapped s (s.takeTrap t) t.cause t.lanes val ∧ SameRegs s (s.takeTrap t) ∧ (s.takeTrap t).stvec = s.stvec := by
  obtain ⟨bs, h⟩ := State.takeTrap_eq hs ht
  rw [h]
  have hsp := State.onSp_cur_sp s s.inHandler
  exact ⟨⟨⟨rfl, rfl, rfl, congrArg Split.pc hsp, congrArg Split.inh hsp, (congrArg Split.sig hsp :),
    fun n hn => State.onSp_cur_entry s s.inHandler hn, rfl, rfl⟩, hval⟩, rfl, rfl⟩

/-- The same four values in every lane, read by their number. -/
theorem TrapInfo.all_val (cause : Nat) (m x0 x1 x2 x3 : Word) (k : Fin 4) (l : Fin 32) :
    ((TrapInfo.all cause m x0 x1 x2 x3).val[k.val]).get l = if k = 0 then x0 else if k = 1 then x1 else if k = 2 then x2 else x3 := by
  simp [TrapInfo.all, Lanes.all, Lanes.get]

/-- A failed check of step 5 or 6 is handed to the user handler with the field and its value (R49). -/
theorem State.trapped_fieldTrap {i : Instr} {s : State} {cause : Nat} {e : FieldErr} (hs : Handles s) (hc : cause ≠ Cause.pageFault) :
    let t := finish i (.trap s (fieldTrap i cause s.cur.exec e))
    Trapped s t cause s.cur.exec (fun k _ =>
      if k = 0 then (encode i).getD 0 0 else if k = 1 then (encode i).getD 1 0 else if k = 2 then BitVec.ofNat 32 e.field else e.value) ∧
      SameRegs s t ∧ t.stvec = s.stvec := by
  have h : finish i (.trap s (fieldTrap i cause s.cur.exec e)) = s.takeTrap (fieldTrap i cause s.cur.exec e) :=
    if_neg fun h => hc h.1
  rw [h]
  exact State.trapped_takeTrap hs hc fun k l => TrapInfo.all_val ..

/-- Words that are no legal instruction are handed to the user handler with the reason (R49). -/
theorem State.trapped_wordsTrap {s : State} {cause reason : Nat} (ws : List Word) (hs : Handles s) (hc : cause ≠ Cause.pageFault) :
    let t := s.takeTrap (wordsTrap cause s.cur.exec ws reason)
    Trapped s t cause s.cur.exec (fun k _ => if k.val < 3 then ws.getD k.val 0 else BitVec.ofNat 32 reason) ∧ SameRegs s t := by
  obtain ⟨h, hr, -⟩ := State.trapped_takeTrap (t := wordsTrap cause s.cur.exec ws reason) hs hc (val := _) fun k l => TrapInfo.all_val ..
  refine ⟨?_, hr⟩
  obtain ⟨he, hv⟩ := h
  refine ⟨he, fun k l => (hv k l).trans ?_⟩
  fin_cases k <;> rfl

/-! ## Privilege (R170) -/

/-- An instruction whose checks of step 5 pass and whose check of step 6 fails raises PRIVILEGE. -/
theorem issue_priv {i : Instr} {p : Plan} {body : State → Res} {s : State} {e : FieldErr} (h1 : p.vector = true → s.cur.exec ≠ 0)
    (h2 : p.err s.limits = none) (h3 : p.priv = some e) :
    issue i p body s = finish i (.trap s (fieldTrap i Cause.privilege s.cur.exec e)) := by
  unfold issue
  simp only [h2, h3]
  split
  · next h => simp only [Bool.and_eq_true, decide_eq_true_eq] at h; exact absurd h.2 (h1 h.1)
  · rfl

/-- `$stvec` is the supervisor's (R16). -/
theorem sysReg_stvec {f : Fields} (h : f.w2 = 0x039) : sysIdx f = 0x039 ∧ sysReg (sysIdx f) = some ⟨.so, true, false⟩ := by
  have hi : sysIdx f = 0x039 := sysIdx_of_w2 h
  exact ⟨hi, hi ▸ rfl⟩

theorem sysPriv_stvec {f : Fields} {s : State} (h : f.w2 = 0x039) (hu : s.cur.supervisor = false) : sysPriv f s = some ⟨6, f.w2⟩ := by
  simp [sysPriv, (sysReg_stvec h).2, hu]

/-- A register pair in range names a register in range (R37). -/
theorem kindOk_r_one {lm : Limits} {u side : Bool} {x : BitVec 8} (h : kindOk lm u side (.r 2) x = true) :
    kindOk lm u side (.r 1) x = true := by
  have hone : ∀ lim, regRange lim 2 x = true → regRange lim 1 x = true := fun lim h => by
    simp only [regRange, Bool.and_eq_true, decide_eq_true_eq] at h ⊢
    omega
  cases u
  · exact hone _ h
  · exact hone _ h

/-- The checks of step 5 let MFS of `$stvec` through. -/
theorem mfsPlan_err_stvec {f : Fields} {s : State} (h : f.w2 = 0x039) (hk : kindOk s.limits f.u f.u (.r 2) f.d = true) :
    (mfsPlan f s).err s.limits = none := by
  obtain ⟨hi, hreg⟩ := sysReg_stvec h
  have hne : sysIdx f ≠ 0 := hi ▸ by decide
  have hsys : sysErr f true s.limits = none := by simpa [sysErr, hreg, hk, firstErr] using fun _ => hne
  have hrow : fieldErr s.limits (rowFor 0x78 f) f = none := rfl
  simp only [Plan.err, mfsPlan, planOf, hsys, hrow, firstErr]

/-- The checks of step 5 let MTS of `$stvec` through. -/
theorem mtsPlan_err_stvec {f : Fields} {s : State} (h : f.w2 = 0x039) (hk : kindOk s.limits f.u f.u (.r 2) f.a = true) :
    (mtsPlan f s).err s.limits = none := by
  obtain ⟨hi, hreg⟩ := sysReg_stvec h
  have hsys : sysErr f false s.limits = none := by simp [sysErr, hreg, hk, firstErr]
  have hrow : fieldErr s.limits (rowFor 0x79 f) f = none := by
    have hd : kindOk s.limits f.u f.u (rowFor 0x79 f).a f.a = true := kindOk_r_one hk
    have : fieldErr s.limits (rowFor 0x79 f) f = if !kindOk s.limits f.u f.u (rowFor 0x79 f).a f.a then some ⟨1, (0 : BitVec 24) ++ f.a⟩ else none := rfl
    rw [this, hd]; rfl
  simp only [Plan.err, mtsPlan, planOf, hsys, hrow, firstErr]

end Sys2Proof.Machine

namespace Sys2Proof.Proofs
open Machine Spec

/-- R16, R21, R170: in user mode the check of step 6 fails, after those of step 5 have passed. -/
theorem stvecIsPrivileged : StvecIsPrivileged := by
  intro f s hw hu hs hacts
  have hv : (!f.u) = true → s.cur.exec ≠ 0 := fun h => hacts (by simpa using h)
  refine ⟨fun _ hk => ⟨_, congrArg Host.Outcome.next (issue_priv hv (mfsPlan_err_stvec hw hk) (sysPriv_stvec hw hu)), ?_⟩,
    fun _ hk => ⟨_, congrArg Host.Outcome.next (issue_priv hv (mtsPlan_err_stvec hw hk) (sysPriv_stvec hw hu)), ?_⟩⟩
  · obtain ⟨ht, hr, -⟩ := State.trapped_fieldTrap (i := .mfs f) (e := ⟨6, f.w2⟩) hs (by decide : Cause.privilege ≠ _)
    exact ⟨hr, ht⟩
  · obtain ⟨ht, hr, hst⟩ := State.trapped_fieldTrap (i := .mts f) (e := ⟨6, f.w2⟩) hs (by decide : Cause.privilege ≠ _)
    exact ⟨hr, hst, ht⟩

/-- The unit that a base word names is absent from the part, as the statement puts it (R5). -/
theorem unitAbsent_iff (p : Part) (w : Word) : unitAbsent p w = true ↔
    Config.hasUnfold p = false ∧ (opOf w = 0x72 ∨ opOf w = 0x71 ∧ w.extractLsb' 17 8 = 0xFF#8) := by
  simp [unitAbsent]

/-- R48, R49, R93: each of the three traps is taken whatever `$exec` holds. -/
theorem illegalWords : IllegalWords := by
  intro ws s hs
  have hopc := State.trapped_wordsTrap (cause := Cause.illegalOpcode) (reason := 0) ws hs (by decide)
  refine ⟨⟨_, rfl, hopc.2, hopc.1⟩, fun r => ⟨fun hin => ?_, fun hout => ?_⟩⟩
  · have h : unitAbsent s.part (ws.getD 0 0) = false := Bool.eq_false_iff.2 fun h => hin ((unitAbsent_iff _ _).1 h)
    have hform := State.trapped_wordsTrap (cause := Cause.illegalForm) (reason := r.code) ws hs (by decide)
    exact ⟨_, congrArg Host.Outcome.next (if_neg (Bool.eq_false_iff.1 h)), hform.2, hform.1⟩
  · have habs := State.trapped_wordsTrap (cause := Cause.unitAbsent) (reason := 0) ws hs (by decide)
    exact ⟨_, congrArg Host.Outcome.next (if_pos ((unitAbsent_iff _ _).2 hout)), habs.2, habs.1⟩

/-- Settles O16, from its two parts. -/
theorem privilegeAndIllegalWords : Obligations.PrivilegeAndIllegalWords := by
  unfold Obligations.PrivilegeAndIllegalWords
  exact ⟨stvecIsPrivileged, illegalWords⟩

end Sys2Proof.Proofs
end

section
/-! PROOF. The running group by its name, its outstanding operations by their numbers, and sectors of which no piece stands before its
home (R139 to R142): what the pieces of operations and engines are performed on. -/

namespace Sys2Proof.Machine
open Spec

/-! ## Lists by number -/

/-- The element of a number, in a list in which no number stands twice. -/
theorem find?_key {α : Type} (key : α → Nat) {l : List α} {x : α} (hx : x ∈ l) (hl : (l.map key).Nodup) :
    l.find? (fun y => decide (key y = key x)) = some x := by
  induction l with
  | nil => simp at hx
  | cons y l ih =>
    obtain ⟨hy, hl⟩ := List.nodup_cons.1 hl
    rcases List.mem_cons.1 hx with rfl | hx
    · simp
    · have hne : key y ≠ key x := fun e => hy (e ▸ List.mem_map_of_mem hx)
      rw [List.find?_cons_of_neg (by simpa using hne)]
      exact ih hx hl

/-- A change of the first element of a number is one of every element of it, where no number stands twice. -/
theorem replaceFirst_key {α : Type} (key : α → Nat) (f : α → α) {l : List α} (n : Nat) (hl : (l.map key).Nodup) :
    replaceFirst (fun y => decide (key y = n)) f l = l.map fun y => if key y = n then f y else y := by
  induction l with
  | nil => rfl
  | cons y l ih =>
    obtain ⟨hy, hl⟩ := List.nodup_cons.1 hl
    by_cases h : key y = n
    · have hrest : (l.map fun z => if key z = n then f z else z) = l.map id :=
        List.map_congr_left fun z hz => if_neg fun e : key z = n => hy ((h.trans e.symm) ▸ List.mem_map_of_mem hz)
      simp [replaceFirst, h, hrest]
    · simp [replaceFirst, h, ih hl]

/-- The element that a change of the first accepted one leaves there. -/
theorem find?_replaceFirst {α : Type} {p : α → Bool} {f : α → α} {l : List α} {x : α} (hx : l.find? p = some x) (hf : p (f x) = true) :
    (replaceFirst p f l).find? p = some (f x) := by
  induction l with
  | nil => simp at hx
  | cons y l ih =>
    by_cases h : p y
    · obtain rfl : y = x := by simpa [List.find?, h] using hx
      simp [replaceFirst, h, hf]
    · rw [List.find?_cons_of_neg h] at hx
      simp [replaceFirst, h, ih hx]

/-- The elements that the test does not accept stay. -/
theorem filter_replaceFirst {α : Type} {p : α → Bool} {f : α → α} {l : List α} (hf : ∀ y, p y = true → p (f y) = true) :
    (replaceFirst p f l).filter (fun y => !p y) = l.filter fun y => !p y := by
  induction l with
  | nil => rfl
  | cons y l ih =>
    by_cases h : p y
    · simp [replaceFirst, h, hf y h]
    · simp [replaceFirst, h, ih]

/-! ## The running group by its name -/

theorem Group.isRef_self {g : Group} (h : g.resident = true) : g.isRef g.ref = true := by simp [Group.isRef, h]

theorem State.group?_cur {s : State} {r : GRef} (h : s.cur.isRef r = true) : s.group? r = some s.cur := by simp [State.group?, h]

theorem State.onGroup_cur {s : State} {r : GRef} (h : s.cur.isRef r = true) (f : Group → Group) :
    s.onGroup r f = { s with cur := f s.cur } := by simp [State.onGroup, h]

theorem State.onGroup_onGroup_cur {s : State} {r : GRef} {f g : Group → Group} (h : s.cur.isRef r = true)
    (hf : (f s.cur).isRef r = true) : (s.onGroup r f).onGroup r g = { s with cur := g (f s.cur) } := by
  rw [State.onGroup_cur h, State.onGroup_cur hf]

theorem State.op?_cur {s : State} {r : GRef} (h : s.cur.isRef r = true) (id : Nat) :
    s.op? r id = s.cur.pend.mem.find? (·.id = id) := by simp [State.op?, State.group?_cur h]

/-! ## No piece stands before its home -/

theorem State.nearOf_homed {s : State} (h : Homed s) (test : GRef → Scope → Bool) : s.nearOf test = [] := by
  have hnone : ∀ g ∈ s.groups, (g.pend.mem.filter fun o => !o.near.isEmpty && test g.ref o.nearSc) = [] := fun g hg =>
    List.filter_eq_nil_iff.2 fun o ho => by simp [h g hg o ho]
  have hall : (s.groups.flatMap fun g => (g.pend.mem.filter fun o => !o.near.isEmpty && test g.ref o.nearSc).flatMap fun o =>
      (o.near.filter o.left.contains).map fun x => (o.nearAt, g.ref, o, x)) = [] :=
    List.flatMap_eq_nil_iff.2 fun g hg => by rw [hnone g hg]; rfl
  unfold State.nearOf
  rw [hall]
  rfl

theorem State.nearPieces_homed {s : State} (h : Homed s) (g : Group) : s.nearPieces g = [] := State.nearOf_homed h _

theorem State.nearAt_homed {s : State} (h : Homed s) (g : Group) (sector : Nat) : s.nearAt g sector = [] := by
  unfold State.nearAt
  split
  · rw [State.nearPieces_homed h]; rfl
  · rfl

theorem State.flushNear_homed {s : State} (h : Homed s) (g : Group) (sector : Nat) : s.flushNear g sector = s := by
  rw [State.flushNear, State.nearAt_homed h]; rfl

theorem State.flushBlock_homed {s : State} (h : Homed s) (g : Group) : s.flushBlock g = s := by
  rw [State.flushBlock, State.nearPieces_homed h]; rfl

theorem State.bring_homed {s : State} (h : Homed s) (g : Group) (sc : Scope) (sector : Nat) : s.bring g sc sector = s := by
  unfold State.bring
  split
  · exact State.flushNear_homed h g sector
  · rfl

theorem State.sectorNow_homed {s : State} (h : Homed s) (g : Group) (sector : Nat) :
    s.sectorNow g sector = (span (sector * 32) (sector * 32 + 32)).map fun a => (a, s.byteOf g a) := by
  rw [State.sectorNow, State.nearAt_homed h]; rfl

/-- Outside deterministic launches, with no piece before its home, a read meets the mark of the place alone. -/
theorem State.readMarked_homed {s : State} {g : Group} (h : Homed s) (hdet : (s.lchOf g).img.det = false) (order loc : Nat) :
    s.readMarked g order loc = s.markedAt g loc := by
  simp [State.readMarked, State.nearAt_homed h, hdet]

/-! ## Locations in a sector -/

/-- The byte that a listing of locations gives one of them. -/
theorem byteAt_map {f : Nat → Byte} {l : List Nat} {a : Nat} (h : a ∈ l) : byteAt (l.map fun x => (x, f x)) a = some (f a) := by
  induction l with
  | nil => simp at h
  | cons x l ih =>
    by_cases hx : x = a
    · simp [byteAt, hx]
    · have ha : a ∈ l := (List.mem_cons.1 h).resolve_left fun e => hx e.symm
      simpa [byteAt, hx] using ih ha

/-- What is listed first decides. -/
theorem byteAt_append_of_some {l k : List (Nat × Byte)} {a : Nat} {b : Byte} (h : byteAt l a = some b) : byteAt (l ++ k) a = some b := by
  unfold byteAt at h ⊢
  obtain ⟨p, hp, rfl⟩ := Option.map_eq_some_iff.1 h
  rw [List.find?_append, hp]
  rfl

theorem mem_span {lo hi a : Nat} : a ∈ span lo hi ↔ lo ≤ a ∧ a < hi := by
  simp only [span, List.mem_map, List.mem_range]
  exact ⟨fun ⟨i, hi, e⟩ => by omega, fun h => ⟨a - lo, by omega, by omega⟩⟩

theorem mem_span_sector {a x : Nat} : a ∈ span (x * 32) (x * 32 + 32) ↔ a / 32 = x := by
  rw [mem_span]; omega

end Sys2Proof.Machine
end

section
/-! PROOF. What has arrived of an operation is delivered (R140): the destinations lane by lane, the flags of a class load, and the
registers FULL once the last piece has come. -/

namespace Sys2Proof.Machine
open Spec

/-! ## Masks of one lane -/

theorem maskBit_single (l m : Fin 32) : maskBit (BitVec.ofNat 32 (2 ^ l.val)) m = decide (m = l) := by
  rw [maskBit, BitVec.getLsbD_ofNat, Nat.testBit_two_pow]
  simp [m.isLt, Fin.ext_iff, eq_comm]

theorem maskBit_or (x y : Word) (l : Fin 32) : maskBit (x ||| y) l = (maskBit x l || maskBit y l) := by
  simp [maskBit]

theorem maskBit_zero (l : Fin 32) : maskBit 0 l = false := by simp [maskBit]

/-! ## The registers of a lane -/

/-- Register `i` of a row of v or s registers. -/
def rowReg (u : Bool) (d : BitVec 8) (i : Nat) : Reg := if u then .s (d + BitVec.ofNat 8 i) else .v (d + BitVec.ofNat 8 i)

theorem regsFrom_eq (u : Bool) (k : Nat) (d : BitVec 8) : regsFrom u k d = (List.range k).map (rowReg u d) := rfl

/-- Registers of a row of at most four are different ones. -/
theorem row_ne {d : BitVec 8} {i j : Nat} (hi : i < 4) (hj : j < 4) (h : i ≠ j) : d + BitVec.ofNat 8 i ≠ d + BitVec.ofNat 8 j := by
  intro e
  have := congrArg BitVec.toNat e
  simp only [BitVec.toNat_add, BitVec.toNat_ofNat] at this
  omega

/-- A row paired with as many words. -/
theorem zip_regsFrom {u : Bool} {k : Nat} {d : BitVec 8} {ws : List Word} (h : ws.length = k) :
    (regsFrom u k d).zip ws = (List.range k).map fun i => (rowReg u d i, ws.getD i 0) := by
  subst h
  rw [regsFrom_eq]
  refine List.ext_getElem (by simp) fun i h1 h2 => ?_
  have hi : i < ws.length := by simpa using h2
  simp [List.getD_eq_getElem?_getD, hi]

/-- Writes the words of a lane to a row of registers. -/
def RegFile.putRow (r : RegFile) (u : Bool) (d : BitVec 8) (l : Fin 32) (ws : List Word) (k : Nat) : RegFile :=
  (List.range k).foldl (fun q i => q.putLane (rowReg u d i) l (ws.getD i 0)) r

theorem RegFile.putRow_succ (r : RegFile) (u : Bool) (d : BitVec 8) (l : Fin 32) (ws : List Word) (k : Nat) :
    r.putRow u d l ws (k + 1) = (r.putRow u d l ws k).putLane (rowReg u d k) l (ws.getD k 0) := by
  simp [RegFile.putRow, List.range_succ]

theorem RegFile.foldl_zip_putLane (r : RegFile) {u : Bool} {d : BitVec 8} (l : Fin 32) {ws : List Word} {k : Nat} (h : ws.length = k) :
    ((regsFrom u k d).zip ws).foldl (fun (q : RegFile) p => q.putLane p.1 l p.2) r = r.putRow u d l ws k := by
  rw [zip_regsFrom h, List.foldl_map, RegFile.putRow]

/-- A row of registers of a lane leaves states, k registers and the registers of the other file alone. -/
theorem RegFile.putRow_leaves (r : RegFile) (u : Bool) (d : BitVec 8) (l : Fin 32) (ws : List Word) (k : Nat) :
    (∀ x, (r.putRow u d l ws k).stOf x = r.stOf x) ∧ (∀ n, (r.putRow u d l ws k).getK n = r.getK n) ∧
    (u = false → ∀ n, (r.putRow u d l ws k).getS n = r.getS n) ∧ (u = true → ∀ n, (r.putRow u d l ws k).getV n = r.getV n) := by
  induction k with
  | zero => exact ⟨fun _ => rfl, fun _ => rfl, fun _ _ => rfl, fun _ _ => rfl⟩
  | succ k ih =>
    obtain ⟨h1, h2, h3, h4⟩ := ih
    rw [RegFile.putRow_succ]
    cases u
    · exact ⟨fun x => (RegFile.stOf_putV ..).trans (h1 x), h2, fun _ => h3 rfl, nofun⟩
    · exact ⟨fun x => (RegFile.stOf_putS ..).trans (h1 x), h2, nofun, fun _ => h4 rfl⟩

/-- v registers outside a row stay. -/
theorem RegFile.getV_putRow_other (r : RegFile) (d : BitVec 8) (l : Fin 32) (ws : List Word) {k : Nat} {n : BitVec 8}
    (h : ∀ i < k, n ≠ d + BitVec.ofNat 8 i) : (r.putRow false d l ws k).getV n = r.getV n := by
  induction k with
  | zero => rfl
  | succ k ih =>
    rw [RegFile.putRow_succ]
    exact (RegFile.getV_putV_other _ _ _ (h k (by omega))).trans (ih fun i hi => h i (by omega))

/-- The v registers of a row hold the words in the lane, and their old values in the others. -/
theorem RegFile.getV_putRow_same (r : RegFile) (d : BitVec 8) (l m : Fin 32) (ws : List Word) {k i : Nat} (hk : k ≤ 4) (hi : i < k) :
    ((r.putRow false d l ws k).getV (d + BitVec.ofNat 8 i)).get m =
      if m = l then ws.getD i 0 else (r.getV (d + BitVec.ofNat 8 i)).get m := by
  induction k with
  | zero => omega
  | succ k ih =>
    rw [RegFile.putRow_succ]
    by_cases h : i = k
    · subst h
      refine (RegFile.getV_putV_same ..).trans ?_
      rw [maskBit_single, RegFile.getV_putRow_other _ _ _ _ fun j hj => row_ne (by omega) (by omega) (by omega)]
      simp [Lanes.all, Lanes.get]
    · rw [← ih (by omega) (by omega)]
      exact congrArg (Lanes.get · m) (RegFile.getV_putV_other _ _ _ (row_ne (by omega) (by omega) h))

/-- The numbers of a row of s registers in range. -/
theorem toNat_row {d : BitVec 8} {k i : Nat} (hd : d.toNat + k ≤ 64) (hi : i < k) : (d + BitVec.ofNat 8 i).toNat = d.toNat + i := by
  simp only [BitVec.toNat_add, BitVec.toNat_ofNat]
  omega

/-- s registers outside a row stay. -/
theorem RegFile.getS_putRow_other (r : RegFile) (d : BitVec 8) (l : Fin 32) (ws : List Word) {k : Nat} {n : BitVec 8}
    (hd : d.toNat + k ≤ 64) (hn : n.toNat < 64) (h : ∀ i < k, n ≠ d + BitVec.ofNat 8 i) : (r.putRow true d l ws k).getS n = r.getS n := by
  induction k with
  | zero => rfl
  | succ k ih =>
    rw [RegFile.putRow_succ]
    have hk := toNat_row hd (Nat.lt_succ_self k)
    exact (RegFile.getS_putS_other _ _ (sIdx_ne (by omega) hn (h k (by omega)))).trans (ih (by omega) fun i hi => h i (by omega))

/-- The s registers of a row hold the words. -/
theorem RegFile.getS_putRow_same (r : RegFile) (d : BitVec 8) (l : Fin 32) (ws : List Word) {k i : Nat} (hk : k ≤ 4)
    (hd : d.toNat + k ≤ 64) (hi : i < k) : (r.putRow true d l ws k).getS (d + BitVec.ofNat 8 i) = ws.getD i 0 := by
  induction k with
  | zero => omega
  | succ k ih =>
    rw [RegFile.putRow_succ]
    by_cases h : i = k
    · subst h
      exact RegFile.getS_putS_same ..
    · have hn := toNat_row hd hi
      have hk' := toNat_row hd (Nat.lt_succ_self k)
      rw [← ih (by omega) (by omega) (by omega)]
      exact RegFile.getS_putS_other _ _ (sIdx_ne (by omega) (by omega) (row_ne (by omega) (by omega) h))

/-! ## The flags of a class load -/

/-- Of the split that an owner names, the words `w` have been ORed into its class flags, and of the entries nothing else differs. Where
it stands in the overflow area, its bytes lie in the block. -/
def FlagsRaised (s t : State) (n : Owner) (w : Word) : Prop :=
  (∀ m, n = .entry m → t.blocks = s.blocks ∧ (t.cur.entry m).clsf = (s.cur.entry m).clsf ||| w) ∧
  (∀ m, t.cur.entry m = { s.cur.entry m with clsf := (t.cur.entry m).clsf }) ∧ (∀ m, n ≠ .entry m → t.cur.entry m = s.cur.entry m)

theorem FlagsRaised.refl (s : State) (n : Owner) : FlagsRaised s s n 0 := ⟨fun _ _ => ⟨rfl, by simp⟩, fun _ => rfl, fun _ _ => rfl⟩

theorem FlagsRaised.trans {s t u : State} {n : Owner} {w x : Word} (h : FlagsRaised s t n w) (k : FlagsRaised t u n x) :
    FlagsRaised s u n (w ||| x) := by
  obtain ⟨h1, h2, h3⟩ := h
  obtain ⟨k1, k2, k3⟩ := k
  refine ⟨fun m e => ⟨(k1 m e).1.trans (h1 m e).1, ?_⟩, fun m => ?_, fun m e => (k3 m e).trans (h3 m e)⟩
  · rw [(k1 m e).2, (h1 m e).2, BitVec.or_assoc]
  · rw [k2 m, h2 m]

/-- An entry that differs in its class flags alone. -/
theorem Split.eq_of_clsf {t e : Split} {w : Word} (h : t = { e with clsf := w }) : t = { e with clsf := t.clsf } := by
  subst h
  rfl

/-- ORing class flags into a split's entry. -/
theorem State.orClsOf_flagsRaised {s : State} {r : GRef} (hr : s.cur.isRef r = true) (n : Owner) (c : BitVec 4) (range under : Bool) :
    ∃ splits blocks, s.orClsOf r n c range under = { s with cur := { s.cur with splits := splits }, blocks := blocks } ∧
      FlagsRaised s { s with cur := { s.cur with splits := splits }, blocks := blocks } n (clsBits c range under) := by
  cases n with
  | entry m =>
    have h : s.orClsOf r (.entry m) c range under =
        { s with cur := s.cur.setEntry m { s.cur.entry m with clsf := (s.cur.entry m).clsf ||| clsBits c range under } } :=
      State.onGroup_cur hr _
    have hsame := Group.setEntry_entry_same s.cur m { s.cur.entry m with clsf := (s.cur.entry m).clsf ||| clsBits c range under }
    have hother := fun {k} => Group.setEntry_entry_other s.cur (n := m) (m := k)
      { s.cur.entry m with clsf := (s.cur.entry m).clsf ||| clsBits c range under }
    refine ⟨_, s.blocks, h, fun k e => ?_, fun k => ?_, fun k e => hother fun hk => e (hk ▸ rfl)⟩
    · obtain rfl : m = k := by simpa using e
      exact ⟨rfl, congrArg Split.clsf hsame⟩
    · by_cases hk : k = m
      · subst hk
        exact Split.eq_of_clsf hsame
      · exact Split.eq_of_clsf (w := (s.cur.entry k).clsf) (hother hk)
  | slot i =>
    have h : s.orClsOf r (.slot i) c range under =
        s.setOvfOf s.cur i { s.ovfEntry s.cur i with clsf := (s.ovfEntry s.cur i).clsf ||| clsBits c range under } := by
      simp only [State.orClsOf, State.group?_cur hr]
      rfl
    exact ⟨s.cur.splits, _, h, nofun, fun _ => rfl, fun _ _ => rfl⟩

/-! ## The destinations, lane by lane -/

/-- The class flags that a lane of a read sets. -/
def MemOp.flagsOf (o : MemOp) (ent : BitVec 4 → DWord) (x : LaneReq) : Word :=
  match (o.laneWords ent x).2 with
  | some (c, range, under) => clsBits c range under
  | none => 0

theorem filter_replaceFirst_id {ops : List MemOp} {id : Nat} {f : MemOp → MemOp} (hf : ∀ p, p.id = id → (f p).id = id) :
    (replaceFirst (·.id = id) f ops).filter (·.id ≠ id) = ops.filter (·.id ≠ id) := by
  simpa using filter_replaceFirst (p := fun p : MemOp => decide (p.id = id)) (f := f) (l := ops) (by simpa using hf)

theorem find?_replaceFirst_id {ops : List MemOp} {id : Nat} {f : MemOp → MemOp} {o : MemOp} (h : ops.find? (·.id = id) = some o)
    (hf : (f o).id = id) : (replaceFirst (·.id = id) f ops).find? (·.id = id) = some (f o) :=
  find?_replaceFirst h (by simpa using hf)

/-- The running group's state when the words of a lane stand in the destinations and its bit is set. -/
def State.laneFilled (s : State) (o : MemOp) (x : LaneReq) : State :=
  { s with cur := { s.cur with
    regs := (o.dst.zip (o.laneWords s.ent x).1).foldl (fun (q : RegFile) p => q.putLane p.1 x.lane p.2) s.cur.regs
    pend := { s.cur.pend with
      mem := replaceFirst (·.id = o.id) (fun o => { o with done := o.done ||| BitVec.ofNat 32 (2 ^ x.lane.val) }) s.cur.pend.mem } } }

/-- Filling a lane that has its bytes: its words, and its flags where it is of a class load. -/
theorem State.fillLane_eq {s : State} {r : GRef} {o : MemOp} {x : LaneReq} (hr : s.cur.isRef r = true)
    (hfind : s.cur.pend.mem.find? (·.id = o.id) = some o) (hbit : maskBit o.done x.lane = false) (hset : o.settled x = true)
    (hlost : o.lost x.lane = false) :
    s.fillLane r o.id x = match (o.laneWords s.ent x).2 with
      | some (c, range, under) => (s.laneFilled o x).orClsOf r o.split c range under
      | none => s.laneFilled o x := by
  have hs : (s.onOp r o.id fun o => { o with done := o.done ||| BitVec.ofNat 32 (2 ^ x.lane.val) }).onGroup r (fun g => { g with
      regs := (o.dst.zip (o.laneWords s.ent x).1).foldl (fun (q : RegFile) p => q.putLane p.1 x.lane p.2) g.regs }) =
      s.laneFilled o x := by
    exact State.onGroup_onGroup_cur hr hr
  rw [← hs]
  unfold State.fillLane
  simp only [State.group?_cur hr, State.op?_cur hr, hfind, hbit, hset, hlost, Bool.not_true, Bool.or_self, Bool.false_eq_true, if_false]
  rfl

/-- What filling a lane changes beside the operation: the destinations, and the flags of its split. -/
theorem State.fillLane_flagsRaised {s : State} {r : GRef} {o : MemOp} {x : LaneReq} (hr : s.cur.isRef r = true)
    (hfind : s.cur.pend.mem.find? (·.id = o.id) = some o) (hbit : maskBit o.done x.lane = false) (hset : o.settled x = true)
    (hlost : o.lost x.lane = false) :
    ∃ splits blocks, s.fillLane r o.id x =
        { s.laneFilled o x with cur := { (s.laneFilled o x).cur with splits := splits }, blocks := blocks } ∧
      FlagsRaised s (s.fillLane r o.id x) o.split (o.flagsOf s.ent x) ∧
      ((o.laneWords s.ent x).2 = none → splits = s.cur.splits ∧ blocks = s.blocks) := by
  have hfill := State.fillLane_eq hr hfind hbit hset hlost
  cases hfl : (o.laneWords s.ent x).2 with
  | none =>
    have hw : o.flagsOf s.ent x = 0 := by simp [MemOp.flagsOf, hfl]
    rw [hfl] at hfill
    rw [hfill, hw]
    exact ⟨s.cur.splits, s.blocks, rfl, FlagsRaised.refl s o.split, fun _ => ⟨rfl, rfl⟩⟩
  | some fl =>
    obtain ⟨c, range, under⟩ := fl
    have hw : o.flagsOf s.ent x = clsBits c range under := by simp [MemOp.flagsOf, hfl]
    rw [hfl] at hfill
    obtain ⟨splits, blocks, h, hflags⟩ := State.orClsOf_flagsRaised (s := s.laneFilled o x) hr o.split c range under
    rw [hfill, hw]
    refine ⟨splits, blocks, h, ?_, nofun⟩
    show FlagsRaised s ((s.laneFilled o x).orClsOf r o.split c range under) _ _
    rw [h]
    exact hflags

/-- From a state in which the operation `o` of the running group has all its bytes, the lanes `ls` have been filled: their words stand in
the destinations, and their flags in the split's entry. -/
def Filled (s : State) (o : MemOp) (u : Bool) (d : BitVec 8) (k : Nat) (ls : List LaneReq) (t : State) : Prop :=
  ∃ splits blocks mem done,
    t = { s with
      cur := { s.cur with
        regs := ls.foldl (fun q x => q.putRow u d x.lane (o.laneWords s.ent x).1 k) s.cur.regs
        splits := splits, pend := { s.cur.pend with mem := mem } }
      blocks := blocks } ∧
    mem.find? (·.id = o.id) = some { o with done := done } ∧
    mem.filter (·.id ≠ o.id) = s.cur.pend.mem.filter (·.id ≠ o.id) ∧
    (∀ l, maskBit done l = true → ∃ y ∈ ls, y.lane = l) ∧
    FlagsRaised s t o.split (ls.foldl (fun w x => w ||| o.flagsOf s.ent x) 0) ∧
    ((∀ x ∈ ls, (o.laneWords s.ent x).2 = none) → splits = s.cur.splits ∧ blocks = s.blocks)

/-- Nothing filled yet. -/
theorem Filled.nil {s : State} {o : MemOp} (u : Bool) (d : BitVec 8) (k : Nat) (hfind : s.cur.pend.mem.find? (·.id = o.id) = some o)
    (hdone : o.done = 0) : Filled s o u d k [] s :=
  ⟨s.cur.splits, s.blocks, s.cur.pend.mem, o.done, rfl, hfind, rfl,
    fun l h => absurd h (by rw [hdone, maskBit_zero]; decide), FlagsRaised.refl s o.split, fun _ => ⟨rfl, rfl⟩⟩

/-- One more lane is filled. -/
theorem Filled.snoc {s t : State} {o : MemOp} {u : Bool} {d : BitVec 8} {k : Nat} {ls : List LaneReq} {x : LaneReq} {r : GRef}
    (hr : s.cur.isRef r = true) (hn : o.nacked = 0) (ht : o.timed = 0) (hdst : o.dst = regsFrom u k d)
    (h : Filled s o u d k ls t) (hx : ∀ y ∈ ls, y.lane ≠ x.lane) (hset : o.settled x = true)
    (hws : (o.laneWords s.ent x).1.length = k) : Filled s o u d k (ls ++ [x]) (t.fillLane r o.id x) := by
  obtain ⟨splits, blocks, mem, done, rfl, hfind, hfilter, hmask, hflags, hnone⟩ := h
  have hbit : maskBit done x.lane = false := Bool.eq_false_iff.2 fun hb => by
    obtain ⟨y, hy, e⟩ := hmask _ hb
    exact hx y hy e
  have hlost : MemOp.lost { o with done := done } x.lane = false := by simp [MemOp.lost, hn, ht, maskBit]
  obtain ⟨splits', blocks', h, hflags', hnone'⟩ := State.fillLane_flagsRaised (s := { s with
      cur := { s.cur with
        regs := ls.foldl (fun q x => q.putRow u d x.lane (o.laneWords s.ent x).1 k) s.cur.regs
        splits := splits, pend := { s.cur.pend with mem := mem } }
      blocks := blocks }) (o := { o with done := done }) hr hfind hbit hset hlost
  refine ⟨splits', blocks', replaceFirst (·.id = o.id) (fun o => { o with done := o.done ||| BitVec.ofNat 32 (2 ^ x.lane.val) }) mem,
    done ||| BitVec.ofNat 32 (2 ^ x.lane.val), h.trans ?_, find?_replaceFirst_id hfind rfl,
    ?_, fun l hl => ?_, ?_, fun hall => ?_⟩
  · rw [List.foldl_append, List.foldl_cons, List.foldl_nil, ← RegFile.foldl_zip_putLane _ _ hws, ← hdst]
    rfl
  · rw [filter_replaceFirst_id fun _ e => by exact e, hfilter]
  · rw [maskBit_or, maskBit_single, Bool.or_eq_true, decide_eq_true_eq] at hl
    rcases hl with hl | rfl
    · obtain ⟨y, hy, e⟩ := hmask l hl
      exact ⟨y, List.mem_append_left _ hy, e⟩
    · exact ⟨x, by simp, rfl⟩
  · rw [List.foldl_append, List.foldl_cons, List.foldl_nil]
    exact hflags.trans hflags'
  · obtain ⟨h1, h2⟩ := hnone fun y hy => hall y (List.mem_append_left _ hy)
    obtain ⟨h3, h4⟩ := hnone' (hall x (by simp))
    exact ⟨h3.trans h1, h4.trans h2⟩

/-- All the lanes of an operation are filled, one after another. -/
theorem Filled.foldl {s : State} {o : MemOp} {u : Bool} {d : BitVec 8} {k : Nat} {r : GRef} (hr : s.cur.isRef r = true)
    (hfind : s.cur.pend.mem.find? (·.id = o.id) = some o) (hdone : o.done = 0) (hn : o.nacked = 0) (ht : o.timed = 0)
    (hdst : o.dst = regsFrom u k d) (ls : List LaneReq) (hlanes : (ls.map (·.lane)).Nodup) (hset : ∀ x ∈ ls, o.settled x = true)
    (hws : ∀ x ∈ ls, (o.laneWords s.ent x).1.length = k) :
    Filled s o u d k ls (ls.foldl (fun s x => s.fillLane r o.id x) s) := by
  induction ls using List.reverseRecOn with
  | nil => exact Filled.nil u d k hfind hdone
  | append_singleton ls x ih =>
    rw [List.map_append, List.nodup_append] at hlanes
    obtain ⟨hls, -, hdisj⟩ := hlanes
    rw [List.foldl_append]
    exact (ih hls (fun y hy => hset y (List.mem_append_left _ hy)) fun y hy => hws y (List.mem_append_left _ hy)).snoc hr hn ht hdst
      (fun y hy => hdisj _ (List.mem_map_of_mem hy) _ (by simp)) (hset x (by simp)) (hws x (by simp))

end Sys2Proof.Machine
end

section
/-! PROOF. What an operation leaves when its last piece has come (R140): its destinations and their states. -/

namespace Sys2Proof.Machine
open Spec

/-! ## The registers of all lanes -/

/-- The words of several lanes in a row of registers. -/
def RegFile.putRows (r : RegFile) (u : Bool) (d : BitVec 8) (k : Nat) (words : LaneReq → List Word) (ls : List LaneReq) : RegFile :=
  ls.foldl (fun q x => q.putRow u d x.lane (words x) k) r

theorem RegFile.putRows_snoc (r : RegFile) (u : Bool) (d : BitVec 8) (k : Nat) (words : LaneReq → List Word) (ls : List LaneReq)
    (x : LaneReq) : r.putRows u d k words (ls ++ [x]) = (r.putRows u d k words ls).putRow u d x.lane (words x) k := by
  simp [RegFile.putRows]

theorem RegFile.putRows_leaves (r : RegFile) (u : Bool) (d : BitVec 8) (k : Nat) (words : LaneReq → List Word) (ls : List LaneReq) :
    (∀ x, (r.putRows u d k words ls).stOf x = r.stOf x) ∧ (∀ n, (r.putRows u d k words ls).getK n = r.getK n) ∧
    (u = false → ∀ n, (r.putRows u d k words ls).getS n = r.getS n) ∧ (u = true → ∀ n, (r.putRows u d k words ls).getV n = r.getV n) := by
  induction ls using List.reverseRecOn with
  | nil => exact ⟨fun _ => rfl, fun _ => rfl, fun _ _ => rfl, fun _ _ => rfl⟩
  | append_singleton ls x ih =>
    obtain ⟨h1, h2, h3, h4⟩ := ih
    obtain ⟨k1, k2, k3, k4⟩ := (r.putRows u d k words ls).putRow_leaves u d x.lane (words x) k
    rw [RegFile.putRows_snoc]
    exact ⟨fun y => (k1 y).trans (h1 y), fun n => (k2 n).trans (h2 n), fun hu n => (k3 hu n).trans (h3 hu n),
      fun hu n => (k4 hu n).trans (h4 hu n)⟩

theorem RegFile.getV_putRows_other (r : RegFile) (d : BitVec 8) (k : Nat) (words : LaneReq → List Word) (ls : List LaneReq) {n : BitVec 8}
    (h : ∀ i < k, n ≠ d + BitVec.ofNat 8 i) : (r.putRows false d k words ls).getV n = r.getV n := by
  induction ls using List.reverseRecOn with
  | nil => rfl
  | append_singleton ls x ih => rw [RegFile.putRows_snoc, RegFile.getV_putRow_other _ _ _ _ h, ih]

/-- Each lane of a row of v registers holds its own words, in lanes of which none stands twice. -/
theorem RegFile.getV_putRows_same (r : RegFile) (d : BitVec 8) {k i : Nat} (words : LaneReq → List Word) (ls : List LaneReq)
    (hk : k ≤ 4) (hi : i < k) (hls : (ls.map (·.lane)).Nodup) (l : Fin 32) :
    ((r.putRows false d k words ls).getV (d + BitVec.ofNat 8 i)).get l = match ls.find? (fun x => x.lane = l) with
      | some x => (words x).getD i 0
      | none => (r.getV (d + BitVec.ofNat 8 i)).get l := by
  induction ls using List.reverseRecOn with
  | nil => rfl
  | append_singleton ls x ih =>
    rw [List.map_append, List.nodup_append] at hls
    obtain ⟨hls, -, hdisj⟩ := hls
    rw [RegFile.putRows_snoc, RegFile.getV_putRow_same _ _ _ _ _ hk hi, ih hls]
    by_cases h : l = x.lane
    · have hnone : ls.find? (fun y => decide (y.lane = l)) = none :=
        List.find?_eq_none.2 fun y hy => by
          simpa using fun e => hdisj _ (List.mem_map_of_mem hy) x.lane (by simp) (e.trans h)
      rw [if_pos h, List.find?_append, hnone]
      simp [h]
    · rw [if_neg h, List.find?_append]
      have hx : [x].find? (fun y => decide (y.lane = l)) = none := by simpa using fun e => h e.symm
      rw [hx, Option.or_none]

/-- One lane of a row of s registers. -/
theorem RegFile.getS_putRows_same (r : RegFile) (d : BitVec 8) {k i : Nat} (words : LaneReq → List Word) {ls : List LaneReq}
    (hk : k ≤ 4) (hi : i < k) (hd : d.toNat + k ≤ 64) (hls : ls.length = 1) : ∀ x ∈ ls,
    (r.putRows true d k words ls).getS (d + BitVec.ofNat 8 i) = (words x).getD i 0 := by
  obtain ⟨x, rfl⟩ := List.length_eq_one_iff.1 hls
  intro y hy
  obtain rfl : y = x := by simpa using hy
  exact RegFile.getS_putRow_same _ _ _ _ hk hd hi

theorem RegFile.getS_putRows_other (r : RegFile) (d : BitVec 8) (k : Nat) (words : LaneReq → List Word) (ls : List LaneReq) {n : BitVec 8}
    (hd : d.toNat + k ≤ 64) (hn : n.toNat < 64) (h : ∀ i < k, n ≠ d + BitVec.ofNat 8 i) :
    (r.putRows true d k words ls).getS n = r.getS n := by
  induction ls using List.reverseRecOn with
  | nil => rfl
  | append_singleton ls x ih => rw [RegFile.putRows_snoc, RegFile.getS_putRow_other _ _ _ _ hd hn h, ih]

/-! ## The states of the destinations -/

/-- The destinations of an operation that ends take a state, and their marks go where their lanes were written. -/
def RegFile.close (r : RegFile) (m : Word) (st : RegSt) (l : List Reg) : RegFile :=
  l.foldl (fun (q : RegFile) x => (q.unpoison m x).setSt st x) r

theorem RegFile.close_cons (r : RegFile) (m : Word) (st : RegSt) (x : Reg) (l : List Reg) :
    r.close m st (x :: l) = ((r.unpoison m x).setSt st x).close m st l := rfl

@[simp] theorem RegFile.unpoison_getV (r : RegFile) (m : Word) (x : Reg) (n : BitVec 8) : (r.unpoison m x).getV n = r.getV n := by
  cases x <;> rfl
@[simp] theorem RegFile.unpoison_getS (r : RegFile) (m : Word) (x : Reg) (n : BitVec 8) : (r.unpoison m x).getS n = r.getS n := by
  cases x <;> rfl
@[simp] theorem RegFile.unpoison_getK (r : RegFile) (m : Word) (x : Reg) (n : BitVec 8) : (r.unpoison m x).getK n = r.getK n := by
  cases x <;> rfl
@[simp] theorem RegFile.unpoison_stOf (r : RegFile) (m : Word) (x y : Reg) : (r.unpoison m x).stOf y = r.stOf y := by
  cases x <;> cases y <;> rfl

/-- Values stay. -/
theorem RegFile.close_values (r : RegFile) (m : Word) (st : RegSt) (l : List Reg) :
    (∀ n, (r.close m st l).getV n = r.getV n) ∧ (∀ n, (r.close m st l).getS n = r.getS n) ∧ ∀ n, (r.close m st l).getK n = r.getK n := by
  induction l generalizing r with
  | nil => exact ⟨fun _ => rfl, fun _ => rfl, fun _ => rfl⟩
  | cons x l ih => simpa [RegFile.close_cons] using ih ((r.unpoison m x).setSt st x)

/-- A register keeps a state that it has when another takes the same. -/
theorem RegFile.stOf_setSt_of_eq {r : RegFile} {st : RegSt} {y : Reg} (x : Reg) (h : r.stOf y = st) : (r.setSt st x).stOf y = st := by
  cases x with
  | v n => cases y with
    | v k =>
      by_cases e : k = n
      · subst e; exact RegFile.stOf_setSt_v_same ..
      · exact (RegFile.stOf_setSt_v_other _ _ e).trans h
    | s k => exact h
  | s n => cases y with
    | v k => exact h
    | s k =>
      by_cases e : sIdx k = sIdx n
      · simp [RegFile.setSt, RegFile.stOf, e]
      · exact (RegFile.stOf_setSt_s_other _ _ e).trans h

theorem RegFile.stOf_setSt_same (r : RegFile) (st : RegSt) (x : Reg) : (r.setSt st x).stOf x = st := by
  cases x
  · exact RegFile.stOf_setSt_v_same ..
  · exact RegFile.stOf_setSt_s_same ..

theorem RegFile.stOf_close_of_eq {r : RegFile} {st : RegSt} {y : Reg} (m : Word) (l : List Reg) (h : r.stOf y = st) :
    (r.close m st l).stOf y = st := by
  induction l generalizing r with
  | nil => exact h
  | cons x l ih => exact ih (RegFile.stOf_setSt_of_eq x ((RegFile.unpoison_stOf ..).trans h))

/-- Each destination takes the state. -/
theorem RegFile.stOf_close_mem (r : RegFile) (m : Word) (st : RegSt) {l : List Reg} {y : Reg} (h : y ∈ l) :
    (r.close m st l).stOf y = st := by
  induction l generalizing r with
  | nil => simp at h
  | cons x l ih =>
    rcases List.mem_cons.1 h with rfl | h
    · exact RegFile.stOf_close_of_eq m l (RegFile.stOf_setSt_same ..)
    · exact ih _ h

/-- v registers that are no destinations keep theirs. -/
theorem RegFile.stOf_close_v_other (r : RegFile) (m : Word) (st : RegSt) {l : List Reg} {n : BitVec 8} (h : ∀ x ∈ l, x ≠ .v n) :
    (r.close m st l).stOf (.v n) = r.stOf (.v n) := by
  induction l generalizing r with
  | nil => rfl
  | cons x l ih =>
    rw [RegFile.close_cons, ih _ fun y hy => h y (List.mem_cons_of_mem _ hy)]
    cases x with
    | v k =>
      have hne : n ≠ k := fun e => h (.v k) List.mem_cons_self (congrArg Reg.v e.symm)
      exact (RegFile.stOf_setSt_v_other _ _ hne).trans (RegFile.unpoison_stOf ..)
    | s k => rfl

/-- s registers in range that are no destinations keep theirs. -/
theorem RegFile.stOf_close_s_other (r : RegFile) (m : Word) (st : RegSt) {l : List Reg} {n : BitVec 8} (hn : n.toNat < 64)
    (h : ∀ x ∈ l, ∀ k, x = .s k → k.toNat < 64 ∧ n ≠ k) : (r.close m st l).stOf (.s n) = r.stOf (.s n) := by
  induction l generalizing r with
  | nil => rfl
  | cons x l ih =>
    rw [RegFile.close_cons, ih _ fun y hy => h y (List.mem_cons_of_mem _ hy)]
    cases x with
    | v k => rfl
    | s k =>
      obtain ⟨hk, hne⟩ := h (.s k) List.mem_cons_self k rfl
      exact (RegFile.stOf_setSt_s_other _ _ (sIdx_ne hk hn hne)).trans (RegFile.unpoison_stOf ..)

/-! ## Delivery -/

/-- A row of registers has received the words of some lanes and is FULL; every other register is the same. -/
def RowDelivered (r r' : RegFile) (u : Bool) (d : BitVec 8) (k : Nat) (ls : List LaneReq) (words : LaneReq → List Word) : Prop :=
  (∀ y ∈ regsFrom u k d, r'.stOf y = .full) ∧
  (∀ j < k, if u then ∀ x ∈ ls, r'.getS (d + BitVec.ofNat 8 j) = (words x).getD j 0
    else ∀ l, (r'.getV (d + BitVec.ofNat 8 j)).get l = match ls.find? (fun x => x.lane = l) with
      | some x => (words x).getD j 0
      | none => (r.getV (d + BitVec.ofNat 8 j)).get l) ∧
  let ds := (List.range k).map fun j => d + BitVec.ofNat 8 j
  VSame r r' (if u then [] else ds) ∧ SSame r r' (if u then ds else []) ∧ KSame r r' []

theorem not_mem_row {d n : BitVec 8} {k : Nat} (h : n ∉ (List.range k).map fun j => d + BitVec.ofNat 8 j) : ∀ i < k, n ≠ d + BitVec.ofNat 8 i :=
  fun _ hi e => h (e ▸ List.mem_map_of_mem (List.mem_range.2 hi))

/-- The lanes' words, and then the state FULL, in a row. -/
theorem RegFile.rowDelivered (r : RegFile) {u : Bool} {d : BitVec 8} {k : Nat} {ls : List LaneReq} (words : LaneReq → List Word) (m : Word)
    (hk : k ≤ 4) (hd : d.toNat + k ≤ (if u then 64 else 256)) (hu : u = true → ls.length = 1) (hls : (ls.map (·.lane)).Nodup) :
    RowDelivered r ((r.putRows u d k words ls).close m .full (regsFrom u k d)) u d k ls words := by
  obtain ⟨hV, hS, hK⟩ := (r.putRows u d k words ls).close_values m .full (regsFrom u k d)
  obtain ⟨lSt, lK, lS, lV⟩ := r.putRows_leaves u d k words ls
  refine ⟨fun y hy => RegFile.stOf_close_mem _ _ _ hy, fun j hj => ?_, fun n hn => ?_, fun n h64 hn => ?_, fun n _ _ => (hK n).trans (lK n)⟩
  · cases u
    · exact fun l => by rw [hV]; exact RegFile.getV_putRows_same _ _ _ _ hk hj hls l
    · exact fun x hx => by rw [hS]; exact RegFile.getS_putRows_same _ _ _ hk hj hd (hu rfl) x hx
  · cases u
    · have hne := not_mem_row hn
      refine ⟨(hV n).trans (RegFile.getV_putRows_other _ _ _ _ _ hne), (RegFile.stOf_close_v_other _ _ _ fun x hx => ?_).trans (lSt _)⟩
      obtain ⟨i, hi, rfl⟩ := List.mem_map.1 hx
      exact fun e => hne i (List.mem_range.1 hi) (Reg.v.inj e).symm
    · refine ⟨(hV n).trans (lV rfl n), (RegFile.stOf_close_v_other _ _ _ fun x hx => ?_).trans (lSt _)⟩
      obtain ⟨i, -, rfl⟩ := List.mem_map.1 hx
      exact nofun
  · cases u
    · refine ⟨(hS n).trans (lS rfl n), (RegFile.stOf_close_s_other _ _ _ h64 fun x hx => ?_).trans (lSt _)⟩
      obtain ⟨i, -, rfl⟩ := List.mem_map.1 hx
      exact nofun
    · have hne := not_mem_row hn
      refine ⟨(hS n).trans (RegFile.getS_putRows_other _ _ _ _ _ hd h64 hne),
        (RegFile.stOf_close_s_other _ _ _ h64 fun x hx k e => ?_).trans (lSt _)⟩
      obtain ⟨i, hi, rfl⟩ := List.mem_map.1 hx
      obtain rfl := Reg.s.inj e
      have hi := List.mem_range.1 hi
      have hd : d.toNat + _ ≤ 64 := hd
      exact ⟨by rw [toNat_row hd hi]; omega, hne i hi⟩

/-- What an operation leaves that has delivered all its lanes: it is gone, the row holds the words, the flags are raised. -/
def Delivered (s t : State) (o : MemOp) (u : Bool) (d : BitVec 8) (k : Nat) : Prop :=
  ∃ regs splits blocks,
    t = { s with
      cur := { s.cur with regs := regs, splits := splits, pend := { s.cur.pend with mem := s.cur.pend.mem.filter (·.id ≠ o.id) } }
      blocks := blocks } ∧
    RowDelivered s.cur.regs regs u d k o.lanes (fun x => (o.laneWords s.ent x).1) ∧
    FlagsRaised s t o.split (o.lanes.foldl (fun w x => w ||| o.flagsOf s.ent x) 0) ∧
    ((∀ x ∈ o.lanes, (o.laneWords s.ent x).2 = none) → splits = s.cur.splits ∧ blocks = s.blocks)

/-- An operation of the running group without a piece left leaves: its destinations take their state. -/
theorem State.endOp_cur {s : State} {r : GRef} {o : MemOp} (hr : s.cur.isRef r = true)
    (hfind : s.cur.pend.mem.find? (·.id = o.id) = some o) (hleft : o.left = []) (hhold : o.hold = false) :
    s.endOp r o.id = { s with cur := { s.cur with
      regs := s.cur.regs.close (o.done &&& ~~~(o.nacked ||| o.timed)) o.endState o.dst
      pend := { s.cur.pend with mem := s.cur.pend.mem.filter (·.id ≠ o.id) } } } := by
  unfold State.endOp
  simp only [State.op?_cur hr, hfind, hleft, hhold, List.isEmpty_nil, Bool.not_true, Bool.or_self, Bool.false_eq_true, if_false]
  exact State.onGroup_onGroup_cur hr hr

/-- The last piece of a read or of a returning atomic of the running group has come: all its lanes are delivered at once. -/
theorem State.settle_delivers {s : State} {r : GRef} {o : MemOp} {u : Bool} {d : BitVec 8} {k : Nat} (hr : s.cur.isRef r = true)
    (hfind : s.cur.pend.mem.find? (·.id = o.id) = some o) (hleft : o.left = []) (hhold : o.hold = false) (hret : o.returns = true)
    (hdone : o.done = 0) (hn : o.nacked = 0) (ht : o.timed = 0) (hk : k ≤ 4) (hdst : o.dst = regsFrom u k d)
    (hd : d.toNat + k ≤ (if u then 64 else 256)) (hu : u = true → o.lanes.length = 1) (hlanes : (o.lanes.map (·.lane)).Nodup)
    (hws : ∀ x ∈ o.lanes, (o.laneWords s.ent x).1.length = k) : Delivered s (s.settle r o.id) o u d k := by
  have hset : ∀ x ∈ o.lanes, o.settled x = true := fun x _ => by
    unfold MemOp.settled
    rw [hleft]
    cases o.kind <;> simp
  have hfold : s.settle r o.id = (o.lanes.foldl (fun s x => s.fillLane r o.id x) s).endOp r o.id := by
    unfold State.settle
    simp only [State.op?_cur hr, hfind, hret, hhold, Bool.not_false, Bool.and_self, if_true]
  obtain ⟨splits, blocks, mem, done, h, hfind', hfilter, -, hflags, hnone⟩ :=
    Filled.foldl hr hfind hdone hn ht hdst o.lanes hlanes hset hws
  rw [hfold]
  generalize o.lanes.foldl (fun s x => s.fillLane r o.id x) s = t at h hflags
  subst h
  have hst : MemOp.endState { o with done := done } = .full := by simp [MemOp.endState, hn, ht]
  have hend := State.endOp_cur (s := { s with
      cur := { s.cur with
        regs := s.cur.regs.putRows u d k (fun x => (o.laneWords s.ent x).1) o.lanes
        splits := splits, pend := { s.cur.pend with mem := mem } }
      blocks := blocks }) (o := { o with done := done }) hr hfind' hleft hhold
  rw [hst] at hend
  refine Eq.mpr (congrArg (fun t => Delivered s t o u d k) hend) ?_
  exact ⟨_, splits, blocks, by rw [← hfilter, ← hdst], s.cur.regs.rowDelivered _ (done &&& ~~~(o.nacked ||| o.timed)) hk hd hu hlanes,
    hflags, hnone⟩

end Sys2Proof.Machine
end

section
/-! PROOF. The arrival of a read's sector (R139, R140, R142): which pieces a piece performs, what the sector holds, what is delivered. -/

namespace Sys2Proof.Machine
open Spec

/-! ## The order of a split's pieces -/

/-- No piece comes before one whose bytes none of the earlier operations touches. -/
theorem before_eq_nil {x : Nat} {l : List MemOp} {need : List Nat}
    (h : ∀ p ∈ l, x ∈ p.left → ∀ a ∈ p.locs, a / 32 = x → a ∉ need) : before x l need = [] := by
  induction l with
  | nil => rfl
  | cons p l ih =>
    have hp : (p.left.contains x && (p.locs.filter fun a => a / 32 = x).any need.contains) = false := by
      rw [Bool.and_eq_false_imp]
      intro hx
      rw [List.any_eq_false]
      intro a ha
      obtain ⟨ha, hax⟩ := List.mem_filter.1 ha
      simpa using h p List.mem_cons_self (by simpa using hx) a ha (by simpa using hax)
    rw [before, hp]
    exact ih fun q hq => h q (List.mem_cons_of_mem _ hq)

/-- The next operation in a sector performs its own piece alone. -/
theorem Pending.upTo_next {s : State} {o : MemOp} {x : Nat} (h : Next s o x) : s.cur.pend.upTo o x = [o.id] := by
  obtain ⟨-, -, -, -, hnext⟩ := h
  have hnil : before x (s.cur.pend.mem.filter fun p => p.split = o.split ∧ p.id < o.id).reverse (o.locs.filter fun a => a / 32 = x) = [] :=
    before_eq_nil fun p hp hx a ha hax hneed => by
      obtain ⟨hp, hlt⟩ := List.mem_filter.1 (List.mem_reverse.1 hp)
      obtain ⟨hsplit, hid⟩ := of_decide_eq_true hlt
      exact hnext p hp hsplit hid hx a ha hax (List.mem_filter.1 hneed).1
  rw [Pending.upTo, hnil]
  rfl

theorem State.op?_next {s : State} {o : MemOp} {x : Nat} (h : Next s o x) : s.op? s.cur.ref o.id = some o := by
  obtain ⟨hres, hmem, hids, -⟩ := h
  rw [State.op?_cur (Group.isRef_self hres)]
  exact find?_key (·.id) hmem hids

/-- The performance of the next operation's piece in a sector. -/
theorem State.performPiece_next {s : State} {o : MemOp} {x : Nat} (h : Next s o x) :
    s.performPiece s.cur.ref o.id x = s.piece s.cur.ref o.id x := by
  have hup := Pending.upTo_next h
  have hop := State.op?_next h
  obtain ⟨hres, -, -, hx, -⟩ := h
  simp only [State.performPiece, State.group?_cur (Group.isRef_self hres), hop, hup, List.contains_iff_mem.2 hx, if_true]
  rfl

/-! ## What a sector holds -/

/-- The bytes of a sector, each where it stands. -/
def State.sectorBytes (s : State) (x : Nat) : List (Nat × Byte) :=
  (span (x * 32) (x * 32 + 32)).map fun a => (a, s.byteOf s.cur a)

theorem State.byteAt_sectorBytes (s : State) {a x : Nat} (h : a / 32 = x) : byteAt (s.sectorBytes x) a = some (s.byteOf s.cur a) :=
  byteAt_map (mem_span_sector.2 h)

/-- The state in which the core holds other copies of sectors. -/
def State.withL1 (s : State) (l1 : List CacheLine) : State := { s with mem := { s.mem with l1 := l1 } }

/-- A sector of which the core holds no stale copy is read as it stands. -/
theorem State.readSector_fresh {s : State} {o : MemOp} {x : Nat} (h : Fresh s o x) (now : List (Nat × Byte)) :
    ∃ l1, s.readSector s.cur o.scope x now = (now, s.withL1 l1) := by
  obtain ⟨-, -, -, -, -, hstale⟩ := h
  unfold State.readSector
  cases hp : s.placeOf s.cur (x * 32) with
  | mem pa e =>
    dsimp only
    split
    · split
      · exact ⟨s.mem.l1, rfl⟩
      · exact ⟨_, rfl⟩
    · next c hc =>
      have hw : o.scope.wide = true := hstale.resolve_right fun hno => by
        have hcore := List.find?_some hc
        simp only [decide_eq_true_eq] at hcore
        exact hno pa e hp c (List.mem_of_find?_eq_some hc) hcore.1 hcore.2
      rw [if_pos hw]
      exact ⟨_, rfl⟩
  | scratch _ _ => exact ⟨s.mem.l1, rfl⟩
  | stack _ => exact ⟨s.mem.l1, rfl⟩
  | remote _ _ => exact ⟨s.mem.l1, rfl⟩
  | absent => exact ⟨s.mem.l1, rfl⟩

/-- Splits that may miss nothing read a sector as it is given. -/
theorem State.readUnjoined_eq {s : State} {r : GRef} (hr : s.cur.isRef r = true) (hsh : s.cur.shadow = []) (w : Owner) (x : Nat)
    (bytes : List (Nat × Byte)) : s.readUnjoined r w x bytes = (bytes, s) := by
  unfold State.readUnjoined
  simp only [State.group?_cur hr, Group.unseen, hsh]
  rfl

/-- A read sees the bytes of a sector as they stand. -/
theorem State.seeSector_fresh {s : State} {o : MemOp} {x : Nat} (hres : s.cur.resident = true) (h : Fresh s o x) :
    ∃ l1, s.seeSector s.cur o.split o.scope o.order x = (s.sectorBytes x, s.withL1 l1) := by
  have hnow : s.sectorNow s.cur x = s.sectorBytes x := State.sectorNow_homed h.2.2.2.1 s.cur x
  obtain ⟨l1, hread⟩ := State.readSector_fresh h (s.sectorBytes x)
  obtain ⟨-, -, hdet, -, hsh, -⟩ := h
  refine ⟨l1, ?_⟩
  unfold State.seeSector
  rw [hnow, hread]
  simp only [hdet, Bool.false_and, Bool.false_eq_true, if_false]
  exact State.readUnjoined_eq (s := s.withL1 l1) (Group.isRef_self hres) hsh o.split x _

/-! ## The piece of a read -/

/-- The operation with the bytes of a sector that has arrived. -/
def MemOp.fed (o : MemOp) (x : Nat) (bytes : List (Nat × Byte)) : MemOp := { o with left := setDel o.left x, got := bytes ++ o.got }

/-- The running group's operation has received a sector. -/
def State.fed (s : State) (l1 : List CacheLine) (id x : Nat) : State :=
  { s with
    cur := { s.cur with pend := { s.cur.pend with mem := replaceFirst (·.id = id) (·.fed x (s.sectorBytes x)) s.cur.pend.mem } }
    mem := { s.mem with l1 := l1 } }

/-- The piece of a read brings the sector as it stands, and what has arrived is delivered. -/
theorem State.piece_load {s : State} {o : MemOp} {x : Nat} (h : Next s o x) (hf : Fresh s o x)
    (hm : ∀ a, a / 32 = x → s.markedAt s.cur a = false) (hk : o.kind.loads = true) :
    ∃ l1, s.piece s.cur.ref o.id x = (s.fed l1 o.id x).settle s.cur.ref o.id := by
  have hop := State.op?_next h
  obtain ⟨hres, -, -, hx, -⟩ := h
  have hr := Group.isRef_self hres
  obtain ⟨l1, hsee⟩ := State.seeSector_fresh hres hf
  obtain ⟨hrem, habs, hdet, hhome, -, -⟩ := hf
  have hclean : (o.locs.filter fun a => a / 32 = x).find? (s.readMarked s.cur o.order) = none :=
    List.find?_eq_none.2 fun a ha => by
      rw [State.readMarked_homed hhome hdet, hm a (by simpa using (List.mem_filter.1 ha).2)]
      exact Bool.false_ne_true
  refine ⟨l1, ?_⟩
  unfold State.piece
  simp only [State.group?_cur hr, hop, List.contains_iff_mem.2 hx, hk, Bool.not_true, Bool.false_eq_true, if_false, State.bring_homed hhome,
    hclean, hsee]
  exact congrArg (·.settle s.cur.ref o.id) (State.onGroup_cur (s := s.withL1 l1) hr _)

theorem State.fed_find {s : State} {o : MemOp} {x : Nat} (h : Next s o x) (l1 : List CacheLine) :
    (s.fed l1 o.id x).cur.pend.mem.find? (·.id = o.id) = some (o.fed x (s.sectorBytes x)) :=
  find?_replaceFirst_id (find?_key (·.id) h.2.1 h.2.2.1) rfl

/-- While lanes miss pieces, nothing is delivered. -/
theorem State.settle_waits {s : State} {r : GRef} {o : MemOp} (hr : s.cur.isRef r = true)
    (hfind : s.cur.pend.mem.find? (·.id = o.id) = some o) (hleft : o.left ≠ []) (hset : ∀ y ∈ o.lanes, o.settled y = false) :
    s.settle r o.id = s := by
  have hop : s.op? r o.id = some o := (State.op?_cur hr _).trans hfind
  have hfill : ∀ y ∈ o.lanes, s.fillLane r o.id y = s := fun y hy => by
    simp [State.fillLane, State.group?_cur hr, hop, hset y hy]
  have hfold : o.lanes.foldl (fun s y => if o.returns && !o.hold then s.fillLane r o.id y else s) s = s :=
    List.foldlRecOn o.lanes _ (motive := fun t => t = s) rfl fun t ht y hy => by
      subst ht
      split
      · exact hfill y hy
      · rfl
  have hend : s.endOp r o.id = s := by
    have hne : o.left.isEmpty = false := by simpa using hleft
    simp [State.endOp, hop, hne]
  simp only [State.settle, hop]
  rw [hfold, hend]

/-! ## The words of a lane -/

/-- Words of bytes are those of their number. -/
theorem leNat_take_drop (l : List Byte) (k n : Nat) : leNat ((l.drop k).take n) = leNat l / 256 ^ k % 256 ^ n := by
  induction l generalizing k n with
  | nil => simp [leNat]
  | cons b l ih =>
    cases k with
    | succ k =>
      have hb : (b.toNat + 256 * leNat l) / 256 = leNat l := by omega
      rw [List.drop_succ_cons, ih, leNat, Nat.pow_succ, Nat.mul_comm (256 ^ k), ← Nat.div_div_eq_div_mul, hb]
    | zero =>
      cases n with
      | zero => simp [leNat, Nat.mod_one]
      | succ n =>
        have h0 := ih 0 n
        have hb : (b.toNat + 256 * leNat l) / 256 = leNat l := by omega
        have hm : (b.toNat + 256 * leNat l) % 256 = b.toNat := by omega
        simp only [List.drop_zero, Nat.pow_zero, Nat.div_one] at h0
        rw [List.drop_zero, List.take_succ_cons, leNat, leNat, h0, Nat.pow_zero, Nat.div_one, Nat.pow_succ, Nat.mul_comm (256 ^ n), Nat.mod_mul,
          hb, hm]

theorem wordsOf_eq (l : List Byte) (n : Nat) : wordsOf l n = (List.range n).map fun i => BitVec.ofNat 32 (leNat l / 2 ^ (32 * i)) := by
  refine List.map_congr_left fun i _ => BitVec.eq_of_toNat_eq ?_
  have hp : (256 : Nat) ^ (4 * i) = 2 ^ (32 * i) := by
    rw [show (256 : Nat) = 2 ^ 8 by rfl, ← Nat.pow_mul]
    congr 1
    omega
  rw [leNat_take_drop, hp]
  simp

/-- The two readings of R140's load sizes agree. -/
theorem loadWords_eq (sub : BitVec 4) (bytes : List Byte) : loadWords sub bytes = loaded sub bytes := by
  have hsub : ∀ {n : BitVec 4}, sub.toNat = n.toNat → sub = n := BitVec.eq_of_toNat_eq
  unfold loadWords
  split
  case h_1 h => obtain rfl := hsub (n := 0) h; rfl
  case h_2 h => obtain rfl := hsub (n := 1) h; rfl
  case h_3 h => obtain rfl := hsub (n := 2) h; rfl
  case h_4 h => obtain rfl := hsub (n := 3) h; rfl
  case h_5 h => obtain rfl := hsub (n := 4) h; simp [loaded, wordsOf_eq]
  case h_6 h => obtain rfl := hsub (n := 5) h; simp [loaded, wordsOf_eq]
  case h_7 h0 h1 h2 h3 h4 h5 =>
    have hne : ∀ {n : BitVec 4}, (sub.toNat = n.toNat → False) → sub ≠ n := fun h e => h (congrArg BitVec.toNat e)
    have e0 : sub ≠ 0 := hne h0
    have e1 : sub ≠ 1 := hne h1
    have e2 : sub ≠ 2 := hne h2
    have e3 : sub ≠ 3 := hne h3
    have e4 : sub ≠ 4 := hne h4
    have e5 : sub ≠ 5 := hne h5
    simp only [loaded, e0, e1, e2, e3, e4, e5, or_self, if_false, wordsOf_eq]

/-- What a lane has once its sector has arrived. -/
theorem gotBytes_fed {s : State} {o : MemOp} {x : Nat} {l : List Nat} (h : ∀ a ∈ l, a / 32 = x) :
    gotBytes (o.fed x (s.sectorBytes x)).got l = l.map (s.byteOf s.cur) :=
  List.map_congr_left fun a ha => by
    rw [MemOp.fed, byteAt_append_of_some (State.byteAt_sectorBytes s (h a ha))]
    rfl

/-- The words and flags of a lane of a read in one sector. -/
theorem MemOp.laneWords_fed {s : State} {o : MemOp} {x : Nat} {r : LaneReq} (hk : o.kind.loads = true) (hlocs : ∀ a ∈ o.locs, a / 32 = x)
    (hr : r ∈ o.lanes) : ((o.fed x (s.sectorBytes x)).laneWords s.ent r).1 = Spec.arrived s o r ∧
      (o.fed x (s.sectorBytes x)).flagsOf s.ent r = arrivedFlags s o r := by
  have hbytes : gotBytes (o.fed x (s.sectorBytes x)).got r.locs = r.locs.map (s.byteOf s.cur) :=
    gotBytes_fed fun a ha => hlocs a (List.mem_append_left _ (List.mem_flatMap.2 ⟨r, hr, ha⟩))
  have hkind : (o.fed x (s.sectorBytes x)).kind = o.kind := rfl
  unfold MemOp.flagsOf MemOp.laneWords Spec.arrived arrivedFlags
  rw [hbytes, hkind]
  cases hkd : o.kind with
  | load sub => exact ⟨loadWords_eq sub _, rfl⟩
  | cload c srs => exact ⟨rfl, rfl⟩
  | cplane c srs scale =>
    have hscale : byteAt (o.fed x (s.sectorBytes x)).got (locOf r.lane scale) = some (s.byteOf s.cur (locOf r.lane scale)) :=
      byteAt_append_of_some (State.byteAt_sectorBytes s (hlocs _ (List.mem_append_right _ (by
        rw [hkd]
        exact List.mem_map_of_mem hr))))
    dsimp only
    rw [hscale]
    exact ⟨rfl, rfl⟩
  | store => rw [hkd] at hk; cases hk
  | atomic op typ => rw [hkd] at hk; cases hk

/-! ## The two arrivals -/

/-- A row receives the same from words that agree in its lanes. -/
theorem RowDelivered.congr {r r' : RegFile} {u : Bool} {d : BitVec 8} {k : Nat} {ls : List LaneReq} {f g : LaneReq → List Word}
    (h : RowDelivered r r' u d k ls f) (hfg : ∀ x ∈ ls, f x = g x) : RowDelivered r r' u d k ls g := by
  obtain ⟨hst, hval, hrest⟩ := h
  refine ⟨hst, fun j hj => ?_, hrest⟩
  have hj := hval j hj
  cases u with
  | true => exact fun x hx => (hj x hx).trans (by rw [hfg x hx])
  | false =>
    intro l
    refine (hj l).trans ?_
    cases hf : ls.find? (fun x => x.lane = l) with
    | none => rfl
    | some x => exact congrArg (List.getD · j 0) (hfg x (List.mem_of_find?_eq_some hf))

/-- A sum of flags of words that agree. -/
theorem foldl_or_congr {ls : List LaneReq} {f g : LaneReq → Word} (h : ∀ x ∈ ls, f x = g x) (w : Word) :
    ls.foldl (fun w x => w ||| f x) w = ls.foldl (fun w x => w ||| g x) w :=
  List.foldl_ext _ _ w fun w x hx => by rw [h x hx]

theorem exec_arrival {s : State} {o : MemOp} {x : Nat} (h : Next s o x) (hret : o.returns = true) :
    exec (.loadSectorArrival s.cur.ref o.id x) s = .next (s.piece s.cur.ref o.id x) := by
  have he : exec (.loadSectorArrival s.cur.ref o.id x) s = execLoadSectorArrival s.cur.ref o.id x s := rfl
  rw [he, execLoadSectorArrival, State.op?_next h]
  simp only [hret, if_true, State.performPiece_next h]

/-- A lane with a byte in another sector that is still to come is not settled. -/
theorem MemOp.settled_fed {o : MemOp} {x : Nat} {bytes : List (Nat × Byte)} {r : LaneReq} {sub : BitVec 4} (hk : o.kind = .load sub)
    (h : ∃ a ∈ r.locs, ∃ y ∈ o.left, y ≠ x ∧ a / 32 = y) : (o.fed x bytes).settled r = false := by
  obtain ⟨a, ha, y, hy, hne, rfl⟩ := h
  have hin : a / 32 ∈ setDel o.left x := List.mem_filter.2 ⟨hy, by simpa using hne⟩
  have hkind : (o.fed x bytes).kind = .load sub := hk
  unfold MemOp.settled
  rw [hkind]
  exact List.all_eq_false.2 ⟨a, ha, by simpa [MemOp.fed] using hin⟩

/-- A sector of a load, every lane of which misses another. -/
theorem arrival_first {s : State} {o : MemOp} {x : Nat} {sub : BitVec 4} (h : Next s o x) (hf : Fresh s o x)
    (hm : ∀ a, a / 32 = x → s.markedAt s.cur a = false) (hk : o.kind = .load sub) (hlanes : o.lanes ≠ [])
    (hmiss : ∀ r ∈ o.lanes, ∃ a ∈ r.locs, ∃ y ∈ o.left, y ≠ x ∧ a / 32 = y) :
    ∃ l1, exec (.loadSectorArrival s.cur.ref o.id x) s = .next (s.fed l1 o.id x) := by
  have hloads : o.kind.loads = true := by rw [hk]; rfl
  obtain ⟨l1, hpiece⟩ := State.piece_load h hf hm hloads
  have hleft : (o.fed x (s.sectorBytes x)).left ≠ [] := by
    obtain ⟨r, hr⟩ := List.exists_mem_of_ne_nil _ hlanes
    obtain ⟨a, -, y, hy, hne, -⟩ := hmiss r hr
    exact List.ne_nil_of_mem (List.mem_filter.2 ⟨hy, by simpa using hne⟩)
  refine ⟨l1, ?_⟩
  rw [exec_arrival h (by rw [MemOp.returns, hloads]; rfl), hpiece]
  exact congrArg _ (State.settle_waits (o := o.fed x (s.sectorBytes x)) (Group.isRef_self h.1) (State.fed_find h l1) hleft
    fun r hr => MemOp.settled_fed hk (hmiss r hr))

/-- The other operations are the same once one has received a sector. -/
theorem State.fed_others (s : State) (l1 : List CacheLine) (id x : Nat) :
    (s.fed l1 id x).cur.pend.mem.filter (·.id ≠ id) = s.cur.pend.mem.filter (·.id ≠ id) :=
  filter_replaceFirst_id fun _ e => e

/-- The last sector of a read whose lanes lie in it. -/
theorem arrival_last {s : State} {o : MemOp} {x : Nat} {u : Bool} {d : BitVec 8} {k : Nat} (h : Next s o x) (hf : Fresh s o x)
    (hhold : o.hold = false) (hn : o.nacked = 0) (ht : o.timed = 0) (hdone : o.done = 0)
    (hm : ∀ a, a / 32 = x → s.markedAt s.cur a = false) (hlanes : (o.lanes.map (·.lane)).Nodup) (hk : o.kind.loads = true)
    (hleft : o.left = [x]) (hlocs : ∀ a ∈ o.locs, a / 32 = x) (hk4 : k ≤ 4) (hdst : o.dst = regsFrom u k d)
    (hd : d.toNat + k ≤ (if u then 64 else 256)) (hu : u = true → o.lanes.length = 1) (hws : ∀ r ∈ o.lanes, (Spec.arrived s o r).length = k) :
    ∃ l1, exec (.loadSectorArrival s.cur.ref o.id x) s = .next ((s.fed l1 o.id x).settle s.cur.ref o.id) ∧
      Delivered (s.fed l1 o.id x) ((s.fed l1 o.id x).settle s.cur.ref o.id) (o.fed x (s.sectorBytes x)) u d k := by
  obtain ⟨l1, hpiece⟩ := State.piece_load h hf hm hk
  refine ⟨l1, ?_, State.settle_delivers (o := o.fed x (s.sectorBytes x)) (Group.isRef_self h.1) (State.fed_find h l1) ?_ hhold ?_ hdone hn ht hk4
    hdst hd hu hlanes fun r hr => ?_⟩
  · rw [exec_arrival h (by rw [MemOp.returns, hk]; rfl), hpiece]
  · simp [MemOp.fed, hleft, setDel]
  · exact Bool.or_eq_true_iff.2 (Or.inl hk)
  · exact (congrArg List.length (MemOp.laneWords_fed (s := s) hk hlocs hr).1).trans (hws r hr)

end Sys2Proof.Machine
end

section
/-! PROOF. Writes of one piece to a block's scratchpad (R141, R211): which bytes they leave. -/

namespace Sys2Proof.Machine
open Spec

/-! ## The blocks -/

/-- Another accepted element is found as before the change. -/
theorem find?_replaceFirst_other {α : Type} {p q : α → Bool} {f : α → α} (hpq : ∀ y, p y = true → q y = false ∧ q (f y) = false)
    (l : List α) : (replaceFirst p f l).find? q = l.find? q := by
  induction l with
  | nil => rfl
  | cons y l ih =>
    by_cases h : p y
    · obtain ⟨h1, h2⟩ := hpq y h
      simp [replaceFirst, h, h1, h2]
    · simp [replaceFirst, h, List.find?_cons, ih]

/-- The bytes of the scratchpads after one block's received a list of writes. -/
theorem scratchByte_putScratch {s t : State} {bl : Nat} {l : List (Nat × Byte)} {mark : Bool} {y : Block}
    (hy : s.block? s.cur.launch s.cur.run bl = some y)
    (hb : t.blocks = (s.onBlock s.cur.launch s.cur.run bl fun b => b.putScratch l mark).blocks) (hl : t.cur.launch = s.cur.launch)
    (hr : t.cur.run = s.cur.run) (b o : Nat) :
    (b ≠ bl → scratchByte t b o = scratchByte s b o) ∧
    scratchByte t bl o = (y.scratch.writeList l).read o := by
  have hblock : ∀ i, t.block? t.cur.launch t.cur.run i =
      (s.onBlock s.cur.launch s.cur.run bl fun b => b.putScratch l mark).block? s.cur.launch s.cur.run i := fun i => by
    rw [hl, hr, State.block?, hb]
    rfl
  constructor
  · intro hne
    have hsame : t.block? t.cur.launch t.cur.run b = s.block? s.cur.launch s.cur.run b := by
      rw [hblock]
      refine find?_replaceFirst_other (fun y hy => ?_) _
      simp only [decide_eq_true_eq] at hy
      obtain ⟨-, -, hi⟩ := hy
      have hyb : y.index ≠ b := fun e => hne (e.symm.trans hi)
      exact ⟨by simp [hyb], by simp [Block.putScratch, hyb]⟩
    rw [scratchByte, scratchByte, hsame]
  · have hthere : t.block? t.cur.launch t.cur.run bl = some (y.putScratch l mark) := by
      rw [hblock]
      exact find?_replaceFirst hy (by simpa [Block.putScratch] using List.find?_some hy)
    rw [scratchByte, hthere]
    rfl

/-! ## Lists of writes -/

/-- A byte that is written, once or alike, reads as written. -/
theorem Memory.read_writeList_agree {l : List (Nat × Byte)} {p : Nat × Byte} (m : Memory) (hp : p ∈ l) (h : ∀ q ∈ l, q.1 = p.1 → q.2 = p.2) :
    (m.writeList l).read p.1 = p.2 := by
  induction l using List.reverseRecOn with
  | nil => simp at hp
  | append_singleton l q ih =>
    have hq := h q (by simp)
    have hlast : (m.writeList (l ++ [q])) = (m.writeList l).write q.1 q.2 := by simp [Memory.writeList]
    rw [hlast]
    by_cases he : q.1 = p.1
    · rw [← he, Memory.read_write_same, hq he]
    · have hl : p ∈ l := (List.mem_append.1 hp).resolve_right fun e => he (by rw [List.mem_singleton.1 e])
      rw [Memory.read_write_other _ _ (Ne.symm he)]
      exact ih hl fun r hr => h r (List.mem_append_left _ hr)

/-- The bytes after a list of writes that agree where they meet. -/
theorem Memory.read_writeList {l : List (Nat × Byte)} (m : Memory) (h : ∀ p ∈ l, ∀ q ∈ l, q.1 = p.1 → q.2 = p.2) (a : Nat) :
    (m.writeList l).read a = (byteAt l a).getD (m.read a) := by
  unfold byteAt
  cases hf : l.find? (fun p => decide (p.1 = a)) with
  | none => exact Memory.read_writeList_other m l fun p hp => by simpa using List.find?_eq_none.1 hf p hp
  | some p =>
    obtain rfl : p.1 = a := by simpa using List.find?_some hf
    have hp := List.mem_of_find?_eq_some hf
    exact Memory.read_writeList_agree m hp (h p hp)

/-- Moved locations find the same bytes. -/
theorem byteAt_move {l : List (Nat × Byte)} {base off n k : Nat} (hl : ∀ p ∈ l, base ≤ p.1 ∧ p.1 < base + n) :
    byteAt (l.map fun p => (p.1 + off - base, p.2)) (off + k) = byteAt l (base + k) := by
  induction l with
  | nil => rfl
  | cons p l ih =>
    obtain ⟨h1, -⟩ := hl p List.mem_cons_self
    have ih := ih fun q hq => hl q (List.mem_cons_of_mem _ hq)
    have hiff : p.1 + off - base = off + k ↔ p.1 = base + k := by omega
    unfold byteAt at ih ⊢
    rw [List.map_cons, List.find?_cons, List.find?_cons]
    simp only [hiff]
    by_cases h : p.1 = base + k
    · simp [h]
    · simpa [h] using ih

/-! ## A piece written to a scratchpad -/

/-- The bytes of a range in a scratchpad after a list of writes; every other byte is the same. -/
def RangeWritten (s t : State) (base n bl off : Nat) (l : List (Nat × Byte)) : Prop :=
  (∀ k < n, scratchByte t bl (off + k) = (byteAt l (base + k)).getD (scratchByte s bl (off + k))) ∧ ScratchSame s t bl off n

/-- A piece of a write to a range in a scratchpad changes those bytes and nothing else. -/
theorem State.performWrite_scratch {s : State} {base n bl off : Nat} {l : List (Nat × Byte)} (mark own : Bool)
    (hin : InScratch s base n bl off) (hl : ∀ p ∈ l, base ≤ p.1 ∧ p.1 < base + n) (hagree : ∀ p ∈ l, ∀ q ∈ l, q.1 = p.1 → q.2 = p.2) :
    ∃ blocks, (∀ c, ({ s with cur := c } : State).performWrite s.cur l mark own = { s with cur := c, blocks := blocks }) ∧
      ∀ t : State, t.blocks = blocks → t.cur.launch = s.cur.launch → t.cur.run = s.cur.run → RangeWritten s t base n bl off l := by
  obtain ⟨hbl, hplace⟩ := hin
  cases l with
  | nil =>
    refine ⟨s.blocks, fun _ => rfl, fun t hb hla hru => ?_⟩
    have hsame : ∀ b o, scratchByte t b o = scratchByte s b o := fun b o => by
      rw [scratchByte, scratchByte, hla, hru, State.block?, hb]
      rfl
    exact ⟨fun k _ => hsame bl _, fun b o _ => hsame b o⟩
  | cons p l =>
    obtain ⟨hp1, hp2⟩ := hl p List.mem_cons_self
    have hpl : s.placeOf s.cur p.1 = .scratch bl (off + (p.1 - base)) := by
      have := hplace (p.1 - base) (by omega)
      rwa [Nat.add_sub_cancel' hp1] at this
    have hmove : ((p :: l).map fun q => (q.1 + (off + (p.1 - base)) - p.1, q.2)) = (p :: l).map fun q => (q.1 + off - base, q.2) :=
      List.map_congr_left fun q hq => by
        have := (hl q hq).1
        simp only [Prod.mk.injEq, and_true]
        omega
    refine ⟨(s.onBlock s.cur.launch s.cur.run bl fun b => b.putScratch ((p :: l).map fun q => (q.1 + off - base, q.2)) mark).blocks,
      fun c => ?_, fun t hb hla hru => ?_⟩
    · have hpl' : ({ s with cur := c } : State).placeOf s.cur p.1 = .scratch bl (off + (p.1 - base)) := hpl
      unfold State.performWrite
      simp only [hpl', hmove]
      rfl
    · obtain ⟨y, hy⟩ := Option.isSome_iff_exists.1 hbl
      have hold : ∀ o, scratchByte s bl o = y.scratch.read o := fun o => by rw [scratchByte, hy]; rfl
      have hagree' : ∀ q ∈ (p :: l).map (fun q => (q.1 + off - base, q.2)), ∀ r ∈ (p :: l).map (fun q => (q.1 + off - base, q.2)),
          r.1 = q.1 → r.2 = q.2 := by
        simp only [List.mem_map]
        rintro _ ⟨q, hq, rfl⟩ _ ⟨r, hr, rfl⟩ e
        have := (hl q hq).1
        have := (hl r hr).1
        exact hagree q hq r hr (by omega)
      have hnew : ∀ o, scratchByte t bl o = (byteAt ((p :: l).map fun q => (q.1 + off - base, q.2)) o).getD (scratchByte s bl o) := fun o => by
        rw [(scratchByte_putScratch hy hb hla hru bl o).2, hold]
        exact Memory.read_writeList y.scratch hagree' o
      refine ⟨fun k _ => by rw [hnew, byteAt_move hl], fun b o hbo => ?_⟩
      by_cases hb' : b = bl
      · subst hb'
        rw [hnew]
        have hnone : byteAt ((p :: l).map fun q => (q.1 + off - base, q.2)) o = none := by
          rw [byteAt, Option.map_eq_none_iff, List.find?_eq_none]
          intro r hr
          obtain ⟨q, hq, rfl⟩ := List.mem_map.1 hr
          have := hl q hq
          simp only [decide_eq_true_eq]
          omega
        rw [hnone]
        rfl
      · exact (scratchByte_putScratch hy hb hla hru b o).1 hb'

end Sys2Proof.Machine
end

section
/-! PROOF. A returning atomic on a scratchpad (R146, R148), and O19: what arrivals deliver. -/

namespace Sys2Proof.Machine
open Spec

/-! ## The bytes of an atomic -/

theorem atomWidth_cases (typ : BitVec 6) : atomWidth typ = 4 ∨ atomWidth typ = 8 := by
  unfold atomWidth
  split
  · exact Or.inr rfl
  · exact Or.inl rfl

/-- Bytes in a scratchpad have locations of the scratchpad window. -/
theorem State.lt_of_scratch {s : State} {g : Group} {a b o : Nat} (h : s.placeOf g a = .scratch b o) : a < 0xFF * 2 ^ 48 := by
  unfold State.placeOf at h
  split at h
  · cases h
  · split at h
    · next hw => unfold window at hw; omega
    · split at h
      · cases h
      · split at h <;> cases h

/-- Locations that do not leave the windows are consecutive. -/
theorem byteLocs_eq {a n : Nat} (h : a + n ≤ 2 ^ 56) : byteLocs a n = (List.range n).map (a + ·) :=
  List.map_congr_left fun i hi => by
    have := List.mem_range.1 hi
    rw [if_neg (by omega), Nat.mod_eq_of_lt (by omega)]

/-- The locations of bytes paired with as many bytes. -/
theorem mem_zip_range {a n : Nat} {bs : List Byte} {p : Nat × Byte} (h : p ∈ ((List.range n).map (a + ·)).zip bs) :
    a ≤ p.1 ∧ p.1 < a + n ∧ bs[p.1 - a]? = some p.2 := by
  obtain ⟨i, hi⟩ := List.mem_iff_getElem?.1 h
  obtain ⟨h1, h2⟩ := List.getElem?_zip_eq_some.1 hi
  rw [List.getElem?_map, Option.map_eq_some_iff] at h1
  obtain ⟨j, hj, hp⟩ := h1
  obtain ⟨hin, hj⟩ := List.getElem?_eq_some_iff.1 hj
  rw [List.length_range] at hin
  obtain rfl : i = j := by simpa using hj
  exact ⟨by omega, by omega, by rw [← hp, Nat.add_sub_cancel_left]; exact h2⟩

/-- The byte of a location among as many bytes, listed in any direction. -/
theorem byteAt_zip_reverse {a n k : Nat} {bs : List Byte} (hbs : bs.length = n) (hk : k < n) :
    byteAt (((List.range n).map (a + ·)).zip bs).reverse (a + k) = bs[k]? := by
  have hmem : (a + k, bs[k]'(by omega)) ∈ (((List.range n).map (a + ·)).zip bs).reverse := by
    rw [List.mem_reverse, List.mem_iff_getElem]
    exact ⟨k, by simp [hbs, hk], by simp⟩
  unfold byteAt
  cases hf : (((List.range n).map (a + ·)).zip bs).reverse.find? (fun p => decide (p.1 = a + k)) with
  | none => exact absurd (by simp) (List.find?_eq_none.1 hf _ hmem)
  | some p =>
    have hp := List.find?_some hf
    simp only [decide_eq_true_eq] at hp
    obtain ⟨-, -, h⟩ := mem_zip_range (List.mem_reverse.1 (List.mem_of_find?_eq_some hf))
    rw [hp, Nat.add_sub_cancel_left] at h
    exact h.symm

/-- The words that a lane of an atomic receives. -/
theorem atomWords_eq (typ : BitVec 6) (old : Nat) :
    (if atomWidth typ = 8 then [(BitVec.ofNat 64 old).extractLsb' 0 32, (BitVec.ofNat 64 old).extractLsb' 32 32]
      else [(BitVec.ofNat 64 old).extractLsb' 0 32]) =
    (List.range (atomWidth typ / 4)).map fun j => BitVec.ofNat 32 (old / 2 ^ (32 * j)) := by
  have h0 : (BitVec.ofNat 64 old).extractLsb' 0 32 = BitVec.ofNat 32 old := BitVec.eq_of_toNat_eq (by simp)
  have h1 : (BitVec.ofNat 64 old).extractLsb' 32 32 = BitVec.ofNat 32 (old / 2 ^ 32) := BitVec.eq_of_toNat_eq (by
    simp only [BitVec.extractLsb'_toNat, BitVec.toNat_ofNat, Nat.shiftRight_eq_div_pow]
    omega)
  rcases atomWidth_cases typ with h | h <;> simp [h, h0, h1, List.range_succ]

/-! ## The piece of an atomic -/

/-- A write of a split changes, of its group, what other splits may miss. -/
theorem Group.overwrite_eq (g : Group) (w : Owner) (shown : Bool) (bytes : List (Nat × Byte)) (read : Nat → Byte) :
    ∃ sh, g.overwrite w shown bytes read = { g with shadow := sh } := by
  unfold Group.overwrite
  split
  · exact ⟨g.shadow, rfl⟩
  · exact ⟨_, rfl⟩

/-- The number at a location before an atomic. -/
def atomOld (s : State) (a : Nat) (typ : BitVec 6) : Nat := leNat ((byteLocs a (atomWidth typ)).map (s.byteOf s.cur))

/-- The atomic, its only lane performed with an old value. -/
def MemOp.atomDone (o : MemOp) (x : Nat) (l : Fin 32) (old : Nat) : MemOp :=
  { o with left := setDel o.left x, old := [(l.val, BitVec.ofNat 64 old)] ++ o.old }

/-- The running group's atomic has been performed: its operation has the old value, the blocks hold the new one. -/
def State.atomDone (s : State) (sh : List Shadow) (blocks : List Block) (id x : Nat) (l : Fin 32) (old : Nat) : State :=
  { s with
    cur := { s.cur with
      shadow := sh, pend := { s.cur.pend with mem := replaceFirst (·.id = id) (·.atomDone x l old) s.cur.pend.mem } }
    blocks := blocks }

/-- The bytes that an atomic leaves at a location. -/
def atomBytes (a : Nat) (typ : BitVec 6) (new : Nat) : List (Nat × Byte) :=
  ((List.range (atomWidth typ)).map (a + ·)).zip (leBytes (atomWidth typ) new)

/-- An atomic of one lane. -/
theorem atomLanes_single {op : BitVec 4} {typ : BitVec 6} {l : Fin 32} {a : Nat} {b c : DWord} {s : State}
    (ha : a + atomWidth typ ≤ 2 ^ 56) :
    atomLanes op typ [⟨l, a, atomWidth typ⟩] [(l.val, b, c)] (s.byteOf s.cur) =
      (atomBytes a typ (atomNew op typ (atomOld s a typ) b.toNat c.toNat), [(l.val, BitVec.ofNat 64 (atomOld s a typ))]) := by
  have hlocs : LaneReq.locs ⟨l, a, atomWidth typ⟩ = (List.range (atomWidth typ)).map (a + ·) := byteLocs_eq ha
  simp [atomLanes, assoc, hlocs, atomBytes, atomOld, byteLocs_eq ha, byteAt]

/-- Without tickets a write is no streamed one. -/
theorem State.noteStream_eq {s : State} {g : Group} (hdet : (s.lchOf g).img.det = false) (x : Nat) : s.noteStream g x = s := by
  simp [State.noteStream, Launch.ticketed, hdet]

/-- The piece of an atomic of one lane whose bytes stand in a scratchpad. -/
theorem State.piece_atomic {s : State} {o : MemOp} {x : Nat} {op : BitVec 4} {typ : BitVec 6} {l : Fin 32} {a : Nat} {b c : DWord} {bl off : Nat}
    (h : Next s o x) (hf : Fresh s o x) (hm : ∀ a, a / 32 = x → s.markedAt s.cur a = false) (hk : o.kind = .atomic op typ)
    (hlanes : o.lanes = [⟨l, a, atomWidth typ⟩]) (hax : a / 32 = x) (hargs : o.args = [(l.val, b, c)])
    (hin : InScratch s a (atomWidth typ) bl off) (hsec : ∃ n, s.placeOf s.cur (x * 32) = .scratch bl n) :
    ∃ sh blocks, s.piece s.cur.ref o.id x = (s.atomDone sh blocks o.id x l (atomOld s a typ)).settle s.cur.ref o.id ∧
      ∀ t : State, t.blocks = blocks → t.cur.launch = s.cur.launch → t.cur.run = s.cur.run →
        RangeWritten s t a (atomWidth typ) bl off (atomBytes a typ (atomNew op typ (atomOld s a typ) b.toNat c.toNat)).reverse := by
  have hop := State.op?_next h
  obtain ⟨hres, -, -, hx, -⟩ := h
  have hr := Group.isRef_self hres
  obtain ⟨-, -, hdet, hhome, -, -⟩ := hf
  obtain ⟨n, hsec⟩ := hsec
  have hw : 4 ≤ atomWidth typ ∧ atomWidth typ ≤ 8 := by rcases atomWidth_cases typ with h | h <;> omega
  have ha : a + atomWidth typ ≤ 2 ^ 56 := by
    have := State.lt_of_scratch (hin.2 0 (by omega))
    omega
  have hclean : (o.locs.filter fun a => a / 32 = x).find? (s.markedAt s.cur) = none :=
    List.find?_eq_none.2 fun a ha => by
      rw [hm a (by simpa using (List.mem_filter.1 ha).2)]
      exact Bool.false_ne_true
  generalize hnew : atomNew op typ (atomOld s a typ) b.toNat c.toNat = new
  have hmem : ∀ p ∈ (atomBytes a typ new).reverse, a ≤ p.1 ∧ p.1 < a + atomWidth typ ∧ (leBytes (atomWidth typ) new)[p.1 - a]? = some p.2 :=
    fun p hp => mem_zip_range (List.mem_reverse.1 hp)
  obtain ⟨blocks, hperf, hwritten⟩ := State.performWrite_scratch (l := (atomBytes a typ new).reverse) false (!o.near.contains x) hin
    (fun p hp => ⟨(hmem p hp).1, (hmem p hp).2.1⟩) fun p hp q hq e => by
      have h1 := (hmem p hp).2.2
      rw [← e, (hmem q hq).2.2] at h1
      exact Option.some.inj h1
  obtain ⟨sh, hsh⟩ := s.cur.overwrite_eq o.split (o.near.contains x) (atomBytes a typ new).reverse (s.byteOf s.cur)
  have hfilter : (o.lanes.filter fun y => y.loc / 32 = x) = [⟨l, a, atomWidth typ⟩] := by simp [hlanes, hax]
  refine ⟨sh, blocks, ?_, hwritten⟩
  have hpiece : s.piece s.cur.ref o.id x = s.writePiece s.cur.ref o.id x := by
    unfold State.piece
    simp only [State.group?_cur hr, hop, List.contains_iff_mem.2 hx, hk, OpKind.loads, Bool.not_true, Bool.not_false, Bool.false_eq_true, if_false,
      if_true, State.flushNear_homed hhome]
  rw [hpiece]
  unfold State.writePiece
  simp only [State.group?_cur hr, hop, List.contains_iff_mem.2 hx, hk, hsec, hclean, Bool.not_true, Bool.false_eq_true, if_false,
    State.writePiece.atom, hfilter, hargs, atomLanes_single ha, hnew]
  rw [State.onGroup_cur hr, hsh, hperf]
  rw [State.noteStream_eq]
  case hdet => exact hdet
  exact congrArg (·.settle s.cur.ref o.id) (State.onGroup_cur (s := { s with cur := { s.cur with shadow := sh }, blocks := blocks }) hr _)

/-- What a returning atomic of one lane on a scratchpad delivers. -/
theorem arrival_atomic {s : State} {o : MemOp} {x : Nat} {op : BitVec 4} {typ : BitVec 6} {u : Bool} {d : BitVec 8} {l : Fin 32} {a : Nat}
    {b c : DWord} {bl off : Nat} (h : Next s o x) (hf : Fresh s o x) (hhold : o.hold = false) (hn : o.nacked = 0) (ht : o.timed = 0)
    (hdone : o.done = 0) (hm : ∀ a, a / 32 = x → s.markedAt s.cur a = false) (hk : o.kind = .atomic op typ) (hleft : o.left = [x])
    (hlanes : o.lanes = [⟨l, a, atomWidth typ⟩]) (hax : a / 32 = x) (hdst : o.dst = regsFrom u (atomWidth typ / 4) d)
    (hd : d.toNat + atomWidth typ / 4 ≤ (if u then 64 else 256)) (hargs : o.args = [(l.val, b, c)])
    (hin : InScratch s a (atomWidth typ) bl off) (hsec : ∃ n, s.placeOf s.cur (x * 32) = .scratch bl n) :
    ∃ sh blocks t, exec (.loadSectorArrival s.cur.ref o.id x) s = .next t ∧
      Delivered (s.atomDone sh blocks o.id x l (atomOld s a typ)) t (o.atomDone x l (atomOld s a typ)) u d (atomWidth typ / 4) ∧
      ∀ t : State, t.blocks = blocks → t.cur.launch = s.cur.launch → t.cur.run = s.cur.run →
        RangeWritten s t a (atomWidth typ) bl off (atomBytes a typ (atomNew op typ (atomOld s a typ) b.toNat c.toNat)).reverse := by
  have hw := atomWidth_cases typ
  obtain ⟨sh, blocks, hpiece, hwritten⟩ := State.piece_atomic h hf hm hk hlanes hax hargs hin hsec
  have hret : o.returns = true := by
    have hne : o.dst.isEmpty = false := by rcases hw with h | h <;> simp [hdst, h, regsFrom, List.range_succ]
    simp [MemOp.returns, hne]
  have hword : ∀ r ∈ o.lanes, ((o.atomDone x l (atomOld s a typ)).laneWords
      (s.atomDone sh blocks o.id x l (atomOld s a typ)).ent r).1.length = atomWidth typ / 4 := fun r hr => by
    obtain rfl := List.mem_singleton.1 (hlanes ▸ hr)
    have hkind : (o.atomDone x l (atomOld s a typ)).kind = .atomic op typ := hk
    unfold MemOp.laneWords
    rw [hkind]
    rcases hw with h | h <;> simp [h]
  refine ⟨sh, blocks, _, (exec_arrival h hret).trans (congrArg _ hpiece), State.settle_delivers (o := o.atomDone x l (atomOld s a typ))
    (Group.isRef_self h.1) (find?_replaceFirst_id (find?_key (·.id) h.2.1 h.2.2.1) rfl) ?_ hhold hret hdone hn ht (by omega) hdst hd ?_ ?_ hword,
    hwritten⟩
  · simp [MemOp.atomDone, hleft, setDel]
  · exact fun _ => congrArg List.length hlanes
  · simp [MemOp.atomDone, hlanes]

/-- The words of the atomic's lane. -/
theorem laneWords_atomDone {o : MemOp} {x : Nat} {op : BitVec 4} {typ : BitVec 6} {l : Fin 32} {old : Nat} {ent : BitVec 4 → DWord}
    {r : LaneReq} (hk : o.kind = .atomic op typ) (hr : r.lane = l) : (o.atomDone x l old).laneWords ent r =
      ((List.range (atomWidth typ / 4)).map fun j => BitVec.ofNat 32 (old / 2 ^ (32 * j)), none) := by
  have hkind : (o.atomDone x l old).kind = .atomic op typ := hk
  rw [← atomWords_eq]
  unfold MemOp.laneWords
  rw [hkind]
  simp [MemOp.atomDone, assoc, hr]

theorem filter_id_twice (l : List MemOp) (id : Nat) : (l.filter (·.id ≠ id)).filter (·.id ≠ id) = l.filter (·.id ≠ id) := by
  simp [List.filter_filter]

theorem find?_lane_single (y : LaneReq) (m : Fin 32) : [y].find? (fun r => decide (r.lane = m)) = if m = y.lane then some y else none := by
  by_cases h : m = y.lane
  · simp [h]
  · simp [h, Ne.symm h]

/-- The number that an atomic leaves. -/
theorem leNat_atomBytes {s t : State} {a bl off new : Nat} {typ : BitVec 6}
    (h : RangeWritten s t a (atomWidth typ) bl off (atomBytes a typ new).reverse) :
    leNat ((List.range (atomWidth typ)).map fun k => scratchByte t bl (off + k)) = new % 2 ^ (8 * atomWidth typ) := by
  have hbytes : ((List.range (atomWidth typ)).map fun k => scratchByte t bl (off + k)) = leBytes (atomWidth typ) new := by
    refine List.ext_getElem? fun k => ?_
    by_cases hk : k < atomWidth typ
    · have hlen := leBytes_length (atomWidth typ) new
      have hat : byteAt (atomBytes a typ new).reverse (a + k) = (leBytes (atomWidth typ) new)[k]? := byteAt_zip_reverse hlen hk
      simp [hk, h.1 k hk, hat, hlen]
    · simp [hk, leBytes_length]
  have hp : (256 : Nat) ^ atomWidth typ = 2 ^ (8 * atomWidth typ) := by rw [Nat.pow_mul]
  rw [hbytes, leNat_leBytes, hp]

end Sys2Proof.Machine

namespace Sys2Proof.Proofs
open Machine Spec

/-- Settles O19: a sector of a load only joins what has arrived while every lane misses another; the last one delivers each lane's words and
flags; a returning atomic on a scratchpad writes the new number and delivers the old. -/
theorem readsDeliver : Obligations.ReadsDeliver := by
  intro s o x hnext hfresh hhold hn ht hdone hm hlanes
  refine ⟨fun sub hk hne hmiss => ?_, fun u d k hk hleft hlocs hk4 hdst hd hu hws => ?_,
    fun op typ u d l a b c hk hleft hlane hax _ hdst hd hargs bl off hin hsec => ?_⟩
  · obtain ⟨l1, hexec⟩ := arrival_first hnext hfresh hm hk hne hmiss
    refine ⟨_, hexec, ⟨State.fed_others s l1 o.id x, rfl, rfl, rfl, rfl, rfl⟩, rfl, rfl, o.fed x (s.sectorBytes x),
      List.mem_of_find?_eq_some (State.fed_find hnext l1), rfl, rfl,
      fun a ha => byteAt_append_of_some (State.byteAt_sectorBytes s ha)⟩
  · obtain ⟨l1, hexec, regs, splits, blocks, heq, hrow, ⟨hflags, hclsf, hother⟩, -⟩ :=
      arrival_last hnext hfresh hhold hn ht hdone hm hlanes hk hleft hlocs hk4 hdst hd hu hws
    obtain ⟨hst, hval, hv, hs, hkr⟩ := hrow.congr fun r hr => (MemOp.laneWords_fed (s := s) hk hlocs hr).1
    have hsum := foldl_or_congr (fun r hr => (MemOp.laneWords_fed (s := s) hk hlocs hr).2) 0
    generalize State.settle _ _ _ = t at hexec heq hflags hclsf hother
    subst heq
    refine ⟨_, hexec, ⟨?_, rfl, rfl, rfl, rfl, rfl⟩, fun p hp => ?_, fun y hy => hst y (hdst ▸ hy), hval, ⟨hv, hs, hkr⟩, fun n e => ?_, hclsf, hother,
      fun _ => rfl⟩
    · exact (filter_id_twice _ _).trans (State.fed_others s l1 o.id x)
    · exact of_decide_eq_true (List.mem_filter.1 hp).2
    · obtain ⟨hb, hc⟩ := hflags n e
      exact ⟨hb, hc.trans (congrArg _ hsum)⟩
  · obtain ⟨sh, blocks', t, hexec, ⟨regs, splits, blocks, heq, ⟨hst, hval, -⟩, -, hnone⟩, hwritten⟩ :=
      arrival_atomic hnext hfresh hhold hn ht hdone hm hk hleft hlane hax hdst hd hargs hin hsec
    have hwords := fun {r} (hr : r ∈ o.lanes) => laneWords_atomDone (x := x) (old := atomOld s a typ)
      (ent := (s.atomDone sh blocks' o.id x l (atomOld s a typ)).ent) hk (r := r) (l := l) (by simp [List.mem_singleton.1 (hlane ▸ hr)])
    obtain ⟨rfl, rfl⟩ := hnone fun r hr => congrArg Prod.snd (hwords hr)
    subst heq
    have hbytes := hwritten { s with blocks := blocks } rfl rfl rfl
    refine ⟨_, hexec, ⟨?_, rfl, rfl, rfl, rfl, rfl⟩, fun p hp => ?_, fun y hy => hst y (hdst ▸ hy), rfl, fun j hj => ?_,
      leNat_atomBytes hbytes, hbytes.2, rfl⟩
    · exact (filter_id_twice _ _).trans (filter_replaceFirst_id fun _ e => e)
    · exact of_decide_eq_true (List.mem_filter.1 hp).2
    · have hj' := hval j hj
      have hword : ∀ r ∈ o.lanes, ((o.atomDone x l (atomOld s a typ)).laneWords (s.atomDone sh blocks o.id x l (atomOld s a typ)).ent r).1.getD j 0 =
          BitVec.ofNat 32 (atomOld s a typ / 2 ^ (32 * j)) := fun r hr => by
        rw [hwords hr]
        simp [hj]
      cases u with
      | true =>
        have hl : ⟨l, a, atomWidth typ⟩ ∈ o.lanes := by simp [hlane]
        exact (hj' _ hl).trans (hword _ hl)
      | false =>
        intro m
        refine (hj' m).trans ?_
        have hfind : (o.atomDone x l (atomOld s a typ)).lanes.find? (fun r => r.lane = m) = if m = l then some ⟨l, a, atomWidth typ⟩ else none :=
          (congrArg _ hlane).trans (find?_lane_single _ _)
        rw [hfind]
        by_cases hml : m = l
        · rw [if_pos hml, if_pos hml]
          exact hword _ (by simp [hlane])
        · rw [if_neg hml, if_neg hml]
          rfl

end Sys2Proof.Proofs
end

section
/-! PROOF. The pieces of copies and gathers and their retirement (R151, R152), where the destination stands in a scratchpad. -/

namespace Sys2Proof.Machine
open Spec

/-! ## What engines read -/

/-- Outside deterministic launches an engine reads bytes as they stand. -/
theorem State.engineBytes_eq {s : State} {g : Group} (hdet : (s.lchOf g).img.det = false) (l : List Nat) :
    s.engineBytes g l = l.map fun a => (a, s.byteOf g a) := by
  simp [State.engineBytes, hdet]

theorem State.engineMarked_eq {s : State} {g : Group} (hdet : (s.lchOf g).img.det = false) (a : Nat) :
    s.engineMarked g a = s.markedAt g a := by
  simp [State.engineMarked, hdet]

/-- The byte that a list of writes gives one of its locations, where the writes of it agree. -/
theorem byteAt_of_mem {l : List (Nat × Byte)} {p : Nat × Byte} (hp : p ∈ l) (h : ∀ q ∈ l, q.1 = p.1 → q.2 = p.2) : byteAt l p.1 = some p.2 := by
  unfold byteAt
  cases hf : l.find? (fun q => decide (q.1 = p.1)) with
  | none => exact absurd (by simp) (List.find?_eq_none.1 hf p hp)
  | some q => exact congrArg some (h q (List.mem_of_find?_eq_some hf) (by simpa using List.find?_some hf))

theorem byteAt_eq_none {l : List (Nat × Byte)} {a : Nat} (h : ∀ p ∈ l, p.1 ≠ a) : byteAt l a = none := by
  rw [byteAt, Option.map_eq_none_iff, List.find?_eq_none]
  exact fun p hp => by simpa using h p hp

/-- A list zipped with its places, without them. -/
theorem map_zip_range {α β : Type} (l : List α) (f : α → β) : ((l.zip (List.range l.length)).map fun p => f p.1) = l.map f := by
  have hfst : (l.zip (List.range l.length)).map Prod.fst = l := List.map_fst_zip (by simp)
  calc ((l.zip (List.range l.length)).map fun p => f p.1) = ((l.zip (List.range l.length)).map Prod.fst).map f := by rw [List.map_map]; rfl
    _ = l.map f := by rw [hfst]

/-- A piece without marks is a write. -/
theorem State.performMarked_nil (s : State) (g : Group) (bytes : List (Nat × Byte)) :
    s.performMarked g bytes [] = s.performWrite g bytes false false := by
  unfold State.performMarked
  rw [List.foldl_nil]

/-! ## A copy's piece -/

/-- The bytes of a piece whose sources are local and unmarked, of ranges that do not overlap. -/
theorem State.pieceData_local {s : State} {c : CopyOp} {x : Nat} (hdet : (s.lchOf s.cur).img.det = false) (horig : c.orig = [])
    (hwait : c.waitSrc = []) (hgot : c.got = [])
    (hsrc : ∀ d ∈ c.dstLocs x, s.remoteOf s.cur (c.srcLoc d / 32) = none ∧ s.markedAt s.cur (c.srcLoc d) = false) :
    s.pieceData s.cur c x = some (some ((c.dstLocs x).map fun d => (d, s.byteOf s.cur (c.srcLoc d)), [])) := by
  unfold State.pieceData
  generalize c.dstLocs x = ds at hsrc ⊢
  generalize c.srcLoc = src at hsrc ⊢
  have hfar : (ds.map src).any (fun a => (s.remoteOf s.cur (a / 32)).isSome && (none : Option Byte).isNone) = false := by
    rw [List.any_eq_false]
    intro a ha
    obtain ⟨d, hd, rfl⟩ := List.mem_map.1 ha
    simp [(hsrc d hd).1]
  have hwaits : (ds.map src).any (fun _ => false) = false := List.any_eq_false.2 fun _ _ => Bool.false_ne_true
  have hout : ((ds.zip (List.range ds.length)).map fun p =>
      (p.1, (((byteAt (s.engineBytes s.cur (ds.map src)) (src p.1)).getD 0), s.engineMarked s.cur (src p.1)))) =
      ds.map fun d => (d, (s.byteOf s.cur (src d), false)) := by
    rw [map_zip_range ds fun d => (d, (((byteAt (s.engineBytes s.cur (ds.map src)) (src d)).getD 0), s.engineMarked s.cur (src d)))]
    refine List.map_congr_left fun d hd => ?_
    rw [State.engineBytes_eq hdet, byteAt_map (List.mem_map_of_mem hd), State.engineMarked_eq hdet, (hsrc d hd).2, Option.getD_some]
  have hnone : ∀ a, byteAt ([] : List (Nat × Byte)) a = none := fun _ => rfl
  have hmarks : (ds.map fun d => (d, (s.byteOf s.cur (src d), false))).filter (·.2.2) = [] := by
    rw [List.filter_eq_nil_iff]
    intro p hp
    obtain ⟨d, -, rfl⟩ := List.mem_map.1 hp
    exact Bool.false_ne_true
  simp only [hwait, hgot, horig, hnone, ite_self, List.contains_nil, hfar, hwaits, hout, hmarks, List.map_map, List.map_nil, Bool.false_eq_true, if_false]
  rfl

theorem State.copy?_cur {s : State} {r : GRef} (h : s.cur.isRef r = true) (id : Nat) :
    s.copy? r id = s.cur.pend.cp.find? (·.id = id) := by simp [State.copy?, State.group?_cur h]

/-- A sector's locations in the scratchpad window. -/
theorem sector_locs {x : Nat} (h : x * 32 + 32 ≤ 2 ^ 56) : byteLocs (x * 32) 32 = (List.range 32).map (x * 32 + ·) := byteLocs_eq h

theorem CopyOp.mem_dstLocs {c : CopyOp} {x d : Nat} (h : x * 32 + 32 ≤ 2 ^ 56) (hd : d ∈ c.dstLocs x) : x * 32 ≤ d ∧ d < x * 32 + 32 := by
  have hd := (List.mem_filter.1 hd).1
  rw [sector_locs h] at hd
  obtain ⟨i, hi, rfl⟩ := List.mem_map.1 hd
  have := List.mem_range.1 hi
  omega

/-- The bytes of a copy's piece. -/
def State.copyBytes (s : State) (c : CopyOp) (x : Nat) : List (Nat × Byte) := (c.dstLocs x).map fun d => (d, s.byteOf s.cur (c.srcLoc d))

/-- What a written piece of a copy leaves: the piece is over, the bytes stand in the blocks. -/
def State.copied (s : State) (blocks : List Block) (id x : Nat) : State :=
  { s with
    cur := { s.cur with pend := { s.cur.pend with
      cp := replaceFirst (·.id = id) (fun c => { c with left := setDel c.left x, sent := setDel c.sent x }) s.cur.pend.cp } }
    blocks := blocks }

/-- A piece of a copy within a scratchpad is written there. -/
theorem State.copyPiece_scratch {s : State} {c : CopyOp} {x bl off : Nat} (hres : s.cur.resident = true)
    (hdet : (s.lchOf s.cur).img.det = false) (hfind : s.cur.pend.cp.find? (·.id = c.id) = some c) (hx : x ∈ c.left) (hsent : x ∉ c.sent)
    (hdab : c.dab = none) (horig : c.orig = []) (hwait : c.waitSrc = []) (hgot : c.got = []) (hin : InScratch s (x * 32) 32 bl off)
    (hsec : x * 32 + 32 ≤ 2 ^ 56)
    (hsrc : ∀ d ∈ c.dstLocs x, s.remoteOf s.cur (c.srcLoc d / 32) = none ∧ s.markedAt s.cur (c.srcLoc d) = false) :
    ∃ blocks, s.copyPiece s.cur.ref c.id x = s.copied blocks c.id x ∧
      ∀ t : State, t.blocks = blocks → t.cur.launch = s.cur.launch → t.cur.run = s.cur.run →
        RangeWritten s t (x * 32) 32 bl off (s.copyBytes c x) := by
  have hr := Group.isRef_self hres
  have hcopy : s.copy? s.cur.ref c.id = some c := (State.copy?_cur hr _).trans hfind
  have hdata : s.pieceData s.cur c x = some (some (s.copyBytes c x, [])) := State.pieceData_local hdet horig hwait hgot hsrc
  have hplace : s.placeOf s.cur (x * 32) = .scratch bl (off + 0) := hin.2 0 (by omega)
  obtain ⟨blocks, hperf, hwritten⟩ := State.performWrite_scratch (l := s.copyBytes c x) false false hin
    (fun p hp => by
      obtain ⟨d, hd, rfl⟩ := List.mem_map.1 hp
      exact CopyOp.mem_dstLocs hsec hd)
    (fun p hp q hq e => by
      obtain ⟨d, -, rfl⟩ := List.mem_map.1 hp
      obtain ⟨d', -, rfl⟩ := List.mem_map.1 hq
      exact congrArg (fun d => s.byteOf s.cur (c.srcLoc d)) e)
  have hperf : s.performWrite s.cur (s.copyBytes c x) false false = { s with blocks := blocks } := hperf s.cur
  have hticket : (s.lchOf s.cur).ticketed (x * 32) = false := by simp [Launch.ticketed, hdet]
  refine ⟨blocks, ?_, hwritten⟩
  generalize s.copyBytes c x = bytes at hdata hperf
  unfold State.copyPiece
  have hlive : (!c.left.contains x || c.sent.contains x) = false := by simp [hx, hsent]
  simp only [State.group?_cur hr, hcopy]
  rw [hlive]
  simp only [hdata, horig]
  simp only [List.isEmpty_nil, if_true, hticket, Bool.false_and, State.group?_cur hr, Option.isNone_some, Bool.false_eq_true, if_false]
  rw [hplace]
  simp only [State.performMarked_nil, hperf]
  rw [State.noteStream_eq]
  case hdet => exact hdet
  have hend : ({ s with blocks := blocks } : State).endCopyPiece s.cur.ref c.id x bytes.length =
      ({ s with blocks := blocks } : State).onCopy s.cur.ref c.id fun c => { c with left := setDel c.left x, sent := setDel c.sent x } := by
    have hcopy' : ({ s with blocks := blocks } : State).copy? s.cur.ref c.id = some c := hcopy
    have hgroup' : ({ s with blocks := blocks } : State).group? s.cur.ref = some s.cur := State.group?_cur hr
    unfold State.endCopyPiece
    simp only [hcopy', hgroup', hdab]
  exact hend.trans (State.onGroup_cur (s := { s with blocks := blocks }) hr _)

/-- No gather of the group has the number. -/
theorem State.gatherPiece_none {s : State} {r : GRef} {id : Nat} (h : ∀ o ∈ s.cur.pend.ga, o.id ≠ id) (hr : s.cur.isRef r = true) (x : Nat) :
    s.gatherPiece r id x = s := by
  have hnone : s.cur.pend.ga.find? (fun o => decide (o.id = id)) = none := List.find?_eq_none.2 fun o ho => by simpa using h o ho
  unfold State.gatherPiece
  simp only [State.group?_cur hr, Option.bind_some, hnone]

/-- No copy of the group has the number. -/
theorem State.copyPiece_none {s : State} {r : GRef} {id : Nat} (h : ∀ c ∈ s.cur.pend.cp, c.id ≠ id) (hr : s.cur.isRef r = true) (x : Nat) :
    s.copyPiece r id x = s := by
  have hnone : s.copy? r id = none := (State.copy?_cur hr id).trans (List.find?_eq_none.2 fun o ho => by simpa using h o ho)
  unfold State.copyPiece
  simp only [State.group?_cur hr, hnone]

/-- The bytes of a copy's piece, by location. -/
theorem State.byteAt_copyBytes (s : State) (c : CopyOp) (x d : Nat) :
    byteAt (s.copyBytes c x) d = if d ∈ c.dstLocs x then some (s.byteOf s.cur (c.srcLoc d)) else none := by
  by_cases h : d ∈ c.dstLocs x
  · rw [if_pos h]
    exact byteAt_map (f := fun d => s.byteOf s.cur (c.srcLoc d)) h
  · rw [if_neg h]
    refine byteAt_eq_none fun p hp e => ?_
    obtain ⟨d', hd', rfl⟩ := List.mem_map.1 hp
    exact h (e ▸ hd')

/-- A change of one of a list's elements that some of its fields meet already. -/
theorem map_key_congr {α : Type} (key : α → Nat) {f g : α → α} {l : List α} {x : α} (hx : x ∈ l) (hl : (l.map key).Nodup) (h : f x = g x) :
    (l.map fun y => if key y = key x then f y else y) = l.map fun y => if key y = key x then g y else y :=
  List.map_congr_left fun y hy => by
    by_cases e : key y = key x
    · rw [if_pos e, if_pos e, List.inj_on_of_nodup_map hl hy hx e, h]
    · rw [if_neg e, if_neg e]

/-! ## The oldest copy and the oldest gather retire -/

/-- Dropping copies of sectors takes only copies away. -/
theorem State.dropSectors_eq (s : State) (g : Group) (l : List Nat) : ∃ l1, s.dropSectors g l = s.withL1 l1 ∧ ∀ y ∈ l1, y ∈ s.mem.l1 := by
  unfold State.dropSectors
  refine List.foldlRecOn l _ (motive := fun t => ∃ l1, t = s.withL1 l1 ∧ ∀ y ∈ l1, y ∈ s.mem.l1) ⟨s.mem.l1, rfl, fun _ h => h⟩ ?_
  rintro _ ⟨l1, rfl, hsub⟩ x -
  split
  · exact ⟨_, rfl, fun y hy => hsub y (List.mem_filter.1 hy).1⟩
  · exact ⟨l1, rfl, hsub⟩

/-- The registers when a copy has retired (R151). -/
def RegFile.copyEnd (r : RegFile) (c : CopyOp) : RegFile :=
  (if c.fail = .full then r.putS c.token (BitVec.ofNat 32 c.count) else r).setSt c.fail (.s c.token)

theorem State.retireCopy_eq {s : State} {c : CopyOp} {cs : List CopyOp} (hres : s.cur.resident = true) (hcp : s.cur.pend.cp = c :: cs)
    (hleft : c.left = []) (hwait : c.waitSrc = []) : ∃ l1, s.retireCopy s.cur.ref = { s with
      cur := { s.cur with regs := s.cur.regs.copyEnd c, pend := { s.cur.pend with cp := cs } }
      mem := { s.mem with l1 := l1 } } ∧ ∀ y ∈ l1, y ∈ s.mem.l1 := by
  have hr := Group.isRef_self hres
  obtain ⟨l1, hdrop, hsub⟩ := s.dropSectors_eq s.cur (sectorSet (byteLocs c.dst c.count))
  refine ⟨l1, ?_, hsub⟩
  unfold State.retireCopy
  simp only [State.group?_cur hr, hcp, hleft, hwait, List.isEmpty_nil, Bool.not_true, Bool.or_self, Bool.false_eq_true, if_false]
  rw [hdrop]
  exact State.onGroup_cur (s := s.withL1 l1) hr _

/-- The token has the count, or the failure as its state. -/
theorem RegFile.copyEnd_token (r : RegFile) (c : CopyOp) : (r.copyEnd c).stOf (.s c.token) = c.fail ∧
    (r.copyEnd c).getS c.token = if c.fail = .full then BitVec.ofNat 32 c.count else r.getS c.token := by
  refine ⟨RegFile.stOf_setSt_same .., (RegFile.getS_setSt ..).trans ?_⟩
  split
  · exact RegFile.getS_putS_same ..
  · rfl

/-- The other registers are the same. -/
theorem RegFile.copyEnd_others (r : RegFile) (c : CopyOp) (hc : c.token.toNat < 64) :
    SSame r (r.copyEnd c) [c.token] ∧ VSame r (r.copyEnd c) [] ∧ KSame r (r.copyEnd c) [] := by
  unfold RegFile.copyEnd
  refine ⟨fun n hn hne => ?_, fun n _ => ?_, fun n _ _ => ?_⟩
  · have hidx : sIdx n ≠ sIdx c.token := sIdx_ne hc hn (by simpa using hne)
    rw [RegFile.getS_setSt, RegFile.stOf_setSt_s_other _ _ hidx]
    split
    · exact ⟨RegFile.getS_putS_other _ _ hidx, RegFile.stOf_putS ..⟩
    · exact ⟨rfl, rfl⟩
  · rw [RegFile.getV_setSt, RegFile.stOf_setSt_sv]
    split <;> exact ⟨rfl, rfl⟩
  · rw [RegFile.getK_setSt]
    split <;> rfl

theorem State.retireGather_eq {s : State} {o : GatherOp} {os : List GatherOp} (hres : s.cur.resident = true) (hga : s.cur.pend.ga = o :: os)
    (hleft : o.left = []) (hwait : o.waitSrc = []) :
    s.retireGather s.cur.ref = { s with cur := { s.cur with pend := { s.cur.pend with ga := os } } } := by
  unfold State.retireGather
  simp only [State.group?_cur (Group.isRef_self hres), hga, hleft, hwait, List.isEmpty_nil, Bool.not_true, Bool.or_self, Bool.false_eq_true, if_false]
  exact State.onGroup_cur (Group.isRef_self hres) _

end Sys2Proof.Machine
end

section
/-! PROOF. A gather's piece in a scratchpad (R152), and what a peer's refusal of a gather's read leaves (R150). -/

namespace Sys2Proof.Machine
open Spec

/-! ## The cells of a gather -/

/-- A row's bytes: destination and source. -/
theorem GatherOp.mem_cells {o : GatherOp} {p : Fin 32 × Nat} {c : Nat × Nat} (hp : p.2 < 2 ^ 56) :
    c ∈ o.cells p ↔ ∃ k < o.rows, c = (o.dst + p.1.val * o.rows + k, (p.2 + k) % 2 ^ 56) := by
  have hlocs : byteLocs p.2 o.rows = (List.range o.rows).map fun k => (p.2 + k) % 2 ^ 56 :=
    List.map_congr_left fun i _ => if_neg (by omega)
  have hzip : o.cells p = (List.range o.rows).map fun k => (o.dst + p.1.val * o.rows + k, (p.2 + k) % 2 ^ 56) := by
    rw [GatherOp.cells, hlocs, List.zip_map']
  rw [hzip, List.mem_map]
  exact ⟨fun ⟨k, hk, e⟩ => ⟨k, List.mem_range.1 hk, e.symm⟩, fun ⟨k, hk, e⟩ => ⟨k, List.mem_range.2 hk, e.symm⟩⟩

/-- A byte of the destination is of one row and one place in it. -/
theorem row_place_inj {rows i j a b : Nat} (ha : a < rows) (hb : b < rows) (h : i * rows + a = j * rows + b) : i = j ∧ a = b := by
  have hi : (i * rows + a) / rows = i := by
    rw [Nat.mul_comm, Nat.mul_add_div (by omega), Nat.div_eq_of_lt ha, Nat.add_zero]
  have hj : (j * rows + b) / rows = j := by
    rw [Nat.mul_comm, Nat.mul_add_div (by omega), Nat.div_eq_of_lt hb, Nat.add_zero]
  have hij : i = j := by rw [← hi, h, hj]
  subst hij
  exact ⟨rfl, by omega⟩

/-- The cells of a gather in a sector. -/
def GatherOp.cellsAt (o : GatherOp) (x : Nat) : List (Nat × Nat) :=
  (o.rowsAt x).flatMap fun p => (o.cells p).filter fun c => c.1 / 32 = x

theorem GatherOp.mem_cellsAt {o : GatherOp} {x : Nat} {c : Nat × Nat} (hsrc : ∀ p ∈ o.srcs, p.2 < 2 ^ 56) :
    c ∈ o.cellsAt x ↔ c.1 / 32 = x ∧ ∃ p ∈ o.srcs, ∃ k < o.rows, c = (o.dst + p.1.val * o.rows + k, (p.2 + k) % 2 ^ 56) := by
  unfold GatherOp.cellsAt GatherOp.rowsAt
  simp only [List.mem_flatMap, List.mem_filter, List.any_eq_true, decide_eq_true_eq]
  constructor
  · rintro ⟨p, ⟨hp, -⟩, hc, hx⟩
    exact ⟨hx, p, hp, (GatherOp.mem_cells (hsrc p hp)).1 hc⟩
  · rintro ⟨hx, p, hp, hk⟩
    have hc := (GatherOp.mem_cells (hsrc p hp)).2 hk
    exact ⟨p, ⟨hp, c, hc, hx⟩, hc, hx⟩

/-- Cells of one destination byte are one cell. -/
theorem GatherOp.cellsAt_inj {o : GatherOp} {x : Nat} (hsrc : ∀ p ∈ o.srcs, p.2 < 2 ^ 56) (hlanes : (o.srcs.map (·.1)).Nodup)
    {c d : Nat × Nat} (hc : c ∈ o.cellsAt x) (hd : d ∈ o.cellsAt x) (h : c.1 = d.1) : c = d := by
  obtain ⟨-, p, hp, k, hk, rfl⟩ := (GatherOp.mem_cellsAt hsrc).1 hc
  obtain ⟨-, q, hq, j, hj, rfl⟩ := (GatherOp.mem_cellsAt hsrc).1 hd
  obtain ⟨hl, rfl⟩ := row_place_inj hk hj (i := p.1.val) (j := q.1.val) (by dsimp only at h; omega)
  obtain rfl := List.inj_on_of_nodup_map hlanes hp hq (Fin.ext hl)
  rfl

/-! ## The piece -/

/-- The bytes of a gather's piece. -/
def State.gatherBytes (s : State) (o : GatherOp) (x : Nat) : List (Nat × Byte) :=
  (o.cellsAt x).map fun c => (c.1, (byteAt o.got c.2).getD (s.byteOf s.cur c.2))

theorem State.gatherBytes_agree {s : State} {o : GatherOp} {x : Nat} (hsrc : ∀ p ∈ o.srcs, p.2 < 2 ^ 56) (hlanes : (o.srcs.map (·.1)).Nodup) :
    ∀ p ∈ s.gatherBytes o x, ∀ q ∈ s.gatherBytes o x, q.1 = p.1 → q.2 = p.2 := by
  intro p hp q hq e
  obtain ⟨c, hc, rfl⟩ := List.mem_map.1 hp
  obtain ⟨d, hd, rfl⟩ := List.mem_map.1 hq
  rw [GatherOp.cellsAt_inj hsrc hlanes hd hc e]

/-- What a written piece of a gather leaves. -/
def State.gathered (s : State) (blocks : List Block) (id x : Nat) : State :=
  { s with
    cur := { s.cur with pend := { s.cur.pend with ga := replaceFirst (·.id = id) (fun o => { o with left := setDel o.left x }) s.cur.pend.ga } }
    blocks := blocks }

/-- A piece of a gather in a scratchpad is written there, where no row waits, fails or carries a mark. -/
theorem State.gatherPiece_scratch {s : State} {o : GatherOp} {x bl off : Nat} (hres : s.cur.resident = true)
    (hdet : (s.lchOf s.cur).img.det = false) (hfind : s.cur.pend.ga.find? (·.id = o.id) = some o) (hx : x ∈ o.left)
    (hwait : o.waitSrc = []) (hfailed : o.failed = []) (hmarked : o.marked = []) (hlanes : (o.srcs.map (·.1)).Nodup)
    (hsrc : ∀ p ∈ o.srcs, p.2 < 2 ^ 56) (hin : InScratch s (x * 32) 32 bl off)
    (hclean : ∀ p ∈ o.srcs, ∀ a ∈ byteLocs p.2 o.rows, s.markedAt s.cur a = false) :
    ∃ blocks, s.gatherPiece s.cur.ref o.id x = s.gathered blocks o.id x ∧
      ∀ t : State, t.blocks = blocks → t.cur.launch = s.cur.launch → t.cur.run = s.cur.run →
        RangeWritten s t (x * 32) 32 bl off (s.gatherBytes o x) := by
  have hr := Group.isRef_self hres
  obtain ⟨blocks, hperf, hwritten⟩ := State.performWrite_scratch (l := s.gatherBytes o x) false false hin
    (fun p hp => by
      obtain ⟨c, hc, rfl⟩ := List.mem_map.1 hp
      have := ((GatherOp.mem_cellsAt hsrc).1 hc).1
      dsimp only
      omega)
    (State.gatherBytes_agree hsrc hlanes)
  have hperf : s.performWrite s.cur (s.gatherBytes o x) false false = { s with blocks := blocks } := hperf s.cur
  have hready : o.ready x = true := by simp [GatherOp.ready, hwait]
  have hrows : ((o.rowsAt x).filter fun p => !o.failed.any fun q => q.1 = p.1) = o.rowsAt x := by simp [hfailed]
  have hbytes : ((o.cellsAt x).map fun c => (c.1, (byteAt o.got c.2).getD
      ((byteAt (s.engineBytes s.cur ((o.cellsAt x).map (·.2))) c.2).getD 0))) = s.gatherBytes o x :=
    List.map_congr_left fun c hc => by
      rw [State.engineBytes_eq hdet, byteAt_map (List.mem_map_of_mem hc), Option.getD_some]
  have hmarks : ((o.cellsAt x).filter fun c => if (byteAt o.got c.2).isSome then o.marked.contains c.2 else s.engineMarked s.cur c.2) = [] := by
    rw [List.filter_eq_nil_iff]
    intro c hc
    obtain ⟨-, p, hp, k, hk, rfl⟩ := (GatherOp.mem_cellsAt hsrc).1 hc
    have hmem : (p.2 + k) % 2 ^ 56 ∈ byteLocs p.2 o.rows := by
      have := hsrc p hp
      exact List.mem_map.2 ⟨k, List.mem_range.2 hk, if_neg (by omega)⟩
    rw [hmarked, State.engineMarked_eq hdet, hclean p hp _ hmem]
    simp
  refine ⟨blocks, ?_, hwritten⟩
  unfold State.gatherPiece
  simp only [State.group?_cur hr, Option.bind_some, hfind, List.contains_iff_mem.2 hx, hready, Bool.not_true, Bool.or_self, Bool.false_eq_true, if_false,
    hrows]
  have hcells : ((o.rowsAt x).flatMap fun p => (o.cells p).filter fun c => c.1 / 32 = x) = o.cellsAt x := rfl
  rw [hcells, hbytes, hmarks, List.map_nil, State.performMarked_nil, hperf]
  exact State.onGroup_cur (s := { s with blocks := blocks }) hr _

/-- A byte that a row brings. -/
theorem State.byteAt_gatherBytes {s : State} {o : GatherOp} {x k : Nat} {p : Fin 32 × Nat} (hsrc : ∀ p ∈ o.srcs, p.2 < 2 ^ 56)
    (hlanes : (o.srcs.map (·.1)).Nodup) (hp : p ∈ o.srcs) (hk : k < o.rows) (hx : (o.dst + p.1.val * o.rows + k) / 32 = x) :
    byteAt (s.gatherBytes o x) (o.dst + p.1.val * o.rows + k) =
      some ((byteAt o.got ((p.2 + k) % 2 ^ 56)).getD (s.byteOf s.cur ((p.2 + k) % 2 ^ 56))) := by
  have hc : (o.dst + p.1.val * o.rows + k, (p.2 + k) % 2 ^ 56) ∈ o.cellsAt x := (GatherOp.mem_cellsAt hsrc).2 ⟨hx, p, hp, k, hk, rfl⟩
  have hmem := List.mem_map_of_mem (f := fun c => (c.1, (byteAt o.got c.2).getD (s.byteOf s.cur c.2))) hc
  exact byteAt_of_mem hmem fun q hq e => State.gatherBytes_agree hsrc hlanes _ hmem q hq e

/-- A byte that no row reaches. -/
theorem State.byteAt_gatherBytes_none {s : State} {o : GatherOp} {x a : Nat} (hsrc : ∀ p ∈ o.srcs, p.2 < 2 ^ 56)
    (h : ∀ p ∈ o.srcs, ¬ (o.dst + p.1.val * o.rows ≤ a ∧ a < o.dst + (p.1.val + 1) * o.rows)) : byteAt (s.gatherBytes o x) a = none := by
  refine byteAt_eq_none fun q hq e => ?_
  obtain ⟨c, hc, rfl⟩ := List.mem_map.1 hq
  obtain ⟨-, p, hp, k, hk, rfl⟩ := (GatherOp.mem_cellsAt hsrc).1 hc
  dsimp only at e
  have hrow : (p.1.val + 1) * o.rows = p.1.val * o.rows + o.rows := Nat.succ_mul ..
  exact h p hp ⟨by omega, by omega⟩

end Sys2Proof.Machine
end

section
/-! PROOF. Records and requests of the fabric leave the running group alone (R299, R309, R311), and what a failed read of a gather's
source leaves (R150). -/

namespace Sys2Proof.Machine
open Spec

/-! ## Writes by virtual address -/

theorem State.putPiece_cur (s : State) (x : Nat) (l : List (Nat × Byte)) (mark : Bool) : (s.putPiece x l mark).cur = s.cur := by
  unfold State.putPiece
  split <;> rfl

theorem State.copyFrame_cur (s : State) (i f : Nat) : (s.copyFrame i f).cur = s.cur := rfl

theorem State.copyPage_cur {s t : State} {i : Nat} {e : IptEntry} {v : Word} (h : s.copyPage i e v = some t) : t.cur = s.cur := by
  unfold State.copyPage at h
  split at h
  · cases h
  · split at h
    · cases h
    · next f m _ =>
      rw [← Option.some.inj h]
      exact State.copyFrame_cur { s with mem := m } i f

theorem State.forkPage_cur {s t : State} {i : Nat} {e : IptEntry} (h : s.forkPage i e = some t) : t.cur = s.cur := by
  unfold State.forkPage at h
  dsimp only at h
  split at h
  · cases h
  · obtain ⟨t1, h1, rfl⟩ := Option.map_eq_some_iff.1 h
    exact (State.copyPage_cur h1 : t1.cur = s.cur)

theorem State.ownPage_cur {s t : State} {i : Nat} {e : IptEntry} (h : s.ownPage i e = some t) : t.cur = s.cur := by
  unfold State.ownPage at h
  dsimp only at h
  split at h
  · exact State.forkPage_cur h
  · split at h
    · exact State.copyPage_cur h
    · rw [← Option.some.inj h]

/-- Writing sectors leaves the running group alone. -/
theorem State.foldl_putPiece_cur (s : State) (secs : List Nat) (l : Nat → List (Nat × Byte)) (mark : Nat → Bool) :
    (secs.foldl (fun s x => s.putPiece x (l x) (mark x)) s).cur = s.cur :=
  List.foldlRecOn secs _ (motive := fun t : State => t.cur = s.cur) rfl fun _ ht _ _ => (State.putPiece_cur ..).trans ht

theorem State.vwrite_cur {s t : State} {asid : BitVec 16} {va : Nat} {bytes : List Byte} {marks : List Nat}
    (h : s.vwrite asid va bytes marks = .ok t) : t.cur = s.cur := by
  unfold State.vwrite at h
  dsimp only at h
  split at h
  · cases h
  · cases h
  · split at h
    · split at h
      · cases h
      · next s1 hown =>
        split at h
        · rw [← Except.ok.inj h]
          exact (State.foldl_putPiece_cur ..).trans (State.ownPage_cur hown)
        · cases h
    · rw [← Except.ok.inj h]
      exact State.foldl_putPiece_cur ..

theorem State.setHeadWord_cur (s : State) (d : QDesc) (n x : Nat) : (s.setHeadWord d n x).cur = s.cur := by
  unfold State.setHeadWord
  split
  · next h => exact State.vwrite_cur h
  · rfl

/-! ## Records -/

theorem State.appendRecord_cur {s t : State} {exq src : Nat} {b : List Byte} (h : s.appendRecord exq src b = some t) : t.cur = s.cur := by
  unfold State.appendRecord at h
  dsimp only at h
  split at h
  · split at h
    · cases h
    · split at h
      · next s1 hw =>
        rw [← Option.some.inj h]
        exact (State.setHeadWord_cur ..).trans (State.vwrite_cur hw)
      · cases h
  · cases h

theorem State.emit_cur (s : State) (r : Rec) : (s.emit r).cur = s.cur := by
  unfold State.emit
  dsimp only
  split
  · rfl
  · split
    · rfl
    · split
      · next h => exact State.appendRecord_cur h
      · rfl

/-- The record of a failed request leaves the running group alone. -/
theorem State.initiatorRec_cur (s : State) (r : OutReq) (nack : Nat) : (s.initiatorRec r nack).cur = s.cur := State.emit_cur ..

/-! ## A failed read of a gather's source -/

/-- The running group after a failed read of a gather's source: the gather has the failure, and it is held. -/
theorem State.gatherReply_failed {s : State} {o : GatherOp} {x : Nat} {e : PieceEnd} (hres : s.cur.resident = true)
    (hfind : s.cur.pend.ga.find? (·.id = o.id) = some o) (he : e.arrived = false) (hrows : o.readers x ≠ [])
    (hheld : ∀ h ∈ s.cur.pend.held, h.id ≠ o.id) :
    (s.gatherReply s.cur.ref o.id x e).cur.regs = s.cur.regs ∧ (s.gatherReply s.cur.ref o.id x e).cur.splits = s.cur.splits ∧
    (s.gatherReply s.cur.ref o.id x e).cur.pend.held = s.cur.pend.held ++
      [⟨o.id, o.split, o.readers x, 8, if (o.reply x e).timed then 0 else (o.reply x e).nackCode⟩] := by
  have hr := Group.isRef_self hres
  have hover : ∀ g order, s.overlaid g order x e = e := by
    intro g order
    cases e with
    | data b => cases he
    | nack c => rfl
    | timeout => rfl
  have hne : (o.readers x).isEmpty = false := by simpa using hrows
  have hnew : s.cur.pend.held.any (fun h => decide (h.id = o.id)) = false := List.any_eq_false.2 fun h hh => by simpa using hheld h hh
  unfold State.gatherReply
  simp only [State.group?_cur hr, Option.bind_some, hfind, hover, he, hne, Bool.or_self, Bool.false_eq_true, if_false]
  rw [State.onGather, State.hold, State.onGroup_onGroup_cur hr hr]
  refine ⟨rfl, rfl, ?_⟩
  simp [Pending.withHeld, hnew]

/-- What a failed answer to a gather's read leaves. -/
theorem State.requestEnd_gather {s : State} {o : GatherOp} {r : OutReq} {x : Nat} {e : PieceEnd} {n : Nat} (hres : s.cur.resident = true)
    (ho : o ∈ s.cur.pend.ga) (hga : (s.cur.pend.ga.map (·.id)).Nodup) (howner : r.owner = .gatherRead s.cur.ref o.id x)
    (he : e.arrived = false) (hrows : o.readers x ≠ []) (hheld : ∀ h ∈ s.cur.pend.held, h.id ≠ o.id) :
    let t := ((s.dropReq r.id).initiatorRec r n).requestEnd r e
    t.cur.regs = s.cur.regs ∧ t.cur.splits = s.cur.splits ∧ t.cur.pend.held = s.cur.pend.held ++
      [⟨o.id, o.split, o.readers x, 8, if (o.reply x e).timed then 0 else (o.reply x e).nackCode⟩] := by
  intro t
  have hcur : ((s.dropReq r.id).initiatorRec r n).cur = s.cur := State.initiatorRec_cur ..
  have ht : t = ((s.dropReq r.id).initiatorRec r n).gatherReply s.cur.ref o.id x e := by
    simp only [t, State.requestEnd, howner]
  have hfailed := State.gatherReply_failed (s := (s.dropReq r.id).initiatorRec r n) (o := o) (x := x) (e := e)
  rw [hcur] at hfailed
  rw [ht]
  exact hfailed hres (find?_key (·.id) ho hga) he hrows hheld

end Sys2Proof.Machine
end

section
/-! PROOF. The second half of O23: what copies and gathers in their engines do. -/

namespace Sys2Proof.Proofs
open Machine Spec

/-- A copy's piece in a scratchpad (R151). -/
theorem copyPiece_written {s : State} {c : CopyOp} {x bl off : Nat} (hres : s.cur.resident = true) (hdet : (s.lchOf s.cur).img.det = false)
    (hc : c ∈ s.cur.pend.cp) (hids : (s.cur.pend.cp.map (·.id)).Nodup) (hx : x ∈ c.left) (hsent : x ∉ c.sent) (hdab : c.dab = none)
    (hga : ∀ o ∈ s.cur.pend.ga, o.id ≠ c.id) (horig : c.orig = []) (hwait : c.waitSrc = []) (hgot : c.got = [])
    (hin : InScratch s (x * 32) 32 bl off) (hsec : x * 32 + 32 ≤ 2 ^ 56)
    (hsrc : ∀ d ∈ c.dstLocs x, s.remoteOf s.cur (c.srcLoc d / 32) = none ∧ s.markedAt s.cur (c.srcLoc d) = false) :
    ∃ t, exec (.copyPieceWritten s.cur.ref c.id x) s = .next t ∧ t.mem = s.mem ∧ t.cur.regs = s.cur.regs ∧ t.cur.splits = s.cur.splits ∧
      (∀ k < 32, scratchByte t bl (off + k) =
        if x * 32 + k ∈ c.dstLocs x then s.byteOf s.cur (c.srcLoc (x * 32 + k)) else scratchByte s bl (off + k)) ∧
      ScratchSame s t bl off 32 ∧
      t.cur.pend.cp = s.cur.pend.cp.map fun p => if p.id = c.id then { p with left := p.left.filter (· ≠ x) } else p := by
  obtain ⟨blocks, hpiece, hwritten⟩ := State.copyPiece_scratch hres hdet (find?_key (·.id) hc hids) hx hsent hdab horig hwait hgot hin hsec hsrc
  have hexec : exec (.copyPieceWritten s.cur.ref c.id x) s = .next ((s.copyPiece s.cur.ref c.id x).gatherPiece s.cur.ref c.id x) := rfl
  have hnone : (s.copied blocks c.id x).gatherPiece s.cur.ref c.id x = s.copied blocks c.id x := 
    State.gatherPiece_none (s := s.copied blocks c.id x) hga (Group.isRef_self hres) x
  obtain ⟨hbytes, hsame⟩ := hwritten (s.copied blocks c.id x) rfl rfl rfl
  refine ⟨s.copied blocks c.id x, hexec.trans (by rw [hpiece, hnone]), rfl, rfl, rfl, fun k hk => ?_, hsame, ?_⟩
  · rw [hbytes k hk, State.byteAt_copyBytes]
    split
    · exact Option.getD_some
    · exact Option.getD_none
  · have hdel : setDel c.sent x = c.sent := List.filter_eq_self.2 fun y hy => by simpa using fun e : y = x => hsent (e ▸ hy)
    refine (replaceFirst_key CopyOp.id _ c.id hids).trans (map_key_congr CopyOp.id hc hids ?_)
    rw [hdel]
    rfl

/-- A gather's piece in a scratchpad (R152). -/
theorem gatherPiece_written {s : State} {o : GatherOp} {x bl off : Nat} (hres : s.cur.resident = true) (hdet : (s.lchOf s.cur).img.det = false)
    (ho : o ∈ s.cur.pend.ga) (hids : (s.cur.pend.ga.map (·.id)).Nodup) (hcp : ∀ c ∈ s.cur.pend.cp, c.id ≠ o.id) (hx : x ∈ o.left)
    (hwait : o.waitSrc = []) (hfailed : o.failed = []) (hmarked : o.marked = []) (hlanes : (o.srcs.map (·.1)).Nodup)
    (hsrc : ∀ p ∈ o.srcs, p.2 < 2 ^ 56) (hin : InScratch s (x * 32) 32 bl off)
    (hclean : ∀ p ∈ o.srcs, ∀ a ∈ byteLocs p.2 o.rows, s.markedAt s.cur a = false) :
    ∃ t, exec (.copyPieceWritten s.cur.ref o.id x) s = .next t ∧ t.cur.regs = s.cur.regs ∧ t.cur.splits = s.cur.splits ∧ t.mem = s.mem ∧
      (∀ p ∈ o.srcs, ∀ k < o.rows, (o.dst + p.1.val * o.rows + k) / 32 = x →
        scratchByte t bl (off + (o.dst + p.1.val * o.rows + k) % 32) =
          (byteAt o.got ((p.2 + k) % 2 ^ 56)).getD (s.byteOf s.cur ((p.2 + k) % 2 ^ 56))) ∧
      (∀ k < 32, (∀ p ∈ o.srcs, ¬ (o.dst + p.1.val * o.rows ≤ x * 32 + k ∧ x * 32 + k < o.dst + (p.1.val + 1) * o.rows)) →
        scratchByte t bl (off + k) = scratchByte s bl (off + k)) ∧ ScratchSame s t bl off 32 ∧
      t.cur.pend.ga = s.cur.pend.ga.map fun p => if p.id = o.id then { p with left := p.left.filter (· ≠ x) } else p := by
  obtain ⟨blocks, hpiece, hwritten⟩ := State.gatherPiece_scratch hres hdet (find?_key (·.id) ho hids) hx hwait hfailed hmarked hlanes hsrc hin hclean
  have hexec : exec (.copyPieceWritten s.cur.ref o.id x) s = .next ((s.copyPiece s.cur.ref o.id x).gatherPiece s.cur.ref o.id x) := rfl
  have hnone : s.copyPiece s.cur.ref o.id x = s := State.copyPiece_none hcp (Group.isRef_self hres) x
  obtain ⟨hbytes, hsame⟩ := hwritten (s.gathered blocks o.id x) rfl rfl rfl
  refine ⟨s.gathered blocks o.id x, hexec.trans (by rw [hnone, hpiece]), rfl, rfl, rfl, fun p hp k hk hkx => ?_, fun k hk hout => ?_, hsame,
    replaceFirst_key GatherOp.id _ o.id hids⟩
  · have hat := State.byteAt_gatherBytes (s := s) hsrc hlanes hp hk hkx
    have hloc : x * 32 + (o.dst + p.1.val * o.rows + k) % 32 = o.dst + p.1.val * o.rows + k := by omega
    rw [hbytes _ (by omega), hloc, hat, Option.getD_some]
  · rw [hbytes k hk, State.byteAt_gatherBytes_none hsrc hout, Option.getD_none]

theorem execRemoteReply_nack {s : State} {r : OutReq} {c : Nat} (hr : r ∈ s.fabric.reqs) (hids : (s.fabric.reqs.map (·.id)).Nodup)
    (hc1 : 1 ≤ c) (hc6 : c ≤ 6) (hdue : ¬ r.sent + s.fabric.tRemote * 47000 ≤ s.cycle.toNat) (hup : ∃ p ∈ s.fabric.ports, p.st = .active) :
    exec (.remoteReply r.id (.nack c)) s = .next (((s.dropReq r.id).initiatorRec r c).requestEnd r (.nack c)) := by
  have hfind : s.fabric.reqs.find? (fun q => decide (q.id = r.id)) = some r := find?_key OutReq.id hr hids
  have hup : s.fabric.up = true := by
    obtain ⟨p, hp, hst⟩ := hup
    exact List.any_eq_true.2 ⟨p, hp, by simpa using hst⟩
  have hexec : exec (.remoteReply r.id (.nack c)) s = execRemoteReply r.id (.nack c) s := rfl
  have hcode : ¬ (c = 0 ∨ 6 < c) := by omega
  have hopen : ¬ (((!s.fabric.up) = true) ∨ r.sent + s.fabric.limit ≤ s.cycle.toNat) := by
    rw [hup]
    exact fun h => hdue (h.resolve_left (by decide))
  rw [hexec, execRemoteReply]
  simp only [hfind, hopen, hcode, if_false]

theorem execTRemoteExpiry_due {s : State} {r : OutReq} (hr : r ∈ s.fabric.reqs) (hids : (s.fabric.reqs.map (·.id)).Nodup)
    (hdue : r.sent + s.fabric.tRemote * 47000 ≤ s.cycle.toNat) :
    exec (.tRemoteExpiry r.id) s = .next (((s.dropReq r.id).initiatorRec r 0).requestEnd r .timeout) := by
  have hfind : s.fabric.reqs.find? (fun q => decide (q.id = r.id)) = some r := find?_key OutReq.id hr hids
  have hexec : exec (.tRemoteExpiry r.id) s = execTRemoteExpiry r.id s := rfl
  have hlate : ¬ s.cycle.toNat < r.sent + s.fabric.limit := Nat.not_lt.2 hdue
  rw [hexec, execTRemoteExpiry]
  simp only [hfind, hlate, if_false]

/-- A first refusal is held with the peer's code. -/
theorem reply_nack_held {o : GatherOp} {x c : Nat} (htimed : o.timed = false) (hnack : o.nackCode = 0) :
    (if (o.reply x (.nack c)).timed then 0 else (o.reply x (.nack c)).nackCode) = c := by
  simp [GatherOp.reply, htimed, hnack]

theorem enginesComplete : EnginesComplete := by
  intro s hres hdet
  refine ⟨fun c x bl off hc hids hx hsent hdab hga horig hwait hgot _ hin hsec _ _ hsrc =>
      copyPiece_written hres hdet hc hids hx hsent hdab hga horig hwait hgot hin hsec hsrc,
    fun c cs hcp hleft hwait htok => ?_,
    fun o x bl off ho hids hcp hx hwait hfailed hmarked hlanes hsrc _ hin hclean =>
      gatherPiece_written hres hdet ho hids hcp hx hwait hfailed hmarked hlanes hsrc hin hclean,
    fun o os hga hwait hleft => congrArg _ (State.retireGather_eq hres hga hleft hwait),
    fun o r x ho hids hr hreqs howner htimed hnack hheld => ?_⟩
  · obtain ⟨l1, hretire, hsub⟩ := State.retireCopy_eq hres hcp hleft hwait
    obtain ⟨hst, hval⟩ := s.cur.regs.copyEnd_token c
    obtain ⟨hs, hv, hk⟩ := s.cur.regs.copyEnd_others c htok
    have hexec : exec (.copyRetire s.cur.ref) s = .next (s.retireCopy s.cur.ref) := rfl
    exact ⟨_, hexec.trans (congrArg _ hretire), rfl, hst, hval, hs, hv, hk, rfl, rfl, hsub, rfl⟩
  · intro rows due hrows
    refine ⟨fun c hc1 hc6 hdue hup => ⟨_, execRemoteReply_nack hr hreqs hc1 hc6 hdue hup, ?_⟩,
      fun hdue => ⟨_, execTRemoteExpiry_due hr hreqs hdue, ?_⟩⟩
    · obtain ⟨h1, h2, h3⟩ := State.requestEnd_gather (e := .nack c) (n := c) hres ho hids howner rfl hrows hheld
      rw [reply_nack_held htimed hnack] at h3
      exact ⟨h1, h2, h3⟩
    · exact State.requestEnd_gather (e := .timeout) (n := 0) hres ho hids howner rfl hrows hheld

end Sys2Proof.Proofs
end

section
/-! PROOF. The first half of O23: CPASYNC and GATHER enter their engines, or wait for them (R24, R151, R152). -/

namespace Sys2Proof.Machine
open Spec

/-! ## What an issue to an engine touches -/

theorem Mem.fillTlb_eq (m : Mem) (core : Nat) (asid : BitVec 16) (vpn : Nat) (ver : Word) : ∃ tlb, m.fillTlb core asid vpn ver = { m with tlb := tlb } := by
  unfold Mem.fillTlb
  split
  · exact ⟨m.tlb, rfl⟩
  · split
    · exact ⟨m.tlb, rfl⟩
    · exact ⟨_, rfl⟩

/-- Walks fill the TLB. -/
theorem State.touch_eq (s : State) (g : Group) (l : List Nat) : ∃ tlb, s.touch g l = { s with mem := { s.mem with tlb := tlb } } := by
  have h : ∀ (pages : List Nat), ∃ tlb, pages.foldl (fun m p => m.fillTlb (s.coreOf g) (s.lchOf g).asid p (s.lchOf g).img.codever) s.mem =
      { s.mem with tlb := tlb } := fun pages =>
    List.foldlRecOn pages _ (motive := fun m : Mem => ∃ tlb, m = { s.mem with tlb := tlb }) ⟨s.mem.tlb, rfl⟩ fun m hm p _ => by
      obtain ⟨tlb, rfl⟩ := hm
      obtain ⟨tlb', h⟩ := Mem.fillTlb_eq { s.mem with tlb := tlb } (s.coreOf g) (s.lchOf g).asid p (s.lchOf g).img.codever
      exact ⟨tlb', h⟩
  obtain ⟨tlb, h⟩ := h (setAddAll [] ((l.filter fun x => isGlobal (x * 32)).map (· / 2048)))
  exact ⟨tlb, by unfold State.touch; simp only [h]⟩

/-- Requests, one per element of a list or none, change the fabric and the tenants' counts. -/
theorem State.sendAll_eq {s t : State} {l : List Nat} {f : State → Nat → State} (ht : l.foldl f s = t)
    (hf : ∀ t x, f t x = t ∨ ∃ q, f t x = (t.sendReq q).2) : ∃ tenants fabric, t = { s with tenants := tenants, fabric := fabric } := by
  subst ht
  refine List.foldlRecOn l f (motive := fun t : State => ∃ tenants fabric, t = { s with tenants := tenants, fabric := fabric })
    ⟨s.tenants, s.fabric, rfl⟩ fun t ht x _ => ?_
  obtain ⟨tenants, fabric, rfl⟩ := ht
  rcases hf { s with tenants := tenants, fabric := fabric } x with h | ⟨q, h⟩
  · exact ⟨tenants, fabric, h⟩
  · exact ⟨_, _, h⟩

/-- Taking a place in the order of staged writes changes that order alone. -/
theorem State.takeOrder_eq (s : State) (n : Nat) : ∃ ls, (s.takeOrder n).2 = { s with launches := ls } ∧
    (ls.map fun l => { l with orders := 0 }) = s.launches.map fun l => { l with orders := 0 } := by
  unfold State.takeOrder
  split
  · refine ⟨_, rfl, ?_⟩
    generalize s.launches = ls
    induction ls with
    | nil => rfl
    | cons l ls ih =>
      unfold replaceFirst
      split
      · rfl
      · exact congrArg (_ :: ·) ih
  · exact ⟨s.launches, rfl, rfl⟩

/-- Without accesses outstanding no piece comes before an engine. -/
theorem State.flushBytes_idle {s : State} {r : GRef} (hr : s.cur.isRef r = true) (h : s.cur.pend.mem = []) (w : Owner) (need : List Nat) :
    s.flushBytes r w need = s := by
  unfold State.flushBytes
  simp only [State.group?_cur hr, h]
  rfl

/-! ## The engines' lists -/

/-- A copy enters its engine (R151). -/
theorem State.enterCopy_eq {s : State} (h : Homed s) (c : CopyOp) : ∃ far orig marked tlb tenants fabric, s.enterCopy c = { s with
      cur := { s.cur with
        regs := s.cur.regs.setSt .empty (.s c.token)
        pend := { s.cur.pend with
          nextId := s.cur.pend.nextId + 1
          cp := s.cur.pend.cp ++ [{ c with
            id := s.cur.pend.nextId, left := sectorSet (byteLocs c.dst c.count), sent := [], waitSrc := far, got := [], orig := orig
            marked := marked, fail := .full }] } }
      mem := { s.mem with tlb := tlb }, tenants := tenants, fabric := fabric } := by
  obtain ⟨tlb, htouch⟩ := s.touch_eq s.cur (sectorSet (byteLocs c.src c.count) ++ sectorSet (byteLocs c.dst c.count))
  unfold State.enterCopy
  simp only [State.flushBlock_homed h, htouch]
  generalize hsend : List.foldl _ _ _ = t
  obtain ⟨tenants, fabric, rfl⟩ := State.sendAll_eq hsend fun t x => by
    split
    · exact Or.inl rfl
    · exact Or.inr ⟨_, rfl⟩
  exact ⟨_, _, _, tlb, tenants, fabric, rfl⟩

/-- A gather enters its engine (R152). -/
theorem State.enterGather_eq {s : State} (h : Homed s) (o : GatherOp) : ∃ far got marked left fresh tlb tenants fabric, s.enterGather o = { s with
      cur := { s.cur with pend := { s.cur.pend with
        nextId := s.cur.pend.nextId + 1
        ga := s.cur.pend.ga ++ [{ o with
          id := s.cur.pend.nextId, waitSrc := far, got := got, failed := [], nackCode := 0, timed := false, marked := marked, left := left }] } }
      mem := { s.mem with tlb := tlb }, tenants := tenants, fabric := fabric, fresh := fresh } := by
  obtain ⟨tlb, htouch⟩ := s.touch_eq s.cur (sectorSet (o.srcs.flatMap fun p => byteLocs p.2 o.rows))
  unfold State.enterGather
  simp only [State.flushBlock_homed h, htouch]
  generalize hsend : List.foldl _ _ _ = t
  obtain ⟨tenants, fabric, rfl⟩ := State.sendAll_eq hsend fun t x => by
    split
    · exact Or.inl rfl
    · exact Or.inr ⟨_, rfl⟩
  exact ⟨_, _, _, _, _, tlb, tenants, fabric, rfl⟩

/-- What completes with nothing changed but register states, the engines' lists and what engines touch. -/
theorem State.engaged_retire {s u : State} (i : Instr) (hcur : u.cur = { s.cur with regs := u.cur.regs, pend := u.cur.pend })
    (hv : u.cur.regs.v = s.cur.regs.v) (hs : u.cur.regs.s = s.cur.regs.s) (hk : u.cur.regs.k = s.cur.regs.k)
    (hpend : u.cur.pend.mem = s.cur.pend.mem) (hblocks : u.blocks = s.blocks)
    (hls : (u.launches.map fun l => { l with orders := 0 }) = s.launches.map fun l => { l with orders := 0 })
    (hbytes : u.mem.bytes = s.mem.bytes) (hpoison : u.mem.poison = s.mem.poison) :
    Engaged i s (u.retire i) ∧ (u.retire i).cur.pend = u.cur.pend ∧ (u.retire i).cur.regs = u.cur.regs := by
  have hsig : u.sigFolded i = sigAfter i s := by
    rw [State.sigFolded_eq]
    unfold sigAfter
    rw [hcur]
    rfl
  have hsp : u.cur.sp = s.cur.sp := by rw [hcur]; rfl
  have hrun : u.cur.running = s.cur.running := by rw [hcur]
  have hctl : u.cur.ctl = s.cur.ctl := by rw [hcur]
  rw [State.retire_eq, hsig, hsp]
  refine ⟨⟨?_, fun n hn => ?_, hctl, hv, hs, hk, hpend, hblocks, hls, hbytes, hpoison⟩, rfl, rfl⟩
  · rw [State.onSp_cur_sp, hsp]
    rfl
  · rw [State.onSp_cur_entry u _ (hrun ▸ hn), hcur]
    rfl

/-! ## The checks at issue -/

/-- An instruction whose row's operands are in order, with no check of its own that fails, has its effect. -/
theorem issue_ready {i : Instr} {op : BitVec 7} {f : Fields} {p : Plan} {body : State → Res} {s : State} (hready : Ready op f s)
    (hrow : p.row = rowFor op f ∧ p.f = f ∧ p.xsrc = [] ∧ p.xdst = [] ∧ p.priv = none) (hmore : p.more s.limits = none)
    (hvec : p.vector = true → s.cur.exec ≠ 0) : issue i p body s = finish i (body s) := by
  obtain ⟨herr, hsrc, hfree⟩ := hready
  obtain ⟨hrow, hf, hxs, hxd, hpriv⟩ := hrow
  refine issue_passes hvec ?_ hpriv (fun x hx => ?_) fun r hr => ?_
  · rw [Plan.err, hrow, hf, herr, hmore]
    rfl
  · rcases Plan.mem_srcs hx with h | h
    · exact hsrc x (by rwa [hrow, hf] at h)
    · rw [hxs] at h
      cases h
  · rw [Plan.dsts, hxd, List.append_nil, hrow, hf] at hr
    exact hfree r hr

/-- The lanes of a check all pass when it finds nothing. -/
theorem State.checkLanes_none {s : State} {g : Group} {acc : Nat} {ls : List (Fin 32 × DWord × Nat)} (h : s.checkLanes g acc ls = none) :
    ∀ p ∈ ls, s.checkRange g acc (p.2.1.toNat % 2 ^ 56) p.2.2 = none := by
  intro p hp
  have hnil : ls.filterMap (fun p => (s.checkRange g acc (p.2.1.toNat % 2 ^ 56) p.2.2).map fun b => (p.1, acc, b)) = [] := by
    unfold State.checkLanes at h
    cases hb : ls.filterMap (fun p => (s.checkRange g acc (p.2.1.toNat % 2 ^ 56) p.2.2).map fun b => (p.1, acc, b)) with
    | nil => rfl
    | cons b bs =>
      rw [hb] at h
      cases h
  simpa using List.filterMap_eq_nil_iff.1 hnil p hp

end Sys2Proof.Machine
end

section
/-! PROOF. O23: CPASYNC and GATHER at issue, and what their engines do. -/

namespace Sys2Proof.Proofs
open Machine Spec

/-- CPASYNC with operands that pass every check: it waits while its class is full, else the copy enters its engine (R151). -/
theorem cpasync_issue {f : Fields} {s : State} (hres : s.cur.resident = true) (hmem : s.cur.pend.mem = [])
    (hready : Ready 0x5F f s) (hdst : (s.cur.regs.getPair f.a).toNat % 4 = 0) (hsrc : (s.cur.regs.getPair f.b).toNat % 4 = 0)
    (hn : f.w2.toNat % 4 = 0) (hlo : 4 ≤ f.w2.toNat) (hhi : f.w2.toNat ≤ 65536) (h6 : RangeOk s 6 (s.cur.regs.getPair f.b) f.w2.toNat)
    (h7 : RangeOk s 7 (s.cur.regs.getPair f.a) f.w2.toNat)
    (hobj : f.sub = 1 → (s.cur.regs.getPair f.c).toNat % 16 = 0 ∧ RangeOk s 10 (s.cur.regs.getPair f.c) 16) :
    exec (.cpasync f) s = .next (finish (.cpasync f) (if s.cur.full 0 then .wait s else .done (s.startCopy
      { id := 0, split := .entry 0, pc := 0, src := (s.cur.regs.getPair f.b).toNat % 2 ^ 56, dst := (s.cur.regs.getPair f.a).toNat % 2 ^ 56
        count := f.w2.toNat, token := f.d, dab := if f.sub = 1 then some ((s.cur.regs.getPair f.c).toNat % 2 ^ 56) else none, left := []
        words := encode (.cpasync f) }))) := by
  have hr := Group.isRef_self hres
  have hexec : exec (.cpasync f) s = execCpasync f s := rfl
  have hbad : ¬ (f.w2.toNat % 4 ≠ 0 ∨ f.w2.toNat < 4 ∨ 65536 < f.w2.toNat) := by omega
  have hal : ¬ (f.sub = 1 ∧ (s.cur.regs.getPair f.c).toNat % 16 ≠ 0) := fun h => h.2 (hobj h.1).1
  have h10 : (if f.sub = 1 then s.checkOne 10 (s.cur.regs.getPair f.c) 16 else none) = none := by
    split
    · next h => exact (hobj h).2
    · rfl
  rw [hexec, execCpasync, issue_ready hready ⟨rfl, rfl, rfl, rfl, rfl⟩ rfl (by exact nofun)]
  have h6 : s.checkOne 6 (s.cur.regs.getPair f.b) f.w2.toNat = none := h6
  have h7 : s.checkOne 7 (s.cur.regs.getPair f.a) f.w2.toNat = none := h7
  simp only [hdst, hsrc, hbad, h6, h7, hal, h10, State.flushBytes_idle hr hmem, hr, ne_eq, not_true, if_false, Bool.not_true, Bool.false_eq_true]

/-- What CPASYNC leaves (R24, R151). -/
theorem cpasync_engaged {f : Fields} {s : State} (hhome : Homed s) (c : CopyOp) (hc : c.token = f.d) :
    ∃ t c', finish (.cpasync f) (.done (s.startCopy c)) = t ∧ Engaged (.cpasync f) s t ∧ t.cur.pend.ga = s.cur.pend.ga ∧
      t.cur.pend.cp = s.cur.pend.cp ++ [c'] ∧ c'.id = s.cur.pend.nextId ∧ c'.src = c.src ∧ c'.dst = c.dst ∧ c'.count = c.count ∧
      c'.token = f.d ∧ c'.dab = c.dab ∧ c'.left = sectorSet (byteLocs c.dst c.count) ∧ c'.sent = [] ∧ c'.fail = .full ∧
      t.cur.regs.stOf (.s f.d) = .empty := by
  obtain ⟨ls, horder, hls⟩ := s.takeOrder_eq s.cur.launch
  obtain ⟨far, orig, marked, tlb, tenants, fabric, henter⟩ := State.enterCopy_eq (s := { s with launches := ls }) hhome
    { c with split := .entry s.cur.running, pc := s.cur.sp.pc, tag := s.cur.iss.roundTag, order := (s.takeOrder s.cur.launch).1 }
  have hstart : s.startCopy c = ({ s with launches := ls } : State).enterCopy
      { c with split := .entry s.cur.running, pc := s.cur.sp.pc, tag := s.cur.iss.roundTag, order := (s.takeOrder s.cur.launch).1 } := by
    rw [← horder]
    rfl
  generalize s.startCopy c = u at hstart
  have hu := hstart.trans henter
  obtain ⟨hengaged, hpend, hregs⟩ := State.engaged_retire (s := s) (u := u) (.cpasync f) (by rw [hu]) (by rw [hu]; rfl) (by rw [hu]; rfl)
    (by rw [hu]; rfl) (by rw [hu]) (by rw [hu]) (by rw [hu]; exact hls) (by rw [hu]) (by rw [hu])
  have hcp := (congrArg Pending.cp hpend).trans (congrArg (fun t : State => t.cur.pend.cp) hu)
  have hga := (congrArg Pending.ga hpend).trans (congrArg (fun t : State => t.cur.pend.ga) hu)
  have hst : (u.retire (.cpasync f)).cur.regs.stOf (.s c.token) = (s.cur.regs.setSt .empty (.s c.token)).stOf (.s c.token) := by
    rw [hregs, hu]
  refine ⟨_, _, rfl, hengaged, hga, hcp, rfl, rfl, rfl, rfl, hc, rfl, rfl, rfl, rfl, ?_⟩
  rw [← hc]
  exact hst.trans (RegFile.stOf_setSt_same ..)

/-- GATHER with operands that pass every check (R152). -/
theorem gather_issue {f : Fields} {s : State} (hres : s.cur.resident = true) (hmem : s.cur.pend.mem = [])
    (hacts : Acts f s) (hready : Ready 0x60 f s) (ha : f.a ≠ 0xFF) (hdst : (s.cur.regs.getPair f.c).toNat % 4 = 0) (hn : f.w2.toNat % 4 = 0)
    (hlo : 4 ≤ f.w2.toNat) (hhi : f.w2.toNat ≤ 4096)
    (h8 : s.checkLanes s.cur 8 ((laneList.filter (maskBit s.cur.exec)).map fun l =>
      (l, s.cur.regs.getPair f.b + ((0 : Word) ++ (s.cur.regs.getV f.a).get l), f.w2.toNat)) = none)
    (h9 : s.checkLanes s.cur 9 ((laneList.filter (maskBit s.cur.exec)).map fun l =>
      (l, s.cur.regs.getPair f.c + BitVec.ofNat 64 (l.val * f.w2.toNat), f.w2.toNat)) = none) :
    exec (.gather f) s = .next (finish (.gather f) (if s.cur.full 2 then .wait s else .done (s.startGather
      { id := 0, split := .entry 0, pc := 0, rows := f.w2.toNat, dst := (s.cur.regs.getPair f.c).toNat % 2 ^ 56
        srcs := (laneList.filter (maskBit s.cur.exec)).map fun l =>
          (l, (s.cur.regs.getPair f.b + ((0 : Word) ++ (s.cur.regs.getV f.a).get l)).toNat % 2 ^ 56)
        base := (s.cur.regs.getPair f.b).toNat % 2 ^ 56, words := encode (.gather f) }))) := by
  have hr := Group.isRef_self hres
  have hexec : exec (.gather f) s = execGather f s := rfl
  have hbad : ¬ (f.w2.toNat % 4 ≠ 0 ∨ f.w2.toNat < 4 ∨ 4096 < f.w2.toNat) := by omega
  have hmore : (if f.a = 0xFF then some (FieldErr.mk 1 0xFF) else if f.w2.toNat % 4 ≠ 0 ∨ f.w2.toNat < 4 ∨ 4096 < f.w2.toNat then some ⟨6, f.w2⟩
      else none) = none := by rw [if_neg ha, if_neg hbad]
  have hlanes : activeLanes false s.cur.exec = laneList.filter (maskBit s.cur.exec) := rfl
  have hraw : ∀ x : Word, raw32 x = (0 : Word) ++ x := fun _ => rfl
  rw [hexec, execGather, issue_ready hready ⟨rfl, rfl, rfl, rfl, rfl⟩ hmore (by exact fun h => hacts (by simpa [planOf] using h))]
  simp only [hdst, State.flushBytes_idle hr hmem, hr, ne_eq, not_true, if_false, Bool.not_true, Bool.false_eq_true, hlanes, hraw]
  rw [List.filterMap_eq_nil_iff.2 ?hpass]
  case hpass =>
    intro l hl
    have hl8 := State.checkLanes_none h8 _ (List.mem_map_of_mem hl)
    have hl9 := State.checkLanes_none h9 _ (List.mem_map_of_mem hl)
    dsimp only at hl8 hl9
    simp only [hl8, hl9, Option.map_none]
  simp only [trapOfBads]

/-- What GATHER leaves (R24, R152). -/
theorem gather_engaged {f : Fields} {s : State} (hhome : Homed s) (o : GatherOp) :
    ∃ t o', finish (.gather f) (.done (s.startGather o)) = t ∧ Engaged (.gather f) s t ∧ t.cur.pend.cp = s.cur.pend.cp ∧
      t.cur.pend.ga = s.cur.pend.ga ++ [o'] ∧ o'.id = s.cur.pend.nextId ∧ o'.rows = o.rows ∧ o'.dst = o.dst ∧ o'.srcs = o.srcs ∧ o'.failed = [] := by
  obtain ⟨far, got, marked, left, fresh, tlb, tenants, fabric, henter⟩ :=
    State.enterGather_eq hhome { o with split := .entry s.cur.running, pc := s.cur.sp.pc }
  have hu : s.startGather o = _ := henter
  generalize s.startGather o = u at hu
  obtain ⟨hengaged, hpend, -⟩ := State.engaged_retire (s := s) (u := u) (.gather f) (by rw [hu]) (by rw [hu]) (by rw [hu]) (by rw [hu])
    (by rw [hu]) (by rw [hu]) (by rw [hu]) (by rw [hu]) (by rw [hu])
  have hcp := (congrArg Pending.cp hpend).trans (congrArg (fun t : State => t.cur.pend.cp) hu)
  have hga := (congrArg Pending.ga hpend).trans (congrArg (fun t : State => t.cur.pend.ga) hu)
  exact ⟨_, _, rfl, hengaged, hcp, hga, rfl, rfl, rfl, rfl, rfl⟩

theorem enginesTakeWork : EnginesTakeWork := by
  intro f s hres hmem hhome
  constructor
  · intro _ hready dst src n obj hdst hsrc hn hlo hhi h6 h7 hobj
    have hissue := cpasync_issue hres hmem hready hdst hsrc hn hlo hhi h6 h7 hobj
    refine ⟨fun hroom => ?_, fun hfull => ?_⟩
    · have hfree : s.cur.full 0 = false := decide_eq_false (Nat.not_le.2 hroom)
      rw [hfree] at hissue
      obtain ⟨t, c, rfl, hc⟩ := cpasync_engaged (f := f) hhome
        { id := 0, split := .entry 0, pc := 0, src := src.toNat % 2 ^ 56, dst := dst.toNat % 2 ^ 56, count := n, token := f.d
          dab := if f.sub = 1 then some (obj.toNat % 2 ^ 56) else none, left := [], words := encode (.cpasync f) } rfl
      exact ⟨_, c, hissue, hc⟩
    · have hwait : s.cur.full 0 = true := decide_eq_true hfull
      rw [hwait] at hissue
      exact ⟨_, hissue, rfl⟩
  · intro _ hacts hready ha n dst src on hdst hn hlo hhi h8 h9
    have hissue := gather_issue hres hmem hacts hready ha hdst hn hlo hhi h8 h9
    refine ⟨fun hroom => ?_, fun hfull => ?_⟩
    · have hfree : s.cur.full 2 = false := decide_eq_false (Nat.not_le.2 hroom)
      rw [hfree] at hissue
      obtain ⟨t, o, rfl, ho⟩ := gather_engaged (f := f) hhome _
      exact ⟨_, o, hissue, ho⟩
    · have hwait : s.cur.full 2 = true := decide_eq_true hfull
      rw [hwait] at hissue
      exact ⟨_, hissue, rfl⟩

/-- Settles O23: an issue enters the engine's list and touches nothing else of note; pieces write where the destination stands, the oldest
operation retires, and a peer's refusal is held. -/
theorem enginesWork : Obligations.EnginesWork := ⟨enginesTakeWork, enginesComplete⟩

end Sys2Proof.Proofs
end

section
/-! PROOF. The words of an instruction and its fields (R30, R33 to R35): each of them gives the other. -/

namespace Sys2Proof
open BitVec (getLsbD_append getElem_extractLsb')

/-! ## The bits of the words (R30, R33, R34) -/

theorem Form.ofLen_len (fm : Form) : Form.ofLen fm.len = fm := by cases fm <;> rfl

theorem Form.len_ofLen (n : BitVec 2) : (Form.ofLen n).len = n := by
  revert n
  decide

theorem ofBool_bitOf (w : Word) (i : Nat) : BitVec.ofBool (bitOf w i) = w.extractLsb' i 1 := by
  ext k hk
  have : k = 0 := by omega
  subst this
  simp [bitOf]

/-- The bits of a base word, field by field (R33). -/
theorem getLsbD_word0 (op : BitVec 7) (f : Fields) (i : Nat) : (word0 op f).getLsbD i =
    if i < 2 then f.form.len.getLsbD i else if i < 9 then op.getLsbD (i - 2) else if i < 17 then f.d.getLsbD (i - 9)
    else if i < 25 then f.a.getLsbD (i - 17) else if i < 31 then f.b6.getLsbD (i - 25) else i = 31 && f.u := by
  simp only [word0, getLsbD_append]
  grind

/-- The bits of word 1, field by field (R34). -/
theorem getLsbD_word1 (f : Fields) (i : Nat) : (word1 f).getLsbD i =
    if i < 8 then f.b.getLsbD i else if i < 16 then f.c.getLsbD (i - 8) else if i < 20 then f.cls.getLsbD (i - 16)
    else if i < 24 then f.sub.getLsbD (i - 20) else if i < 27 then f.fe.getLsbD (i - 24) else if i < 30 then f.mod3.getLsbD (i - 27)
    else if i = 30 then f.bs else i = 31 && f.cs := by
  simp only [word1, getLsbD_append]
  grind

theorem opOf_word0 (op : BitVec 7) (f : Fields) : opOf (word0 op f) = op := by
  ext i hi
  simp only [opOf, getElem_extractLsb', getLsbD_word0]
  grind

theorem formOf_word0 (op : BitVec 7) (f : Fields) : formOf (word0 op f) = f.form := by
  have : (word0 op f).extractLsb' 0 2 = f.form.len := by
    ext i hi
    simp only [getElem_extractLsb', getLsbD_word0]
    grind
  rw [formOf, this, Form.ofLen_len]

theorem word0_opOf (w0 w1 w2 : Word) (lit : DWord) : word0 (opOf w0) (fieldsOf w0 w1 w2 lit) = w0 := by
  ext i hi
  simp only [← BitVec.getLsbD_eq_getElem, getLsbD_word0, opOf, fieldsOf, formOf, Form.len_ofLen, BitVec.getLsbD_extractLsb', bitOf]
  grind

theorem word1_fieldsOf (w0 w1 w2 : Word) (lit : DWord) : word1 (fieldsOf w0 w1 w2 lit) = w1 := by
  ext i hi
  simp only [← BitVec.getLsbD_eq_getElem, getLsbD_word1, fieldsOf, BitVec.getLsbD_extractLsb', bitOf]
  grind

theorem litOf_extract (lit : DWord) : litOf (lit.extractLsb' 0 32) (lit.extractLsb' 32 32) = lit :=
  BitVec.extractLsb'_append_extractLsb'

theorem fieldsOf_words (op : BitVec 7) (f : Fields) : fieldsOf (word0 op f) (word1 f) f.w2 f.lit = f := by
  simp only [fieldsOf, formOf_word0, bitOf, getLsbD_word0, getLsbD_word1]
  obtain ⟨form, u, b6, a, d, cs, bs, mod3, fe, sub, cls, c, b, w2, lit⟩ := f
  congr 1
  all_goals
    ext i hi
    simp only [getElem_extractLsb', getLsbD_word0, getLsbD_word1]
    grind

/-! ## Words and fields -/

theorem encodeFields_length (op : BitVec 7) (f : Fields) : (encodeFields op f).length = f.form.words := by
  unfold encodeFields
  cases f.form <;> rfl

/-- The base word comes first, whatever the form. -/
theorem encodeFields_cons (op : BitVec 7) (f : Fields) : ∃ ws, encodeFields op f = word0 op f :: ws := by
  unfold encodeFields
  cases f.form <;> exact ⟨_, rfl⟩

/-- A form without word 1 leaves its fields zero. -/
theorem word1_eq_zero {f : Fields} (hc : f.canonical = true) (h : f.form.hasExt = false) : word1 f = 0 ∧ f.w2 = 0 := by
  simp_all [Fields.canonical, word1]

theorem lit_eq_zero {f : Fields} (hc : f.canonical = true) (h : f.form.hasLit = false) : f.lit = 0 := by
  simp_all [Fields.canonical]

theorem parseWords_encodeFields {f : Fields} (hc : f.canonical = true) (op : BitVec 7) (rest : List Word) :
    parseWords (encodeFields op f ++ rest) = some (op, f) := by
  have hfields := fieldsOf_words op f
  unfold encodeFields
  cases hform : f.form
  case b =>
    obtain ⟨h1, h2⟩ := word1_eq_zero hc (by rw [hform]; rfl)
    rw [h1, h2, lit_eq_zero hc (by rw [hform]; rfl)] at hfields
    simpa [parseWords, formOf_word0, opOf_word0, hform] using hfields
  case e =>
    rw [lit_eq_zero hc (by rw [hform]; rfl)] at hfields
    simpa [parseWords, formOf_word0, opOf_word0, hform] using hfields
  case l =>
    obtain ⟨h1, h2⟩ := word1_eq_zero hc (by rw [hform]; rfl)
    rw [h1, h2] at hfields
    simpa [parseWords, formOf_word0, opOf_word0, hform, litOf_extract] using hfields
  case x => simp [parseWords, formOf_word0, opOf_word0, hform, hfields, litOf_extract]

theorem fieldsOf_form (w0 w1 w2 : Word) (lit : DWord) : (fieldsOf w0 w1 w2 lit).form = formOf w0 := rfl
theorem fieldsOf_w2 (w0 w1 w2 : Word) (lit : DWord) : (fieldsOf w0 w1 w2 lit).w2 = w2 := rfl
theorem fieldsOf_lit (w0 w1 w2 : Word) (lit : DWord) : (fieldsOf w0 w1 w2 lit).lit = lit := rfl

theorem litOf_lo (lo hi : Word) : (litOf lo hi).extractLsb' 0 32 = lo := BitVec.extractLsb'_append_eq_right

theorem litOf_hi (lo hi : Word) : (litOf lo hi).extractLsb' 32 32 = hi := BitVec.extractLsb'_append_eq_left

theorem parseWords_eq_some {ws : List Word} {op : BitVec 7} {f : Fields} (h : parseWords ws = some (op, f)) :
    f.canonical = true ∧ ∃ rest, ws = encodeFields op f ++ rest := by
  unfold parseWords at h
  split at h
  · cases h
  split at h
  case h_5 => cases h
  all_goals
    rename_i hform
    cases h
    refine ⟨by simp [Fields.canonical, fieldsOf, hform, Form.hasExt, Form.hasLit, bitOf], ?_⟩
    simp only [encodeFields, fieldsOf_form, hform, word0_opOf, word1_fieldsOf, fieldsOf_w2, fieldsOf_lit, litOf_lo, litOf_hi]
    exact ⟨_, rfl⟩

/-- The words of the instruction alone are the whole of what its head stands for. -/
theorem ownWords_encodeFields (op : BitVec 7) (f : Fields) (rest : List Word) : ownWords (encodeFields op f ++ rest) = encodeFields op f := by
  obtain ⟨ws, hws⟩ := encodeFields_cons op f
  have hlen := encodeFields_length op f
  rw [hws] at hlen ⊢
  simp only [ownWords, List.cons_append, formOf_word0, ← hlen]
  exact List.take_left

theorem wholeWords_encodeFields (op : BitVec 7) (f : Fields) : wholeWords (encodeFields op f) = true := by
  obtain ⟨ws, hws⟩ := encodeFields_cons op f
  have hlen := encodeFields_length op f
  rw [hws] at hlen ⊢
  simpa [wholeWords, formOf_word0] using hlen

theorem encodeFields_ne_nil (op : BitVec 7) (f : Fields) : encodeFields op f ≠ [] := by
  obtain ⟨ws, hws⟩ := encodeFields_cons op f
  simp [hws]

theorem eq_encodeFields_of_wholeWords {ws : List Word} {op : BitVec 7} {f : Fields} (hw : wholeWords ws = true) (h : parseWords ws = some (op, f)) :
    f.canonical = true ∧ ws = encodeFields op f := by
  obtain ⟨hc, rest, rfl⟩ := parseWords_eq_some h
  refine ⟨hc, ?_⟩
  obtain ⟨ws, hws⟩ := encodeFields_cons op f
  have hlen := encodeFields_length op f
  rw [hws] at hlen hw ⊢
  have hrest : rest = [] := by simpa [wholeWords, formOf_word0, ← hlen] using hw
  rw [hrest, List.append_nil]

end Sys2Proof
end

section
/-! PROOF. The instruction that an OP with legal fields names (R47, R48): it keeps the OP and the fields, and they select it. -/

namespace Sys2Proof

theorem formCheck_eq_none {r : Row} {f : Fields} {atomic : Bool} : formCheck r f atomic = none ↔
    chkForm r f = true ∧ chkU r f = true ∧ chkRsvd r f = true ∧ r.subOk = true ∧ r.modOk = true ∧ chkExt r f atomic = true ∧
      chkKind r f = true ∧ chkLit r f = true ∧ chkImm r f = true := by
  simp only [formCheck, Bool.not_eq_true']
  split_ifs <;> simp_all

theorem legalFields_iff {op : BitVec 7} {f : Fields} :
    legalFields op f = true ↔ ∃ r, rowOf op f = some r ∧ formCheck r f (isAtomicOp op) = none := by
  unfold legalFields
  cases rowOf op f <;> simp

theorem fields_bare {f : Fields} (hc : f.canonical = true) {atomic : Bool} (h : formCheck { forms := [.b] } f atomic = none) : f = { form := .b } := by
  obtain ⟨hform, hu, hrsvd, -⟩ := formCheck_eq_none.1 h
  obtain ⟨form, u, b6, a, d, cs, bs, mod3, fe, sub, cls, c, b, w2, lit⟩ := f
  cases form <;> simp_all [chkForm, chkU, chkRsvd, Fields.canonical, Form.hasExt, Form.hasLit, unusedOk]

theorem eq_ofNat_of_toNat {w n : Nat} {x : BitVec w} (h : x.toNat = n) : x = BitVec.ofNat w n := by simp [← h]

/-- What `classify` names has the OP and the fields that it was named from; an instruction without operands keeps no fields. -/
theorem parts_of_classify {op : BitVec 7} {f : Fields} {i : Instr} (h : classify op f = some i) :
    i.parts = some (op, f) ∨ i.parts = some (op, { form := .b }) ∧ rowOf op f = some { forms := [.b] } := by
  unfold classify at h
  split at h
  case h_115 => cases h
  all_goals
    rename_i hop
    obtain rfl := eq_ofNat_of_toNat hop
    cases h
  case h_1 | h_8 | h_13 | h_16 | h_93 => exact .inr ⟨rfl, rfl⟩
  all_goals
    left
    repeat' split
    all_goals rfl

theorem codeLe_iff {w n : Nat} {x : BitVec w} : codeLe x n = true ↔ x.toNat ≤ n := by simp [codeLe]

/-- The branch of `classify` selects; where SUB is left to the last branch, the row bounds it. -/
theorem selected_of_classify {op : BitVec 7} {f : Fields} {i : Instr} (h : classify op f = some i) (hl : legalFields op f = true) :
    i.selected = true := by
  obtain ⟨r, hr, hf⟩ := legalFields_iff.1 hl
  obtain ⟨-, -, -, hsub, -⟩ := formCheck_eq_none.1 hf
  unfold classify at h
  split at h
  case h_115 => cases h
  all_goals
    rename_i hop
    obtain rfl := eq_ofNat_of_toNat hop
    cases h
    cases hr
    repeat' split
  any_goals rfl
  all_goals refine decide_eq_true ?_
  any_goals assumption
  all_goals
    have hle := codeLe_iff.1 hsub
    bv_omega

/-- Of the instructions that share an OP, the one that the fields select: by SUB, or as the first or the second of two. -/
theorem classify_of_parts {op : BitVec 7} {f : Fields} {i : Instr} (h : i.parts = some (op, f)) (hs : i.selected = true) : classify op f = some i := by
  cases i <;> cases h
  case kor | kxor | kandn | knot | kmov | kffs | kvote | ktov | ineg | popc | clz | ctz | brev | tbexp | tbarv | tbwait | mend | tretNext | caprd =>
    refine congrArg some ?_
    rw [of_decide_eq_true hs]
    rfl
  case iaddExt | isubExt | imulExt | imulhExt | iminExt | imaxExt | andExt | orExt | xorExt | andnExt | shlExt | shrExt | sarExt | rotlExt |
      notExt | movExt | faddExt | fsubExt | fmulExt | fminExt | fmaxExt | frcpExt | frsqExt | fsqrtExt | fexp2Ext | flog2Ext | fsinpExt |
      fcospExt | frintExt | fclassExt | fenceExt | mma | mdrn | mts => exact congrArg some (if_neg (of_decide_eq_true hs))
  case iadd | isub | imul | imulh | imin | imax | and | or | xor | andn | shl | shr | sar | rotl | not | mov | fadd | fsub | fmul |
      fmin | fmax | frcp | frsq | fsqrt | fexp2 | flog2 | fsinp | fcosp | frint | fclass | fence | mmaUnfold | mdrnScratch | mtsExec |
      tret | kand | kpopc | iabs | tbinit | mbeg | srseed => exact congrArg some (if_pos (of_decide_eq_true hs))
  all_goals rfl

end Sys2Proof
end

section
/-! PROOF. O32: decoding and encoding agree (R30 to R49); O31, words written out. -/

namespace Sys2Proof

/-! ## Decoding and encoding -/

section
variable {op : BitVec 7} {f : Fields} (hc : f.canonical = true) (rest : List Word)
include hc

theorem decode_noRow (h : rowOf op f = none) : decode (encodeFields op f ++ rest) = some (.illegalOpcode (encodeFields op f)) := by
  simp only [decode, parseWords_encodeFields hc, ownWords_encodeFields, h]

theorem decode_illegal {r : Row} {reason : Reason} (hr : rowOf op f = some r) (h : formCheck r f (isAtomicOp op) = some reason) :
    decode (encodeFields op f ++ rest) = some (.illegalForm (encodeFields op f) reason) := by
  simp only [decode, parseWords_encodeFields hc, ownWords_encodeFields, hr, h]

theorem decode_legal (hl : legalFields op f = true) : decode (encodeFields op f ++ rest) = classify op f := by
  obtain ⟨r, hr, h⟩ := legalFields_iff.1 hl
  simp only [decode, parseWords_encodeFields hc, hr, h]

end

/-- An instruction with an OP is encoded by its fields, and is well-formed when its fields are legal and select it. -/
theorem encode_of_parts {i : Instr} {p : BitVec 7 × Fields} (h : i.parts = some p) : encode i = encodeFields p.1 p.2 := by
  cases i <;> cases h <;> rfl

theorem wellFormed_of_parts {i : Instr} {p : BitVec 7 × Fields} (h : i.parts = some p) :
    i.wellFormed = (p.2.canonical && legalFields p.1 p.2 && i.selected) := by
  cases i <;> cases h <;> rfl

theorem encode_of_no_parts {i : Instr} (h : i.parts = none) (he : encode i ≠ []) : (∃ ws, i = .illegalOpcode ws) ∨ ∃ ws r, i = .illegalForm ws r := by
  cases i <;> simp_all [Instr.parts, encode]

/-- Words that stand for no allocated OP, or break its form, are whole and carry the reason. -/
theorem illegalOpcode_wellFormed_iff {ws : List Word} : (Instr.illegalOpcode ws).wellFormed = true ↔
    ∃ op f, f.canonical = true ∧ ws = encodeFields op f ∧ rowOf op f = none := by
  constructor
  · intro h
    rw [Instr.wellFormed, Bool.and_eq_true] at h
    obtain ⟨hw, h⟩ := h
    split at h
    next op f hparse =>
      obtain ⟨hc, rfl⟩ := eq_encodeFields_of_wholeWords hw hparse
      exact ⟨op, f, hc, rfl, by simpa using h⟩
    next => cases h
  · rintro ⟨op, f, hc, rfl, hrow⟩
    have hparse := parseWords_encodeFields hc op []
    rw [List.append_nil] at hparse
    simp [Instr.wellFormed, wholeWords_encodeFields, hparse, hrow]

theorem illegalForm_wellFormed_iff {ws : List Word} {reason : Reason} : (Instr.illegalForm ws reason).wellFormed = true ↔
    ∃ op f r, f.canonical = true ∧ ws = encodeFields op f ∧ rowOf op f = some r ∧ formCheck r f (isAtomicOp op) = some reason := by
  constructor
  · intro h
    rw [Instr.wellFormed, Bool.and_eq_true] at h
    obtain ⟨hw, h⟩ := h
    split at h
    next op f hparse =>
      obtain ⟨hc, rfl⟩ := eq_encodeFields_of_wholeWords hw hparse
      split at h
      next r hrow => exact ⟨op, f, r, hc, rfl, hrow, by simpa using h⟩
      next => cases h
    next => cases h
  · rintro ⟨op, f, r, hc, rfl, hrow, hreason⟩
    have hparse := parseWords_encodeFields hc op []
    rw [List.append_nil] at hparse
    simp [Instr.wellFormed, wholeWords_encodeFields, hparse, hrow, hreason]

theorem decode_encode {i : Instr} (rest : List Word) (hw : i.wellFormed = true) (he : encode i ≠ []) : decode (encode i ++ rest) = some i := by
  cases hp : i.parts with
  | some p =>
    obtain ⟨op, f⟩ := p
    rw [wellFormed_of_parts hp, Bool.and_eq_true, Bool.and_eq_true] at hw
    obtain ⟨⟨hc, hl⟩, hs⟩ := hw
    rw [encode_of_parts hp, decode_legal hc _ hl, classify_of_parts hp hs]
  | none =>
    obtain ⟨ws, rfl⟩ | ⟨ws, reason, rfl⟩ := encode_of_no_parts hp he
    · obtain ⟨op, f, hc, rfl, hrow⟩ := illegalOpcode_wellFormed_iff.1 hw
      exact decode_noRow hc rest hrow
    · obtain ⟨op, f, r, hc, rfl, hrow, hreason⟩ := illegalForm_wellFormed_iff.1 hw
      exact decode_illegal hc rest hrow hreason

/-- The instruction that legal fields name has these fields again, also when it keeps none: it is well-formed. -/
theorem classify_wellFormed {op : BitVec 7} {f : Fields} {i : Instr} (hc : f.canonical = true) (hl : legalFields op f = true)
    (h : classify op f = some i) : i.parts = some (op, f) ∧ i.wellFormed = true := by
  have hp : i.parts = some (op, f) := by
    obtain hp | ⟨hp, hbare⟩ := parts_of_classify h
    · exact hp
    · obtain ⟨r, hr, hf⟩ := legalFields_iff.1 hl
      obtain rfl := Option.some.inj (hbare.symm.trans hr)
      rw [hp, fields_bare hc hf]
  exact ⟨hp, by rw [wellFormed_of_parts hp, hc, hl, selected_of_classify h hl]; rfl⟩

theorem encode_decode {ws : List Word} {i : Instr} (h : decode ws = some i) :
    i.wellFormed = true ∧ encode i ≠ [] ∧ ∃ rest, ws = encode i ++ rest := by
  obtain ⟨⟨op, f⟩, hparse⟩ : ∃ p, parseWords ws = some p := by
    cases hp : parseWords ws with
    | some p => exact ⟨p, rfl⟩
    | none => simp [decode, hp] at h
  obtain ⟨hc, rest, rfl⟩ := parseWords_eq_some hparse
  have hne := encodeFields_ne_nil op f
  cases hrow : rowOf op f with
  | none =>
    obtain rfl := Option.some.inj ((decode_noRow hc rest hrow).symm.trans h)
    exact ⟨illegalOpcode_wellFormed_iff.2 ⟨op, f, hc, rfl, hrow⟩, hne, rest, rfl⟩
  | some r =>
    cases hcheck : formCheck r f (isAtomicOp op) with
    | some reason =>
      obtain rfl := Option.some.inj ((decode_illegal hc rest hrow hcheck).symm.trans h)
      exact ⟨illegalForm_wellFormed_iff.2 ⟨op, f, r, hc, rfl, hrow, hcheck⟩, hne, rest, rfl⟩
    | none =>
      have hl := legalFields_iff.2 ⟨r, hrow, hcheck⟩
      obtain ⟨hp, hwf⟩ := classify_wellFormed hc hl ((decode_legal hc rest hl).symm.trans h)
      rw [encode_of_parts hp]
      exact ⟨hwf, hne, rest, rfl⟩

end Sys2Proof

namespace Sys2Proof.Proofs

/-- Settles O32: the words of an instruction and its fields determine each other, form by form; legal fields name one instruction, whose
OP and fields they are. -/
theorem decodeAndEncodeAgree : Obligations.DecodeAndEncodeAgree :=
  ⟨fun _ rest hw he => decode_encode rest hw he, fun _ _ h => encode_decode h⟩

/-- Settles O31: `decode` evaluated on each list of words. -/
theorem encodedWords : Obligations.EncodedWords := ⟨rfl, rfl, rfl, rfl, rfl, rfl, rfl, rfl, rfl, rfl⟩

end Sys2Proof.Proofs
end

section
/-! PROOF. Instruction fetch (R30, R32, R155): code words that stand in memory are what a fetch gives. -/

namespace Sys2Proof.Machine
open Spec

/-- A word of code stands in local memory at an address and can be fetched as it stands. -/
def WordAt (s : State) (x : Nat) (w : Word) : Prop :=
  x % 4 = 0 ∧ window x ≠ 0xFE ∧ window x ≠ 0xFD ∧
  ∃ i e, s.xlate s.cur x = some (i, e) ∧ e.rem = false ∧ s.mem.beyond i = false ∧ s.marked ((i * 65536 + x % 65536) / 32) = false ∧
    (∀ c ∈ s.mem.code, c.sector ≠ (i * 65536 + x % 65536) / 32) ∧ w = BitVec.ofNat 32 (leNat (s.mem.bytes.readN (i * 65536 + x % 65536) 4))

/-- Words of code stand in local memory one after another. -/
def WordsAt (s : State) (a : Nat) (ws : List Word) : Prop := ∀ k < ws.length, WordAt s ((a + 4 * k) % 2 ^ 56) (ws.getD k 0)

theorem wordsAt_of_codeAt {s : State} {a : Nat} {ws : List Word} (h : CodeAt s a ws) : WordsAt s a ws := by
  obtain ⟨ha, h⟩ := h
  exact fun k hk => ⟨by omega, h k hk⟩

theorem WordsAt.head {s : State} {a : Nat} {w : Word} {ws : List Word} (ha : a < 2 ^ 56) (h : WordsAt s a (w :: ws)) : WordAt s a w := by
  have h0 := h 0 (by simp)
  rwa [Nat.mul_zero, Nat.add_zero, Nat.mod_eq_of_lt ha] at h0

theorem WordsAt.tail {s : State} {a : Nat} {w : Word} {ws : List Word} (h : WordsAt s a (w :: ws)) : WordsAt s ((a + 4) % 2 ^ 56) ws := by
  intro k hk
  have hnext := h (k + 1) (by simpa using hk)
  have haddr : ((a + 4) % 2 ^ 56 + 4 * k) % 2 ^ 56 = (a + 4 * (k + 1)) % 2 ^ 56 := by omega
  rw [haddr]
  simpa using hnext

theorem wordsAt_singleton {s : State} {a : Nat} {w : Word} (ha : a < 2 ^ 56) : WordsAt s a [w] ↔ WordAt s a w := by
  refine ⟨fun h => h.head ha, fun h k hk => ?_⟩
  obtain rfl : k = 0 := by simpa using hk
  rwa [Nat.mul_zero, Nat.add_zero, Nat.mod_eq_of_lt ha]

theorem WordAt.codePage {s : State} {x : Nat} {w : Word} (h : WordAt s x w) : ∃ i e, s.codePage s.cur x = some (i, e) ∧ s.mem.beyond i = false ∧
    s.marked ((i * 65536 + x % 65536) / 32) = false ∧ (∀ c ∈ s.mem.code, c.sector ≠ (i * 65536 + x % 65536) / 32) ∧
    w = BitVec.ofNat 32 (leNat (s.mem.bytes.readN (i * 65536 + x % 65536) 4)) := by
  obtain ⟨-, -, -, i, e, hx, hrem, h⟩ := h
  exact ⟨i, e, by simp [State.codePage, hx, hrem], h⟩

/-- Words that can be fetched raise nothing (R32). -/
theorem State.fetchFault_none {s : State} {exec : Word} {pc : Nat} : ∀ {ws : List Word} {a : Nat}, a < 2 ^ 56 → WordsAt s a ws →
    s.fetchFault s.cur exec pc ws.length a = none
  | [], _, _, _ => rfl
  | w :: ws, a, ha, h => by
    have hw := h.head ha
    obtain ⟨-, hfe, hfd, -⟩ := hw
    obtain ⟨i, e, hpage, hbeyond, -⟩ := (h.head ha).codePage
    simp only [List.length_cons, State.fetchFault, hfe, hfd, or_self, if_false, hpage, hbeyond, Bool.false_eq_true]
    exact State.fetchFault_none (Nat.mod_lt _ (by decide)) h.tail

/-- A sector as memory holds it. -/
def State.sectorView (s : State) (x : Nat) : List Byte := (span (x * 32) (x * 32 + 32)).map s.mem.bytes.read

/-- A sector that no store awaits a `CODESYNC` for is fetched as memory holds it (R155). -/
theorem State.fetchSector_clean {s : State} {x : Nat} (h : ∀ c ∈ s.mem.code, c.sector ≠ x) (g : Group) :
    s.fetchSector g x = (s.sectorView x, s) := by
  have hnone : s.mem.code.filter (·.sector = x) = [] := List.filter_eq_nil_iff.2 (by simpa using h)
  simp [State.fetchSector, hnone, undoStores, State.sectorView]

theorem State.sectorView_getD (s : State) (x k : Nat) (hk : k < 32) : (s.sectorView x).getD k 0 = s.mem.bytes.read (x * 32 + k) := by
  simp [State.sectorView, span, hk]

theorem wordOfBytes_eq (b0 b1 b2 b3 : Byte) : wordOfBytes b0 b1 b2 b3 = BitVec.ofNat 32 (leNat [b0, b1, b2, b3]) := by
  apply BitVec.eq_of_toNat_eq
  simp only [wordOfBytes, leNat, BitVec.toNat_append, BitVec.toNat_ofNat]
  rw [← Nat.shiftLeft_add_eq_or_of_lt (by omega), ← Nat.shiftLeft_add_eq_or_of_lt (by omega), ← Nat.shiftLeft_add_eq_or_of_lt (by omega)]
  simp only [Nat.shiftLeft_eq]
  omega

/-- The word of four bytes of a sector's view. -/
theorem State.wordOfBytes_sectorView (s : State) (pa : Nat) (h : pa % 4 = 0) :
    wordOfBytes ((s.sectorView (pa / 32)).getD (pa % 32 + 0) 0) ((s.sectorView (pa / 32)).getD (pa % 32 + 1) 0)
      ((s.sectorView (pa / 32)).getD (pa % 32 + 2) 0) ((s.sectorView (pa / 32)).getD (pa % 32 + 3) 0) =
    BitVec.ofNat 32 (leNat (s.mem.bytes.readN pa 4)) := by
  rw [s.sectorView_getD _ _ (by omega), s.sectorView_getD _ _ (by omega), s.sectorView_getD _ _ (by omega), s.sectorView_getD _ _ (by omega)]
  have hpa : ∀ k, pa / 32 * 32 + (pa % 32 + k) = pa + k := by omega
  simp only [hpa, wordOfBytes_eq]
  rfl

theorem State.readWords_words {s : State} : ∀ {ws : List Word} {a : Nat} {held : Option (Nat × List Byte)} {acc : List Word}, a < 2 ^ 56 →
    WordsAt s a ws → (∀ x b, held = some (x, b) → b = s.sectorView x) → s.readWords s.cur ws.length a held acc = .words (acc.reverse ++ ws) s
  | [], _, _, _, _, _, _ => by simp [State.readWords]
  | w :: ws, a, held, acc, ha, h, hheld => by
    have halign : a % 4 = 0 := (h.head ha).1
    obtain ⟨i, e, hpage, -, hmark, hcode, hw⟩ := (h.head ha).codePage
    have hoff : (i * 65536 + a % 65536) % 4 = 0 := by omega
    have hstep : s.readWords s.cur (w :: ws).length a held acc = s.readWords s.cur ws.length ((a + 4) % 2 ^ 56)
        (some ((i * 65536 + a % 65536) / 32, s.sectorView ((i * 65536 + a % 65536) / 32))) (w :: acc) := by
      rcases held with _ | ⟨x, b⟩
      · simp only [List.length_cons, State.readWords, hpage, hmark, Bool.false_eq_true, if_false, State.fetchSector_clean hcode,
          s.wordOfBytes_sectorView _ hoff, ← hw]
      · obtain rfl := hheld x b rfl
        by_cases hx : x = (i * 65536 + a % 65536) / 32
        · simp only [List.length_cons, State.readWords, hpage, hmark, Bool.false_eq_true, if_false, hx, if_true,
            s.wordOfBytes_sectorView _ hoff, ← hw]
        · simp only [List.length_cons, State.readWords, hpage, hmark, Bool.false_eq_true, if_false, hx, State.fetchSector_clean hcode,
            s.wordOfBytes_sectorView _ hoff, ← hw]
    rw [hstep, State.readWords_words (Nat.mod_lt _ (by decide)) h.tail (by rintro x b ⟨⟩; rfl)]
    simp

theorem State.fetchInstr_words {s : State} {pc : Pc} {ws : List Word} (hcode : CodeAt s pc.toNat ws) (hne : ws ≠ [])
    (hlen : ws.length = (formOf (ws.headD 0)).words) (exec : Word) : s.fetchInstr s.cur exec pc = .words ws s := by
  have hpc : pc.toNat < 2 ^ 56 := pc.isLt
  have hws := wordsAt_of_codeAt hcode
  obtain ⟨w, rest, rfl⟩ := List.exists_cons_of_ne_nil hne
  have hhead := hws.head hpc
  obtain ⟨i, e, hpage, -, -, hclean, hw⟩ := hhead.codePage
  have hone : s.fetchFault s.cur exec pc.toNat 1 pc.toNat = none :=
    State.fetchFault_none (ws := [w]) hpc ((wordsAt_singleton hpc).2 hhead)
  have hpeek : s.peekWord s.cur pc.toNat = w := by
    have halign : pc.toNat % 4 = 0 := hhead.1
    have hoff : pc.toNat % 32 = (i * 65536 + pc.toNat % 65536) % 32 := by omega
    simp only [State.peekWord, hpage, State.fetchSector_clean hclean, hoff]
    rw [s.wordOfBytes_sectorView (i * 65536 + pc.toNat % 65536) (by omega), hw]
  rw [State.fetchInstr, hone]
  simp only [hpeek, State.fetchWords]
  rw [← show (w :: rest).length = (formOf w).words from hlen, State.fetchFault_none hpc hws]
  simpa using State.readWords_words (acc := []) (held := none) hpc hws (by simp)

end Sys2Proof.Machine
end

section
/-! PROOF. O30: the step of the running split (R32, R48, R171, R267), and what follows an instruction. -/

namespace Sys2Proof.Machine
open Spec

/-! ## The registers of the cycle's begin (R171) -/

theorem State.atCycleStart_eq (s : State) :
    s.atCycleStart = { s with cur := { s.cur with ctl := s.atCycleStart.cur.ctl, trap := s.atCycleStart.cur.trap } } := by
  unfold State.atCycleStart
  split <;> rfl

theorem State.atCycleStart_first {s : State} (h : s.turn.second = false) : s.atCycleStart = s := by
  simp [State.atCycleStart, h]

theorem State.rejoin_eq (s t : State) :
    s.rejoin t = { t with cur := { t.cur with ctl := (s.rejoin t).cur.ctl, trap := (s.rejoin t).cur.trap } } := by
  unfold State.rejoin
  split <;> rfl

theorem State.rejoin_first {s : State} (h : s.turn.second = false) (t : State) : s.rejoin t = t := by
  simp [State.rejoin, h]

/-! ## The step of the running split -/

theorem Group.unfrozen_running {g : Group} (h : ∀ n, (g.entry n).v = true → (g.entry n).inh = true → n = g.running) :
    g.unfrozen g.running = true := by
  unfold Group.unfrozen
  split
  next n hn =>
    have hp := List.find?_some hn
    simp only [Bool.and_eq_true] at hp
    simp [h n hp.1 hp.2]
  next => rfl

theorem State.canIssue_of_issuing {s : State} (h : Issuing s) : s.canIssue = true := by
  obtain ⟨-, -, hlive, -, hres, hend, hpark, hfydb, hv, hst, hgate, -, hinh⟩ := h
  have hready : s.cur.hasReady s.cur.running = true := by
    simp only [Group.sp] at hv hst
    simp [Group.hasReady, hres, hend, hpark, hv, hst, hgate]
  have hmay : s.cur.mayIssue s.cur.running = true := by
    simp [Group.mayIssue, hready, hfydb, Fydb.lets, Group.unfrozen_running hinh]
  simp [State.canIssue, hlive, hready, hmay]

theorem step_eq_run {s : State} (h : Issuing s) : step s = s.run := by
  have hcan := State.canIssue_of_issuing h
  obtain ⟨hagenda, hstage, -⟩ := h
  have hup : ¬ (s.power.stage < 6 ∧ s.power.recovery = none) := by omega
  simp [step, hagenda, State.auto, hup, hcan]

theorem State.issueNow_decoded {s : State} {ws : List Word} {i : Instr} (hsup : s.cur.sup = none) (hcode : CodeAt s s.cur.sp.pc.toNat ws)
    (hne : ws ≠ []) (hlen : ws.length = (formOf (ws.headD 0)).words) (hi : decode ws = some i) :
    s.issueNow = match exec i s with
      | .next t => .next (s.noteOrder i t)
      | .fault x => .fault x
      | .refused x => .refused x := by
  have hserving : s.cur.serving = false := by simp [Group.serving, hsup]
  have hfetch : s.fetched = .words ws s := State.fetchInstr_words hcode hne hlen _
  simp only [State.issueNow, hserving, Bool.false_eq_true, if_false, hfetch, hi]
  cases exec i s <;> rfl

theorem step_runs {s : State} {ws : List Word} {i : Instr} (h : Issuing s) (hcode : CodeAt s s.cur.sp.pc.toNat ws) (hne : ws ≠ [])
    (hlen : ws.length = (formOf (ws.headD 0)).words) (hi : decode ws = some i) :
    step s = match exec i s.atCycleStart with
      | .next t => .next (s.rejoin (s.atCycleStart.noteOrder i t)).afterIssue
      | .fault x => .fault x
      | .refused x => .refused x := by
  rw [step_eq_run h]
  obtain ⟨-, -, -, htrap, -, -, -, -, -, -, -, hsup, -⟩ := h
  have hstart := s.atCycleStart_eq
  have hissue : s.atCycleStart.issueNow = _ :=
    State.issueNow_decoded (by rw [hstart]; exact hsup) (by rw [hstart]; exact hcode) hne hlen hi
  have hserving : s.cur.serving = false := by simp [Group.serving, hsup]
  have hraise : (s.turn.second && s.turn.trapped && s.atCycleStart.raises) = false := by
    cases hsecond : s.turn.second with
    | false => rfl
    | true => simp [htrap hsecond]
  simp only [State.run, hraise, Bool.false_eq_true, if_false, hissue, hserving]
  cases exec i s.atCycleStart <;> rfl

/-! ## What follows an instruction (R85, R98, R270) -/

/-- Neither a cycle nor a debugger's step touches memory, scratchpads, queues or the fabric. -/
def SameStores (s t : State) : Prop := t.mem = s.mem ∧ t.blocks = s.blocks ∧ t.queues = s.queues ∧ t.fabric = s.fabric

theorem State.afterCycle_stores (s : State) : SameStores s s.afterCycle := ⟨rfl, rfl, rfl, rfl⟩

theorem State.afterIssue_stores (s : State) (served : Bool) : SameStores s (s.afterIssue served) := by
  unfold State.afterIssue SameStores
  dsimp only
  split <;> split <;> exact ⟨rfl, rfl, rfl, rfl⟩

/-- Waits that end later than now leave a single cycle whole. -/
theorem foldl_min_one {l : List Nat} (h : ∀ x ∈ l, 1 ≤ x) : l.foldl min 1 = 1 := by
  induction l with
  | nil => rfl
  | cons x l ih =>
    rw [List.foldl_cons, Nat.min_eq_left (h x (by simp))]
    exact ih fun y hy => h y (by simp [hy])

theorem State.untilDue_pos {s : State} {g : Group} {n : Nat} (h : n ∈ s.untilDue g) : 1 ≤ n := by
  unfold State.untilDue at h
  split at h
  · cases h
  · obtain ⟨e, he, rfl⟩ := List.mem_map.1 h
    have hlt := (List.mem_filter.1 he).2
    simp only [Bool.and_eq_true, decide_eq_true_eq] at hlt
    omega

theorem State.gated_full {s : State} (h : s.power.duty = 16) : s.gated = 0 := by
  have hlt : s.cycle.toNat % 16 < s.power.duty := by omega
  simp [State.gated, hlt]

theorem State.advance_one_cycle (s : State) : (s.advance 1).cycle = s.cycle + 1 := by
  have hleft : min 1 (940000 - s.cycle.toNat % 940000) = 1 := by omega
  have hm : (s.groups.flatMap s.untilDue).foldl min (min 1 (940000 - s.cycle.toNat % 940000)) = 1 := by
    rw [hleft]
    refine foldl_min_one fun x hx => ?_
    obtain ⟨g, -, hg⟩ := List.mem_flatMap.1 hx
    exact State.untilDue_pos hg
  show s.cycle + BitVec.ofNat 64 _ = _
  rw [hm]
  rfl

theorem State.pass_duty (s : State) (n : Nat) : (s.pass n).power.duty = s.power.duty := by
  simp only [State.pass, State.settleIslands]

theorem State.afterCycle_cycle {s : State} (h : s.power.duty = 16) : s.afterCycle.cycle = s.cycle + 1 := by
  have hgated : (s.pass 1).gated = 0 :=
    State.gated_full ((s.pass_duty 1).trans h)
  show (s.advance (1 + (s.pass 1).gated)).cycle = _
  rw [hgated]
  exact s.advance_one_cycle

theorem State.afterIssue_last {t : State} (hslots : t.turn.slots = []) (hduty : t.power.duty = 16) : t.afterIssue.cycle = t.cycle + 1 := by
  unfold State.afterIssue
  dsimp only
  split
  · rw [hslots]
    exact State.afterCycle_cycle hduty
  · rw [show ({ t with cur := t.cur.stepped } : State).turn.slots = [] from hslots]
    exact State.afterCycle_cycle (s := { t with cur := t.cur.stepped }) hduty

theorem State.afterIssue_more {t : State} (hslots : t.turn.slots ≠ []) : t.afterIssue.cycle = t.cycle ∧ t.afterIssue.agenda = t.agenda := by
  have hmore : t.turn.slots.isEmpty = false := by simpa using hslots
  unfold State.afterIssue
  dsimp only
  split <;> simp only [hmore, Bool.false_eq_true, if_false, and_self]

/-! ## What an instruction orders (R197, R199, R200) -/

/-- `u` differs from `t` at most in what the splits of its groups miss of each other's writes. -/
def OnlyShadows (t u : State) : Prop :=
  u = { t with cur := { t.cur with shadow := u.cur.shadow }, others := u.others } ∧
  (u.others.map fun g => { g with shadow := [] }) = t.others.map fun g => { g with shadow := [] }

theorem OnlyShadows.refl (t : State) : OnlyShadows t t := ⟨rfl, rfl⟩

theorem OnlyShadows.trans {t u v : State} (h : OnlyShadows t u) (h' : OnlyShadows u v) : OnlyShadows t v := by
  obtain ⟨hu, ho⟩ := h
  obtain ⟨hv, ho'⟩ := h'
  refine ⟨?_, ho'.trans ho⟩
  rw [hu] at hv
  exact hv

theorem State.onShadows_only (t : State) (p : GRef → Bool) (f : Shadow → Shadow) : OnlyShadows t (t.onShadows p f) := by
  constructor
  · simp only [State.onShadows, State.mapGroups]
    split <;> rfl
  · simp only [State.onShadows, State.mapGroups, List.map_map]
    refine List.map_congr_left fun g _ => ?_
    simp only [Function.comp_apply]
    split <;> rfl

theorem State.hasReleased_only (t : State) (r : GRef) (w : Owner) : OnlyShadows t (t.hasReleased r w) :=
  (t.onShadows_only _ _).trans (State.onShadows_only _ _ _)

theorem State.hasAcquired_only (t : State) (r : GRef) (w : Owner) : OnlyShadows t (t.hasAcquired r w) :=
  (t.onShadows_only _ _).trans (State.onShadows_only _ _ _)

theorem OnlyShadows.ite {c : Prop} [Decidable c] {t u v : State} (hu : OnlyShadows t u) (hv : OnlyShadows t v) :
    OnlyShadows t (if c then u else v) := by
  split
  · exact hu
  · exact hv

theorem State.noteOrder_only (s : State) (i : Instr) (t : State) : OnlyShadows t (s.noteOrder i t) := by
  have hrel : ∀ b : Bool, OnlyShadows t (if b then t.hasReleased s.cur.ref (.entry s.cur.running) else t) := fun _ =>
    .ite (t.hasReleased_only _ _) (.refl t)
  have hacq : ∀ (b : Bool) {u : State}, OnlyShadows t u → OnlyShadows t (if b then u.hasAcquired s.cur.ref (.entry s.cur.running) else u) :=
    fun _ u hu => .ite (hu.trans (u.hasAcquired_only _ _)) hu
  unfold State.noteOrder
  refine hacq _ ?_
  split
  · exact .ite ((hrel _).trans (State.onShadows_only _ _ _)) (hrel _)
  · exact hrel _

end Sys2Proof.Machine

namespace Sys2Proof.Proofs
open Machine Spec

/-- Settles O30: a step of an issuing split fetches the words that stand in memory, runs what they decode to, and ends the issue. -/
theorem stepRunsTheInstruction : Obligations.StepRunsTheInstruction := by
  refine ⟨fun s ws i h hcode hne hlen hi => step_runs h hcode hne hlen hi, fun t => ?_, fun s t => ?_, fun s t i => s.noteOrder_only i t⟩
  · obtain ⟨hmem, hblocks, hqueues, hfabric⟩ := t.afterIssue_stores false
    exact ⟨hmem, hblocks, hqueues, hfabric, State.afterIssue_last, State.afterIssue_more⟩
  · refine ⟨fun h => ⟨State.atCycleStart_first h, State.rejoin_first h t⟩, s.atCycleStart_eq, s.rejoin_eq t, fun c r hsecond hctl => ?_⟩
    simp [State.atCycleStart, hsecond, hctl]

end Sys2Proof.Proofs
end

section
/-! PROOF. The issue of a matrix instruction (R175, R176): its fields, its convergence check, its ranges. -/

namespace Sys2Proof.Machine
open Spec

/-! ## Issue -/

/-- An instruction whose row's operands are in order, and whose own checks and destinations are, has its effect. -/
theorem issue_ready_dsts {i : Instr} {op : BitVec 7} {f : Fields} {p : Plan} {body : State → Res} {s : State} (hready : Ready op f s)
    (hrow : p.row = rowFor op f ∧ p.f = f ∧ p.xsrc = [] ∧ p.priv = none ∧ p.vector = false) (hmore : p.more s.limits = none)
    (hfree : ∀ r ∈ p.xdst, s.cur.producing r = false) : issue i p body s = finish i (body s) := by
  obtain ⟨herr, hsrc, hdst⟩ := hready
  obtain ⟨hrow, hf, hxs, hpriv, hvec⟩ := hrow
  refine issue_passes (fun h => by rw [hvec] at h; cases h) ?_ hpriv (fun x hx => ?_) fun r hr => ?_
  · rw [Plan.err, hrow, hf, herr, hmore]
    rfl
  · obtain h | h := Plan.mem_srcs hx
    · exact hsrc x (by rwa [hrow, hf] at h)
    · rw [hxs] at h
      cases h
  · obtain h | h := List.mem_append.1 (Plan.dsts.eq_1 p ▸ hr)
    · exact hdst r (by rwa [hrow, hf] at h)
    · exact hfree r h

/-- A trap other than a page fault is taken at once. -/
theorem finish_trap {i : Instr} {s : State} {t : TrapInfo} (h : t.cause ≠ Cause.pageFault) : finish i (.trap s t) = s.takeTrap t :=
  if_neg fun hc => h hc.1

/-! ## Convergence (R176) -/

theorem Group.converged_iff (s : State) : s.cur.converged = true ↔ Converged s := by
  simp only [Group.converged, Bool.and_eq_true, decide_eq_true_eq, and_assoc]
  rfl

theorem matBody_converged {s : State} (h : Converged s) (body : State → Res) : matBody body s = body s :=
  if_pos ((Group.converged_iff s).2 h)

/-- What the handler finds after ILLEGAL_CONVERGENCE: `$split` and `$exec`. -/
def divergence (s : State) (k : Fin 4) (_ : Fin 32) : Word := if k = 0 then s.cur.splitReg else if k = 1 then s.cur.sp.mask else 0

/-- The trap of a group that is not converged, without an effect. -/
def Diverges (s : State) (x : Host.Outcome State Fault Refusal) : Prop :=
  ∃ t, x = .next t ∧ SameRegs s t ∧ Trapped s t Cause.convergence s.cur.exec (divergence s)

theorem diverges_matBody {s : State} (h : ¬ Converged s) (hs : Handles s) (i : Instr) (body : State → Res) :
    Diverges s (.next (finish i (matBody body s))) := by
  have htrap : finish i (matBody body s) = s.takeTrap (.all Cause.convergence s.cur.exec s.cur.splitReg s.cur.exec 0 0) := by
    rw [matBody, if_neg (mt (Group.converged_iff s).1 h)]
    exact finish_trap (by exact (by decide : Cause.convergence ≠ Cause.pageFault))
  rw [htrap]
  obtain ⟨ht, hregs, -⟩ := State.trapped_takeTrap (t := .all Cause.convergence s.cur.exec s.cur.splitReg s.cur.exec 0 0)
    (val := divergence s) hs (by exact (by decide : Cause.convergence ≠ Cause.pageFault)) fun k l => by
      rw [TrapInfo.all_val]
      unfold divergence
      split_ifs <;> rfl
  exact ⟨_, rfl, hregs, ht⟩

/-! ## Fields (R175) -/

/-- A of the two forms of `MMA` (R175, R184). -/
theorem mmaUnfold_a {f : Fields} (h : (Instr.mmaUnfold f).wellFormed = true) : f.a = 0xFF := by
  rw [wellFormed_of_parts rfl, Bool.and_eq_true] at h
  exact of_decide_eq_true h.2

theorem mma_a {f : Fields} (h : (Instr.mma f).wellFormed = true) : f.a ≠ 0xFF := by
  rw [wellFormed_of_parts rfl, Bool.and_eq_true] at h
  exact of_decide_eq_true h.2

theorem bitsOf_eq (x : Word) (lo n : Nat) : bitsOf x lo n = x.toNat / 2 ^ lo % 2 ^ n := rfl

theorem engineClass_of_plane {e : DWord} (h : PlaneClass e) : engineClass e = true := by
  obtain ⟨hkind, hxpl⟩ := h
  simp [engineClass, entPlanes, hkind, hxpl]

/-- The fields of an `MMA` pass; A is the unfolding unit, or word 2 holds m alone. -/
theorem mmaErr_none {f : Fields} {s : State} (h : MmaFields f s) (hk0 : f.a = 0xFF ∨ f.w2.toNat < 65536) : mmaErr f s = none := by
  obtain ⟨hca, hcb, hlo, hhi⟩ := h
  have hw2 : f.a = 0xFF ∨ mmaK0 f = 0 := hk0.imp_right fun h => by
    rw [mmaK0, bitsOf_eq]
    omega
  have hm : mmaM f = f.w2.toNat % 65536 := by
    rw [mmaM, bitsOf_eq]
    omega
  have hok : (decide (1 ≤ mmaM f) && decide (mmaM f ≤ 1024) && (decide (f.a = 0xFF) || decide (mmaK0 f = 0))) = true := by
    simp only [Bool.and_eq_true, Bool.or_eq_true, decide_eq_true_eq]
    exact ⟨⟨by omega, by omega⟩, hw2⟩
  simp only [mmaErr, engineClass_of_plane hca, engineClass_of_plane hcb, hok]
  rfl

theorem ckErr_none {f : Fields} {s : State} (hv : entV (s.ent (f.w2.extractLsb' 16 4)) = true) (hx : entXPL (s.ent (f.w2.extractLsb' 16 4)) ≠ 0) :
    ckErr s f = none := by
  simp [ckErr, ckOf, hv, hx]

theorem drnW2Ok_of_drainFields {f : Fields} {s : State} (h : DrainFields f s) : drnW2Ok f = true := by
  obtain ⟨hw2, hrows, hsum, -⟩ := h
  simp only [drnW2Ok, Bool.and_eq_true, decide_eq_true_eq]
  simp only [drnR0, drnRows, bitsOf_eq]
  omega

theorem drnRows_eq (f : Fields) : drnRows f = f.w2.toNat / 256 % 256 := rfl

theorem qntW2Ok_of_quantFields {f : Fields} {s : State} (h : QuantFields f s) : qntW2Ok (s.ent f.cls) f = true := by
  obtain ⟨-, hw2, ht, he⟩ := h
  simp only [qntW2Ok, Bool.and_eq_true, Bool.or_eq_true, decide_eq_true_eq]
  simp only [qntE, bitsOf_eq]
  refine ⟨⟨by omega, by omega⟩, ?_⟩
  by_cases h3 : entMKIND (s.ent f.cls) = 3
  · have := he h3
    exact Or.inr (by omega)
  · exact Or.inl h3

theorem loadErr_none {f : Fields} {s : State} (h : LoadFields f s) : firstErr (clsErr f (decide (entMKIND (s.ent f.cls) ≤ 2)))
    (firstErr (w2Err f (f.w2 &&& ~~~0xF0000#32 = 0)) (ckErr s f)) = none := by
  obtain ⟨hkind, hw2, hv, hx⟩ := h
  rw [ckErr_none hv hx, decide_eq_true hkind, decide_eq_true hw2]
  rfl

theorem drainScratchErr_none {f : Fields} {s : State} (h : DrainFields f s) (hkind : entMKIND (s.ent f.cls) ≤ 2) :
    firstErr (clsErr f (decide (entMKIND (s.ent f.cls) ≤ 2))) (firstErr (w2Err f (drnW2Ok f)) (ckErr s f)) = none := by
  obtain ⟨-, -, -, hv, hx⟩ := id h
  rw [ckErr_none hv hx, drnW2Ok_of_drainFields h, decide_eq_true hkind]
  rfl

theorem drainErr_none {f : Fields} {s : State} (h : DrainFields f s) (hnv : f.d.toNat + drnRegs (s.ent f.cls) f ≤ s.limits.nv) :
    firstErr (if f.d.toNat < s.limits.nv ∧ f.d.toNat + drnRegs (s.ent f.cls) f ≤ s.limits.nv then none else some ⟨0, (0 : BitVec 24) ++ f.d⟩)
      (firstErr (w2Err f (drnW2Ok f)) (ckErr s f)) = none := by
  obtain ⟨-, hrows, -, hv, hx⟩ := id h
  have hregs : 1 ≤ drnRegs (s.ent f.cls) f := by
    unfold drnRegs
    rw [drnRows_eq]
    split <;> omega
  rw [if_pos ⟨by omega, hnv⟩, ckErr_none hv hx, drnW2Ok_of_drainFields h]
  rfl

theorem quantErr_none {f : Fields} {s : State} (h : QuantFields f s) :
    firstErr (clsErr f (entPlanes (s.ent f.cls))) (w2Err f (qntW2Ok (s.ent f.cls) f)) = none := by
  have hplanes : entPlanes (s.ent f.cls) = true := by simpa [entPlanes] using h.1
  rw [qntW2Ok_of_quantFields h, hplanes]
  rfl

/-! ## Ranges (R176) -/

theorem State.checkRanges_none {s : State} {l : List MRange} (i : Instr) (h : RangesOk s l) : s.checkRanges i l = none := by
  induction l with
  | nil => rfl
  | cons r rs ih =>
    obtain ⟨halign, hparts⟩ := h r (by simp)
    have hbase : (r.aligned && decide (r.base.toNat % 4 ≠ 0)) = false := by
      cases ha : r.aligned
      · rfl
      · simp [halign ha]
    have hbads : r.parts.filterMap (fun p => s.checkOwn s.cur r.acc p.1 p.2) = [] := List.filterMap_eq_nil_iff.2 hparts
    have hrest := ih fun r' hr' => h r' (by simp [hr'])
    simp only [State.checkRanges, hbase, hbads, Bool.false_eq_true, if_false, List.map_nil]
    exact hrest

end Sys2Proof.Machine

namespace Sys2Proof.Proofs
open Machine Spec

theorem matrixNeedsConvergence : MatrixNeedsConvergence := by
  intro f s hdiv hs v
  have hplain : ∀ op, (planAlways op f).row = rowFor op f ∧ (planAlways op f).f = f ∧ (planAlways op f).xsrc = [] ∧
      (planAlways op f).priv = none ∧ (planAlways op f).vector = false := fun _ => ⟨rfl, rfl, rfl, rfl, rfl⟩
  have hissue : ∀ (i : Instr) (p : Plan) (body : State → Res) (op : BitVec 7), Ready op f s →
      (p.row = rowFor op f ∧ p.f = f ∧ p.xsrc = [] ∧ p.priv = none ∧ p.vector = false) → p.more s.limits = none →
      (∀ r ∈ p.xdst, s.cur.producing r = false) → Diverges s (.next (issue i p (matBody body) s)) := fun i p body op hr hrow hmore hfree => by
    rw [issue_ready_dsts hr hrow hmore hfree]
    exact diverges_matBody hdiv hs i body
  refine ⟨fun i hi _ hr => ?chain, fun _ hr hf hw => ?mma, fun _ hr => ?mzero, fun hwf hu hr hf => ?unfold, fun _ hu hr => ?munf,
    fun _ hr hf hnv h256 hfree => ?mdrn, fun _ hr hf hkind => ?scratch, fun _ hr hf => ?mlda, fun _ hr hf => ?mqnt, fun _ hr => ?mstat⟩
  case chain =>
    obtain rfl | rfl := hi
    · exact hissue _ _ _ 0x70 hr (hplain 0x70) rfl (by exact nofun)
    · exact hissue _ _ _ 0x70 hr (hplain 0x70) rfl (by exact nofun)
  case mma => exact hissue _ _ _ 0x71 hr (hplain 0x71) (mmaErr_none hf (.inr hw)) (by exact nofun)
  case mzero => exact hissue _ _ _ 0x73 hr (hplain 0x73) rfl (by exact nofun)
  case unfold =>
    have hexec : exec (.mmaUnfold f) s = execMmaUnfold f s := rfl
    rw [hexec, execMmaUnfold, needsUnfold, if_pos hu]
    exact hissue _ _ _ 0x71 hr (hplain 0x71) (mmaErr_none hf (.inl (mmaUnfold_a hwf))) (by exact nofun)
  case munf =>
    have hexec : exec (.munf f) s = execMunf f s := rfl
    rw [hexec, execMunf, needsUnfold, if_pos hu]
    exact hissue _ _ _ 0x72 hr (hplain 0x72) rfl (by exact nofun)
  case mdrn =>
    have hregs : drnRegs (s.ent f.cls) f = f.w2.toNat / 256 % 256 * (if entPacked (s.ent f.cls) then 1 else 2) := rfl
    refine hissue _ _ _ 0x74 hr (hplain 0x74) (drainErr_none hf (hregs ▸ hnv)) fun x hx => ?_
    obtain ⟨k, hk, rfl⟩ := List.mem_map.1 hx
    exact hfree k (hregs ▸ List.mem_range.1 hk)
  case scratch =>
    exact hissue _ _ _ 0x74 hr (hplain 0x74) (drainScratchErr_none hf hkind) (by exact nofun)
  case mlda => exact hissue _ _ _ 0x75 hr (hplain 0x75) (loadErr_none hf) (by exact nofun)
  case mqnt => exact hissue _ _ _ 0x76 hr (hplain 0x76) (quantErr_none hf) (by exact nofun)
  case mstat => exact hissue _ _ _ 0x77 hr (hplain 0x77) rfl (by exact nofun)

end Sys2Proof.Proofs
end

section
/-! PROOF. O27: the matrix instructions of a converged group (R177 to R187). -/

namespace Sys2Proof.Machine
open Spec

/-! ## What an instruction of the engine leaves -/

/-- An instruction that changed at most the unfolding unit, the lists of operations and the blocks passes. -/
theorem State.passedOnly_retire {s u : State} (i : Instr) (hcur : u.cur = { s.cur with unfold := u.cur.unfold, pend := u.cur.pend })
    (hmem : u.mem = s.mem) (hlaunches : u.launches = s.launches) :
    PassedOnly i s (u.retire i) ∧ (u.retire i).blocks = u.blocks ∧ (u.retire i).cur.pend = u.cur.pend ∧
      (u.retire i).cur.unfold = u.cur.unfold := by
  have hsig : u.sigFolded i = sigAfter i s := by
    rw [State.sigFolded_eq]
    unfold sigAfter
    rw [hcur]
    rfl
  have hsp : u.cur.sp = s.cur.sp := by rw [hcur]; rfl
  have hrun : u.cur.running = s.cur.running := by rw [hcur]
  have hctl : u.cur.ctl = s.cur.ctl := by rw [hcur]
  have hregs : u.cur.regs = s.cur.regs := by rw [hcur]
  rw [State.retire_eq, hsig, hsp]
  refine ⟨⟨⟨?_, fun n hn => ?_⟩, hregs, hctl, hmem, hlaunches⟩, rfl, rfl, rfl⟩
  · rw [State.onSp_cur_sp, hsp]
    rfl
  · rw [State.onSp_cur_entry u _ (hrun ▸ hn), hcur]
    rfl

/-! ## Tiles -/

/-- The block of a group after a change to it that keeps its name. -/
theorem State.blockOf_onBlock {s : State} {g : Group} (h : (s.block? g.launch g.run g.block).isSome = true) (f : Block → Block)
    (hf : ∀ b, (f b).launch = b.launch ∧ (f b).run = b.run ∧ (f b).index = b.index) :
    (s.onBlock g.launch g.run g.block f).blockOf g = f (s.blockOf g) := by
  obtain ⟨b, hb⟩ := Option.isSome_iff_exists.1 h
  have hname := List.find?_some hb
  have hfound : (s.onBlock g.launch g.run g.block f).block? g.launch g.run g.block = some (f b) :=
    find?_replaceFirst hb (by obtain ⟨h1, h2, h3⟩ := hf b; rw [h1, h2, h3]; exact hname)
  rw [State.blockOf, State.blockOf, hfound, hb]
  rfl

/-- A tile is changed; the block's other tiles, its scratchpad and its stacks are the same. -/
theorem State.onTile_tiles {s : State} {g : Group} (h : (s.block? g.launch g.run g.block).isSome = true) (n : BitVec 3) (f : Tile → Tile) :
    (s.onTile g n f).tileOf g n = f (s.tileOf g n) ∧ (∀ m, m ≠ n → (s.onTile g n f).tileOf g m = s.tileOf g m) ∧
      ((s.onTile g n f).blockOf g).scratch = (s.blockOf g).scratch ∧ ((s.onTile g n f).blockOf g).stack = (s.blockOf g).stack := by
  have hblock : (s.onTile g n f).blockOf g = _ := State.blockOf_onBlock h _ fun _ => ⟨rfl, rfl, rfl⟩
  refine ⟨?_, fun m hm => ?_, ?_, ?_⟩
  · simp [State.tileOf, hblock]
  · have hne : n.toNat ≠ m.toNat := fun e => hm (BitVec.eq_of_toNat_eq e.symm)
    simp [State.tileOf, hblock, Vector.getElem_set_ne _ _ hne]
  · rw [hblock]
  · rw [hblock]

theorem State.blockOf_retire (u : State) (i : Instr) : (u.retire i).blockOf (u.retire i).cur = u.blockOf u.cur := by
  rw [State.retire_eq]
  rfl

theorem State.tileOf_retire (u : State) (i : Instr) (n : BitVec 3) : (u.retire i).tileOf (u.retire i).cur n = u.tileOf u.cur n := by
  rw [State.retire_eq]
  rfl

/-- MBEG and MEND set the in-chain bit and begin another epoch (R182). -/
theorem setChain_passes {s : State} (hb : HasBlock s) (i : Instr) (f : Fields) (x : Bool) :
    let t := finish i (setChain f x s)
    PassedOnly i s t ∧ OtherTiles s t (f.a.extractLsb' 0 3) ∧ t.cur.pend = s.cur.pend ∧
      t.tileOf t.cur (f.a.extractLsb' 0 3) = { s.tileOf s.cur (f.a.extractLsb' 0 3) with
        chain := x, epoch := (s.tileOf s.cur (f.a.extractLsb' 0 3)).epoch + 1 } := by
  obtain ⟨htile, hother, hscratch, hstack⟩ := State.onTile_tiles hb.2 (f.a.extractLsb' 0 3) fun t => { t with chain := x, epoch := t.epoch + 1 }
  obtain ⟨hpassed, -, hpend, -⟩ := State.passedOnly_retire (s := s)
    (u := s.onTile s.cur (f.a.extractLsb' 0 3) fun t => { t with chain := x, epoch := t.epoch + 1 }) i rfl rfl rfl
  refine ⟨hpassed, ⟨fun m hm => ?_, ?_, ?_⟩, hpend, ?_⟩
  · exact (State.tileOf_retire ..).trans (hother m hm)
  · exact (congrArg Block.scratch (State.blockOf_retire ..)).trans hscratch
  · exact (congrArg Block.stack (State.blockOf_retire ..)).trans hstack
  · exact (State.tileOf_retire ..).trans htile

theorem chainCheck_passes {i : Instr} {field : Nat} {n : BitVec 8} {want : Bool} {body : State → Res} {s : State}
    (h : (s.tileOf s.cur (n.extractLsb' 0 3)).chain = want) : chainCheck i field n want body s = body s := if_pos h

/-! ## The engine's list (R177) -/

/-- An operation with the operand bytes that the engine has read at issue. -/
def MatOp.reading (o : MatOp) (got : List (Nat × Byte)) (marks : List Nat) : MatOp :=
  match o with
  | .mma x => .mma { x with got := got, marks := marks }
  | .zero t e => .zero t e
  | .load x => .load { x with got := got, marks := marks }

theorem State.queueMat_eq (s : State) (o : MatOp) : ∃ got marks fresh, s.queueMat o =
    { s with cur := { s.cur with pend := { s.cur.pend with mx := s.cur.pend.mx ++ [o.reading got marks] } }, fresh := fresh } := by
  cases o with
  | mma o => exact ⟨_, _, _, rfl⟩
  | zero tile epoch => exact ⟨[], [], _, rfl⟩
  | load o => exact ⟨_, _, _, rfl⟩

/-- An operation enters the engine while that holds at most 62 of the group, its earlier accesses performed. -/
theorem State.enterMat_enters {s : State} (hres : s.cur.resident = true) (hmem : s.cur.pend.mem = []) (hroom : s.cur.pend.mx.length < 63)
    (i : Instr) (o : MatOp) : ∃ got marks, Entered i s (finish i (s.enterMat o)) (o.reading got marks) := by
  have hfree : s.cur.full 1 = false := decide_eq_false (Nat.not_le.2 hroom)
  have hr := Group.isRef_self hres
  obtain ⟨got, marks, fresh, hq⟩ := s.queueMat_eq o
  have hdone : s.enterMat o = .done (s.queueMat o) := by
    simp only [State.enterMat, hfree, State.flushBytes_idle hr hmem, hr, Bool.not_true, Bool.false_eq_true, if_false]
  rw [hdone]
  generalize s.queueMat o = u at hq
  obtain ⟨hpassed, hblocks, hpend, hunfold⟩ := State.passedOnly_retire (s := s) (u := u) i (by rw [hq]) (by rw [hq]) (by rw [hq])
  exact ⟨got, marks, hpassed, hblocks.trans (by rw [hq]), hunfold.trans (by rw [hq]), hpend.trans (by rw [hq])⟩

/-- While the engine holds 63 operations of the group, the instruction waits (R20). -/
theorem State.enterMat_waits {s : State} (hfull : 63 ≤ s.cur.pend.mx.length) (i : Instr) (o : MatOp) : finish i (s.enterMat o) = s.stall := by
  have hfull : s.cur.full 1 = true := decide_eq_true hfull
  simp only [State.enterMat, hfull, if_true]
  rfl

/-! ## The descriptor of a virtual operand (R183) -/

theorem byteLocs_map_slice {a n k : Nat} (ha : a < 2 ^ 56) (hk : 4 * k + 4 ≤ n) (read : Nat → Byte) :
    ((((byteLocs a n).map read).drop (4 * k)).take 4) = (List.range 4).map fun j => read ((a + 4 * k + j) % 2 ^ 56) := by
  have hlo : ¬ 2 ^ 60 ≤ a := by omega
  simp only [byteLocs, hlo, if_false, List.map_map]
  refine List.ext_getElem (by simp; omega) fun j hj _ => ?_
  simp [Nat.add_assoc]

theorem wordsOf_byteLocs {a : Nat} (ha : a < 2 ^ 56) (read : Nat → Byte) : wordsOf ((byteLocs a 32).map read) 8 =
    (List.range 8).map fun k => BitVec.ofNat 32 (leNat ((List.range 4).map fun j => read ((a + 4 * k + j) % 2 ^ 56))) := by
  refine List.map_congr_left fun k hk => ?_
  rw [byteLocs_map_slice ha (by have := List.mem_range.1 hk; omega)]

/-- An output dimension is at least one pixel where the window fits (R183). -/
theorem one_le_outDim {n pad dil k stride : Nat} (hs : 0 < stride) (h : (dil : Int) * ((k : Int) - 1) + 1 ≤ n + 2 * pad) :
    ¬ outDim n pad dil k stride < 1 := by
  have hdiv : 0 ≤ ((n : Int) + 2 * pad - dil * ((k : Int) - 1) - 1) / stride := Int.ediv_nonneg (by omega) (by omega)
  unfold outDim
  omega

/-- A descriptor in order has no offending word. -/
theorem convBad_none {l : List Word} (h : GoodDescriptor l) : convBad l = none := by
  obtain ⟨hw, hh, hkw, hkh, hc, hc32, hdw, hdh, hsw, hsh, h5, h6, h7, hoh, how⟩ := h
  have h0 : ¬ ((Conv.ofWords l).w = 0 ∨ (Conv.ofWords l).h = 0 ∨ (Conv.ofWords l).oh < 1 ∨ (Conv.ofWords l).ow < 1) := by
    rintro (h | h | h | h)
    · exact hw.ne' h
    · exact hh.ne' h
    · exact one_le_outDim hsh hoh h
    · exact one_le_outDim hsw how h
  have h1 : ¬ ((Conv.ofWords l).kw = 0 ∨ (Conv.ofWords l).kh = 0 ∨ (Conv.ofWords l).c = 0 ∨ (Conv.ofWords l).c % 32 ≠ 0) := by
    rintro (h | h | h | h)
    · exact hkw.ne' h
    · exact hkh.ne' h
    · exact hc.ne' h
    · exact h hc32
  have h2 : ¬ ((Conv.ofWords l).dw = 0 ∨ (Conv.ofWords l).dh = 0 ∨ (Conv.ofWords l).sw = 0 ∨ (Conv.ofWords l).sh = 0) := by
    rintro (h | h | h | h)
    · exact hdw.ne' h
    · exact hdh.ne' h
    · exact hsw.ne' h
    · exact hsh.ne' h
  simp only [convBad, List.find?_cons, List.find?_nil, h0, h1, h2, h5, h6, h7, decide_false, ne_eq, not_true]

/-! ## MMA, MUNF -/

/-- The two forms of `MMA` with ranges in order come to the engine (R180, R184). -/
theorem mmaBody_enters {s : State} {f : Fields} (i : Instr) (h : RangesOk s ((mmaOp i f s).ranges (s.ent f.cls) (s.ent f.sub))) :
    mmaBody i f s = s.enterMat (.mma (mmaOp i f s)) := by
  simp only [mmaBody, State.checkRanges_none i h]

theorem mmaM_eq (f : Fields) : mmaM f = f.w2.toNat % 65536 := by
  rw [mmaM, bitsOf_eq]
  omega

theorem mmaK0_eq (f : Fields) : mmaK0 f = f.w2.toNat / 65536 := by
  rw [mmaK0, bitsOf_eq]
  omega

theorem mmaOp_ranges_stored {f : Fields} {s : State} (i : Instr) (ha : f.a ≠ 0xFF) (hw : f.w2.toNat < 65536) (ca cb : DWord) :
    (mmaOp i f s).ranges ca cb = tensorRanges ca (s.cur.regs.getPair f.a) (s.cur.regs.getPair (f.a + 2)) 1 12 f.w2.toNat ++
      tensorRanges cb (s.cur.regs.getPair f.b) (s.cur.regs.getPair (f.b + 2)) 2 12 f.w2.toNat := by
  have hm : mmaM f = f.w2.toNat := (mmaM_eq f).trans (Nat.mod_eq_of_lt hw)
  simp only [MmaOp.ranges, mmaOp, aRanges, ha, if_false, hm]

theorem mmaOp_ranges_virtual {f : Fields} {s : State} (i : Instr) (ha : f.a = 0xFF) (ca cb : DWord) :
    (mmaOp i f s).ranges ca cb = aRanges ca none s.cur.unfold (f.w2.toNat / 65536) (f.w2.toNat % 65536) ++
      tensorRanges cb (s.cur.regs.getPair f.b) (s.cur.regs.getPair (f.b + 2)) 2 12 (f.w2.toNat % 65536) := by
  simp only [MmaOp.ranges, mmaOp, ha, if_true, mmaM_eq, mmaK0_eq]

/-- The operation of an `MLDA` (R187). -/
def mldOp (f : Fields) (s : State) : MldOp :=
  { pc := s.cur.sp.pc, split := s.cur.running, tile := f.d.extractLsb' 0 3, cn := f.cls, ck := ckOf f, addr := s.cur.regs.getPair f.b
    count := s.cur.regs.getS f.c, epoch := (s.tileOf s.cur (f.d.extractLsb' 0 3)).epoch, words := encode (.mlda f) }

theorem scratchRead_idle {s : State} (hres : s.cur.resident = true) (hmem : s.cur.pend.mem = []) {locs : List Nat}
    (hmark : ∀ a ∈ locs, s.markedAt s.cur a = false) (body : State → (Nat → Byte) → Res) :
    scratchRead s locs body = body s (s.byteOf s.cur) := by
  have hr := Group.isRef_self hres
  have hnone : locs.find? (s.markedAt s.cur) = none := List.find?_eq_none.2 fun a ha => by simp [hmark a ha]
  simp only [scratchRead, State.flushBytes_idle hr hmem, hr, hnone, Bool.not_true, Bool.false_eq_true, if_false]

end Sys2Proof.Machine

namespace Sys2Proof.Proofs
open Machine Spec

theorem matrixIssues_engine : Spec.MatrixIssues := by
  intro f s hconv hb hmem ta td
  obtain ⟨hres, -⟩ := id hb
  have hplain : ∀ op, (planAlways op f).row = rowFor op f ∧ (planAlways op f).f = f ∧ (planAlways op f).xsrc = [] ∧ (planAlways op f).xdst = [] ∧
      (planAlways op f).priv = none := fun _ => ⟨rfl, rfl, rfl, rfl, rfl⟩
  have hissue : ∀ {op : BitVec 7} (i : Instr) (p : Plan) (body : State → Res), Ready op f s →
      (p.row = rowFor op f ∧ p.f = f ∧ p.xsrc = [] ∧ p.xdst = [] ∧ p.priv = none) → p.more s.limits = none → p.vector = false →
      issue i p (matBody body) s = finish i (body s) := fun i p body hr hrow hmore hvec => by
    rw [issue_ready hr hrow hmore (fun h => by rw [hvec] at h; cases h), matBody_converged hconv]
  refine ⟨fun _ hr hchain => ?mbeg, fun _ hr hchain => ?mend, fun hwf hr hf hw => ?mma, fun hwf hu hr hf hvalid => ?unfold, fun _ hu hr => ?munf,
    fun _ hr hchain hroom => ?mzero, fun _ hr hf hchain hranges hroom => ?mlda⟩
  case mbeg =>
    refine ⟨_, congrArg Host.Outcome.next (hissue _ _ _ hr (hplain 0x70) rfl rfl), ?_⟩
    rw [chainCheck_passes hchain]
    exact setChain_passes hb _ f true
  case mend =>
    refine ⟨_, congrArg Host.Outcome.next (hissue _ _ _ hr (hplain 0x70) rfl rfl), ?_⟩
    rw [chainCheck_passes hchain]
    exact setChain_passes hb _ f false
  case mma =>
    intro r hranges
    have ha := mma_a hwf
    have hm : mmaM f = f.w2.toNat := (mmaM_eq f).trans (Nat.mod_eq_of_lt hw)
    have hk0 : mmaK0 f = 0 := (mmaK0_eq f).trans (Nat.div_eq_of_lt hw)
    have henter : exec (.mma f) s = .next (finish (.mma f) (s.enterMat (.mma (mmaOp (.mma f) f s)))) :=
      congrArg Host.Outcome.next ((hissue (.mma f) { planAlways 0x71 f with more := fun _ => mmaErr f s } _ hr (hplain 0x71)
        (mmaErr_none hf (.inr hw)) rfl).trans (congrArg (finish (.mma f))
          (mmaBody_enters _ (by rw [mmaOp_ranges_stored _ ha hw]; exact hranges))))
    refine ⟨fun hroom => ?_, fun hfull => ⟨_, henter, State.enterMat_waits hfull _ _⟩⟩
    obtain ⟨got, marks, hentered⟩ := State.enterMat_enters hres hmem hroom (.mma f) (.mma (mmaOp (.mma f) f s))
    exact ⟨_, _, henter, hentered, rfl, rfl, rfl, if_neg ha, rfl, rfl, hm, hk0, rfl, rfl, rfl⟩
  case unfold =>
    intro r m k0 d hblocks hranges hroom
    have ha := mmaUnfold_a hwf
    have hin : ¬ (Conv.ofWords s.cur.unfold.desc).kblocks < mmaK0 f + mmaM f := by
      rw [mmaK0_eq, mmaM_eq]
      exact Nat.not_lt.2 hblocks
    have henter : exec (.mmaUnfold f) s = .next (finish (.mmaUnfold f) (s.enterMat (.mma (mmaOp (.mmaUnfold f) f s)))) := by
      have hexec : exec (.mmaUnfold f) s = execMmaUnfold f s := rfl
      rw [hexec, execMmaUnfold, needsUnfold, if_pos hu, hissue (.mmaUnfold f) { planAlways 0x71 f with more := fun _ => mmaErr f s } _ hr (hplain 0x71)
        (mmaErr_none hf (.inl ha)) rfl]
      simp only [hvalid, hin, Bool.not_true, Bool.false_eq_true, if_false]
      rw [mmaBody_enters _ (by rw [mmaOp_ranges_virtual _ ha]; exact hranges)]
    obtain ⟨got, marks, hentered⟩ := State.enterMat_enters hres hmem hroom (.mmaUnfold f) (.mma (mmaOp (.mmaUnfold f) f s))
    exact ⟨_, _, henter, hentered, rfl, rfl, rfl, if_pos ha, rfl, rfl, rfl, mmaM_eq f, mmaK0_eq f, rfl⟩
  case munf =>
    intro r at' desc halign hranges hlow hmark hgood
    have hbyte : ∀ a ∈ byteLocs at' 32, s.markedAt s.cur a = false := by
      intro a ha
      obtain ⟨k, hk, rfl⟩ := List.mem_map.1 ha
      rw [if_neg (by omega)]
      exact hmark k (List.mem_range.1 hk)
    have hdesc : wordsOf ((byteLocs at' 32).map (s.byteOf s.cur)) 8 = desc := wordsOf_byteLocs (by omega) _
    have hpass : exec (.munf f) s = .next (finish (.munf f) (.done { s with cur := { s.cur with
        unfold := ⟨true, r.getPair f.a, r.getPair (f.a + 2), desc⟩ } })) := by
      have hexec : exec (.munf f) s = execMunf f s := rfl
      rw [hexec, execMunf, needsUnfold, if_pos hu, hissue _ _ _ hr (hplain 0x72) rfl rfl]
      rw [if_neg (not_not.2 halign), State.checkRanges_none _ hranges]
      dsimp only
      rw [scratchRead_idle hres hmem hbyte]
      rw [hdesc, convBad_none hgood]
    obtain ⟨hpassed, hblocks, hpend, hunfold⟩ := State.passedOnly_retire (s := s) (u := { s with cur := { s.cur with
        unfold := ⟨true, r.getPair f.a, r.getPair (f.a + 2), desc⟩ } }) (.munf f) rfl rfl rfl
    exact ⟨_, hpass, hpassed, hblocks, hpend, hunfold⟩
  case mzero =>
    obtain ⟨got, marks, hentered⟩ := State.enterMat_enters hres hmem hroom (.mzero f) (.zero ta (s.tileOf s.cur ta).epoch)
    refine ⟨_, congrArg Host.Outcome.next (hissue _ _ _ hr (hplain 0x73) rfl rfl), ?_⟩
    rw [chainCheck_passes hchain]
    exact hentered
  case mlda =>
    have hexec : exec (.mlda f) s = .next (finish (.mlda f) (s.enterMat (.load (mldOp f s)))) := by
      have hdef : exec (.mlda f) s = execMlda f s := rfl
      rw [hdef, execMlda, hissue _ _ _ hr ⟨rfl, rfl, rfl, rfl, rfl⟩ (loadErr_none hf) rfl]
      rw [chainCheck_passes hchain]
      dsimp only
      rw [show s.checkRanges (.mlda f) [.one (s.cur.regs.getPair f.b) false 2 12 (4096 * memElem (s.ent f.cls))] = none from
        State.checkRanges_none _ hranges]
      rfl
    obtain ⟨got, marks, hentered⟩ := State.enterMat_enters hres hmem hroom (.mlda f) (.load (mldOp f s))
    exact ⟨_, _, hexec, hentered, rfl, rfl, rfl, rfl, rfl, rfl⟩

/-- Settles O27: without convergence each matrix instruction traps at its first check; with it, it leaves its own effect on the chain, the
unfolding unit or the engine's list, and only retires besides. -/
theorem matrixIssues : Obligations.MatrixIssues := ⟨matrixNeedsConvergence, matrixIssues_engine⟩

end Sys2Proof.Proofs
end

section
/-! PROOF. O36: a vector instruction under an empty mask (R50, R90, R101). -/

namespace Sys2Proof.Machine
open Spec

/-! ## The shared operations under an empty mask -/

section
variable {i : Instr} {op : BitVec 7} {f : Fields} {s : State} (hvec : (!f.u) = true) (hexec : s.cur.exec = 0)
include hvec hexec

theorem alu1_empty (g) : alu1 i f g s = s.retire i := by
  unfold alu1
  exact issue_empty (p := planOf 0x27 f) hvec hexec

theorem alu2_empty (g) : alu2 i op f g s = s.retire i := by
  unfold alu2
  exact issue_empty (p := planOf op f) hvec hexec

theorem bits1_empty (g) : bits1 i op f g s = s.retire i := by
  unfold bits1
  exact issue_empty (p := planOf op f) hvec hexec

theorem bits2_empty (g) : bits2 i op f g s = s.retire i := by
  unfold bits2
  exact issue_empty (p := planOf op f) hvec hexec

theorem shiftOp_empty (g) : shiftOp i op f g s = s.retire i := by
  unfold shiftOp
  exact issue_empty (p := planOf op f) hvec hexec

theorem count1_empty (g) : count1 i f g s = s.retire i := by
  unfold count1
  exact issue_empty (p := planOf 0x27 f) hvec hexec

theorem fpOp1_empty (g) : fpOp1 i op f g s = s.retire i := issue_empty hvec hexec

theorem fpOp2_empty (g) : fpOp2 i op f g s = s.retire i := issue_empty hvec hexec

theorem clsOp2_empty (g) : clsOp2 i op f g s = s.retire i := issue_empty hvec hexec

end

/-- A vector form with U = 0 only retires under an empty mask. -/
theorem exec_empty_of_vectorOp {i : Instr} {op : BitVec 7} {f : Fields} {s : State} (hparts : i.parts = some (op, f))
    (hsel : i.selected = true) (hu : f.u = false) (hexec : s.cur.exec = 0) (hop : vectorOp op f) : exec i s = .next (s.retire i) := by
  have hvec : (!f.u) = true := congrArg not hu
  cases i <;> cases hparts
  case kpopc | kffs =>
    have hsub := of_decide_eq_true hsel
    simp [vectorOp, hsub] at hop
  case kvote | ktov => exact congrArg Host.Outcome.next (issue_empty rfl hexec)
  case iadd | iaddExt | isub | isubExt | imul | imulExt | imulh | imulhExt | imin | iminExt | imax | imaxExt =>
    exact congrArg Host.Outcome.next (alu2_empty hvec hexec _)
  case and | andExt | or | orExt | xor | xorExt | andn | andnExt => exact congrArg Host.Outcome.next (bits2_empty hvec hexec _)
  case shl | shlExt | shr | shrExt | sar | sarExt | rotl | rotlExt => exact congrArg Host.Outcome.next (shiftOp_empty hvec hexec _)
  case not | notExt => exact congrArg Host.Outcome.next (bits1_empty hvec hexec _)
  case iabs | ineg | brev => exact congrArg Host.Outcome.next (alu1_empty hvec hexec _)
  case popc | clz | ctz => exact congrArg Host.Outcome.next (count1_empty hvec hexec _)
  case fadd | faddExt | fsub | fsubExt | fmul | fmulExt | fmin | fminExt | fmax | fmaxExt =>
    exact congrArg Host.Outcome.next (fpOp2_empty hvec hexec _)
  case frcp | frcpExt | frsq | frsqExt | fsqrt | fsqrtExt | fexp2 | fexp2Ext | flog2 | flog2Ext | fsinp | fsinpExt | fcosp | fcospExt |
      frint | frintExt | fclass | fclassExt => exact congrArg Host.Outcome.next (fpOp1_empty hvec hexec _)
  case cadd | csub | cmul | cmin | cmax => exact congrArg Host.Outcome.next (clsOp2_empty hvec hexec _)
  case iadd3 | imad | bfx | bfi | icmp | isel | mov | movExt | movi | movl | lea | shfl | bcast | ired | ipsum | bmix | ffma | fcmp |
      fcvt | fpack | funpk | cfma | ccvt | cred | cqnt | cdq | cchk | clea | ld | st | cld | cst | atom | red | gather | pref | crput |
      crget | mfs | mtsExec | mts | rngc | srseed | caprd =>
    refine congrArg Host.Outcome.next (issue_empty ?_ hexec)
    exact hvec
  all_goals simp [vectorOp] at hop

end Sys2Proof.Machine

namespace Sys2Proof.Proofs
open Machine Spec

theorem emptyMask : Spec.EmptyMask := by
  intro i op f s hparts hwf hu hexec hop
  rw [wellFormed_of_parts hparts, Bool.and_eq_true] at hwf
  refine ⟨s.retire i, exec_empty_of_vectorOp hparts hwf.2 hu hexec hop, State.plain_retire_onRegs s i id, ?_⟩
  rw [State.retire_eq]
  rfl

end Sys2Proof.Proofs
end

section
/-! PROOF. O36: the page-fault handler (R228 to R230). -/

namespace Sys2Proof.Machine
open Spec

/-! ## What a record changes -/

/-- At most device memory, its tables included, has changed. -/
def MemOnly (s t : State) : Prop := t = { s with mem := t.mem }

theorem MemOnly.refl (s : State) : MemOnly s s := rfl

theorem MemOnly.trans {s t u : State} (h : MemOnly s t) (h' : MemOnly t u) : MemOnly s u := by
  rw [MemOnly] at h h' ⊢
  rw [h', h]

theorem State.putPiece_memOnly (s : State) (x : Nat) (l : List (Nat × Byte)) (mark : Bool) : MemOnly s (s.putPiece x l mark) := by
  unfold State.putPiece
  split <;> rfl

theorem State.foldl_putPiece_memOnly (s : State) (secs : List Nat) (l : Nat → List (Nat × Byte)) (mark : Nat → Bool) :
    MemOnly s (secs.foldl (fun s x => s.putPiece x (l x) (mark x)) s) :=
  List.foldlRecOn secs _ (motive := fun t : State => MemOnly s t) (.refl s) fun _ ht _ _ => ht.trans (State.putPiece_memOnly ..)

theorem State.copyPage_memOnly {s t : State} {i : Nat} {e : IptEntry} {v : Word} (h : s.copyPage i e v = some t) : MemOnly s t := by
  unfold State.copyPage at h
  split at h
  · cases h
  · split at h
    · cases h
    · rw [← Option.some.inj h]
      rfl

theorem State.ownPage_memOnly {s t : State} {i : Nat} {e : IptEntry} (h : s.ownPage i e = some t) : MemOnly s t := by
  unfold State.ownPage State.forkPage at h
  dsimp only at h
  split at h
  · split at h
    · cases h
    · obtain ⟨t1, h1, rfl⟩ := Option.map_eq_some_iff.1 h
      exact (State.copyPage_memOnly h1).trans rfl
  · split at h
    · exact State.copyPage_memOnly h
    · rw [← Option.some.inj h]
      exact .refl s

theorem State.vwrite_memOnly {s t : State} {asid : BitVec 16} {va : Nat} {bytes : List Byte} {marks : List Nat}
    (h : s.vwrite asid va bytes marks = .ok t) : MemOnly s t := by
  unfold State.vwrite at h
  dsimp only at h
  split at h
  · cases h
  · cases h
  · split at h
    · split at h
      · cases h
      · next s1 hown =>
        split at h
        · rw [← Except.ok.inj h]
          exact (State.ownPage_memOnly hown).trans (State.foldl_putPiece_memOnly ..)
        · cases h
    · rw [← Except.ok.inj h]
      exact State.foldl_putPiece_memOnly ..

theorem State.setHeadWord_memOnly (s : State) (d : QDesc) (n x : Nat) : MemOnly s (s.setHeadWord d n x) := by
  unfold State.setHeadWord
  split
  · next h => exact State.vwrite_memOnly h
  · exact .refl s

theorem State.appendRecord_memOnly {s t : State} {exq src : Nat} {b : List Byte} (h : s.appendRecord exq src b = some t) : MemOnly s t := by
  unfold State.appendRecord at h
  dsimp only at h
  split at h
  · split at h
    · cases h
    · split at h
      · next s1 hw =>
        rw [← Option.some.inj h]
        exact (State.vwrite_memOnly hw).trans (State.setHeadWord_memOnly ..)
      · cases h
  · cases h

/-- A record goes to a ring of device memory, or to the records that wait. -/
theorem State.emit_eq (s : State) (r : Rec) : s.emit r = { s with mem := (s.emit r).mem, waitingRecs := (s.emit r).waitingRecs } := by
  unfold State.emit
  dsimp only
  split
  · rfl
  · split
    · rfl
    · split
      · next t h =>
        rw [State.appendRecord_memOnly h]
      · rfl

/-! ## The first touch of a page (R229) -/

theorem assoc_assocSet {α : Type} (l : List (Nat × α)) (k : Nat) (x : α) : assoc (assocSet l k x) k = some x := by
  induction l with
  | nil => simp [assoc, assocSet, putWhere]
  | cons p l ih =>
    unfold assoc assocSet at ih ⊢
    unfold putWhere
    split
    · simp
    · next h => simpa [List.find?_cons, h] using ih

/-- The head of a chain is found first. -/
theorem Mem.walk_link {m : Mem} {i : Nat} {e : IptEntry} (hi : i ≠ chainEnd) (hcode : e.code = false) (ver : Word) :
    (m.link i e).walk e.asid e.vpn ver = some (i, { e with valid := true, next := m.head (anchorIndex e.asid e.vpn) }) := by
  have hhead : (m.link i e).head (anchorIndex e.asid e.vpn) = i := by
    simp only [Mem.head, Mem.link, assoc_assocSet, Option.getD_some]
  have hentry : (m.link i e).entry i = { e with valid := true, next := m.head (anchorIndex e.asid e.vpn) } := by
    simp only [Mem.entry, Mem.link, assoc_assocSet, Option.getD_some]
  have hserves : ((m.link i e).entry i).serves e.asid e.vpn ver = true := by
    rw [hentry]
    simp [IptEntry.serves, hcode]
  rw [Mem.walk, hhead, Mem.walkFrom, if_neg hi, if_pos hserves, hentry]

/-- What a memory without the bytes of a frame reads. -/
theorem Memory.read_filter_frame (m : Memory) (f a : Nat) :
    Memory.read (m.filter fun p => frameOf p.1 ≠ f) a = if frameOf a = f then 0 else m.read a := by
  induction m with
  | nil => simp [Memory.read, unlisted]
  | cons p m ih =>
    obtain ⟨k, b⟩ := p
    by_cases hk : frameOf k = f
    · rw [List.filter_cons_of_neg (by simp [hk]), ih, Memory.read]
      split_ifs with ha hka
      · rfl
      · exact absurd (hka ▸ hk) ha
      · rfl
    · rw [List.filter_cons_of_pos (by simp [hk]), Memory.read, Memory.read, ih]
      split_ifs with hka ha ha
      · exact absurd (hka ▸ ha) hk
      · rfl
      · rfl
      · rfl

/-- A frame of the pool is zeroed and mapped. -/
def State.mapZeroed (s : State) (fr : Nat) (rest : List Nat) (e : IptEntry) : State :=
  let s1 := ({ s with mem := { s.mem with pool := rest } } : State).zeroFrame fr
  { s1 with mem := s1.mem.link fr e }

theorem State.mapZeroed_read (s : State) (fr : Nat) (rest : List Nat) (e : IptEntry) (a : Nat) :
    (s.mapZeroed fr rest e).mem.bytes.read a = if frameOf a = fr then 0 else s.mem.bytes.read a :=
  Memory.read_filter_frame s.mem.bytes fr a

/-- A first touch takes the lowest frame of the pool. -/
theorem State.firstTouch_some {s : State} {asid : BitVec 16} {vpn fr : Nat} {z : ZeroRange} {rest : List Nat}
    (hz : s.mem.zeroRange asid vpn = some z) (hnew : s.mem.hasEntry asid vpn = false) (hpool : s.mem.pool = fr :: rest)
    (hreserve : s.mem.reserve < s.mem.pool.length) :
    s.firstTouch asid vpn = some (s.mapZeroed fr rest { vpn := vpn, asid := asid, wr := z.wr }) := by
  have hgo : ¬ (s.mem.hasEntry asid vpn = true ∨ s.mem.pool.length ≤ s.mem.reserve) := by simp [hnew, hreserve]
  have htake : s.mem.takeFrame = some (fr, { s.mem with pool := rest }) := by simp only [Mem.takeFrame, hpool]
  simp only [State.firstTouch, hz, htake, if_neg hgo]
  rfl

theorem State.firstTouch_none {s : State} {asid : BitVec 16} {vpn : Nat} (hz : s.mem.zeroRange asid vpn = none) :
    s.firstTouch asid vpn = none := by
  simp only [State.firstTouch, hz]

/-! ## The handler at a fault of one lane -/

section
variable {s : State} {x : SupSave} {l : Fin 32} {a : Nat} (h : Faulted s x l a)
include h

theorem trapView_of_faulted : s.cur.trapView = x.fault := by
  obtain ⟨-, hsup, hsplit, -⟩ := h
  simp only [Group.trapView, hsup, hsplit, if_true]

theorem serving_of_faulted : s.cur.serving = true := by
  obtain ⟨-, hsup, hsplit, hhanded, -⟩ := h
  simp [Group.serving, hsup, hsplit, hhanded]

theorem supervisor_of_faulted : s.cur.supervisor = true := by
  obtain ⟨-, hsup, hsplit, -⟩ := h
  simp [Group.supervisor, hsup, hsplit]

/-- The group-scoped registers of the cycle's beginning do not matter to the fault. -/
theorem faulted_atCycleStart : Faulted s.atCycleStart x l a := by
  obtain ⟨hres, hsup, hsplit, hhanded, hlanes, haddr, hxlate, hturn⟩ := h
  rw [State.atCycleStart_eq]
  exact ⟨hres, hsup, hsplit, hhanded, hlanes, haddr, hxlate, hturn⟩

/-- A lane at a page without a translation is left to the runtime unless its fault is a first touch. -/
theorem serveLane_of_faulted : State.serveLane s.cur (s, []) l =
    ((s.firstTouch (s.lchOf s.cur).asid (a / 65536)).getD s,
      if (s.firstTouch (s.lchOf s.cur).asid (a / 65536)).isSome then [] else [l]) := by
  obtain ⟨-, -, -, -, -, haddr, hxlate, -⟩ := id h
  have hcode : s.codePage s.cur a = none := by simp only [State.codePage, hxlate]
  unfold State.serveLane
  simp only [trapView_of_faulted h, haddr, hxlate, hcode, Option.isSome_none, ite_self, Bool.false_eq_true, if_false, List.nil_append]
  cases s.firstTouch (s.lchOf s.cur).asid (a / 65536) <;> rfl

theorem serveFault_of_firstTouch_some {t : State} (ht : s.firstTouch (s.lchOf s.cur).asid (a / 65536) = some t) :
    s.serveFault = t.trapReturn x.fault.pc := by
  obtain ⟨-, -, -, -, hlanes, -⟩ := id h
  unfold State.serveFault
  simp only [trapView_of_faulted h, hlanes, List.foldl_cons, List.foldl_nil, serveLane_of_faulted h, ht, Option.isSome_some, if_true,
    Option.getD_some]

theorem serveFault_of_firstTouch_none (ht : s.firstTouch (s.lchOf s.cur).asid (a / 65536) = none) : s.serveFault = s.handOver l := by
  obtain ⟨-, -, -, -, hlanes, -⟩ := id h
  unfold State.serveFault
  simp only [trapView_of_faulted h, hlanes, List.foldl_cons, List.foldl_nil, serveLane_of_faulted h, ht, Option.isSome_none,
    Bool.false_eq_true, if_false, Option.getD_none]

/-- The handler acts in place of an instruction. -/
theorem run_of_faulted : s.run = .next ((s.rejoin s.atCycleStart.serveFault).afterIssue true) := by
  obtain ⟨-, -, -, -, -, -, -, hturn⟩ := id h
  have hgo : (s.turn.second && s.turn.trapped && s.atCycleStart.raises) = false := by
    cases hs : s.turn.second
    · rfl
    · simp [hturn hs]
  have hissue : s.atCycleStart.issueNow = .next s.atCycleStart.serveFault := by
    rw [State.issueNow, if_pos (serving_of_faulted (faulted_atCycleStart h))]
  simp only [State.run, hgo, hissue, serving_of_faulted h, Bool.false_eq_true, if_false]

/-- The handler writes no system register, so that the trap registers are those before it. -/
theorem rejoin_trap_of_faulted {t : State} (hr : t.cur.isRef s.cur.ref = true) (hinh : (t.cur.entry s.cur.running).inh = s.cur.sp.inh)
    (htrap : t.cur.trap = s.atCycleStart.cur.trap) : (s.rejoin t).cur.trap = s.cur.trap := by
  have hw : s.atCycleStart.writesSys = none := if_pos (serving_of_faulted (faulted_atCycleStart h))
  have hsame : (s.turn.second = false ∨ s.turn.ctl = none) → s.atCycleStart = s ∧ s.rejoin t = t := by
    rintro (h | h) <;> simp [State.atCycleStart, State.rejoin, h]
  by_cases hone : s.turn.second = false ∨ s.turn.ctl = none
  · obtain ⟨hstart, hjoin⟩ := hsame hone
    rw [hjoin, htrap, hstart]
  · obtain ⟨hsecond, hctl⟩ := not_or.1 hone
    obtain ⟨c, hc⟩ := Option.ne_none_iff_exists'.1 hctl
    have hgo : (!s.turn.second || s.turn.ctl.isNone || !t.cur.isRef s.cur.ref) = false := by simp [hr, hc, hsecond]
    have hval : (Vector.ofFn fun i : Fin 4 => Lanes.mk fun k => s.cur.trap.val[i.val].get k) = s.cur.trap.val := by
      refine Vector.ext fun i hi => ?_
      rw [Vector.getElem_ofFn]
      exact Vector.ext fun k hk => Vector.getElem_ofFn ..
    unfold State.rejoin
    rw [if_neg (by rw [hgo]; decide)]
    simp [hinh, hw, hval]

/-- The step at the handler: what the handler leaves, with the group-scoped registers put together. -/
theorem run_joined_of_faulted {t : State} (ht : s.atCycleStart.serveFault = t) (hr : t.cur.isRef s.cur.ref = true)
    (hinh : (t.cur.entry s.cur.running).inh = s.cur.sp.inh) (htrap : t.cur.trap = s.atCycleStart.cur.trap) :
    ∃ u : State, s.run = .next (u.afterIssue true) ∧ u = { t with cur := { t.cur with ctl := u.cur.ctl, trap := s.cur.trap } } := by
  subst ht
  refine ⟨_, run_of_faulted h, ?_⟩
  rw [← rejoin_trap_of_faulted h hr hinh htrap]
  exact State.rejoin_eq ..

end

/-- A first touch is served: the page is mapped to a zeroed frame, and the split returns to its instruction in user mode. -/
def State.touched (s : State) (fr : Nat) (rest : List Nat) (e : IptEntry) (pc : Pc) : State :=
  { s.mapZeroed fr rest e with cur := { (s.onSp fun p => { p with pc := alignPc pc }).cur with sup := none } }

theorem State.touched_splits (s : State) (fr : Nat) (rest : List Nat) (e : IptEntry) (pc : Pc) :
    (s.touched fr rest e pc).cur.entry s.cur.running = { s.cur.sp with pc := alignPc pc } ∧
      ∀ n, n ≠ s.cur.running → (s.touched fr rest e pc).cur.entry n = s.cur.entry n :=
  ⟨State.onSp_cur_sp s fun p => { p with pc := alignPc pc }, fun _ hn => State.onSp_cur_entry s (fun p => { p with pc := alignPc pc }) hn⟩

theorem serveFault_touched {s : State} {x : SupSave} {l : Fin 32} {a fr : Nat} {z : ZeroRange} {rest : List Nat} (h : Faulted s x l a)
    (hz : s.mem.zeroRange (s.lchOf s.cur).asid (a / 65536) = some z) (hnew : s.mem.hasEntry (s.lchOf s.cur).asid (a / 65536) = false)
    (hpool : s.mem.pool = fr :: rest) (hreserve : s.mem.reserve < s.mem.pool.length) :
    s.serveFault = s.touched fr rest { vpn := a / 65536, asid := (s.lchOf s.cur).asid, wr := z.wr } x.fault.pc := by
  rw [serveFault_of_firstTouch_some h (State.firstTouch_some hz hnew hpool hreserve)]
  exact if_pos (supervisor_of_faulted h)

/-- A fault handed over awaits an answer under the next ticket, and its group is parked. -/
theorem State.handOver_parks {s : State} (hres : s.cur.resident = true) (l : Fin 32) :
    (s.handOver l).cur = { s.cur with parked := some s.nextTicket, sup := s.cur.sup.map fun x => { x with handed := true } } ∧
    ∃ w, (s.handOver l).awaited = s.awaited ++ [w] ∧ w.ticket = s.nextTicket ∧ w.kind = 3 ∧ w.group = some s.cur.ref := by
  have hr := Group.isRef_self hres
  unfold State.handOver State.emitAwait
  dsimp only
  rw [State.onGroup_cur (by rw [State.emit_cur]; exact hr)]
  refine ⟨by rw [State.emit_cur], _, by rw [State.emit_eq], ?_⟩
  exact ⟨rfl, rfl, rfl⟩

end Sys2Proof.Machine

namespace Sys2Proof.Proofs
open Machine Spec

theorem pageFaultHandler : Spec.PageFaultHandler := by
  intro s x l a h asid
  obtain ⟨hres, hsup, -⟩ := id h
  obtain ⟨c, r, hstart⟩ : ∃ c r, s.atCycleStart = { s with cur := { s.cur with ctl := c, trap := r } } := ⟨_, _, State.atCycleStart_eq s⟩
  have h0 := faulted_atCycleStart h
  rw [hstart] at h0
  refine ⟨fun z fr rest hz hnew hpool hreserve hfr _ => ?touch, fun hz => ?runtime⟩
  case touch =>
    have hne : fr ≠ chainEnd := by
      unfold chainEnd
      omega
    obtain ⟨hsp, hothers⟩ := State.touched_splits { s with cur := { s.cur with ctl := c, trap := r } } fr rest
      { vpn := a / 65536, asid := asid, wr := z.wr } x.fault.pc
    obtain ⟨u, hrun, hu⟩ := run_joined_of_faulted h
      ((congrArg State.serveFault hstart).trans (serveFault_touched h0 hz hnew hpool hreserve)) (Group.isRef_self hres) (congrArg Split.inh hsp :)
      (by rw [hstart]; rfl)
    refine ⟨u, hrun, ?_⟩
    rw [hu]
    refine ⟨rfl, rfl, rfl, hsp, hothers, rfl, ⟨_, Mem.walk_link hne rfl _, rfl, rfl⟩, fun k hk => ?_,
      fun a ha => ?_, rfl⟩
    · exact (State.mapZeroed_read ..).trans (if_pos (by unfold frameOf; omega))
    · have hout : frameOf a ≠ fr := fun hf => ha _ List.mem_cons_self (by unfold frameOf at hf; omega)
      exact (State.mapZeroed_read ..).trans (if_neg hout)
  case runtime =>
    obtain ⟨hcur, w, hawaited, hw⟩ := State.handOver_parks (s := { s with cur := { s.cur with ctl := c, trap := r } }) hres l
    obtain ⟨u, hrun, hu⟩ := run_joined_of_faulted h
      ((congrArg State.serveFault hstart).trans (serveFault_of_firstTouch_none h0 (State.firstTouch_none hz)))
      (by rw [hcur]; exact Group.isRef_self hres) (by rw [hcur]; rfl) (by rw [hcur, hstart])
    refine ⟨u, hrun, ?_⟩
    rw [hu, hcur, hawaited]
    exact ⟨rfl, congrArg (Option.map fun y : SupSave => { y with handed := true }) hsup, rfl, rfl, rfl, w, rfl, hw⟩

end Sys2Proof.Proofs
end

section
/-! PROOF. O36: accesses that fail their check (R138, R93, R228). -/

namespace Sys2Proof.Machine
open Spec

/-! ## The trap of an access -/

/-- The running split as it stands at the page-fault handler. -/
def State.atSupervisor (s : State) (e : Split) : Split := { e with pc := alignPc (s.stvec.getD Config.stvec) }

/-- A page fault enters the supervisor's handler; nothing but the running split's place changes besides (R93, R228). -/
theorem State.takeTrap_pageFault {s : State} {t : TrapInfo} (ht : t.cause = Cause.pageFault) (hdbg : s.cur.fydb = .off) :
    s.takeTrap t = { s with cur := { (s.onSp s.atSupervisor).cur with
      sup := some { split := s.cur.running, k15 := t.lanes,
                    fault := ⟨s.cur.sp.pc, causeWord s.cur.running true Cause.pageFault, t.lanes, t.val⟩ } } } := by
  have hd : s.cur.debugged = false := by simp [Group.debugged, hdbg]
  simp only [State.takeTrap, hd, ht, Bool.false_and, Bool.false_eq_true, if_false, if_true]
  rfl

theorem State.pageFaulted_takeTrap {s : State} {t : TrapInfo} (ht : t.cause = Cause.pageFault) (hdbg : s.cur.fydb = .off) :
    PageFaulted s (s.takeTrap t) t.lanes fun k l => (t.val[k.val]).get l := by
  rw [State.takeTrap_pageFault ht hdbg]
  exact ⟨⟨_, rfl, rfl, rfl, rfl, rfl, rfl, rfl, fun _ _ _ => rfl⟩, rfl, State.onSp_cur_sp s s.atSupervisor,
    fun n hn => State.onSp_cur_entry s s.atSupervisor hn, rfl, rfl, rfl, rfl, rfl⟩

/-- The trap of a state without a page-fault handler is taken at once. -/
theorem finish_trap_noHandler {i : Instr} {s : State} {t : TrapInfo} (h : s.cur.sup = none) : finish i (.trap s t) = s.takeTrap t :=
  if_neg fun hc => by simp [h] at hc

/-- The accesses whose lanes the check of R138 covers with one range each: OP, access kind, bytes. -/
def LaneAccess (i : Instr) (f : Fields) (op : BitVec 7) (acc w : Nat) : Prop :=
  (i = .ld f ∧ op = 0x58 ∧ acc = 0 ∧ w = sizeBytes f.sub) ∨ (i = .st f ∧ op = 0x59 ∧ acc = 1 ∧ w = sizeBytes f.sub) ∨
  (i = .atom f ∧ op = 0x5C ∧ acc = 2 ∧ w = atomWidth f.b6) ∨ (i = .red f ∧ op = 0x5D ∧ acc = 3 ∧ w = atomWidth f.b6)

/-- An access that fails its check has no effect but its trap. -/
theorem exec_access_fails {i : Instr} {f : Fields} {s : State} {acc w : Nat} {op : BitVec 7} {ti : TrapInfo} (h : LaneAccess i f op acc w)
    (hacts : Acts f s) (hready : Ready op f s)
    (hfail : s.checkLanes s.cur acc ((activeLanes f.u s.cur.exec).map fun l => (l, addrOf f s.cur.regs l, w)) = some ti) :
    exec i s = .next (finish i (.trap s ti)) := by
  have hcheck : memCheck f s acc w = some ti := hfail
  have hissue : ∀ (i : Instr) (body : State → Res), body s = .trap s ti → issue i (planOf op f) body s = finish i (.trap s ti) :=
    fun i body hbody => by
      rw [issue_ready hready ⟨rfl, rfl, rfl, rfl, rfl⟩ rfl fun hv => hacts (by simpa [planOf] using hv), hbody]
  obtain ⟨rfl, rfl, rfl, rfl⟩ | ⟨rfl, rfl, rfl, rfl⟩ | ⟨rfl, rfl, rfl, rfl⟩ | ⟨rfl, rfl, rfl, rfl⟩ := h
  all_goals exact congrArg Host.Outcome.next (hissue _ _ (by simp only [hcheck]))

/-! ## The check of one lane (R138) -/

/-- The trap of one failing lane: its address in two halves, and the access kind. -/
theorem State.checkLanes_one {s : State} {g : Group} {acc w : Nat} {l : Fin 32} {addr : DWord} {b : Bad}
    (h : s.checkRange g acc (addr.toNat % 2 ^ 56) w = some b) :
    ∃ ti, s.checkLanes g acc [(l, addr, w)] = some ti ∧ ti.cause = b.cause ∧ ti.lanes = maskOf (fun m => decide (m = l)) ∧
      (ti.val[0]).get l = addrLo b.addr ∧ (ti.val[1]).get l = addrHi b.addr ∧ (ti.val[2]).get l = BitVec.ofNat 32 acc ∧
      (ti.val[3]).get l = 0 := by
  have hbads : s.checkLanes g acc [(l, addr, w)] = trapOfBads [(l, acc, b)] := by
    simp only [State.checkLanes, List.filterMap_cons, List.filterMap_nil, h, Option.map_some]
  rw [hbads]
  refine ⟨_, rfl, rfl, ?_, ?_, ?_, ?_, ?_⟩
  · dsimp only
    congr 1
    funext m
    by_cases hm : l = m
    · simp [hm]
    · simp [hm, Ne.symm hm]
  all_goals simp [Lanes.get_mk]

section
variable {s : State} {g : Group} {acc a w : Nat}

/-- A range within the global window passes the check of the windows. -/
theorem State.checkWindow_global (hacc : acc ≤ 3) (hw : 0 < w) (hin : a + w ≤ 0xFD * 2 ^ 48) : s.checkWindow g acc a w = none := by
  have hfirst : window a ≠ 0xFE ∧ window a ≠ 0xFD := by
    unfold window
    omega
  have hlast : ¬ (window ((a + w - 1) % 2 ^ 56) = 0xFE ∨ window ((a + w - 1) % 2 ^ 56) = 0xFD) := by
    unfold window
    omega
  have hkind : scratchOnly acc = false := by
    simp only [scratchOnly, Bool.or_eq_false_iff, decide_eq_false_iff_not]
    omega
  simp only [State.checkWindow, hfirst.1, hfirst.2, hkind, if_false, Bool.false_eq_true, hlast]

/-- A load or store past the lane's stack fails at the first byte past it. -/
theorem State.checkWindow_stack (hacc : acc ≤ 1) (hwin : window a = 0xFD) (hpast : (s.lchOf g).img.stack < a % 2 ^ 48 + w) :
    s.checkWindow g acc a w = some (0xFD * 2 ^ 48 + max (a % 2 ^ 48) (s.lchOf g).img.stack) := by
  have hkind : (noStack acc || scratchOnly acc) = false := by
    simp only [noStack, scratchOnly, Bool.or_eq_false_iff, decide_eq_false_iff_not]
    omega
  have hno : ¬ a % 2 ^ 48 + w ≤ (s.lchOf g).img.stack := by omega
  simp only [State.checkWindow, hwin, hkind, hno, if_true, if_false, Bool.false_eq_true, Nat.reduceEqDiff]

theorem pageStarts_within (ha : a < 2 ^ 56) (hw : 0 < w) (hpage : a % 65536 + w ≤ 65536) : pageStarts a w = [a] := by
  have hlast : (a + w - 1) / 65536 = a / 65536 := by omega
  have hstart : max a (a / 65536 * 65536) % 2 ^ 56 = a := by omega
  simpa [pageStarts, hlast, span] using hstart

/-- An atomic that crosses a sector's end fails at its address. -/
theorem State.checkRange_atomic (hacc : acc = 2 ∨ acc = 3) (hw : 0 < w) (hin : a + w ≤ 0xFD * 2 ^ 48) (hcross : 32 < a % 32 + w) :
    s.checkRange g acc a w = some ⟨Cause.atomicAlign, a⟩ := by
  have hcond : (acc = 2 ∨ acc = 3) ∧ a / 32 ≠ (a + w - 1) / 32 := ⟨hacc, by omega⟩
  have hwin : s.checkWindow g acc a w = none := State.checkWindow_global (by omega) hw hin
  simp only [State.checkRange, hwin, if_pos hcond]

theorem State.checkRange_stack (hacc : acc ≤ 1) (hwin : window a = 0xFD) (hpast : (s.lchOf g).img.stack < a % 2 ^ 48 + w) :
    s.checkRange g acc a w = some ⟨Cause.accessViolation, 0xFD * 2 ^ 48 + max (a % 2 ^ 48) (s.lchOf g).img.stack⟩ := by
  simp only [State.checkRange, State.checkWindow_stack hacc hwin hpast]

/-- What a translation says of an access at an address: the page is absent, its frame is out of service, or it may not be written. -/
def State.pageBad (s : State) (acc a : Nat) : Option (Nat × IptEntry) → Option Bad
  | none => some ⟨Cause.pageFault, a⟩
  | some (i, e) =>
    if !e.rem && s.mem.beyond i then some ⟨Cause.capacity, a⟩
    else if writesAcc acc && !(if e.code then e.sm else e.wr) then some ⟨Cause.accessViolation, a⟩
    else none

/-- A load or store within one page fails by the page's translation, and else by the ownership map. -/
theorem State.checkRange_onePage (hacc : acc ≤ 1) (hw : 0 < w) (hin : a + w ≤ 0xFD * 2 ^ 48) (hpage : a % 65536 + w ≤ 65536) :
    s.checkRange g acc a w = (s.pageBad acc a (s.xlate g a)).or
      (((s.lchOf g).ownFail g.block acc a w).map fun x => ⟨Cause.detViolation, x⟩) := by
  have hkind : ¬ ((acc = 2 ∨ acc = 3) ∧ a / 32 ≠ (a + w - 1) / 32) := by omega
  have hglobal : ¬ (window a = 0xFE ∨ window a = 0xFD) := by
    unfold window
    omega
  have hwin : s.checkWindow g acc a w = none := State.checkWindow_global (by omega) hw hin
  have hstart : pageStarts a w = [a] := pageStarts_within (by omega) hw hpage
  simp only [State.checkRange, hwin, if_neg hkind, if_neg hglobal, hstart, List.map_cons, List.map_nil, List.findSome?_cons,
    List.findSome?_nil]
  cases s.xlate g a with
  | none => rfl
  | some p =>
    obtain ⟨i, e⟩ := p
    simp only [State.pageBad]
    cases !e.rem && s.mem.beyond i with
    | true => rfl
    | false => cases writesAcc acc && !(if e.code then e.sm else e.wr) <;> rfl

end

end Sys2Proof.Machine

namespace Sys2Proof.Proofs
open Machine Spec

theorem accessFaults_traps {i : Instr} {f : Fields} {s : State} {acc w : Nat} {op : BitVec 7} {ti : TrapInfo} (h : LaneAccess i f op acc w)
    (hacts : Acts f s) (hready : Ready op f s)
    (hfail : s.checkLanes s.cur acc ((activeLanes f.u s.cur.exec).map fun l => (l, addrOf f s.cur.regs l, w)) = some ti) :
    (ti.cause ≠ Cause.pageFault → Handles s → ∃ t, exec i s = .next t ∧ SameRegs s t ∧ t.cur.pend = s.cur.pend ∧
      TrappedIn s t ti.cause ti.lanes fun k l => (ti.val[k.val]).get l) ∧
    (ti.cause = Cause.pageFault → s.cur.sup = none → s.cur.fydb = .off → ∃ t, exec i s = .next t ∧
      PageFaulted s t ti.lanes fun k l => (ti.val[k.val]).get l) := by
  have hexec := exec_access_fails h hacts hready hfail
  refine ⟨fun hcause hs => ?user, fun hcause hsup hdbg => ?supervisor⟩
  case user =>
    obtain ⟨⟨henters, hval⟩, hregs, -⟩ := State.trapped_takeTrap hs hcause fun _ _ => rfl
    obtain ⟨bs, htake⟩ := State.takeTrap_eq hs hcause
    exact ⟨_, hexec.trans (congrArg _ (finish_trap hcause)), hregs, by rw [htake]; rfl, henters, fun k l _ => hval k l⟩
  case supervisor =>
    exact ⟨_, hexec.trans (congrArg _ (finish_trap_noHandler hsup)), State.pageFaulted_takeTrap hcause hdbg⟩

theorem accessFaults_check : Spec.AccessFaults := by
  refine ⟨fun _ _ _ _ _ _ _ h _ hacts hready hfail => accessFaults_traps h hacts hready hfail, ?_⟩
  intro s acc l addr w hw _ a one inGlobal
  have hone : ∀ {cause x}, s.checkRange s.cur acc a w = some ⟨cause, x⟩ → one cause x := State.checkLanes_one
  refine ⟨fun hacc hwin hpast _ => hone (State.checkRange_stack hacc hwin hpast),
    fun hacc hin hcross => hone (State.checkRange_atomic hacc hw hin.2 hcross), fun hacc hin hpage => ?page⟩
  case page =>
    have hpages := State.checkRange_onePage (s := s) (g := s.cur) hacc hw hin.2 hpage
    refine ⟨fun hx => hone ?_, fun i e hx hrem hbeyond => hone ?_, fun i e hx hrem hbeyond hacc1 hperm => hone ?_⟩
    · rw [hpages, hx]
      rfl
    · rw [hpages, hx]
      simp [State.pageBad, hrem, hbeyond]
    · rw [hpages, hx]
      simp [State.pageBad, hbeyond, hperm, writesAcc, hacc1]

/-- Settles O36: an access whose check fails traps before its effect; the handler serves a first touch or parks the group; a vector
instruction under an empty mask only retires. -/
theorem accessFaults : Obligations.AccessFaults := ⟨accessFaults_check, pageFaultHandler, emptyMask⟩

end Sys2Proof.Proofs
end

section
/-! PROOF. The products of a k-step (R62, R63, R180): what 32 plane elements under two scale codes add to an element. -/

namespace Sys2Proof.Machine
open Spec

/-! ## Plane elements (R56) -/

theorem planeElem_nan (w : List Word) (k i : Nat) : (planeElem w 0xFF k i).isNan = true := rfl

/-- Under a scale code that is neither infinite nor NaN an element is finite, and zero where the code or its integer is. -/
theorem planeElem_finite {w : List Word} {code k i : Nat} (h : code ≤ 0xFD) :
    (planeElem w code k i).isNan = false ∧ (planeElem w code k i).isInf = false ∧
      ((planeElem w code k i).isZero = true ↔ code = 0 ∨ planeInt w k i = 0) := by
  have hnan : code ≠ 0xFF := by omega
  have hinf : code ≠ 0xFE := by omega
  unfold planeElem planeVal Val.ofInt
  by_cases hcode : code = 0
  · simp [hcode, Val.isNan, Val.isInf, Val.isZero]
  · by_cases hq : planeInt w k i = 0 <;> simp [hcode, hnan, hinf, hq, Val.isNan, Val.isInf, Val.isZero]

/-! ## Products (R62) -/

theorem floorShift_eq (z k : Int) : floorShift z k = ⌊(z : ℚ) * (2 : ℚ) ^ k⌋ := by
  unfold floorShift pow2n
  split
  case isTrue h =>
    obtain ⟨n, rfl⟩ := Int.eq_ofNat_of_zero_le h
    have hpow : (z : ℚ) * (2 : ℚ) ^ (n : Int) = ((z * ((2 ^ n : Nat) : Int) : Int) : ℚ) := by
      push_cast
      rw [zpow_natCast]
    rw [hpow, Int.floor_intCast, Int.toNat_natCast]
  case isFalse h =>
    have hpow : (z : ℚ) * (2 : ℚ) ^ k = (z : ℚ) / ((2 ^ (-k).toNat : Nat) : ℚ) := by
      have hk : k = -((-k).toNat : Int) := by omega
      conv_lhs => rw [hk]
      rw [zpow_neg, zpow_natCast, div_eq_mul_inv]
      push_cast
      rfl
    rw [hpow, Rat.floor_intCast_div_natCast]

theorem fxProduct_eq (lsb qa qb : Int) (ea eb na nb : Nat) : fxProduct lsb qa qb ea eb na nb = product lsb qa qb ea eb na nb := by
  rw [fxProduct, floorShift_eq, product]
  push_cast
  rfl

theorem product_of_zero (lsb : Int) {qa qb : Int} (ea eb na nb : Nat) (h : qa = 0 ∨ qb = 0) : product lsb qa qb ea eb na nb = 0 := by
  obtain rfl | rfl := h <;> simp [product]

/-! ## Sums in an element (R62, R63) -/

theorem Elem.add_value (x : Elem) (z : Int) : x.add z false false false = { x with v := x.v + BitVec.ofInt 80 z } := by
  simp [Elem.add]

theorem Elem.add_nan (x : Elem) : x.add 0 false false true = { x with sq := true } := by
  simp [Elem.add]

theorem Elem.foldl_add (z : Nat → Int) (x : Elem) (n : Nat) :
    (List.range n).foldl (fun (x : Elem) i => x.add (z i) false false false) x =
      { x with v := x.v + BitVec.ofInt 80 (∑ i ∈ Finset.range n, z i) } := by
  induction n with
  | zero => simp
  | succ n ih =>
    rw [List.range_succ, List.foldl_append, ih, List.foldl_cons, List.foldl_nil, Elem.add_value, Finset.sum_range_succ, BitVec.ofInt_add,
      BitVec.add_assoc]

/-! ## A block of a row with a block of a column (R180) -/

section
variable {ca cb : DWord} {a b : MBlock}

theorem addGroup_finite (ha1 : 1 ≤ a.2) (ha : a.2 ≤ 0xFD) (hb1 : 1 ≤ b.2) (hb : b.2 ≤ 0xFD) (x : Elem) : addGroup ca cb a b x =
    { x with v := x.v + BitVec.ofInt 80 (∑ i ∈ Finset.range 32, product (entLSB ca) (planeInt a.1 (entXPL ca) i) (planeInt b.1 (entXPL cb) i)
      a.2 b.2 (entXPL ca) (entXPL cb)) } := by
  rw [← Elem.foldl_add]
  refine List.foldl_ext _ _ _ fun x i _ => ?_
  obtain ⟨hnanA, hinfA, hzeroA⟩ := planeElem_finite (w := a.1) (k := entXPL ca) (i := i) ha
  obtain ⟨hnanB, hinfB, hzeroB⟩ := planeElem_finite (w := b.1) (k := entXPL cb) (i := i) hb
  simp only [hnanA, hnanB, hinfA, hinfB, Bool.or_self, Bool.false_eq_true, if_false, Bool.or_eq_true]
  split
  case isTrue hzero =>
    have hq : planeInt a.1 (entXPL ca) i = 0 ∨ planeInt b.1 (entXPL cb) i = 0 :=
      hzero.imp (fun h => (hzeroA.1 h).resolve_left (by omega)) fun h => (hzeroB.1 h).resolve_left (by omega)
    rw [product_of_zero _ _ _ _ _ hq]
    simp [Elem.add_value]
  case isFalse => rw [fxProduct_eq]

theorem addGroup_nan (h : a.2 = 0xFF ∨ b.2 = 0xFF) (x : Elem) : addGroup ca cb a b x = { x with sq := true } := by
  have hstep : addGroup ca cb a b x = (List.range 32).foldl (fun (x : Elem) _ => { x with sq := true }) x := by
    refine List.foldl_ext _ _ _ fun x i _ => ?_
    have hnan : ((planeElem a.1 a.2 (entXPL ca) i).isNan || (planeElem b.1 b.2 (entXPL cb) i).isNan) = true := by
      rw [Bool.or_eq_true]
      exact h.imp (fun h => by rw [h]; exact planeElem_nan ..) fun h => by rw [h]; exact planeElem_nan ..
    simp only [hnan, if_true, Elem.add_nan]
  rw [hstep, List.range_succ_eq_map, List.foldl_cons]
  exact List.foldl_fixed' (fun _ => rfl) _

theorem addGroup_zero (ha : a.2 = 0) (hb : b.2 ≤ 0xFD) (x : Elem) : addGroup ca cb a b x = x := by
  refine List.foldl_fixed' (fun i => ?_) _
  obtain ⟨hnanA, hinfA, hzeroA⟩ := planeElem_finite (w := a.1) (code := a.2) (k := entXPL ca) (i := i) (by omega)
  obtain ⟨hnanB, hinfB, -⟩ := planeElem_finite (w := b.1) (k := entXPL cb) (i := i) hb
  simp only [hnanA, hnanB, hinfA, hinfB, hzeroA.2 (.inl ha), Bool.or_self, Bool.true_or, Bool.false_eq_true, if_false, if_true]

end

end Sys2Proof.Machine
end

section
/-! PROOF. O28: the oldest operation of the engine is applied to its tile (R62 to R64, R177, R180, R185, R187). -/

namespace Sys2Proof.Machine
open Spec

/-! ## An operation of a group alone in its block (R178, R182) -/

theorem State.mates_alone {s : State} (h : s.others = []) : s.mates s.cur = [] := by
  refine List.filter_eq_nil_iff.2 fun g hg => ?_
  have hcur : g = s.cur := by
    unfold State.groups at hg
    rw [h] at hg
    split at hg
    · simpa using hg
    · cases hg
  simp [hcur]

theorem State.partials_alone {s : State} (h : s.others = []) (tile : BitVec 3) : s.partials s.cur tile = s := by
  rw [State.partials, State.mates_alone h]
  rfl

theorem State.matBlocked_alone {s : State} (h : s.others = []) (o : MatOp) : s.matBlocked s.cur o = false := by
  rw [State.matBlocked, State.mates_alone h]
  rfl

theorem State.matRead_nil (s : State) (g : Group) : s.matRead g [] = s.byteOf g := rfl

/-- The oldest operation has changed a tile and has left the engine. -/
def State.retiredInto (s : State) (rest : List MatOp) (n : BitVec 3) (f : Tile → Tile) : State :=
  { s.onTile s.cur n f with cur := { s.cur with pend := { s.cur.pend with mx := rest } } }

theorem State.retiredInto_holds {s : State} {o : MatOp} {rest : List MatOp} (h : Alone s o rest) (n : BitVec 3) (f : Tile → Tile) :
    RetiredOp s (s.retiredInto rest n f) rest ∧ OtherTiles s (s.retiredInto rest n f) n ∧
      (s.retiredInto rest n f).tileOf (s.retiredInto rest n f).cur n = f (s.tileOf s.cur n) := by
  obtain ⟨⟨-, hblock⟩, -⟩ := h
  obtain ⟨htile, hother, hscratch, hstack⟩ := State.onTile_tiles hblock n f
  exact ⟨⟨rfl, rfl, rfl⟩, ⟨hother, hscratch, hstack⟩, htile⟩

theorem State.popMat_retiredInto {s : State} {o : MatOp} {rest : List MatOp} (h : Alone s o rest) (n : BitVec 3) (f : Tile → Tile) :
    (s.onTile s.cur n f).popMat s.cur = s.retiredInto rest n f := by
  obtain ⟨⟨hres, -⟩, -, hmx, -⟩ := h
  have hr : (s.onTile s.cur n f).cur.isRef s.cur.ref = true := Group.isRef_self hres
  have hmx : (s.onTile s.cur n f).cur.pend.mx.drop 1 = rest := by
    rw [show (s.onTile s.cur n f).cur = s.cur from rfl, hmx]
    rfl
  rw [State.popMat, State.onGroup_cur hr, hmx]
  rfl

theorem State.applySteps_popMat {s : State} {o : MmaOp} {rest : List MatOp} (h : Alone s (.mma o) rest) (n : Nat) :
    (s.applySteps s.cur o n).popMat s.cur =
      s.retiredInto rest o.tile (o.apply (s.mmaEnts s.cur o).1 (s.mmaEnts s.cur o).2 (s.matRead s.cur o.got) n) := by
  obtain ⟨⟨hres, -⟩, -, hmx, -⟩ := h
  have hr : ∀ f, (s.onTile s.cur o.tile f).cur.isRef s.cur.ref = true := fun _ => Group.isRef_self hres
  unfold State.applySteps State.popMat
  dsimp only
  rw [State.onGroup_onGroup_cur (hr _) (hr _)]
  dsimp only
  rw [show (s.onTile s.cur o.tile _).cur = s.cur from rfl, hmx]
  rfl

/-- No mark stands on what the engine has still to read of the oldest operation. -/
theorem State.matMarks_none {s : State} {o : MatOp} {rest : List MatOp} (h : Alone s o rest) (p : Nat → Bool) :
    ((s.matLocs s.cur o).filter p).find? (s.markedAt s.cur) = none := by
  obtain ⟨-, -, -, hmark⟩ := h
  refine List.find?_eq_none.2 fun a ha => ?_
  simp [hmark a (List.mem_filter.1 ha).1]

section
variable {s : State} {rest : List MatOp}

theorem State.retireMatrix_zero {tile : BitVec 3} {ep : Nat} (h : Alone s (.zero tile ep) rest) :
    s.retireMatrix s.cur.ref = s.retiredInto rest tile Tile.zeroed := by
  obtain ⟨⟨hres, -⟩, hothers, hmx, -⟩ := id h
  rw [← State.popMat_retiredInto h]
  simp only [State.retireMatrix, State.group?_cur (Group.isRef_self hres), hmx, State.matBlocked_alone hothers, State.partials_alone hothers,
    Bool.false_eq_true, if_false]

theorem State.retireMatrix_mma {o : MmaOp} (h : Alone s (.mma o) rest) (hmarks : o.marks = []) : s.retireMatrix s.cur.ref =
    s.retiredInto rest o.tile (o.apply (s.mmaEnts s.cur o).1 (s.mmaEnts s.cur o).2 (s.matRead s.cur o.got) (o.m - o.steps)) := by
  obtain ⟨⟨hres, -⟩, hothers, hmx, -⟩ := id h
  rw [← State.applySteps_popMat h]
  simp only [State.retireMatrix, State.group?_cur (Group.isRef_self hres), hmx, State.matBlocked_alone hothers, hmarks, State.matMarks_none h,
    List.head?_nil, Option.orElse_none, Bool.false_eq_true, if_false]

theorem State.retireMatrix_load {o : MldOp} (h : Alone s (.load o) rest) (hmarks : o.marks = []) : s.retireMatrix s.cur.ref =
    s.retiredInto rest o.tile fun t => t.loaded ((s.lchOf s.cur).cbind[o.cn.toNat]'o.cn.isLt) ((s.lchOf s.cur).cbind[o.ck.toNat]'o.ck.isLt)
      o.count fun i => s.matRead s.cur o.got ((o.addr.toNat + i) % 2 ^ 56) := by
  obtain ⟨⟨hres, -⟩, hothers, hmx, -⟩ := id h
  rw [← State.popMat_retiredInto h]
  simp only [State.retireMatrix, State.group?_cur (Group.isRef_self hres), hmx, State.matBlocked_alone hothers, hmarks, State.matMarks_none h,
    State.partials_alone hothers, List.head?_nil, Option.orElse_none, Bool.false_eq_true, if_false]

end

/-! ## Elements of a tile -/

theorem Tile.zeroed_el (t : Tile) (r c : Fin 64) : (t.zeroed.el[r.val])[c.val] = {} := by
  simp [Tile.zeroed]

theorem Tile.kstep_stepped (t : Tile) (ca cb : DWord) (a b : List MBlock) : Stepped t (t.kstep ca cb a b) (entGLOG ca) := by
  unfold Stepped Tile.kstep
  exact ⟨rfl, rfl, rfl⟩

theorem Tile.kstep_el (t : Tile) (ca cb : DWord) (a b : Nat → MBlock) (r c : Fin 64) :
    ((t.kstep ca cb ((List.range 64).map a) ((List.range 64).map b)).el[r.val])[c.val] = addGroup ca cb (a r) (b c) ((t.el[r.val])[c.val]) := by
  simp [Tile.kstep]

/-- The one k-step of an `MMA` of a stored A. -/
theorem MmaOp.apply_one {o : MmaOp} {ap aq : DWord} (hsteps : o.steps = 0) (ha : o.a = some (ap, aq)) (ca cb : DWord) (read : Nat → Byte) (t : Tile) :
    o.apply ca cb read 1 t = t.kstep ca cb ((List.range 64).map fun r => readBlock ca ap aq r read)
      ((List.range 64).map fun c => readBlock cb o.bp o.bs c read) := by
  simp [MmaOp.apply, MmaOp.aBlocks, hsteps, ha]

/-! ## MLDA (R187) -/

/-- The value of element `i` in the memory format of an entry. -/
def loadedVal (en : DWord) (bytes : Nat → Byte) (i : Nat) : Val :=
  (fmtOf (entMKIND en)).decode (leNat ((List.range (memElem en)).map fun k => bytes (i * memElem en + k)))

section
variable (t : Tile) (en ck : DWord) (count : Word) (bytes : Nat → Byte)

theorem Tile.loaded_el (r c : Fin 64) :
    let x := loadedVal en bytes (64 * r.val + c.val)
    let y := ((t.loaded en ck count bytes).el[r.val])[c.val]
    (x.isNan = true → y = { sq := true }) ∧ (x.isInf = true → y = { sp := !x.neg, sn := x.neg }) ∧
      (x.finite = true → y = { v := BitVec.ofInt 80 (max (-(2 ^ 79)) (min (x.floor (-(entLSB ck))) (2 ^ 79 - 1))) }) := by
  intro x y
  have hy : y = match x with
      | .nan _ => { sq := true }
      | .inf neg => if neg then { sn := true } else { sp := true }
      | x => { v := BitVec.ofInt 80 (max (-((2 ^ 79 : Nat) : Int)) (min (x.floor (-(entLSB ck))) (((2 ^ 79 : Nat) : Int) - 1))) } := by
    unfold y Tile.loaded
    exact (congrArg (fun row : Vector Elem 64 => row[c.val]) (Vector.getElem_ofFn r.isLt)).trans (Vector.getElem_ofFn c.isLt)
  rw [hy]
  cases x with
  | zero neg => exact ⟨nofun, nofun, fun _ => rfl⟩
  | inf neg => cases neg <;> exact ⟨nofun, fun _ => rfl, nofun⟩
  | nan sig => exact ⟨fun _ => rfl, nofun, nofun⟩
  | num neg m e more => exact ⟨nofun, nofun, fun _ => rfl⟩

@[simp] theorem Tile.loaded_steps : (t.loaded en ck count bytes).steps = count := by
  unfold Tile.loaded
  rfl

@[simp] theorem Tile.loaded_chain : (t.loaded en ck count bytes).chain = t.chain := by
  unfold Tile.loaded
  rfl

theorem Tile.loaded_guard_iff : (t.loaded en ck count bytes).guard = true ↔ 2 ^ entGLOG ck < count.toNat ∨
    ∃ i < 4096, (loadedVal en bytes i).finite = true ∧
      ¬ (-(2 ^ 79 : Int) ≤ (loadedVal en bytes i).floor (-(entLSB ck)) ∧ (loadedVal en bytes i).floor (-(entLSB ck)) < 2 ^ 79) := by
  have hlim : ((2 ^ 79 : Nat) : Int) = 2 ^ 79 := by push_cast
  unfold Tile.loaded
  rw [Bool.or_eq_true, or_comm, decide_eq_true_eq]
  simp only [hlim, List.any_eq_true, List.mem_range, Bool.and_eq_true, decide_eq_true_eq, not_and_or, not_le, not_lt]
  rfl

end

end Sys2Proof.Machine

namespace Sys2Proof.Proofs
open Machine Spec

/-- Settles O28: the engine applies the oldest operation of a group that is alone in its block to its tile, element by element. -/
theorem matrixOperations : Obligations.MatrixOperations := by
  unfold Obligations.MatrixOperations
  intro s rest
  refine ⟨fun tile ep h => ?zero, fun o ap aq h hm hsteps _ hgot hmarks ha => ?mma, fun o h hgot hmarks => ?load⟩
  case zero =>
    obtain ⟨hretired, hothers, htile⟩ := State.retiredInto_holds h tile Tile.zeroed
    refine ⟨_, congrArg Host.Outcome.next (State.retireMatrix_zero h), hretired, hothers, fun r c => ?_, ?_⟩
    · rw [htile]
      exact Tile.zeroed_el ..
    · rw [htile]
      exact ⟨rfl, rfl, rfl, rfl⟩
  case mma =>
    intro ea a b old
    have hretire : exec (.matrixRetire s.cur.ref) s = .next (s.retiredInto rest o.tile fun t => t.kstep ea.1 ea.2
        ((List.range 64).map a) ((List.range 64).map b)) := by
      refine congrArg Host.Outcome.next ((State.retireMatrix_mma h hmarks).trans (congrArg (s.retiredInto rest o.tile) (funext fun t => ?_)))
      rw [hm, hsteps, hgot, State.matRead_nil]
      exact MmaOp.apply_one hsteps ha ..
    obtain ⟨hretired, hothers, htile⟩ := State.retiredInto_holds h o.tile fun t => t.kstep ea.1 ea.2 ((List.range 64).map a) ((List.range 64).map b)
    refine ⟨_, hretire, hretired, hothers, ?_, fun r c => ?_⟩
    · rw [htile]
      exact Tile.kstep_stepped ..
    · intro x y
      have hy : y = addGroup ea.1 ea.2 (a r.val) (b c.val) x := by
        simp only [y, htile]
        exact Tile.kstep_el ..
      rw [hy]
      exact ⟨fun ha1 ha hb1 hb => addGroup_finite ha1 ha hb1 hb x, fun hnan => addGroup_nan hnan x, fun ha hb => addGroup_zero ha hb x⟩
  case load =>
    intro en ck n elem z
    have helem : elem = loadedVal en fun i => s.byteOf s.cur ((o.addr.toNat + i) % 2 ^ 56) := by
      funext i
      simp only [elem, loadedVal, Nat.add_assoc]
      rfl
    have hretire : exec (.matrixRetire s.cur.ref) s = .next (s.retiredInto rest o.tile fun t =>
        t.loaded en ck o.count fun i => s.byteOf s.cur ((o.addr.toNat + i) % 2 ^ 56)) := by
      have h := State.retireMatrix_load h hmarks
      rw [hgot, State.matRead_nil] at h
      exact congrArg Host.Outcome.next h
    obtain ⟨hretired, hothers, htile⟩ := State.retiredInto_holds h o.tile fun t =>
      t.loaded en ck o.count fun i => s.byteOf s.cur ((o.addr.toNat + i) % 2 ^ 56)
    refine ⟨_, hretire, hretired, hothers, ?_, ?_, ?_, fun r c => ?_⟩
    · rw [htile]
      exact Tile.loaded_steps ..
    · rw [htile]
      exact Tile.loaded_chain ..
    · rw [htile]
      simp only [z, helem]
      exact Tile.loaded_guard_iff ..
    · intro i y
      simp only [y, z, htile, helem]
      exact Tile.loaded_el ..

end Sys2Proof.Proofs
end

section
/-! PROOF. Stores of the matrix engine to the scratchpad (R177, R194): the ranges that pass the check lie in the scratchpad window, and
what an instruction leaves that stores there. -/

namespace Sys2Proof.Machine
open Spec

/-! ## Sorted lists -/

theorem mem_setAdd {l : List Nat} {a x : Nat} : x ∈ setAdd l a ↔ x = a ∨ x ∈ l := by
  induction l with
  | nil => simp [setAdd]
  | cons k l ih =>
    unfold setAdd
    split
    case isTrue h => simp [h]
    case isFalse h =>
      split
      · simp
      · simp only [List.mem_cons, ih]
        tauto

theorem setAdd_rises {l : List Nat} (h : l.Pairwise (· < ·)) (a : Nat) : (setAdd l a).Pairwise (· < ·) := by
  induction l with
  | nil => simp [setAdd]
  | cons k l ih =>
    obtain ⟨hk, hl⟩ := List.pairwise_cons.1 h
    unfold setAdd
    split
    case isTrue => exact h
    case isFalse hne =>
      split
      case isTrue hlt => exact List.pairwise_cons.2 ⟨List.forall_mem_cons.2 ⟨hlt, fun x hx => hlt.trans (hk x hx)⟩, h⟩
      case isFalse hge =>
        refine List.pairwise_cons.2 ⟨fun x hx => ?_, ih hl⟩
        obtain rfl | hx := mem_setAdd.1 hx
        · omega
        · exact hk x hx

theorem mem_setAddAll {l xs : List Nat} {x : Nat} : x ∈ setAddAll l xs ↔ x ∈ xs ∨ x ∈ l := by
  induction xs generalizing l with
  | nil => simp [setAddAll]
  | cons a xs ih =>
    rw [show setAddAll l (a :: xs) = setAddAll (setAdd l a) xs from rfl, ih, mem_setAdd, List.mem_cons]
    tauto

theorem setAddAll_rises {l : List Nat} (h : l.Pairwise (· < ·)) (xs : List Nat) : (setAddAll l xs).Pairwise (· < ·) :=
  List.foldlRecOn xs setAdd h fun _ h a _ => setAdd_rises h a

theorem mem_sectorSet {locs : List Nat} {x : Nat} : x ∈ sectorSet locs ↔ ∃ a ∈ locs, a / 32 = x := by
  simp [sectorSet, mem_setAddAll]

theorem sectorSet_nodup (locs : List Nat) : (sectorSet locs).Nodup :=
  (setAddAll_rises List.Pairwise.nil _).imp fun h => Nat.ne_of_lt h

/-! ## Ranges in the scratchpad (R138, R211) -/

theorem lowest_eq_none {l : List Nat} (h : lowest l = none) : l = [] := by
  cases l with
  | nil => rfl
  | cons x l =>
    have hsome : (lowest (x :: l)).isSome = true :=
      List.foldlRecOn l _ (motive := fun r : Option Nat => r.isSome = true) rfl fun r _ y _ => by cases r <;> rfl
    rw [h] at hsome
    cases hsome

/-- The allocations of a gang on one core end below 2^24. -/
theorem Launch.allocs_size (l : Launch) (gang k : Nat) : l.allocs gang k * l.img.scratchSize ≤ 2 ^ 24 := by
  have hlen : (l.img.gangBlocks gang).length ≤ l.img.bdim := by
    simp only [Image.gangBlocks, span, List.length_map, List.length_range, Nat.add_mul]
    omega
  have hbdim : l.img.bdim ≤ 31 := by
    unfold Image.bdim
    omega
  have hallocs : l.allocs gang k ≤ 8 := by
    unfold Launch.allocs
    omega
  have hsize : l.img.scratchSize ≤ 2 ^ 21 := by
    unfold Image.scratchSize
    omega
  exact (Nat.mul_le_mul hallocs hsize).trans (by decide)

/-- A range that passes the check of a matrix operand lies in the scratchpad window. -/
theorem State.window_of_checkOwn {s : State} {g : Group} {acc a n : Nat} (hacc : scratchOnly acc = true) (h : s.checkOwn g acc a n = none)
    {k : Nat} (hk : k < n) : window ((a + k) % 2 ^ 56) = 0xFE := by
  have hrange : s.checkRange g acc a n = none := by
    unfold State.checkOwn at h
    split at h
    · cases h
    · exact h
  have hwin : s.checkWindow g acc a n = none := by
    unfold State.checkRange at hrange
    split at hrange
    · cases hrange
    · assumption
  unfold State.checkWindow at hwin
  simp only [hacc, Bool.or_true, if_true] at hwin
  split at hwin
  case isTrue hw =>
    split at hwin
    · cases hwin
    · have hpast := (List.append_eq_nil_iff.1 (lowest_eq_none hwin)).1
      have hend : a % 2 ^ 46 + n ≤ (s.lchOf g).allocs (s.gangOf g) (a / 2 ^ 46 % 4) * (s.lchOf g).img.scratchSize := by
        by_contra hlt
        rw [if_neg hlt] at hpast
        cases hpast
      have hsize := (s.lchOf g).allocs_size (s.gangOf g) (a / 2 ^ 46 % 4)
      unfold window at hw ⊢
      omega
  case isFalse => split at hwin <;> cases hwin

/-- Nothing in the scratchpad window stands at a peer. -/
theorem State.remoteOf_scratch {s : State} {g : Group} {sector : Nat} (h : window (sector * 32) = 0xFE) : s.remoteOf g sector = none := by
  have hlow : ¬ 2 ^ 60 ≤ sector * 32 := by
    unfold window at h
    omega
  unfold State.remoteOf State.placeOf
  rw [if_neg hlow, if_pos h]
  cases (s.lchOf g).scratchAt (s.gangOf g) (sector * 32) <;> rfl

/-! ## A store to the scratchpad (R177, R194) -/

/-- The store of bytes to some ranges of the scratchpad, as it stands among the operations of the group. -/
def State.scratchStore (s : State) (ranges : List (Nat × Nat)) (l : List (Nat × Byte)) : MemOp :=
  { id := s.cur.pend.nextId, split := .entry s.cur.running, pc := s.cur.sp.pc, order := (s.lchOf s.cur).orders, kind := .store, acc := 13
    scope := .grp, lanes := ranges.map fun r => ⟨0, r.1, r.2⟩, data := l, left := sectorSet (l.map (·.1)), gate := true }

/-- A store to the scratchpad is entered, and nothing else happens. -/
theorem scratchWrite_eq (s : State) (ranges : List (Nat × Nat)) {l : List (Nat × Byte)} (h : ∀ p ∈ l, window p.1 = 0xFE) :
    scratchWrite s ranges l = { s with cur := { s.cur with pend := { s.cur.pend with
      nextId := s.cur.pend.nextId + 1, mem := s.cur.pend.mem ++ [s.scratchStore ranges l] } } } := by
  have hsector : ∀ x ∈ sectorSet (l.map (·.1)), window (x * 32) = 0xFE := fun x hx => by
    obtain ⟨a, ha, rfl⟩ := mem_sectorSet.1 hx
    obtain ⟨p, hp, rfl⟩ := List.mem_map.1 ha
    have := h p hp
    unfold window at this ⊢
    omega
  have hpages : (sectorSet (l.map (·.1))).filter (fun x => isGlobal (x * 32)) = [] :=
    List.filter_eq_nil_iff.2 fun x hx => by simp [isGlobal, hsector x hx]
  have htouch : ∀ (t : State) (g : Group), t.touch g (sectorSet (l.map (·.1))) = t := fun t g => by
    unfold State.touch
    rw [hpages]
    rfl
  have hsend : ∀ (t : State) (g : Group) (o : MemOp), o.left = sectorSet (l.map (·.1)) → t.sendPieces g o = t := fun t g o ho => by
    unfold State.sendPieces
    rw [ho]
    refine List.foldlRecOn _ _ (motive := fun u => u = t) rfl fun u hu x hx => ?_
    rw [hu, State.remoteOf_scratch (hsector x hx)]
  unfold scratchWrite State.startOp
  dsimp only
  rw [htouch, hsend _ _ _ rfl]
  rfl

/-! ## What an instruction leaves that raises class flags -/

/-- An entry with class flags raised (R16). -/
def Split.flagged (y : Word) (e : Split) : Split := { e with clsf := e.clsf ||| y }

theorem State.orCls_eq (s : State) (c : BitVec 4) (range under : Bool) : s.orCls c range under = s.onSp (Split.flagged (clsBits c range under)) :=
  rfl

@[simp] theorem State.orCls_cur_exec (s : State) (c : BitVec 4) (range under : Bool) : (s.orCls c range under).cur.exec = s.cur.exec := by
  rw [State.orCls_eq, Group.exec, State.onSp_cur_sp]
  rfl

@[simp] theorem State.retire_blocks (s : State) (i : Instr) : (s.retire i).blocks = s.blocks := by
  rw [State.retire_eq]
  rfl

/-- An instruction passes that changed registers, the running split's class flags, `$srstate` and the operations under way. -/
theorem State.passedFlags_retire {s u : State} {y sr : Word} (i : Instr) (hcur : u.cur = { s.cur with
      regs := u.cur.regs, splits := (s.onSp (Split.flagged y)).cur.splits, ctl := { s.cur.ctl with srstate := sr }, pend := u.cur.pend })
    (hmem : u.mem = s.mem) : PassedFlags i s (u.retire i) y sr := by
  have hsp : u.cur.sp = Split.flagged y s.cur.sp := by
    rw [hcur]
    exact State.onSp_cur_sp s (Split.flagged y)
  have hentry : ∀ n, n ≠ s.cur.running → u.cur.entry n = s.cur.entry n := fun n hn => by
    rw [hcur]
    exact State.onSp_cur_entry s (Split.flagged y) hn
  have hrun : u.cur.running = s.cur.running := by rw [hcur]
  have hsig : u.sigFolded i = sigAfter i s := by
    have hsup : u.cur.supervisor = s.cur.supervisor := by
      rw [hcur]
      rfl
    rw [State.sigFolded_eq]
    unfold sigAfter
    rw [hsp, hsup]
    rfl
  rw [State.retire_eq, hsig, hsp]
  refine ⟨?_, fun n hn => ?_, ?_, hmem⟩
  · rw [State.onSp_cur_sp, hsp]
    rfl
  · rw [State.onSp_cur_entry u _ (hrun ▸ hn), hentry n hn]
  · rw [State.onSp_cur_ctl, hcur]

/-- A converting instruction takes `$srstate` to the next draw (R59). -/
theorem State.advanceSr_eq {s u : State} (c : BitVec 4) (hctl : u.cur.ctl = s.cur.ctl) (hexec : u.cur.exec = s.cur.exec) :
    u.advanceSr (s.ent c) = u.onCtl fun _ => { s.cur.ctl with srstate := srAfter s c } := by
  unfold State.advanceSr srAfter
  simp only [hexec, Bool.and_eq_true, decide_eq_true_eq]
  split
  · rw [State.onCtl, hctl]
    rfl
  · rw [State.onCtl, ← hctl]

/-- The end of an instruction that raises class flags and writes registers (R186). -/
theorem finish_onRegs (s : State) (i : Instr) (c : BitVec 4) (range under : Bool) (w : RegFile → RegFile) :
    let t := finish i (.done (((s.orCls c range under).onRegs w).advanceSr (s.ent c)))
    PassedFlags i s t (clsBits c range under) (srAfter s c) ∧ t.blocks = s.blocks ∧ t.cur.regs = w s.cur.regs := by
  rw [State.advanceSr_eq (s := s) (u := (s.orCls c range under).onRegs w) c rfl (State.orCls_cur_exec ..)]
  exact ⟨State.passedFlags_retire i rfl rfl, State.retire_blocks .., State.retire_cur_regs ..⟩

/-- The end of an instruction that raises class flags and stores to the scratchpad (R186, R188). -/
theorem finish_scratchWrite (s : State) (i : Instr) (c : BitVec 4) (range under : Bool) (ranges : List (Nat × Nat)) {l : List (Nat × Byte)}
    (h : ∀ p ∈ l, window p.1 = 0xFE) :
    let t := finish i (.done ((scratchWrite (s.orCls c range under) ranges l).advanceSr (s.ent c)))
    PassedFlags i s t (clsBits c range under) (srAfter s c) ∧ SameRegs s t ∧ LeavesStore s t ((s.orCls c range under).scratchStore ranges l) := by
  rw [scratchWrite_eq _ _ h, State.advanceSr_eq (s := s) c ?ctl ?exec]
  case ctl => rfl
  case exec => exact State.orCls_cur_exec ..
  refine ⟨State.passedFlags_retire i rfl rfl, State.retire_cur_regs .., ?_, rfl, rfl, rfl, rfl, rfl, rfl, rfl, sectorSet_nodup _, fun n => ?_, ?_,
    State.retire_blocks ..⟩
  · rw [finish, State.retire_eq]
    rfl
  · rw [show ((s.orCls c range under).scratchStore ranges l).left = sectorSet (l.map (·.1)) from rfl, mem_sectorSet]
    simp [State.scratchStore]
  · simp [Group.hasReady, Group.gated, finish, State.retire_eq, State.scratchStore, State.orCls]

end Sys2Proof.Machine
end

section
/-! PROOF. Byte lists of results, and writes of runs of v registers: what a location and a register of them hold. -/

namespace Sys2Proof.Machine
open Spec

/-! ## Lists in pieces of one length -/

section
variable {α β : Type} {f : α → List β} {m : Nat} {l : List α}

theorem length_flatMap_uniform (h : ∀ x ∈ l, (f x).length = m) : (l.flatMap f).length = l.length * m := by
  induction l with
  | nil => simp
  | cons x l ih =>
    obtain ⟨hx, hl⟩ := List.forall_mem_cons.1 h
    rw [List.flatMap_cons, List.length_append, hx, ih hl, List.length_cons, Nat.add_mul, Nat.one_mul, Nat.add_comm]

theorem getElem?_flatMap_uniform (h : ∀ x ∈ l, (f x).length = m) {i j : Nat} {x : α} (hi : l[i]? = some x) (hj : j < m) :
    (l.flatMap f)[i * m + j]? = (f x)[j]? := by
  induction l generalizing i with
  | nil => simp at hi
  | cons y l ih =>
    obtain ⟨hy, hl⟩ := List.forall_mem_cons.1 h
    rw [List.flatMap_cons]
    cases i with
    | zero =>
      obtain rfl : y = x := by simpa using hi
      rw [Nat.zero_mul, Nat.zero_add, List.getElem?_append_left (hy ▸ hj)]
    | succ i =>
      have hoff : (i + 1) * m + j - m = i * m + j := by
        rw [Nat.add_mul, Nat.one_mul]
        omega
      rw [List.getElem?_append_right (by rw [hy, Nat.add_mul]; omega), hy, hoff]
      exact ih hl (by simpa using hi)

end

/-- Pairs of neighbours make up a range of twice the length. -/
theorem range_flatMap_pair {α : Type} (g : Nat → α) (n : Nat) :
    ((List.range n).flatMap fun k => [g (2 * k), g (2 * k + 1)]) = (List.range (n * 2)).map g := by
  induction n with
  | zero => rfl
  | succ n ih =>
    rw [List.range_succ, List.flatMap_append, ih, Nat.add_mul, List.range_succ, List.range_succ]
    simp [Nat.mul_comm]

/-! ## Bytes at locations -/

theorem byteAt_eq_some {l : List (Nat × Byte)} {a : Nat} {b : Byte} (hmem : (a, b) ∈ l) (h : ∀ q ∈ l, q.1 = a → q.2 = b) : byteAt l a = some b := by
  unfold byteAt
  cases hf : l.find? (fun p => decide (p.1 = a)) with
  | none => simpa using List.find?_eq_none.1 hf _ hmem
  | some q =>
    have ha : q.1 = a := by simpa using List.find?_some hf
    rw [Option.map_some, h q (List.mem_of_find?_eq_some hf) ha]

theorem mem_zip_byteLocs {a : Nat} (ha : a < 2 ^ 60) {bs : List Byte} {p : Nat × Byte} :
    p ∈ (byteLocs a bs.length).zip bs ↔ ∃ k b, bs[k]? = some b ∧ p = ((a + k) % 2 ^ 56, b) := by
  have hlow : ¬ 2 ^ 60 ≤ a := Nat.not_le.2 ha
  have hloc : ∀ k x, (byteLocs a bs.length)[k]? = some x ↔ k < bs.length ∧ (a + k) % 2 ^ 56 = x := fun k x => by
    simp only [byteLocs, hlow, if_false]
    simp [List.getElem?_eq_some_iff]
  simp only [List.mem_iff_getElem?, List.getElem?_zip_eq_some, hloc]
  constructor
  · rintro ⟨k, ⟨-, hk⟩, hb⟩
    exact ⟨k, p.2, hb, Prod.ext hk.symm rfl⟩
  · rintro ⟨k, b, hb, rfl⟩
    exact ⟨k, ⟨(List.getElem?_eq_some_iff.1 hb).1, rfl⟩, hb⟩

/-- A byte of a range that is written as a whole. -/
theorem byteAt_zip_byteLocs {a k : Nat} (ha : a < 2 ^ 60) {bs : List Byte} (hlen : bs.length ≤ 2 ^ 56) {b : Byte} (hb : bs[k]? = some b) :
    byteAt ((byteLocs a bs.length).zip bs) ((a + k) % 2 ^ 56) = some b := by
  refine byteAt_eq_some ((mem_zip_byteLocs ha).2 ⟨k, b, hb, rfl⟩) fun q hq hloc => ?_
  obtain ⟨j, c, hc, rfl⟩ := (mem_zip_byteLocs ha).1 hq
  have hj := (List.getElem?_eq_some_iff.1 hc).1
  have hk := (List.getElem?_eq_some_iff.1 hb).1
  obtain rfl : j = k := by
    dsimp only at hloc
    omega
  exact Option.some.inj (hc.symm.trans hb)

theorem getElem?_leBytes {n k : Nat} (x : Nat) (hk : k < n) : (leBytes n x)[k]? = some (BitVec.ofNat 8 (x / 256 ^ k)) := by
  induction n generalizing x k with
  | zero => omega
  | succ n ih =>
    cases k with
    | zero => simp [leBytes]
    | succ k => rw [leBytes, List.getElem?_cons_succ, ih _ (by omega), Nat.div_div_eq_div_mul, ← Nat.pow_succ']

theorem getElem?_bytesOfWord (w : Word) {k : Nat} (hk : k < 4) : (bytesOfWord w)[k]? = some (BitVec.ofNat 8 (w.toNat / 256 ^ k)) := by
  have hbyte : ∀ j, w.extractLsb' (8 * j) 8 = BitVec.ofNat 8 (w.toNat / 256 ^ j) := fun j => by
    rw [BitVec.extractLsb', Nat.shiftRight_eq_div_pow, Nat.pow_mul]
  obtain rfl | rfl | rfl | rfl : k = 0 ∨ k = 1 ∨ k = 2 ∨ k = 3 := by omega
  · exact congrArg some (hbyte 0)
  · exact congrArg some (hbyte 1)
  · exact congrArg some (hbyte 2)
  · exact congrArg some (hbyte 3)

/-! ## Writes of whole v registers -/

theorem maskBit_full : ∀ l : Fin 32, maskBit 0xFFFFFFFF l = true := by decide

/-- Writes of whole v registers, one after another. -/
def RegFile.writeVs (r : RegFile) (l : List (BitVec 8 × Lanes)) : RegFile := l.foldl (fun r p => r.writeV p.1 0xFFFFFFFF p.2) r

/-- Registers that are not written are the same. -/
theorem RegFile.writeVs_same (r : RegFile) (l : List (BitVec 8 × Lanes)) : VSame r (r.writeVs l) (l.map Prod.fst) ∧ SSame r (r.writeVs l) [] ∧
    KSame r (r.writeVs l) [] := by
  induction l generalizing r with
  | nil => exact ⟨fun _ _ => ⟨rfl, rfl⟩, fun _ _ _ => ⟨rfl, rfl⟩, fun _ _ _ => rfl⟩
  | cons p l ih =>
    obtain ⟨hv, hs, hk⟩ := ih (r.writeV p.1 0xFFFFFFFF p.2)
    refine ⟨fun n hn => ?_, hs, hk⟩
    obtain ⟨hne, hn⟩ : n ≠ p.1 ∧ n ∉ l.map Prod.fst := by rwa [List.map_cons, List.mem_cons, not_or] at hn
    obtain ⟨hval, hst⟩ := hv n hn
    exact ⟨hval.trans (RegFile.getV_writeV_other _ _ _ hne), hst.trans (RegFile.stOf_writeV_other _ _ _ hne)⟩

/-- A register that is written once holds what was written. -/
theorem RegFile.get_getV_writeVs (r : RegFile) {l : List (BitVec 8 × Lanes)} (hl : (l.map Prod.fst).Nodup) {n : BitVec 8} {x : Lanes} (hp : (n, x) ∈ l)
    (k : Fin 32) : ((r.writeVs l).getV n).get k = x.get k := by
  induction l generalizing r with
  | nil => cases hp
  | cons q l ih =>
    obtain ⟨hq, hl⟩ := List.nodup_cons.1 hl
    obtain rfl | hp := List.mem_cons.1 hp
    · obtain ⟨hv, -⟩ := (r.writeV n 0xFFFFFFFF x).writeVs_same l
      obtain ⟨hval, -⟩ := hv n hq
      exact (congrArg (fun y => Lanes.get y k) hval).trans ((RegFile.getV_writeV_same ..).trans (if_pos (maskBit_full k)))
    · exact ih _ hl hp

/-- The registers of a run that ends below 256 are different ones. -/
theorem nodup_regs {d : BitVec 8} {n : Nat} (h : d.toNat + n ≤ 256) : ((List.range n).map fun k => d + BitVec.ofNat 8 k).Nodup := by
  refine List.Nodup.map_on (fun i hi j hj hij => ?_) List.nodup_range
  have hi := List.mem_range.1 hi
  have hj := List.mem_range.1 hj
  have hnat := congrArg BitVec.toNat hij
  simp only [BitVec.toNat_add, BitVec.toNat_ofNat] at hnat
  omega

end Sys2Proof.Machine
end

section
/-! PROOF. MDRN and MSTAT (R65, R186, R189). -/

namespace Sys2Proof.Machine
open Spec

/-! ## The rows of a drain -/

theorem drnR0_eq (f : Fields) : drnR0 f = f.w2.toNat % 256 := by
  rw [drnR0, bitsOf_eq, Nat.pow_zero, Nat.div_one]
  rfl

theorem inDrain_iff (f : Fields) (r : Fin 64) : inDrain f r ↔ drnR0 f ≤ r.val ∧ r.val < drnR0 f + drnRows f := by
  rw [drnR0_eq, drnRows_eq]
  rfl

/-- The element at a row and a column of a drain, by numbers. -/
def drainedAt (f : Fields) (s : State) (fm : Fmt) (r c : Nat) : ClsRes :=
  let t := s.tileOf s.cur (f.a.extractLsb' 0 3)
  drainElem (s.ent f.cls) fm (entLSB (s.ent (ckOf f))) t.guard s.cur.ctl.srstate c (((t.el.toList.getD r (Vector.ofFn fun _ => {})).toList).getD c {})

theorem drainedAt_eq (f : Fields) (s : State) (fm : Fmt) (r c : Fin 64) : drainedAt f s fm r.val c.val = drained f s fm r c := by
  simp only [drainedAt, drained, drainElem, ckOf]
  simp

theorem drainRows_eq (f : Fields) (s : State) (fm : Fmt) : drainRows f (s.ent f.cls) fm s =
    (List.range (drnRows f)).map fun j => (List.range 64).map (drainedAt f s fm (drnR0 f + j)) := by
  unfold drainRows span
  rw [Nat.add_sub_cancel_left, List.map_map]
  rfl

theorem length_drainRows (f : Fields) (s : State) (fm : Fmt) : (drainRows f (s.ent f.cls) fm s).length = drnRows f := by
  rw [drainRows_eq, List.length_map, List.length_range]

section
variable {f : Fields} {s : State} {fm : Fmt}

/-- Row `r` of the tile is the drain's row `r - r0`. -/
theorem getElem?_drainRows {r : Fin 64} (hr : inDrain f r) : (drainRows f (s.ent f.cls) fm s)[r.val - drnR0 f]? =
    some ((List.range 64).map (drainedAt f s fm r.val)) := by
  obtain ⟨hlo, hhi⟩ := (inDrain_iff f r).1 hr
  rw [drainRows_eq, List.getElem?_map, List.getElem?_range (by omega), Option.map_some, Nat.add_sub_cancel' hlo]

theorem getElem?_drainedRow (r c : Fin 64) : ((List.range 64).map (drainedAt f s fm r.val))[c.val]? = some (drained f s fm r c) := by
  rw [List.getElem?_map, List.getElem?_range c.isLt, Option.map_some, drainedAt_eq]

/-- What some element of the rows has, one of the tile's rows and columns has. -/
theorem exists_drainRows (h : DrainFields f s) {p : ClsRes → Prop} : (∃ row ∈ drainRows f (s.ent f.cls) fm s, ∃ x ∈ row, p x) ↔
    ∃ r c, inDrain f r ∧ p (drained f s fm r c) := by
  obtain ⟨-, -, hsum, -⟩ := h
  have hsum : drnR0 f + drnRows f ≤ 64 := by rwa [drnR0_eq]
  constructor
  · rw [drainRows_eq]
    simp only [List.mem_map, List.mem_range]
    rintro ⟨_, ⟨j, hj, rfl⟩, x, hx, hp⟩
    obtain ⟨c, hc, rfl⟩ := List.mem_map.1 hx
    have hr : drnR0 f + j < 64 := by omega
    exact ⟨⟨drnR0 f + j, hr⟩, ⟨c, List.mem_range.1 hc⟩, (inDrain_iff ..).2 ⟨Nat.le_add_right .., Nat.add_lt_add_left hj _⟩, by rwa [← drainedAt_eq]⟩
  · rintro ⟨r, c, hr, hp⟩
    exact ⟨_, List.mem_of_getElem? (getElem?_drainRows hr), _, List.mem_of_getElem? (getElem?_drainedRow r c), hp⟩

/-- The class flags that the rows raise. -/
theorem drainFlags_rows (h : DrainFields f s) : DrainFlags f s fm (clsBits f.cls ((drainRows f (s.ent f.cls) fm s).any fun r => r.any (·.range))
    ((drainRows f (s.ent f.cls) fm s).any fun r => r.any (·.under))) := by
  refine ⟨_, _, rfl, ?_, ?_⟩
  · simp only [List.any_eq_true]
    exact exists_drainRows h (p := fun x => x.range = true)
  · simp only [List.any_eq_true]
    exact exists_drainRows h (p := fun x => x.under = true)

/-- A drain of which no element traps raises its flags and writes its results. -/
theorem drain_done (hready : DrainReady f s) (hf : DrainFields f s) (hreason : ∀ r c, inDrain f r → (drained f s fm r c).reason = 0) (x0 : Word)
    (write : State → List (List ClsRes) → State) :
    let rows := drainRows f (s.ent f.cls) fm s
    drain f fm x0 write s =
      .done ((write (s.orCls f.cls (rows.any fun r => r.any (·.range)) (rows.any fun r => r.any (·.under))) rows).advanceSr (s.ent f.cls)) := by
  intro rows
  obtain ⟨-, hothers, hmx, -, hpoison⟩ := hready
  have hnone : ∀ row ∈ rows, ∀ x ∈ row, x.reason = 0 := fun row hrow x hx => by
    by_contra hne
    obtain ⟨r, c, hr, hne⟩ := (exists_drainRows hf (p := fun x => x.reason ≠ 0)).1 ⟨row, hrow, x, hx, hne⟩
    exact hne (hreason r c hr)
  have hbads : ((rows.zip (List.range rows.length)).flatMap fun p =>
      ((p.1.zip (List.range 64)).filter fun q => q.1.reason ≠ 0).map fun q => (q.1.reason, drnR0 f + p.2, q.2)) = [] := by
    refine List.flatMap_eq_nil_iff.2 fun p hp => List.map_eq_nil_iff.2 (List.filter_eq_nil_iff.2 fun q hq => ?_)
    simp [hnone p.1 (List.of_mem_zip hp).1 q.1 (List.of_mem_zip hq).1]
  unfold drain
  simp only [hmx, State.partials_alone hothers, hpoison, List.isEmpty_nil, List.find?_nil, Bool.not_true, Bool.false_eq_true, if_false]
  rw [hbads]

end

/-! ## MDRN to registers -/

/-- Half of a row in a register: its elements from a column on. -/
def drnLanes (row : List ClsRes) (c : Nat) : Lanes := Lanes.mk fun l => BitVec.ofNat 32 (((row[l.val + c]?).map (·.bits)).getD 0)

/-- A row of packed elements in a register. -/
def drnPacked (row : List ClsRes) : Lanes := Lanes.mk fun l =>
  BitVec.ofNat 32 (((row[l.val]?).map (·.bits)).getD 0 + 65536 * ((row[l.val + 32]?).map (·.bits)).getD 0)

/-- The registers of one row, and what they receive (R186). -/
def drnRowWrites (e : DWord) (f : Fields) (p : List ClsRes × Nat) : List (BitVec 8 × Lanes) :=
  if entPacked e then [(f.d + BitVec.ofNat 8 p.2, drnPacked p.1)]
  else [(f.d + BitVec.ofNat 8 (2 * p.2), drnLanes p.1 0), (f.d + BitVec.ofNat 8 (2 * p.2 + 1), drnLanes p.1 32)]

/-- The writes of a drain to registers. -/
def drnWrites (e : DWord) (f : Fields) (rows : List (List ClsRes)) : List (BitVec 8 × Lanes) :=
  (rows.zip (List.range rows.length)).flatMap (drnRowWrites e f)

/-- The registers that are written are a run from D on. -/
theorem drnWrites_regs (e : DWord) (f : Fields) (rows : List (List ClsRes)) : (drnWrites e f rows).map Prod.fst =
    (List.range (rows.length * (if entPacked e then 1 else 2))).map fun k => f.d + BitVec.ofNat 8 k := by
  have hindex : (rows.zip (List.range rows.length)).map Prod.snd = List.range rows.length := List.map_snd_zip (by simp)
  have hflat : ∀ g : Nat → List (BitVec 8), (rows.zip (List.range rows.length)).flatMap (fun p => g p.2) = (List.range rows.length).flatMap g :=
    fun g => by
      conv_rhs => rw [← hindex, List.flatMap_map]
  unfold drnWrites drnRowWrites
  cases entPacked e with
  | true =>
    simp only [if_true, List.map_flatMap, List.map_cons, List.map_nil, Nat.mul_one]
    exact (hflat fun k => [f.d + BitVec.ofNat 8 k]).trans (List.flatMap_pure_eq_map ..)
  | false =>
    simp only [Bool.false_eq_true, if_false, List.map_flatMap, List.map_cons, List.map_nil]
    exact (hflat fun k => [f.d + BitVec.ofNat 8 (2 * k), f.d + BitVec.ofNat 8 (2 * k + 1)]).trans (range_flatMap_pair (fun k => f.d + BitVec.ofNat 8 k) _)

theorem execMdrn_eq {f : Fields} {s : State} (hconv : Converged s) (hready : DrainReady f s) (hr : Ready 0x74 f s) (hf : DrainFields f s)
    (hnv : f.d.toNat + drnRegs (s.ent f.cls) f ≤ s.limits.nv)
    (hfree : ∀ k < drnRegs (s.ent f.cls) f, s.cur.producing (.v (f.d + BitVec.ofNat 8 k)) = false)
    (hreason : ∀ r c, inDrain f r → (drained f s (entFmt (s.ent f.cls)) r c).reason = 0) :
    let rows := drainRows f (s.ent f.cls) (entFmt (s.ent f.cls)) s
    exec (.mdrn f) s = .next (finish (.mdrn f) (.done (((s.orCls f.cls (rows.any fun r => r.any (·.range)) (rows.any fun r => r.any (·.under))).onRegs
      fun r => r.writeVs (drnWrites (s.ent f.cls) f rows)).advanceSr (s.ent f.cls)))) := by
  intro rows
  obtain ⟨-, -, -, hchain, -⟩ := id hready
  refine congrArg Host.Outcome.next ((issue_ready_dsts (op := 0x74) hr ⟨rfl, rfl, rfl, rfl, rfl⟩ (drainErr_none hf hnv) fun x hx => ?_).trans ?_)
  · obtain ⟨k, hk, rfl⟩ := List.mem_map.1 hx
    exact hfree k (List.mem_range.1 hk)
  · rw [matBody_converged hconv, chainCheck_passes hchain, drain_done hready hf hreason]
    refine congrArg (fun w => finish (.mdrn f) (.done ((State.onRegs _ w).advanceSr _))) (funext fun r => ?_)
    rw [RegFile.writeVs, drnWrites, List.foldl_flatMap]
    refine List.foldl_ext _ _ _ fun r p _ => ?_
    unfold drnRowWrites
    split <;> rfl

section
variable {f : Fields} {s : State} {fm : Fmt}

/-- What a row's registers hold: one of packed elements, or two of the row's halves. -/
theorem writeVs_drnWrites (e : DWord) (regs : RegFile) {rows : List (List ClsRes)} (hrows : rows = drainRows f (s.ent f.cls) fm s)
    (h256 : f.d.toNat + rows.length * (if entPacked e then 1 else 2) ≤ 256) {r c d : Fin 64} {l : Fin 32} (hr : inDrain f r) (hc : c.val = l.val)
    (hd : d.val = l.val + 32) : let bits := fun (c : Fin 64) => (drained f s fm r c).bits
    if entPacked e then ((regs.writeVs (drnWrites e f rows)).getV (f.d + BitVec.ofNat 8 (r.val - drnR0 f))).get l = BitVec.ofNat 32 (bits c + 65536 * bits d)
    else ((regs.writeVs (drnWrites e f rows)).getV (f.d + BitVec.ofNat 8 (2 * (r.val - drnR0 f)))).get l = BitVec.ofNat 32 (bits c) ∧
      ((regs.writeVs (drnWrites e f rows)).getV (f.d + BitVec.ofNat 8 (2 * (r.val - drnR0 f) + 1))).get l = BitVec.ofNat 32 (bits d) := by
  intro bits
  have hnodup : ((drnWrites e f rows).map Prod.fst).Nodup := by
    rw [drnWrites_regs]
    exact nodup_regs h256
  have hrow : rows[r.val - drnR0 f]? = some ((List.range 64).map (drainedAt f s fm r.val)) := hrows ▸ getElem?_drainRows hr
  have hzip : ((List.range 64).map (drainedAt f s fm r.val), r.val - drnR0 f) ∈ rows.zip (List.range rows.length) :=
    List.mem_of_getElem? (List.getElem?_zip_eq_some.2 ⟨hrow, List.getElem?_range (List.getElem?_eq_some_iff.1 hrow).1⟩)
  have hwrite : ∀ p ∈ drnRowWrites e f ((List.range 64).map (drainedAt f s fm r.val), r.val - drnR0 f),
      ((regs.writeVs (drnWrites e f rows)).getV p.1).get l = p.2.get l := fun p hp =>
    RegFile.get_getV_writeVs regs hnodup (List.mem_flatMap.2 ⟨_, hzip, hp⟩) l
  have hlo := getElem?_drainedRow (f := f) (s := s) (fm := fm) r c
  have hhi := getElem?_drainedRow (f := f) (s := s) (fm := fm) r d
  rw [hc] at hlo
  rw [hd] at hhi
  cases hp : entPacked e with
  | true =>
    simp only [drnRowWrites, hp, if_true, List.forall_mem_singleton, drnPacked, Lanes.get_mk, hlo, hhi] at hwrite ⊢
    exact hwrite
  | false =>
    simp only [drnRowWrites, hp, Bool.false_eq_true, if_false, List.forall_mem_cons, drnLanes, Lanes.get_mk, Nat.add_zero, hlo,
      hhi] at hwrite ⊢
    obtain ⟨hfirst, hsecond, -⟩ := hwrite
    exact ⟨hfirst, hsecond⟩

/-! ## MDRN to the scratchpad -/

/-- The bytes of rows, row by row. -/
def drnBytes (n : Nat) (rows : List (List ClsRes)) : List Byte := rows.flatMap fun r => r.flatMap fun x => leBytes n x.bits

theorem length_drnRow (n r : Nat) : (((List.range 64).map (drainedAt f s fm r)).flatMap fun x => leBytes n x.bits).length = 64 * n := by
  rw [length_flatMap_uniform fun _ _ => leBytes_length .., List.length_map, List.length_range]

theorem length_of_mem_drainRows {n : Nat} : ∀ row ∈ drainRows f (s.ent f.cls) fm s, (row.flatMap fun x => leBytes n x.bits).length = 64 * n := by
  rw [drainRows_eq]
  exact List.forall_mem_map.2 fun _ _ => length_drnRow ..

theorem length_drnBytes (n : Nat) : (drnBytes n (drainRows f (s.ent f.cls) fm s)).length = drnRows f * 64 * n := by
  rw [drnBytes, length_flatMap_uniform length_of_mem_drainRows, length_drainRows, Nat.mul_assoc]

/-- Byte `k` of an element stands after the elements before it. -/
theorem getElem?_drnBytes {n k : Nat} {r : Fin 64} (hr : inDrain f r) (c : Fin 64) (hk : k < n) :
    (drnBytes n (drainRows f (s.ent f.cls) fm s))[((r.val - drnR0 f) * 64 + c.val) * n + k]? =
      some (BitVec.ofNat 8 ((drained f s fm r c).bits / 256 ^ k)) := by
  have hin : c.val * n + k < 64 * n := calc
    c.val * n + k < (c.val + 1) * n := by
      rw [Nat.add_mul]
      omega
    _ ≤ 64 * n := Nat.mul_le_mul_right n c.isLt
  have hindex : ((r.val - drnR0 f) * 64 + c.val) * n + k = (r.val - drnR0 f) * (64 * n) + (c.val * n + k) := by ring
  rw [hindex, drnBytes, getElem?_flatMap_uniform length_of_mem_drainRows (getElem?_drainRows hr) hin,
    getElem?_flatMap_uniform (fun _ _ => leBytes_length ..) (getElem?_drainedRow r c) hk, getElem?_leBytes _ hk]

theorem execMdrnScratch_eq (hconv : Converged s) (hready : DrainReady f s) (hr : Ready 0x74 f s) (hf : DrainFields f s) (hkind : entMKIND (s.ent f.cls) ≤ 2)
    (hranges : RangesOk s [MRange.one (s.cur.regs.getPair f.b) false 2 13 (drnRows f * 64 * memElem (s.ent f.cls))])
    (hreason : ∀ r c, inDrain f r → (drained f s (fmtOf (entMKIND (s.ent f.cls))) r c).reason = 0) :
    let rows := drainRows f (s.ent f.cls) (fmtOf (entMKIND (s.ent f.cls))) s
    let bytes := drnBytes (memElem (s.ent f.cls)) rows
    let addr := (s.cur.regs.getPair f.b).toNat % 2 ^ 56
    exec (.mdrnScratch f) s = .next (finish (.mdrnScratch f) (.done ((scratchWrite
      (s.orCls f.cls (rows.any fun r => r.any (·.range)) (rows.any fun r => r.any (·.under))) [(addr, bytes.length)]
      ((byteLocs addr bytes.length).zip bytes)).advanceSr (s.ent f.cls)))) := by
  intro rows bytes addr
  obtain ⟨-, -, -, hchain, -⟩ := id hready
  refine congrArg Host.Outcome.next ((issue_ready (op := 0x74) hr ⟨rfl, rfl, rfl, rfl, rfl⟩ (drainScratchErr_none hf hkind) (by exact nofun)).trans ?_)
  rw [matBody_converged hconv, chainCheck_passes hchain]
  dsimp only
  rw [State.checkRanges_none _ hranges]
  exact congrArg (finish (.mdrnScratch f)) (drain_done hready hf hreason _ _)

end

/-! ## MSTAT (R189) -/

theorem toNat_append_mod {m n : Nat} (x : BitVec m) (y : BitVec n) : (x ++ y).toNat % 2 ^ n = y.toNat := by
  rw [← BitVec.toNat_setWidth, BitVec.setWidth_append, dif_pos (Nat.le_refl n), BitVec.setWidth_eq]

/-- The bits of a status word. -/
theorem statusWord_bits (g p n q : Bool) (steps : Nat) (h : steps < 2 ^ 27) :
    let w : Word := BitVec.ofBool g ++ BitVec.ofBool p ++ BitVec.ofBool n ++ BitVec.ofBool q ++ (0 : BitVec 1) ++ BitVec.ofNat 27 steps
    w.getLsbD 31 = g ∧ w.getLsbD 30 = p ∧ w.getLsbD 29 = n ∧ w.getLsbD 28 = q ∧ w.getLsbD 27 = false ∧ w.toNat % 2 ^ 27 = steps := by
  intro w
  have hlow : w.toNat % 2 ^ 27 = steps := (toNat_append_mod _ (BitVec.ofNat 27 steps)).trans (Nat.mod_eq_of_lt h)
  refine ⟨?_, ?_, ?_, ?_, ?_, hlow⟩
  all_goals
    simp only [w, BitVec.getLsbD_append]
    simp

theorem Tile.any_el (t : Tile) (p : Elem → Bool) : (t.el.toList.any fun r => r.toList.any p) = true ↔ ∃ r c : Fin 64, p ((t.el[r.val])[c.val]) = true := by
  simp only [List.any_eq_true, Vector.mem_toList_iff, Vector.mem_iff_getElem]
  constructor
  · rintro ⟨_, ⟨r, hr, rfl⟩, _, ⟨c, hc, rfl⟩, h⟩
    exact ⟨⟨r, hr⟩, ⟨c, hc⟩, h⟩
  · rintro ⟨r, c, h⟩
    exact ⟨_, ⟨r.val, r.isLt, rfl⟩, _, ⟨c.val, c.isLt, rfl⟩, h⟩

theorem Tile.status_bits (x : Tile) : let w := x.status
    w.getLsbD 31 = x.guard ∧ (w.getLsbD 30 = true ↔ ∃ r c : Fin 64, ((x.el[r.val])[c.val]).sp = true) ∧
      (w.getLsbD 29 = true ↔ ∃ r c : Fin 64, ((x.el[r.val])[c.val]).sn = true) ∧
      (w.getLsbD 28 = true ↔ ∃ r c : Fin 64, ((x.el[r.val])[c.val]).sq = true) ∧ w.getLsbD 27 = false ∧
      w.toNat % 2 ^ 27 = min x.steps.toNat (2 ^ 27 - 1) := by
  intro w
  obtain ⟨hguard, hsp, hsn, hsq, hzero, hsteps⟩ := statusWord_bits x.guard (x.el.toList.any fun r => r.toList.any (·.sp))
    (x.el.toList.any fun r => r.toList.any (·.sn)) (x.el.toList.any fun r => r.toList.any (·.sq)) (min x.steps.toNat 0x7FFFFFF) (by omega)
  exact ⟨hguard, (Bool.eq_iff_iff.1 hsp).trans (x.any_el _), (Bool.eq_iff_iff.1 hsn).trans (x.any_el _),
    (Bool.eq_iff_iff.1 hsq).trans (x.any_el _), hzero, hsteps⟩

theorem execMstat_eq {f : Fields} {s : State} (hconv : Converged s) (hready : DrainReady f s) (hr : Ready 0x77 f s) : exec (.mstat f) s =
    .next (finish (.mstat f) (.done (s.onRegs fun r => r.writeS f.d (s.tileOf s.cur (f.a.extractLsb' 0 3)).status))) := by
  obtain ⟨-, hothers, hmx, hchain, -⟩ := hready
  refine congrArg Host.Outcome.next ((issue_ready (op := 0x77) hr ⟨rfl, rfl, rfl, rfl, rfl⟩ rfl (by exact nofun)).trans ?_)
  rw [matBody_converged hconv, chainCheck_passes hchain]
  simp only [hmx, State.partials_alone hothers, List.isEmpty_nil, Bool.not_true, Bool.false_eq_true, if_false]

/-- D of MSTAT names an s register (R37). -/
theorem mstat_d_lt {f : Fields} {s : State} (hr : Ready 0x77 f s) : f.d.toNat < 64 := by
  obtain ⟨herr, -⟩ := hr
  by_contra hge
  have hbad : kindOk s.limits f.u f.u (rowFor 0x77 f).d f.d = false := by
    have : kindOk s.limits f.u f.u (rowFor 0x77 f).d f.d = regRange 64 1 f.d := rfl
    simp only [this, regRange, Bool.and_eq_false_iff, decide_eq_false_iff_not]
    omega
  simp only [fieldErr, hbad, Bool.not_false, if_true] at herr
  cases herr

theorem RegFile.sResult_writeS (r : RegFile) {d : BitVec 8} (hd : d.toNat < 64) (x : Word) : SResult r (r.writeS d x) d x := by
  refine ⟨fun _ _ => ⟨rfl, rfl⟩, fun _ _ _ => rfl, ⟨RegFile.getS_writeS_same .., RegFile.stOf_writeS_same ..⟩, fun n hn hne => ?_⟩
  have hidx : sIdx n ≠ sIdx d := sIdx_ne hd hn (by simpa using hne)
  exact ⟨RegFile.getS_writeS_other _ _ hidx, RegFile.stOf_writeS_other _ _ hidx⟩

end Sys2Proof.Machine

namespace Sys2Proof.Proofs
open Machine Spec

theorem drains : Spec.Drains := by
  intro f s hconv hready e r0 rows
  refine ⟨fun _ hr hf hnv h256 hfree hreason => ?mdrn, fun _ hr hf hkind => ?scratch, fun _ hr => ?mstat⟩
  case mdrn =>
    obtain ⟨hpassed, hblocks, hregs⟩ := finish_onRegs s (.mdrn f) f.cls _ _ fun r => r.writeVs (drnWrites e f (drainRows f e (entFmt e) s))
    refine ⟨_, _, execMdrn_eq hconv hready hr hf hnv hfree hreason, drainFlags_rows hf, hpassed, hblocks, fun r l c d hrow hc hd => ?_, ?_⟩
    · rw [hregs, show r0 = drnR0 f from (drnR0_eq f).symm]
      exact writeVs_drnWrites e s.cur.regs rfl (by rwa [length_drainRows]) hrow hc hd
    · obtain ⟨hv, hs, hk⟩ := s.cur.regs.writeVs_same (drnWrites e f (drainRows f e (entFmt e) s))
      rw [drnWrites_regs, length_drainRows] at hv
      rw [hregs]
      exact ⟨hv, hs, hk⟩
  case scratch =>
    intro fm n at' hranges hreason
    have hlow : at' % 2 ^ 56 < 2 ^ 60 := by omega
    have hlen := length_drnBytes (f := f) (s := s) (fm := fm) n
    have hsize : (drnBytes n (drainRows f e fm s)).length ≤ 2 ^ 56 := by
      have hrows : drnRows f ≤ 255 := by
        rw [drnRows_eq]
        omega
      have hn : n ≤ 4 := by
        unfold n
        split <;> omega
      rw [hlen]
      exact (Nat.mul_le_mul (Nat.mul_le_mul_right 64 hrows) hn).trans (by decide)
    have hwindow : ∀ p ∈ (byteLocs (at' % 2 ^ 56) (drnBytes n (drainRows f e fm s)).length).zip (drnBytes n (drainRows f e fm s)), window p.1 = 0xFE :=
      fun p hp => by
        obtain ⟨k, b, hb, rfl⟩ := (mem_zip_byteLocs hlow).1 hp
        obtain ⟨-, hparts⟩ := hranges _ (List.mem_singleton.2 rfl)
        exact State.window_of_checkOwn rfl (hparts _ (List.mem_singleton.2 rfl)) (hlen ▸ (List.getElem?_eq_some_iff.1 hb).1)
    obtain ⟨hpassed, hregs, hstore⟩ := finish_scratchWrite s (.mdrnScratch f) f.cls _ _ _ hwindow
    refine ⟨_, _, _, execMdrnScratch_eq hconv hready hr hf hkind hranges hreason, drainFlags_rows hf, hpassed, hregs, hstore,
      fun r c k hrow hk => ?_, fun p hp => ?_⟩
    · have hbyte := getElem?_drnBytes (f := f) (s := s) (fm := fm) hrow c hk
      rw [show r0 = drnR0 f from (drnR0_eq f).symm, Nat.add_assoc, ← Nat.mod_add_mod]
      exact byteAt_zip_byteLocs hlow hsize hbyte
    · obtain ⟨k, b, hb, rfl⟩ := (mem_zip_byteLocs hlow).1 hp
      exact ⟨k, hlen ▸ (List.getElem?_eq_some_iff.1 hb).1, Nat.mod_add_mod ..⟩
  case mstat =>
    have hflags : PassedFlags (.mstat f) s
        ((s.onRegs fun r => r.writeS f.d (s.tileOf s.cur (f.a.extractLsb' 0 3)).status).retire (.mstat f)) 0 s.cur.ctl.srstate :=
      State.passedFlags_retire _ (by rw [State.onSp_self s (by simp [Split.flagged])]; rfl) rfl
    refine ⟨_, _, execMstat_eq hconv hready hr, hflags, State.retire_blocks .., ?_, Tile.status_bits _⟩
    rw [show (finish (.mstat f) (.done _)).cur.regs = _ from State.retire_cur_regs ..]
    exact s.cur.regs.sResult_writeS (mstat_d_lt hr) _

end Sys2Proof.Proofs
end

section
/-! PROOF. MQNT (R57, R58, R188), and O29. -/

namespace Sys2Proof.Machine
open Spec

/-! ## The blocks of a tile -/

/-- The element of a row and a column of the source. -/
def qntVal (s : State) (src : DWord) (a b : Nat) : Val :=
  fp32.decode (leNat ((List.range 4).map fun k => s.byteOf s.cur ((src.toNat + 4 * (64 * a + b) + k) % 2 ^ 56)))

/-- The quantised block of a row and a k-block. -/
def qntBlock (f : Fields) (e : DWord) (srs : Word) (elem : Nat → Nat → Val) (row kb : Nat) : Quant :=
  let xs := (List.range 32).map fun i => if f.w2.getLsbD 0 then elem (32 * kb + i) row else elem row (32 * kb + i)
  if entMKIND e = 3 then quantBlock e srs (entMPL e) xs else quantTensor e srs (entMPL e) (f.w2.toNat / 256 % 256) xs

/-- The 128 blocks with their rows and k-blocks. -/
def qntList (q : Nat → Nat → Quant) : List (Nat × Nat × Quant) := (List.range 64).flatMap fun r => [0, 1].map fun kb => (r, kb, q r kb)

theorem mem_qntList {q : Nat → Nat → Quant} {b : Nat × Nat × Quant} : b ∈ qntList q ↔ ∃ row < 64, ∃ kb < 2, b = (row, kb, q row kb) := by
  simp only [qntList, List.mem_flatMap, List.mem_range, List.mem_map, List.mem_cons, List.not_mem_nil, or_false]
  constructor
  · rintro ⟨row, hrow, kb, hkb, rfl⟩
    exact ⟨row, hrow, kb, by omega, rfl⟩
  · rintro ⟨row, hrow, kb, hkb, rfl⟩
    exact ⟨row, hrow, kb, by omega, rfl⟩

theorem any_qntList {q : Nat → Nat → Quant} (p : Quant → Bool) :
    ((qntList q).any fun b => p b.2.2) = true ↔ ∃ row < 64, ∃ kb < 2, p (q row kb) = true := by
  simp only [List.any_eq_true, mem_qntList]
  constructor
  · rintro ⟨_, ⟨row, hrow, kb, hkb, rfl⟩, h⟩
    exact ⟨row, hrow, kb, hkb, h⟩
  · rintro ⟨row, hrow, kb, hkb, h⟩
    exact ⟨_, ⟨row, hrow, kb, hkb, rfl⟩, h⟩

theorem qntBlocks_eq (f : Fields) (e : DWord) (srs : Word) {elem : Nat → Val} {val : Nat → Nat → Val} (h : ∀ a b, elem (64 * a + b) = val a b) :
    qntBlocks f e srs elem = qntList (qntBlock f e srs val) := by
  have hxs : ∀ r kb, ((List.range 32).map fun i => elem (if qntT f then 64 * (32 * kb + i) + r else 64 * r + (32 * kb + i))) =
      (List.range 32).map fun i => if f.w2.getLsbD 0 then val (32 * kb + i) r else val r (32 * kb + i) := fun r kb => by
    refine List.map_congr_left fun i _ => ?_
    unfold qntT
    split <;> exact h ..
  unfold qntBlocks qntList
  simp only [hxs]
  rfl

/-! ## Their bytes -/

/-- The plane words of a block, byte by byte. -/
def qntBytes (n : Nat) (q : Quant) : List Byte := (planesOf n q.qs).flatMap bytesOfWord

/-- What a block writes: its plane words, and under MKIND 3 its scale byte (R57, R58). -/
def qntCells (e planes scales : DWord) (b : Nat × Nat × Quant) : List (Nat × Byte) :=
  (byteLocs (planeLoc e planes (64 * b.2.1 + b.1)) (qntBytes (entMPL e) b.2.2).length).zip (qntBytes (entMPL e) b.2.2) ++
    (if entMKIND e = 3 then [(scaleLoc e scales (64 * b.2.1 + b.1), BitVec.ofNat 8 b.2.2.code)] else [])

/-- What the 128 blocks write. -/
def qntStore (e planes scales : DWord) (q : Nat → Nat → Quant) : List (Nat × Byte) := (qntList q).flatMap (qntCells e planes scales)

theorem length_qntBytes (n : Nat) (q : Quant) : (qntBytes n q).length = 4 * n := by
  rw [qntBytes, length_flatMap_uniform (m := 4) fun _ _ => rfl, Nat.mul_comm]
  simp [planesOf]

theorem getElem?_qntBytes {n j k : Nat} (q : Quant) (hj : j < n) (hk : k < 4) :
    (qntBytes n q)[4 * j + k]? = some (BitVec.ofNat 8 (((planesOf n q.qs).getD j 0).toNat / 256 ^ k)) := by
  have hlen : j < (planesOf n q.qs).length := by simpa [planesOf] using hj
  rw [qntBytes, Nat.mul_comm, getElem?_flatMap_uniform (m := 4) (fun _ _ => rfl) (List.getElem?_eq_getElem hlen) hk, getElem?_bytesOfWord _ hk,
    List.getD_eq_getElem _ _ hlen]

theorem entMPL_le (e : DWord) : entMPL e ≤ 15 := by
  unfold entMPL
  omega

theorem eq_of_mul_add_eq {d i j m k : Nat} (hm : m < d) (hk : k < d) (h : d * i + m = d * j + k) : i = j ∧ m = k := by
  have hi : (d * i + m) / d = i := by rw [Nat.mul_add_div (by omega), Nat.div_eq_of_lt hm, Nat.add_zero]
  have hj : (d * j + k) / d = j := by rw [Nat.mul_add_div (by omega), Nat.div_eq_of_lt hk, Nat.add_zero]
  have hij : i = j := by rw [← hi, h, hj]
  subst hij
  exact ⟨rfl, by omega⟩

section
variable {e planes scales : DWord} {q : Nat → Nat → Quant}

/-- A byte of the planes, or a scale byte. -/
theorem mem_qntStore {p : Nat × Byte} : p ∈ qntStore e planes scales q ↔ ∃ row < 64, ∃ kb < 2,
    (∃ m b, (qntBytes (entMPL e) (q row kb))[m]? = some b ∧ p = ((planes.toNat + 4 * entMPL e * (64 * kb + row) + m) % 2 ^ 56, b)) ∨
      (entMKIND e = 3 ∧ p = ((scales.toNat + (64 * kb + row)) % 2 ^ 56, BitVec.ofNat 8 (q row kb).code)) := by
  have hcell : ∀ row kb, p ∈ qntCells e planes scales (row, kb, q row kb) ↔
      (∃ m b, (qntBytes (entMPL e) (q row kb))[m]? = some b ∧ p = ((planes.toNat + 4 * entMPL e * (64 * kb + row) + m) % 2 ^ 56, b)) ∨
        (entMKIND e = 3 ∧ p = ((scales.toNat + (64 * kb + row)) % 2 ^ 56, BitVec.ofNat 8 (q row kb).code)) := fun row kb => by
    have hlow : planeLoc e planes (64 * kb + row) < 2 ^ 60 := by
      unfold planeLoc
      omega
    rw [qntCells, List.mem_append, mem_zip_byteLocs hlow]
    refine or_congr ?_ ?_
    · simp only [planeLoc, Nat.mod_add_mod]
    · by_cases h3 : entMKIND e = 3 <;> simp [h3, scaleLoc]
  simp only [qntStore, List.mem_flatMap, mem_qntList]
  constructor
  · rintro ⟨_, ⟨row, hrow, kb, hkb, rfl⟩, hp⟩
    exact ⟨row, hrow, kb, hkb, (hcell row kb).1 hp⟩
  · rintro ⟨row, hrow, kb, hkb, hp⟩
    exact ⟨_, ⟨row, hrow, kb, hkb, rfl⟩, (hcell row kb).2 hp⟩

/-- The address is one of the planes. -/
def InPlanes (e planes : DWord) (a : Nat) : Prop := ∃ k < 512 * entMPL e, a = (planes.toNat + k) % 2 ^ 56

/-- The address is one of the scale bytes, which MKIND 3 has. -/
def InScales (e scales : DWord) (a : Nat) : Prop := entMKIND e = 3 ∧ ∃ k < 128, a = (scales.toNat + k) % 2 ^ 56

theorem planeOffset_lt {n row kb m : Nat} (hrow : row < 64) (hkb : kb < 2) (hm : m < 4 * n) : 4 * n * (64 * kb + row) + m < 512 * n := calc
  4 * n * (64 * kb + row) + m < 4 * n * (64 * kb + row + 1) := by
    rw [Nat.mul_add_one]
    omega
  _ ≤ 4 * n * 128 := Nat.mul_le_mul_left _ (by omega)
  _ = 512 * n := by ring

theorem inPlanes_of {row kb m : Nat} (hrow : row < 64) (hkb : kb < 2) (hm : m < 4 * entMPL e) :
    InPlanes e planes ((planes.toNat + 4 * entMPL e * (64 * kb + row) + m) % 2 ^ 56) :=
  ⟨_, planeOffset_lt hrow hkb hm, by rw [Nat.add_assoc]⟩

theorem inScales_of {row kb : Nat} (h3 : entMKIND e = 3) (hrow : row < 64) (hkb : kb < 2) :
    InScales e scales ((scales.toNat + (64 * kb + row)) % 2 ^ 56) := ⟨h3, _, by omega, rfl⟩

theorem lt_of_getElem?_qntBytes {n m : Nat} {x : Quant} {b : Byte} (h : (qntBytes n x)[m]? = some b) : m < 4 * n :=
  length_qntBytes n x ▸ (List.getElem?_eq_some_iff.1 h).1

theorem qntStore_within : ∀ p ∈ qntStore e planes scales q, InPlanes e planes p.1 ∨ InScales e scales p.1 := by
  intro p hp
  obtain ⟨row, hrow, kb, hkb, ⟨m, b, hb, rfl⟩ | ⟨h3, rfl⟩⟩ := mem_qntStore.1 hp
  · exact .inl (inPlanes_of hrow hkb (lt_of_getElem?_qntBytes hb))
  · exact .inr (inScales_of h3 hrow hkb)

/-- A byte of a plane is written once. -/
theorem byteAt_qntStore_plane (hdisj : ∀ a, ¬ (InPlanes e planes a ∧ InScales e scales a)) {row kb m : Nat} {b : Byte} (hrow : row < 64) (hkb : kb < 2)
    (hb : (qntBytes (entMPL e) (q row kb))[m]? = some b) :
    byteAt (qntStore e planes scales q) ((planes.toNat + 4 * entMPL e * (64 * kb + row) + m) % 2 ^ 56) = some b := by
  have hm := lt_of_getElem?_qntBytes hb
  refine byteAt_eq_some (mem_qntStore.2 ⟨row, hrow, kb, hkb, .inl ⟨m, b, hb, rfl⟩⟩) fun p hp hloc => ?_
  obtain ⟨row', hrow', kb', hkb', ⟨m', b', hb', rfl⟩ | ⟨h3, rfl⟩⟩ := mem_qntStore.1 hp
  · have hm' := lt_of_getElem?_qntBytes hb'
    have hlt := planeOffset_lt hrow hkb hm
    have hlt' := planeOffset_lt hrow' hkb' hm'
    have hn := entMPL_le e
    obtain ⟨hblock, rfl⟩ := eq_of_mul_add_eq hm' hm (i := 64 * kb' + row') (j := 64 * kb + row) (by dsimp only at hloc; omega)
    obtain ⟨rfl, rfl⟩ : kb' = kb ∧ row' = row := by omega
    exact Option.some.inj (hb'.symm.trans hb)
  · exact absurd ⟨inPlanes_of hrow hkb hm, hloc ▸ inScales_of h3 hrow' hkb'⟩ (hdisj _)

/-- A scale byte is written once. -/
theorem byteAt_qntStore_scale (hdisj : ∀ a, ¬ (InPlanes e planes a ∧ InScales e scales a)) (h3 : entMKIND e = 3) {row kb : Nat} (hrow : row < 64)
    (hkb : kb < 2) : byteAt (qntStore e planes scales q) ((scales.toNat + (64 * kb + row)) % 2 ^ 56) = some (BitVec.ofNat 8 (q row kb).code) := by
  refine byteAt_eq_some (mem_qntStore.2 ⟨row, hrow, kb, hkb, .inr ⟨h3, rfl⟩⟩) fun p hp hloc => ?_
  obtain ⟨row', hrow', kb', hkb', ⟨m', b', hb', rfl⟩ | ⟨-, rfl⟩⟩ := mem_qntStore.1 hp
  · have hplane := inPlanes_of (planes := planes) hrow' hkb' (lt_of_getElem?_qntBytes hb')
    exact absurd ⟨hloc ▸ hplane, inScales_of h3 hrow hkb⟩ (hdisj _)
  · obtain ⟨rfl, rfl⟩ : kb' = kb ∧ row' = row := by
      dsimp only at hloc
      omega
    rfl

/-! ## The instruction -/

/-- The ranges that MQNT writes. -/
def qntRanges (e planes scales : DWord) : List MRange := (tensorRanges e planes scales 0 13 2).take (if entMKIND e = 3 then 2 else 1)

/-- Destinations whose ranges pass the check lie in the scratchpad window. -/
theorem window_of_qntRanges {s : State} (h : RangesOk s (qntRanges e planes scales)) {a : Nat} (ha : InPlanes e planes a ∨ InScales e scales a) :
    window a = 0xFE := by
  have hone : ∀ (base : DWord) (aligned : Bool) (n k : Nat), MRange.one base aligned 0 13 n ∈ qntRanges e planes scales → k < n →
      window ((base.toNat + k) % 2 ^ 56) = 0xFE := fun base aligned n k hmem hk => by
    obtain ⟨-, hparts⟩ := h _ hmem
    rw [← Nat.mod_add_mod]
    exact State.window_of_checkOwn rfl (hparts _ (List.mem_singleton.2 rfl)) hk
  obtain ⟨k, hk, rfl⟩ | ⟨h3, k, hk, rfl⟩ := ha
  · refine hone planes true (256 * entMPL e * 2) k ?_ (by omega)
    unfold qntRanges tensorRanges
    split <;> simp
  · exact hone scales false (64 * 2) k (by simp [qntRanges, tensorRanges, h3]) hk

theorem execMqnt_eq {f : Fields} {s : State} (hconv : Converged s) (hres : s.cur.resident = true) (hmx : s.cur.pend.mx = []) (hmem : s.cur.pend.mem = [])
    (hr : Ready 0x76 f s) (hf : QuantFields f s) (hranges : RangesOk s (qntRanges (s.ent f.cls) (s.cur.regs.getPair f.d) (s.cur.regs.getPair (f.d + 2)) ++
      [MRange.one (s.cur.regs.getPair f.b) false 2 12 16384]))
    (hmark : ∀ k < 16384, s.markedAt s.cur (((s.cur.regs.getPair f.b).toNat + k) % 2 ^ 56) = false) :
    let q := qntBlock f (s.ent f.cls) s.cur.ctl.srstate (qntVal s (s.cur.regs.getPair f.b))
    (∀ row < 64, ∀ kb < 2, (q row kb).reason = 0) →
    exec (.mqnt f) s = .next (finish (.mqnt f) (.done ((scratchWrite
      (s.orCls f.cls ((qntList q).any (·.2.2.range)) ((qntList q).any (·.2.2.under)))
      ((qntRanges (s.ent f.cls) (s.cur.regs.getPair f.d) (s.cur.regs.getPair (f.d + 2))).flatMap (·.parts))
      (qntStore (s.ent f.cls) (s.cur.regs.getPair f.d) (s.cur.regs.getPair (f.d + 2)) q)).advanceSr (s.ent f.cls)))) := by
  intro q hreason
  have hbyte : ∀ a ∈ byteLocs ((s.cur.regs.getPair f.b).toNat % 2 ^ 56) 16384, s.markedAt s.cur a = false := fun a ha => by
    obtain ⟨k, hk, rfl⟩ := List.mem_map.1 ha
    rw [if_neg (by omega), Nat.mod_add_mod]
    exact hmark k (List.mem_range.1 hk)
  have hval : ∀ a b, fp32.decode (leNat ((byteLocs (((s.cur.regs.getPair f.b).toNat + 4 * (64 * a + b)) % 2 ^ 56) 4).map (s.byteOf s.cur))) =
      qntVal s (s.cur.regs.getPair f.b) a b := fun a b => by
    have hlow : ¬ 2 ^ 60 ≤ ((s.cur.regs.getPair f.b).toNat + 4 * (64 * a + b)) % 2 ^ 56 := by omega
    simp only [byteLocs, hlow, if_false, List.map_map, Nat.mod_add_mod]
    rfl
  have hnone : (qntList q).find? (fun b => decide (b.2.2.reason ≠ 0)) = none := List.find?_eq_none.2 fun b hb => by
    obtain ⟨row, hrow, kb, hkb, rfl⟩ := mem_qntList.1 hb
    simp [hreason row hrow kb hkb]
  refine congrArg Host.Outcome.next ((issue_ready (op := 0x76) hr ⟨rfl, rfl, rfl, rfl, rfl⟩ (quantErr_none hf) (by exact nofun)).trans ?_)
  rw [matBody_converged hconv]
  unfold qntRanges at hranges ⊢
  dsimp only
  rw [State.checkRanges_none _ hranges]
  simp only [hmx, List.isEmpty_nil, Bool.not_true, Bool.false_eq_true, if_false]
  rw [scratchRead_idle hres hmem hbyte, qntBlocks_eq f _ _ hval, hnone]
  rfl

end

end Sys2Proof.Machine

namespace Sys2Proof.Proofs
open Machine Spec

theorem tileQuantisation : Spec.TileQuantisation := by
  intro f s hconv hb hmx hmem _ hr e n r planes scales src hf hranges hmark elem q hreason _ inPlanes inScales hdisj
  obtain ⟨hres, -⟩ := hb
  have hwindow : ∀ p ∈ qntStore e planes scales q, window p.1 = 0xFE := fun p hp =>
    window_of_qntRanges (fun x hx => hranges x (List.mem_append_left _ hx)) (qntStore_within p hp)
  obtain ⟨hpassed, hregs, hstore⟩ := finish_scratchWrite s (.mqnt f) f.cls ((qntList q).any (·.2.2.range)) ((qntList q).any (·.2.2.under))
    ((qntRanges e planes scales).flatMap (·.parts)) hwindow
  refine ⟨_, _, _, _, execMqnt_eq hconv hres hmx hmem hr hf hranges hmark hreason, hpassed, hregs, any_qntList _, any_qntList _, hstore,
    qntStore_within, fun row hrow kb hkb j hj k hk => ?_, fun h3 row hrow kb hkb => byteAt_qntStore_scale hdisj h3 hrow hkb⟩
  rw [Nat.add_assoc]
  exact byteAt_qntStore_plane hdisj hrow hkb (getElem?_qntBytes _ hj hk)

/-- Settles O29: the drains and MQNT leave a register or a store of what R65, R57 and R58 make of each element, byte by byte; MSTAT reads the
tile. -/
theorem drainsAndQuantisation : Obligations.DrainsAndQuantisation := ⟨drains, tileQuantisation⟩

end Sys2Proof.Proofs
end

section
/-! PROOF. Instructions of control that execute whatever `$exec` holds: what they leave when they complete or jump, and O5 from it. -/

namespace Sys2Proof.Machine
open Spec

/-! ## Issue and completion -/

/-- An instruction whose row's operands are in order executes whatever `$exec` holds. -/
theorem issue_always {i : Instr} {op : BitVec 7} {f : Fields} {body : State → Res} {s : State} (h : Ready op f s) :
    issue i (planAlways op f) body s = finish i (body s) := issue_ready h ⟨rfl, rfl, rfl, rfl, rfl⟩ rfl (by exact nofun)

/-- The register that position D names is one of the launch (R37). -/
theorem kind_d_of_ready {op : BitVec 7} {f : Fields} {s : State} (h : Ready op f s) : kindOk s.limits f.u f.u (rowFor op f).d f.d = true := by
  obtain ⟨herr, -⟩ := h
  by_contra hbad
  have hbad : kindOk s.limits f.u f.u (rowFor op f).d f.d = false := by simpa using hbad
  simp only [fieldErr, hbad, Bool.not_false, if_true] at herr
  cases herr

/-- An instruction that has only written registers is complete. -/
theorem finish_done (s : State) (i : Instr) (g : RegFile → RegFile) :
    Plain i s (finish i (.done (s.onRegs g))) ∧ (finish i (.done (s.onRegs g))).cur.regs = g s.cur.regs :=
  ⟨State.plain_retire_onRegs .., State.retire_cur_regs ..⟩

/-- Folding and moving on change the running split alone. -/
theorem State.foldGoto_eq (s : State) (i : Instr) (pc : Pc) :
    (s.foldSp i).goto pc = s.onSp fun e => { e with sig := s.sigFolded i, pc := pc, half := false } := by
  rw [State.foldSp_eq, State.goto, State.onSp_onSp]

/-- An instruction that has only written registers continues at its target. -/
theorem finish_jump (s : State) (i : Instr) (g : RegFile → RegFile) (pc : Pc) :
    Completed i s (finish i (.jump (s.onRegs g) pc)) pc 0 0 s.cur.ctl.srstate ∧
      (finish i (.jump (s.onRegs g) pc)).cur.regs = g s.cur.regs := by
  rw [finish, State.foldGoto_eq]
  refine ⟨⟨⟨rfl, rfl, rfl, fun n hn => State.onSp_cur_entry _ _ hn, fun _ => rfl, fun _ _ => rfl, fun _ _ => rfl⟩, rfl, ?_⟩, rfl⟩
  rw [State.onSp_cur_sp, State.sigFolded_onRegs, State.sigFolded_eq]
  simp

/-! ## Results in one register -/

/-- k[D] of an instruction, below 16 (R9, R89). -/
theorem RegFile.kResult_setK (r : RegFile) {d : BitVec 8} (hd : d.toNat < 16) (x : Word) : KResult r (r.setK d x) d x := by
  have hidx : kIdx d = d.toNat := Nat.mod_eq_of_lt hd
  refine ⟨fun n _ => ⟨r.getV_setK .., r.stOf_setK ..⟩, fun n _ _ => ⟨r.getS_setK .., r.stOf_setK ..⟩, fun h0 => ?_, fun n hn hne => ?_⟩
  · exact RegFile.getK_setK_same _ _ fun h => h0 (BitVec.eq_of_toNat_eq (hidx.symm.trans h))
  · by_cases h0 : d = 0
    · subst h0
      rw [RegFile.setK_zero _ _ rfl]
    · exact RegFile.getK_setK_other _ _ (kIdx_ne hd hn (by rw [if_neg h0] at hne; simpa using hne))

/-- The pair s[D], s[D + 1] of an instruction, below 64 (R9). -/
theorem RegFile.pairResult_writePair (r : RegFile) {d : BitVec 8} (hd : d.toNat + 2 ≤ 64) (x : DWord) :
    PairResult r (r.writePair d x) d x := by
  have h1 := sIdx_add_one_ne hd
  refine ⟨fun _ _ => ⟨rfl, rfl⟩, fun _ _ _ => rfl, ?_, fun n hn hne => ?_⟩
  · rw [RegFile.writePair, RegFile.getPair, RegFile.getS_writeS_same, RegFile.getS_writeS_other _ _ h1.symm, RegFile.getS_writeS_same]
    exact litOf_extract x
  · obtain ⟨hn0, hn1⟩ : n ≠ d ∧ n ≠ d + 1 := by simpa using hne
    have hn0 : sIdx n ≠ sIdx d := sIdx_ne (by omega) hn hn0
    have hn1 : sIdx n ≠ sIdx (d + 1) := sIdx_ne (by bv_omega) hn hn1
    exact ⟨(RegFile.getS_writeS_other _ _ hn1).trans (RegFile.getS_writeS_other _ _ hn0),
      (RegFile.stOf_writeS_other _ _ hn1).trans (RegFile.stOf_writeS_other _ _ hn0)⟩

/-- An instruction writes a word of its sources to one s register of its row. -/
theorem sWriteOf_result {i : Instr} {op : BitVec 7} {f : Fields} {s : State} (h : Ready op f s) (hrow : (rowFor op f).d = .s 1)
    (x : RegFile → Word) {t : State} (ht : t = finish i (.done (s.onRegs fun r => r.writeS f.d (x r)))) :
    Plain i s t ∧ SResult s.cur.regs t.cur.regs f.d (x s.cur.regs) := by
  have hd : f.d.toNat < 64 := by
    have hk := kind_d_of_ready h
    rw [hrow] at hk
    simp only [kindOk, regRange, Bool.and_eq_true, decide_eq_true_eq] at hk
    omega
  obtain ⟨hplain, hregs⟩ := finish_done s i fun r => r.writeS f.d (x r)
  subst ht
  exact ⟨hplain, hregs ▸ RegFile.sResult_writeS _ hd _⟩

theorem sWrite_result {i : Instr} {op : BitVec 7} {f : Fields} {s : State} (h : Ready op f s) (hrow : (rowFor op f).d = .s 1)
    (x : Word) {t : State} (ht : t = finish i (.done (s.onRegs fun r => r.writeS f.d x))) :
    Plain i s t ∧ SResult s.cur.regs t.cur.regs f.d x := sWriteOf_result h hrow (fun _ => x) ht

/-- An instruction writes a mask of its sources to one k register of its row. -/
theorem kWriteOf_result {i : Instr} {op : BitVec 7} {f : Fields} {s : State} (h : Ready op f s) (hrow : (rowFor op f).d = .k)
    (x : RegFile → Word) {t : State} (ht : t = finish i (.done (s.onRegs fun r => r.setK f.d (x r)))) :
    Plain i s t ∧ KResult s.cur.regs t.cur.regs f.d (x s.cur.regs) := by
  have hd : f.d.toNat < 16 := by
    have hk := kind_d_of_ready h
    rw [hrow] at hk
    exact of_decide_eq_true hk
  obtain ⟨hplain, hregs⟩ := finish_done s i fun r => r.setK f.d (x r)
  subst ht
  exact ⟨hplain, hregs ▸ RegFile.kResult_setK _ hd _⟩

/-! ## Masks (R89) -/

theorem mem_laneList (l : Fin 32) : l ∈ laneList := List.mem_ofFn.2 ⟨l, rfl⟩

/-- Setting bits one after another sets those of the lanes that the predicate accepts. -/
theorem maskBit_foldl_set (p : Fin 32 → Bool) (ls : List (Fin 32)) (m : Word) (l : Fin 32) :
    maskBit (ls.foldl (fun m l => if p l then m ||| BitVec.ofNat 32 (2 ^ l.val) else m) m) l = (maskBit m l || (decide (l ∈ ls) && p l)) := by
  induction ls generalizing m with
  | nil => simp
  | cons k ls ih =>
    rw [List.foldl_cons, ih]
    by_cases hk : l = k
    · subst hk
      cases hp : p l
      · simp
      · simp only [if_true, maskBit_or, maskBit_single]
        simp
    · cases hp : p k
      · simp [hk]
      · simp only [if_true, maskBit_or, maskBit_single]
        simp [hk]

theorem maskBit_maskOf (p : Fin 32 → Bool) (l : Fin 32) : maskBit (maskOf p) l = p l := by
  rw [maskOf, maskBit_foldl_set, show maskBit 0#32 l = false from maskBit_zero l]
  simp [mem_laneList]

/-- Words whose bits agree are one. -/
theorem word_ext {x y : Word} (h : ∀ l, maskBit x l = maskBit y l) : x = y :=
  BitVec.eq_of_getLsbD_eq fun i hi => h ⟨i, hi⟩

theorem maskBit_and (x y : Word) (l : Fin 32) : maskBit (x &&& y) l = (maskBit x l && maskBit y l) := by simp [maskBit]

theorem maskBit_not (x : Word) (l : Fin 32) : maskBit (~~~x) l = !maskBit x l := by simp [maskBit]

theorem and_maskOf (m : Word) (p : Fin 32 → Bool) : m &&& maskOf p = maskOf fun l => maskBit m l && p l :=
  word_ext fun l => by rw [maskBit_and, maskBit_maskOf, maskBit_maskOf]

theorem laneList_map_val : laneList.map Fin.val = List.range 32 := by decide

theorem popcount_eq (x : Word) : popcount x = laneList.countP (maskBit x) := List.countP_eq_length_filter.symm

/-- The index of the lowest one, as the statement looks for it. -/
theorem lowestBit_eq (x : Word) : lowestBit x = ((List.range 32).find? fun n => x.getLsbD n).getD 32 := by
  rw [← laneList_map_val, List.find?_map, lowestBit]
  show _ = ((laneList.find? (maskBit x)).map Fin.val).getD 32
  cases laneList.find? (maskBit x) <;> rfl

/-- The mask instructions of two sources. -/
theorem maskOp_result {i : Instr} {f : Fields} {s : State} (h : Ready 0x12 f s) (op : Word → Word → Word) :
    ∃ t, Host.Outcome.next (maskOp i f op s) = (.next t : Host.Outcome State Fault Refusal) ∧ Plain i s t ∧
      KResult s.cur.regs t.cur.regs f.d (op (s.cur.regs.getK f.a) (s.cur.regs.getK f.b)) :=
  ⟨_, rfl, kWriteOf_result h rfl (fun r => op (r.getK f.a) (r.getK f.b)) (issue_always h)⟩

end Sys2Proof.Machine

namespace Sys2Proof.Proofs
open Machine Spec

/-- R89: the mask instructions of one and two masks. -/
theorem maskLogic : MaskLogic := by
  intro i x s hx _ h
  unfold maskOf2 at hx
  split at hx
  case h_1 => cases hx; exact maskOp_result h _
  case h_2 => cases hx; exact maskOp_result h _
  case h_3 => cases hx; exact maskOp_result h _
  case h_4 => cases hx; exact maskOp_result h _
  case h_5 => cases hx; exact maskOp_result h _
  case h_6 => cases hx; exact maskOp_result h _
  case h_7 => cases hx

/-- R89, R90: what leaves or enters the mask registers. -/
theorem maskMoves : MaskMoves := by
  intro f s h
  refine ⟨fun hsub => ?kpopc, fun hsub => ?kffs, fun hsub hexec => ?kvote, fun hsub hexec => ?ktov⟩
  case kpopc =>
    have hrow : (rowFor 0x13 f).d = .s 1 := by simp [rowFor, rowOf, hsub]
    rw [← popcount_eq]
    exact ⟨_, rfl, sWriteOf_result h hrow (fun r => BitVec.ofNat 32 (popcount (r.getK f.a))) (issue_always h)⟩
  case kffs =>
    have hrow : (rowFor 0x13 f).d = .s 1 := by simp [rowFor, rowOf, hsub]
    rw [← lowestBit_eq]
    exact ⟨_, rfl, sWriteOf_result h hrow (fun r => BitVec.ofNat 32 (lowestBit (r.getK f.a))) (issue_always h)⟩
  case kvote =>
    have hrow : (rowFor 0x13 f).d = .k := by simp [rowFor, rowOf, hsub]
    rw [← and_maskOf]
    exact ⟨_, rfl, kWriteOf_result h hrow (fun r => s.cur.exec &&& maskOf fun l => decide ((r.getV f.a).get l ≠ 0))
      (issue_ready h ⟨rfl, rfl, rfl, rfl, rfl⟩ rfl fun _ => hexec)⟩
  case ktov =>
    obtain ⟨hplain, hregs⟩ := finish_done s (.ktov f) fun r =>
      r.writeV f.d s.cur.exec (Lanes.mk fun l => if maskBit (r.getK f.a) l then 1 else 0)
    refine ⟨_, congrArg Host.Outcome.next (issue_ready h ⟨rfl, rfl, rfl, rfl, rfl⟩ rfl fun _ => hexec), hplain, ?_⟩
    rw [hregs]
    refine ⟨⟨fun l => ?_, RegFile.stOf_writeV_same ..⟩, fun n hn => ?_, fun _ _ _ => ⟨rfl, rfl⟩, fun _ _ _ => rfl⟩
    · rw [RegFile.getV_writeV_same, Lanes.get_mk]
    · have hn : n ≠ f.d := by simpa using hn
      exact ⟨RegFile.getV_writeV_other _ _ _ hn, RegFile.stOf_writeV_other _ _ _ hn⟩

/-- Settles O5: each completes as its row lets it, with the bits of its sources. -/
theorem maskInstructions : Obligations.MaskInstructions := ⟨maskLogic, maskMoves⟩

end Sys2Proof.Proofs
end

section
/-! PROOF. Branches and calls (R74, R75); SIGRD, SIGCHK, YIELD, CODESYNC, SRSEED and CAPRD (R84, R97, R156, R169, R172), and O12. -/

namespace Sys2Proof.Machine
open Spec

/-- An indirect jump to an aligned target (R74). -/
theorem indirect_aligned {i : Instr} {s s1 : State} {t : DWord} (h : t.extractLsb' 0 2 = 0) :
    indirect i s s1 t = .jump s1 (t.extractLsb' 0 56) := if_pos h

/-- An instruction jumps without a change of registers. -/
theorem jump_same (s : State) (i : Instr) (pc : Pc) :
    Completed i s (finish i (.jump s pc)) pc 0 0 s.cur.ctl.srstate ∧ SameRegs s (finish i (.jump s pc)) := finish_jump s i id pc

/-- An instruction completes without a change of registers. -/
theorem done_same (s : State) (i : Instr) : Plain i s (finish i (.done s)) ∧ SameRegs s (finish i (.done s)) := finish_done s i id

/-- The link register of a call is a pair of s registers (R75). -/
theorem link_lt {op : BitVec 7} {f : Fields} {s : State} (h : Ready op f s) (hrow : (rowFor op f).d = .s 2) : f.d.toNat + 2 ≤ 64 := by
  have hk := kind_d_of_ready h
  rw [hrow] at hk
  simp only [kindOk, regRange, Bool.and_eq_true, decide_eq_true_eq] at hk
  exact hk.1

/-- An instruction of the bare form B, whose row names no operand, executes. -/
theorem ready_bare {op : BitVec 7} {s : State} (h : rowFor op { form := .b } = { forms := [.b] }) : Ready op { form := .b } s := by
  refine ⟨?_, ?_, ?_⟩
  · rw [h]; rfl
  · rw [h]; exact nofun
  · rw [h]; exact nofun

/-! ## Random draws (R168) -/

/-- The rounds of the generator, written out. -/
theorem rngcMix_eq (k : DWord) (t c : Word) : rngcMix k t c = rngc k t c := by
  simp only [rngcMix, rngc, List.foldl_cons, List.foldl_nil, rngcRound]
  rfl

/-! ## What an instruction leaves that changed more than registers -/

/-- An instruction that has set `$srstate` alone is complete. -/
theorem finish_seeded (s : State) (i : Instr) (x : Word) : let t := finish i (.done (s.onCtl fun c => { c with srstate := x }))
    Completed i s t (past i s) 0 0 x ∧ SameRegs s t := by
  have hsig : (s.onCtl fun c => { c with srstate := x }).sigFolded i = sigAfter i s := s.sigFolded_eq i
  rw [finish, State.retire_eq, hsig]
  refine ⟨⟨⟨rfl, rfl, rfl, fun n hn => State.onSp_cur_entry _ _ hn, fun _ => rfl, fun _ _ => rfl, fun _ _ => rfl⟩, rfl, ?_⟩, rfl⟩
  rw [State.onSp_cur_sp]
  simp [past]

/-- An instruction passes that kept the program counter, SIG and INH of the running split, and the other entries. -/
theorem finish_passes {s u : State} (i : Instr) (hsp : u.cur.sp.inh = s.cur.sp.inh ∧ u.cur.sp.sig = s.cur.sp.sig ∧ u.cur.sp.pc = s.cur.sp.pc)
    (hentry : ∀ n, n ≠ s.cur.running → u.cur.entry n = s.cur.entry n) (hrun : u.cur.running = s.cur.running)
    (hsup : u.cur.supervisor = s.cur.supervisor) : let t := finish i (.done u)
    t = { u with cur := { u.cur with splits := t.cur.splits } } ∧
    t.cur.sp = { u.cur.sp with pc := past i s, half := false, sig := sigAfter i s } ∧ (∀ n, n ≠ s.cur.running → t.cur.entry n = s.cur.entry n) := by
  obtain ⟨hinh, hsig, hpc⟩ := hsp
  have hfold : u.sigFolded i = sigAfter i s := by
    rw [State.sigFolded_eq]
    unfold sigAfter
    rw [hinh, hsig, hsup]
  rw [finish, State.retire_eq, hfold, hpc]
  exact ⟨rfl, State.onSp_cur_sp .., fun n hn => (State.onSp_cur_entry _ _ (hrun ▸ hn)).trans (hentry n hn)⟩

end Sys2Proof.Machine

namespace Sys2Proof.Proofs
open Machine Spec

/-- R74, R75: each branch jumps; a call writes its link first, and CALLX has read its target before. -/
theorem branchesAndCalls_moves : Spec.BranchesAndCalls := by
  refine ⟨fun s => ⟨_, rfl, done_same s .nop⟩, fun f s => ⟨fun h => ?bra, fun h ht => ?brx, fun h => ?call, fun h ht => ?callx, fun h ht => ?ret⟩⟩
  case bra => exact ⟨_, congrArg Host.Outcome.next (issue_always h), jump_same ..⟩
  case brx => exact ⟨_, congrArg Host.Outcome.next ((issue_always h).trans (congrArg _ (indirect_aligned ht))), jump_same ..⟩
  case ret => exact ⟨_, congrArg Host.Outcome.next ((issue_always h).trans (congrArg _ (indirect_aligned ht))), jump_same ..⟩
  case call =>
    obtain ⟨hdone, hregs⟩ := finish_jump s (.call f) (fun r => r.writePair f.d (link s 12)) (target f s)
    exact ⟨_, congrArg Host.Outcome.next (issue_always h), hdone, hregs ▸ RegFile.pairResult_writePair _ (link_lt h rfl) _⟩
  case callx =>
    obtain ⟨hdone, hregs⟩ := finish_jump s (.callx f) (fun r => r.writePair f.d (link s 4)) ((s.cur.regs.getPair f.a).extractLsb' 0 56)
    exact ⟨_, congrArg Host.Outcome.next ((issue_always h).trans (congrArg _ (indirect_aligned ht))), hdone,
      hregs ▸ RegFile.pairResult_writePair _ (link_lt h rfl) _⟩

/-- R84, R97, R156: CODESYNC finds nothing to release, since no piece stands before its home. -/
theorem signaturesAndYield : SignaturesAndYield := by
  refine ⟨fun f s h => ⟨_, rfl, sWrite_result h rfl _ (issue_always h)⟩, fun f s h hsig => ?sigchk,
    fun s => ?yield, fun s hhome hrel => ?codesync⟩
  case sigchk =>
    refine ⟨_, congrArg Host.Outcome.next ((issue_always h).trans (congrArg _ (if_pos hsig))), ?_⟩
    rw [finish, State.goto, State.onSp_onSp]
    exact ⟨⟨rfl, rfl, rfl, fun n hn => State.onSp_cur_entry _ _ hn, fun _ => rfl, fun _ _ => rfl, fun _ _ => rfl⟩, rfl, State.onSp_cur_sp ..⟩
  case yield =>
    obtain ⟨ht, hsp, hentry⟩ := finish_passes (s := s) (u := { s with cur := { s.cur with iss := { s.cur.iss with
      yielded := true, last := (s.cur.iss.last.filter (· ≠ s.cur.running)) ++ [s.cur.running] } } }) .yield ⟨rfl, rfl, rfl⟩ (fun _ _ => rfl) rfl rfl
    refine ⟨_, congrArg Host.Outcome.next (issue_always (ready_bare rfl)), ?_, ?_, ?_, hsp, ?_, hentry, ?_⟩
    · rw [ht]
    · rw [ht]
      exact List.getLast?_concat
    all_goals rw [ht]
    · rfl
    · exact ⟨rfl, rfl, rfl⟩
  case codesync =>
    have hbody : (if (s.release .dev).relPending .dev then Res.wait (s.release .dev) else .done (s.release .dev).syncCode) = .done s.syncCode := by
      have hrelease : s.release .dev = s := State.flushBlock_homed hhome _
      rw [hrelease, hrel]
      rfl
    obtain ⟨ht, hsp, hentry⟩ := finish_passes (s := s) (u := s.syncCode) .codesync ⟨rfl, rfl, rfl⟩ (fun _ _ => rfl) rfl rfl
    refine ⟨_, congrArg Host.Outcome.next ((issue_always (ready_bare rfl)).trans (congrArg _ hbody)), ?_, ?_, hsp, ?_, hentry, ?_⟩
    all_goals rw [ht]
    all_goals rfl

/-- R169, R172: the draw of SRSEED is the rounds of R168; `$srstate` never holds zero. -/
theorem seedAndCapabilities : SeedAndCapabilities := by
  intro f s hacts h
  have hvec : (!f.u) = true → s.cur.exec ≠ 0 := fun hv => hacts (by simpa using hv)
  refine ⟨fun hsub => ?srseed, fun hsub hw => ?caprd⟩
  case srseed =>
    have hx := rngcMix_eq (s.cur.regs.getPair f.a) f.w2 (BitVec.ofNat 32 (32 * s.cur.block + s.cur.index))
    obtain ⟨hdone, hregs⟩ := finish_seeded s (.srseed f)
      (storeSr (rngcMix (s.cur.regs.getPair f.a) f.w2 (BitVec.ofNat 32 (32 * s.cur.block + s.cur.index))))
    rw [storeSr, hx] at hdone
    exact ⟨_, congrArg Host.Outcome.next (issue_ready h ⟨rfl, rfl, rfl, rfl, rfl⟩ rfl hvec), hregs, hdone⟩
  case caprd =>
    have hmore : (if f.w2.toNat ≤ 1 then none else some ⟨6, f.w2⟩ : Option FieldErr) = none := if_pos (by rcases hw with h | h <;> simp [h])
    have hd : f.u = true → f.d.toNat + 1 ≤ 64 := by
      have hrow : (rowFor 0x7B f).d = .r 1 := by simp [rowFor, rowOf, hsub]
      exact kindOk_r_lt (hrow ▸ kind_d_of_ready h)
    obtain ⟨hplain, hregs⟩ := finish_done s (.caprd f) fun r => r.writeRes f.u false f.d s.cur.exec fun _ =>
      raw32 (if f.w2 = 0 then Config.cap0 s.part else Config.cap1 s.part)
    exact ⟨_, congrArg Host.Outcome.next (issue_ready h ⟨rfl, rfl, rfl, rfl, rfl⟩ hmore hvec), hplain,
      hregs ▸ RegFile.result_writeRes _ _ _ _ _ _ hd⟩

/-- Settles O12, from its two parts. -/
theorem signaturesAndSeeds : Obligations.SignaturesAndSeeds := ⟨signaturesAndYield, seedAndCapabilities⟩

end Sys2Proof.Proofs
end

section
/-! PROOF. The partition of a group's lanes over its splits (R13, R334): counted lane by lane, and what keeps it. -/

namespace Sys2Proof.Machine
open Spec

/-! ## Searches in ascending lists -/

/-- The least element that a test accepts is the first in an ascending list. -/
theorem find?_least {α : Type} (key : α → Nat) {l : List α} (hl : l.Pairwise fun a b => key a < key b) {p : α → Bool} {a : α} (ha : a ∈ l)
    (hp : p a = true) (hmin : ∀ b ∈ l, p b = true → key a ≤ key b) : l.find? p = some a := by
  induction l with
  | nil => cases ha
  | cons x l ih =>
    obtain ⟨hx, hl⟩ := List.pairwise_cons.1 hl
    by_cases hpx : p x = true
    · obtain rfl | ha := List.mem_cons.1 ha
      · simp [hpx]
      · exact absurd (hmin x List.mem_cons_self hpx) (Nat.not_le.2 (hx a ha))
    · obtain rfl | ha := List.mem_cons.1 ha
      · exact absurd hp hpx
      · rw [List.find?_cons_of_neg (by simpa using hpx)]
        exact ih hl ha fun b hb => hmin b (List.mem_cons_of_mem _ hb)

/-! ## Counting -/

/-- Two tests that differ at one element of a list without repeats. -/
theorem countP_update {α : Type} {L : List α} (hL : L.Nodup) {a : α} (ha : a ∈ L) {p q : α → Bool} (h : ∀ b, b ≠ a → p b = q b) :
    L.countP p + (q a).toNat = L.countP q + (p a).toNat := by
  induction L with
  | nil => cases ha
  | cons x L ih =>
    obtain ⟨hx, hL⟩ := List.nodup_cons.1 hL
    obtain rfl | ha := List.mem_cons.1 ha
    · have hrest : L.countP p = L.countP q := List.countP_congr fun b hb => by rw [h b fun e => hx (e ▸ hb)]
      rw [List.countP_cons, List.countP_cons, hrest]
      cases p a <;> cases q a <;> rfl
    · have hxa : p x = q x := h x fun e => hx (e ▸ ha)
      have := ih hL ha
      rw [List.countP_cons, List.countP_cons, hxa]
      omega

/-- The fold of the partition check, lane by lane: the lanes of some mask, and those of more than one. -/
theorem partition_foldl (L : List Word) (p : Word × Word) (l : Fin 32) :
    let r := L.foldl (fun (p : Word × Word) m => (p.1 ||| m, p.2 ||| (p.1 &&& m))) p
    maskBit r.1 l = (maskBit p.1 l || decide (0 < L.countP (maskBit · l))) ∧
    maskBit r.2 l = (maskBit p.2 l || (maskBit p.1 l && decide (0 < L.countP (maskBit · l))) || decide (1 < L.countP (maskBit · l))) := by
  induction L generalizing p with
  | nil => simp
  | cons m L ih =>
    obtain ⟨h1, h2⟩ := ih (p.1 ||| m, p.2 ||| (p.1 &&& m))
    rw [List.foldl_cons]
    dsimp only at h1 h2 ⊢
    rw [h1, h2, List.countP_cons, maskBit_or, maskBit_or, maskBit_and]
    generalize L.countP (maskBit · l) = c
    cases maskBit m l
    · simp
    · cases c <;> cases maskBit p.1 l <;> cases maskBit p.2 l <;> simp

/-! ## The check -/

/-- An entry has a lane: valid, and the lane in its mask or parked. -/
def Split.holds (e : Split) (l : Fin 32) : Bool := e.v && maskBit e.lanes l

/-- The entries of the table that have a lane. -/
def Group.holders (g : Group) (l : Fin 32) : Nat := splitNums.countP fun n => (g.entry n).holds l

/-- The entries that have a lane, those in the overflow area among them. -/
def State.holders (s : State) (l : Fin 32) : Nat := s.cur.holders l + (s.ovfEntries s.cur).countP fun e => maskBit e.lanes l

theorem State.holders_eq (s : State) (l : Fin 32) : s.holders l =
    ((s.cur.validNums.map fun n => (s.cur.entry n).lanes) ++ (s.ovfEntries s.cur).map (·.lanes)).countP (maskBit · l) := by
  rw [List.countP_append, List.countP_map, List.countP_map, Group.validNums, List.countP_filter]
  exact congrArg (· + _) (List.countP_congr fun n _ => by simp [Split.holds, and_comm])

theorem word_ext_iff {x y : Word} : x = y ↔ ∀ l, maskBit x l = maskBit y l := ⟨fun h _ => h ▸ rfl, word_ext⟩

/-- What the check finds is zero when no lane stands twice and the lanes are the live ones. -/
theorem ite_ne_zero_eq_zero {x y live : Word} : (if x ≠ 0 then x else y ^^^ live) = 0 ↔ x = 0 ∧ y = live := by
  by_cases hx : x = 0
  · rw [if_neg (not_not.2 hx), and_iff_right hx]
    exact BitVec.xor_eq_zero_iff
  · rw [if_pos hx]
    exact ⟨fun h => absurd h hx, fun h => absurd h.1 hx⟩

/-- The lanes of a group are partitioned when each live lane stands in one entry, and no other lane in any (R13). -/
theorem partitioned_iff {s : State} : Partitioned s ↔ ∀ l, s.holders l = (maskBit s.cur.ctl.live l).toNat := by
  have hfold := partition_foldl ((s.cur.validNums.map fun n => (s.cur.entry n).lanes) ++ (s.ovfEntries s.cur).map (·.lanes)) (0, 0)
  simp only [← State.holders_eq, maskBit_zero, Bool.false_or, Bool.false_and] at hfold
  unfold Partitioned State.partition
  dsimp only
  rw [ite_ne_zero_eq_zero, word_ext_iff, word_ext_iff, ← forall_and]
  refine forall_congr' fun l => ?_
  obtain ⟨hany, htwice⟩ := hfold l
  rw [hany, htwice, maskBit_zero]
  cases maskBit s.cur.ctl.live l
  · simp; omega
  · simp; omega

/-- An update that keeps the partition stands (R334). -/
theorem checkPartition_eq {old new : State} (h : Partitioned new) : State.checkPartition old new = new := if_pos h

/-! ## The split table -/

theorem mem_splitNums (n : BitVec 3) : n ∈ splitNums := by
  revert n
  decide

theorem splitNums_ascends : splitNums.Pairwise fun a b => a.toNat < b.toNat := by decide

theorem mem_validNums {g : Group} {n : BitVec 3} : n ∈ g.validNums ↔ (g.entry n).v = true := by
  simp [Group.validNums, mem_splitNums]

theorem validNums_ascends (g : Group) : g.validNums.Pairwise fun a b => a.toNat < b.toNat := splitNums_ascends.filter _

/-- An entry that changes takes its old lanes out and brings its new ones. -/
theorem Group.holders_setEntry (g : Group) (n : BitVec 3) (e : Split) (l : Fin 32) :
    (g.setEntry n e).holders l + ((g.entry n).holds l).toNat = g.holders l + (e.holds l).toNat := by
  have h := countP_update (p := fun m => ((g.setEntry n e).entry m).holds l) (q := fun m => (g.entry m).holds l)
    (splitNums_ascends.imp fun h e => by simp [e] at h) (mem_splitNums n) fun m hm => by rw [Group.setEntry_entry_other _ _ hm]
  rwa [Group.setEntry_entry_same] at h

/-- An entry that keeps its lanes keeps the partition. -/
theorem Group.holders_setEntry_of_eq {g : Group} {n : BitVec 3} {e : Split} (hv : e.v = (g.entry n).v) (hl : e.lanes = (g.entry n).lanes)
    (l : Fin 32) : (g.setEntry n e).holders l = g.holders l := by
  have h := g.holders_setEntry n e l
  rw [Split.holds, Split.holds, hv, hl] at h
  exact Nat.add_right_cancel h

/-- What keeps the lanes of the entries, those in the overflow area among them, and the live lanes, keeps the partition. -/
theorem partitioned_of_same_lanes {s t : State} (h : Partitioned s) (hcur : ∀ l, t.cur.holders l = s.cur.holders l)
    (hovf : t.ovfEntries t.cur = s.ovfEntries s.cur) (hlive : t.cur.ctl.live = s.cur.ctl.live) : Partitioned t :=
  partitioned_iff.2 fun l => by rw [State.holders, hcur, hovf, hlive, ← partitioned_iff.1 h l, State.holders]

/-- A change of the running split that keeps its lanes keeps the partition. -/
theorem partitioned_onSp {s : State} {g : Split → Split} (h : Partitioned s) (hv : (g s.cur.sp).v = s.cur.sp.v)
    (hl : (g s.cur.sp).lanes = s.cur.sp.lanes) : Partitioned (s.onSp g) :=
  partitioned_iff.2 fun l => (congrArg (· + _) (Group.holders_setEntry_of_eq hv hl l)).trans (partitioned_iff.1 h l)

end Sys2Proof.Machine
end

section
/-! PROOF. MTS (R16, R76, R170): which register each index writes, and O15 from it. -/

namespace Sys2Proof.Machine
open Spec

/-! ## The lowest lane -/

theorem laneList_ascends : laneList.Pairwise fun a b => a.val < b.val := by decide

/-- The lane that a vector MTS takes its value from (R170). -/
theorem lowLane_eq {m : Word} {l : Fin 32} (hl : maskBit m l = true) (hmin : ∀ k, maskBit m k = true → l ≤ k) : lowLane m = l := by
  rw [lowLane, find?_least Fin.val laneList_ascends (mem_laneList l) hl fun k _ hk => hmin k hk]
  rfl

/-! ## The checks of MTS (R48, R170) -/

theorem mts_sources {f : Fields} {x : Src} (h : x ∈ sources (rowFor 0x79 f) f) : ∃ r ∈ regsFrom f.u 1 f.a, x = ⟨r, 1, f.fe.getLsbD 0⟩ := by
  have hrow : sources (rowFor 0x79 f) f = List.map _ [] ++ List.map (fun r => ⟨r, 1, f.fe.getLsbD 0⟩) (regsFrom f.u 1 f.a) ++
      List.map _ (if bImm f then [] else []) ++ List.map _ [] := rfl
  simp only [hrow, List.map_nil, List.nil_append, ite_self, List.append_nil, List.mem_map] at h
  obtain ⟨r, hr, rfl⟩ := h
  exact ⟨r, hr, rfl⟩

theorem mem_regsFrom_one {u wide : Bool} {a : BitVec 8} {r : Reg} (h : r ∈ regsFrom u 1 a) : r ∈ regsFrom u (if wide then 2 else 1) a := by
  cases wide
  · exact h
  · obtain ⟨i, hi, rfl⟩ := List.mem_map.1 h
    exact List.mem_map.2 ⟨i, List.mem_range.2 (Nat.lt_succ_of_lt (List.mem_range.1 hi)), rfl⟩

/-- The checks of R48 steps 5 and 6 let MTS of a register through. -/
theorem mts_issue {i j : Instr} {f : Fields} {s : State} {acc : SysAcc} {wide perLane : Bool} {body : State → Res}
    (hreg : sysReg (sysIdx f) = some ⟨acc, wide, perLane⟩) (hacc : acc = .so → s.cur.supervisor = true) (h : MtsReady j f s wide) :
    issue i (mtsPlan f s) body s = finish i (body s) := by
  obtain ⟨-, hacts, hkind, hread⟩ := h
  have hkind1 : kindOk s.limits f.u f.u (.r 1) f.a = true := by
    cases wide
    · exact hkind
    · exact kindOk_r_one hkind
  have herr : (mtsPlan f s).err s.limits = none := by
    have hsys : sysErr f false s.limits = none := by simp [sysErr, hreg, hkind, firstErr]
    have hrow : fieldErr s.limits (rowFor 0x79 f) f =
      if !kindOk s.limits f.u f.u (.r 1) f.a then some ⟨1, (0 : BitVec 24) ++ f.a⟩ else none := rfl
    rw [hkind1] at hrow
    simp only [Plan.err, mtsPlan, planOf, hsys, hrow]
    rfl
  have hpriv : (mtsPlan f s).priv = none := by
    simp only [mtsPlan, sysPriv, hreg]
    by_cases h : acc = .so
    · simp [hacc h]
    · simp [h]
  refine issue_passes (fun hv => hacts (by simpa [mtsPlan, planOf] using hv)) herr hpriv (fun x hx => ?_) (by exact nofun)
  obtain hx | hx := Plan.mem_srcs hx
  · obtain ⟨r, hr, rfl⟩ := mts_sources hx
    exact hread _ (List.mem_map_of_mem (mem_regsFrom_one hr))
  · have hwide : sysWide f = wide := by simp [sysWide, hreg]
    simp only [mtsPlan, hwide] at hx
    cases wide
    · cases hx
    · obtain ⟨r, hr, rfl⟩ := List.mem_map.1 hx
      exact hread _ (List.mem_map_of_mem (List.mem_of_mem_drop hr))

/-- The value that MTS writes is that of the lowest lane (R170). -/
theorem mtsVal_eq {f : Fields} {s : State} {l : Fin 32} {acc : SysAcc} {wide perLane : Bool} (hreg : sysReg (sysIdx f) = some ⟨acc, wide, perLane⟩)
    (hl : LowestLane f s l) : mtsVal f s = rawA f s.cur.regs wide l := by
  have hwide : sysWide f = wide := by simp [sysWide, hreg]
  rw [mtsVal, hwide]
  obtain ⟨hu, hv⟩ := hl
  cases hfu : f.u
  · obtain ⟨hon, hmin⟩ := hv hfu
    rw [if_neg (by exact nofun), lowLane_eq hon hmin]
  · rw [if_pos rfl, hu hfu]

/-! ## The registers that a write leaves -/

theorem seeTraps_seen (g : Group) : seeTraps g (trapsSeen g) = g := by
  unfold seeTraps trapsSeen
  cases h : g.sup with
  | none =>
    show { g with sup := none } = g
    rw [← h]
  | some sv =>
    by_cases hr : sv.split = g.running
    · simp only [if_pos hr]
      show { g with sup := some sv } = g
      rw [← h]
    · simp only [if_neg hr]
      rw [← h]

theorem onTrapView_eq (g : Group) (f : TrapRegs → TrapRegs) : g.onTrapView f = seeTraps g (f (trapsSeen g)) := by
  unfold Group.onTrapView seeTraps trapsSeen
  cases g.sup with
  | none => rfl
  | some sv => dsimp only; split <;> rfl

theorem trapsSeen_seeTraps (g : Group) (x : TrapRegs) : trapsSeen (seeTraps g x) = x := by
  unfold trapsSeen seeTraps
  cases h : g.sup with
  | none => simp
  | some sv => by_cases hr : sv.split = g.running <;> simp [hr]

/-- Trap registers that the running split sees leave the rest of the group alone. -/
theorem seeTraps_frame (g : Group) (x : TrapRegs) : (seeTraps g x).splits = g.splits ∧ (seeTraps g x).running = g.running ∧
    (seeTraps g x).supervisor = g.supervisor ∧ (seeTraps g x).ctl = g.ctl := by
  unfold seeTraps Group.supervisor
  cases g.sup with
  | none => simp
  | some sv => by_cases hr : sv.split = g.running <;> simp [hr]

/-- The state with other group-scoped registers, trap registers, sticky flags and `$stvec`. -/
def State.sysSet (s : State) (c : GroupRegs) (x : TrapRegs) (fpf : BitVec 5) (clsf : Word) (sv : Option Pc) : State :=
  { s with cur := { seeTraps s.cur x with ctl := c, splits := (s.onSp fun e => { e with fpf := fpf, clsf := clsf }).cur.splits }, stvec := sv }

theorem State.sysSet_same (s : State) (c : GroupRegs) (x : TrapRegs) (sv : Option Pc) :
    s.sysSet c x s.cur.sp.fpf s.cur.sp.clsf sv = { s with cur := { seeTraps s.cur x with ctl := c }, stvec := sv } := by
  rw [State.sysSet, State.onSp_self s rfl]
  obtain ⟨hsplits, -⟩ := seeTraps_frame s.cur x
  rw [← hsplits]

theorem State.sysSet_ctl (s : State) (c : GroupRegs) :
    s.sysSet c (trapsSeen s.cur) s.cur.sp.fpf s.cur.sp.clsf s.stvec = s.onCtl fun _ => c := by
  rw [State.sysSet_same, seeTraps_seen]
  rfl

theorem State.sysSet_traps (s : State) (x : TrapRegs) :
    s.sysSet s.cur.ctl x s.cur.sp.fpf s.cur.sp.clsf s.stvec = { s with cur := seeTraps s.cur x } := by
  rw [State.sysSet_same]
  obtain ⟨-, -, -, hctl⟩ := seeTraps_frame s.cur x
  rw [← hctl]

theorem State.sysSet_flags (s : State) (fpf : BitVec 5) (clsf : Word) :
    s.sysSet s.cur.ctl (trapsSeen s.cur) fpf clsf s.stvec = s.onSp fun e => { e with fpf := fpf, clsf := clsf } := by
  rw [State.sysSet, seeTraps_seen]
  rfl

theorem State.sysSet_stvec (s : State) (sv : Option Pc) :
    s.sysSet s.cur.ctl (trapsSeen s.cur) s.cur.sp.fpf s.cur.sp.clsf sv = { s with stvec := sv } := by
  rw [State.sysSet_same, seeTraps_seen]

theorem State.sysSet_self (s : State) : s.sysSet s.cur.ctl (trapsSeen s.cur) s.cur.sp.fpf s.cur.sp.clsf s.stvec = s := s.sysSet_stvec _

/-- MTS completes with what its write has set. -/
theorem wrote_of_sysWrite {f : Fields} {s : State} {c : GroupRegs} {x : TrapRegs} {fpf : BitVec 5} {clsf : Word} {sv : Option Pc}
    (hissue : exec (.mts f) s = .next (finish (.mts f) (.done (sysWrite f s)))) (hw : sysWrite f s = s.sysSet c x fpf clsf sv) :
    Wrote f s c x fpf clsf sv := by
  obtain ⟨-, hrun, hsup, -⟩ := seeTraps_frame s.cur x
  have hsp : (s.sysSet c x fpf clsf sv).cur.sp = { s.cur.sp with fpf := fpf, clsf := clsf } := by
    have h := State.onSp_cur_sp s fun e => { e with fpf := fpf, clsf := clsf }
    rw [Group.sp, State.onSp_cur_running] at h
    rw [Group.sp, show (s.sysSet c x fpf clsf sv).cur.running = _ from hrun]
    exact h
  obtain ⟨ht, hsp', hentry⟩ := finish_passes (s := s) (u := s.sysSet c x fpf clsf sv) (.mts f) (by rw [hsp]; exact ⟨rfl, rfl, rfl⟩)
    (fun n hn => State.onSp_cur_entry s (fun e => { e with fpf := fpf, clsf := clsf }) hn) hrun hsup
  rw [hsp] at hsp'
  rw [hw] at hissue
  exact ⟨_, hissue, ht, hsp', hentry⟩


/-! ## Register by register (R16) -/

/-- The low bits of a register's low word. -/
theorem extractLsb'_low (x : DWord) : x.extractLsb' 0 5 = (x.extractLsb' 0 32).extractLsb' 0 5 :=
  BitVec.eq_of_getLsbD_eq fun i hi => by simp [BitVec.getLsbD_extractLsb']

/-- MTS of a register whose write sets what is given completes so. -/
theorem mts_wrote {f : Fields} {s : State} {acc : SysAcc} {wide perLane : Bool} {c : GroupRegs} {x : TrapRegs} {fpf : BitVec 5} {clsf : Word}
    {sv : Option Pc} (hreg : sysReg (sysIdx f) = some ⟨acc, wide, perLane⟩) (hacc : acc = .so → s.cur.supervisor = true)
    (h : MtsReady (.mts f) f s wide) (hw : sysWrite f s = s.sysSet c x fpf clsf sv) : Wrote f s c x fpf clsf sv :=
  wrote_of_sysWrite (congrArg Host.Outcome.next (mts_issue hreg hacc h)) hw

/-- MTS of a register that reads the same in every lane writes the value of the lowest lane. -/
theorem mts_value {f : Fields} {s : State} {l : Fin 32} {n : Nat} {acc : SysAcc} {wide perLane : Bool} {c : GroupRegs} {x : TrapRegs}
    {fpf : BitVec 5} {clsf : Word} {sv : Option Pc} (hl : LowestLane f s l) (hw : f.w2 = BitVec.ofNat 32 n)
    (hreg : sysReg (BitVec.ofNat 12 n) = some ⟨acc, wide, perLane⟩) (hacc : acc = .so → s.cur.supervisor = true) (h : MtsReady (.mts f) f s wide)
    (hset : sysIdx f = BitVec.ofNat 12 n → mtsVal f s = rawA f s.cur.regs wide l → sysWrite f s = s.sysSet c x fpf clsf sv) :
    Wrote f s c x fpf clsf sv := by
  have hi := sysIdx_of_w2 hw
  exact mts_wrote (hi ▸ hreg) hacc h (hset hi (mtsVal_eq (hi ▸ hreg) hl))

/-- The indices that a write changes something at. -/
def sysWritable : List Nat := [0x012, 0x013, 0x020, 0x021, 0x022, 0x023, 0x030, 0x034, 0x035, 0x036, 0x037, 0x038, 0x039]

/-- A write to any other index is ignored (R170). -/
theorem sysWrite_ignored {f : Fields} (h : (sysIdx f).toNat ∉ sysWritable) (s : State) : sysWrite f s = s := by
  unfold sysWrite
  split
  case h_14 => rfl
  all_goals
    rename_i heq
    exact absurd (heq ▸ h) (by decide)

/-- MTS of a register that is read-only, or that the machine alone writes, changes nothing but the place of the split. -/
theorem mts_ignored {f : Fields} {s : State} {n : Nat} {acc : SysAcc} {wide perLane : Bool} (hw : f.w2 = BitVec.ofNat 32 n)
    (hreg : sysReg (BitVec.ofNat 12 n) = some ⟨acc, wide, perLane⟩) (hacc : acc ≠ .so) (hn : (BitVec.ofNat 12 n).toNat ∉ sysWritable)
    (h : MtsReady (.mts f) f s wide) : Wrote f s s.cur.ctl (trapsSeen s.cur) s.cur.sp.fpf s.cur.sp.clsf s.stvec := by
  have hi := sysIdx_of_w2 hw
  exact mts_wrote (hi ▸ hreg) (fun h => absurd h hacc) h ((sysWrite_ignored (hi ▸ hn) s).trans s.sysSet_self.symm)

/-- Of the registers that read the same in every lane the narrow ones that a write ignores. -/
theorem uniformRegs_ignored : ∀ e ∈ uniformRegs.map (fun e => (e.1, e.2.1)), e.2 = false →
    e.1 ∉ [0x010, 0x012, 0x013, 0x020, 0x021, 0x022, 0x023] → (BitVec.ofNat 12 e.1).toNat ∉ sysWritable := by decide

theorem cbind_ignored : ∀ c : Fin 16, (BitVec.ofNat 12 (0x100 + c.val)).toNat ∉ sysWritable := by decide

/-- A write of `$xval`k: every lane the same from an s register, each lane of exec its own from a v register (R170). -/
def xvalWritten (f : Fields) (s : State) (k : Fin 4) : TrapRegs :=
  { trapsSeen s.cur with val := (trapsSeen s.cur).val.set k.val (Lanes.mk fun l =>
      if f.u then (rawA f s.cur.regs false 0).extractLsb' 0 32
      else if maskBit s.cur.exec l then (rawA f s.cur.regs false l).extractLsb' 0 32 else ((trapsSeen s.cur).val[k.val]).get l) k.isLt }

theorem trapView_eq (g : Group) : g.trapView = trapsSeen g := by
  unfold Group.trapView trapsSeen
  cases g.sup <;> rfl

theorem setXval_eq (f : Fields) (s : State) (k : Fin 4) : setXval f s k = { s with cur := seeTraps s.cur (xvalWritten f s k) } := by
  rw [setXval, onTrapView_eq, trapView_eq]
  rfl

theorem sysWrite_xval {f : Fields} {k : Fin 4} (h : sysIdx f = BitVec.ofNat 12 (0x034 + k.val)) (s : State) :
    sysWrite f s = setXval f s k := by
  unfold sysWrite
  rw [h]
  fin_cases k <;> rfl

/-! ## `$exec` (R76) -/

/-- A split after MTS to `$exec`: of its lanes those of the value are in its mask, the others parked (R76). -/
def Split.moved (x : Word) (e : Split) : Split := { e with mask := x &&& e.lanes, park := e.lanes &&& ~~~x }

theorem Split.moved_eq (x : Word) (e : Split) : e.moved x = { e with mask := e.lanes &&& x, park := e.lanes &&& ~~~x } := by
  rw [Split.moved, BitVec.and_comm]

/-- The lanes of the split are the same. -/
theorem Split.moved_lanes (x : Word) (e : Split) : (e.moved x).lanes = e.lanes := word_ext fun l => by
  have h : (e.moved x).lanes = (x &&& e.lanes) ||| (e.lanes &&& ~~~x) := rfl
  rw [h, maskBit_or, maskBit_and, maskBit_and, maskBit_not]
  cases maskBit x l <;> simp

end Sys2Proof.Machine

namespace Sys2Proof.Proofs
open Machine Spec

/-- R16, R170: what MTS writes of `$xval`0 to `$xval`3. -/
theorem xvalWrites {f : Fields} {s : State} {l : Fin 32} (hl : LowestLane f s l) (h : MtsReady (.mts f) f s false) (k : Fin 4)
    (hw : f.w2 = BitVec.ofNat 32 (0x034 + k.val)) : ∃ t, exec (.mts f) s = .next t ∧
      Wrote f s s.cur.ctl { trapsSeen s.cur with val := (trapsSeen t.cur).val } s.cur.sp.fpf s.cur.sp.clsf s.stvec ∧
      (∀ j : Fin 4, j ≠ k → (trapsSeen t.cur).val[j.val] = (trapsSeen s.cur).val[j.val]) ∧
      ∀ m, ((trapsSeen t.cur).val[k.val]).get m = if f.u then (rawA f s.cur.regs false l).extractLsb' 0 32
        else if maskBit s.cur.exec m then (rawA f s.cur.regs false m).extractLsb' 0 32 else ((trapsSeen s.cur).val[k.val]).get m := by
  have hi := sysIdx_of_w2 hw
  obtain ⟨-, hreg⟩ := sysReg_xval k
  have hwrote := mts_wrote (acc := .rw) (hi ▸ hreg) nofun h
    (((sysWrite_xval hi s).trans (setXval_eq f s k)).trans (s.sysSet_traps _).symm)
  obtain ⟨t, hexec, ht, -⟩ := id hwrote
  have hseen : trapsSeen t.cur = xvalWritten f s k := by
    rw [ht]
    exact trapsSeen_seeTraps ..
  refine ⟨t, hexec, hseen ▸ hwrote, fun j hj => ?_, fun m => ?_⟩
  · have hne : k.val ≠ j.val := fun e => hj (Fin.ext e.symm)
    rw [hseen]
    exact Vector.getElem_set_ne k.isLt j.isLt hne
  · rw [hseen]
    simp only [xvalWritten, Vector.getElem_set_self, Lanes.get_mk]
    split
    · next hu => rw [hl.1 hu]
    · rfl

/-- R16, R170: each index in the table writes its register with the value of the lowest lane, or nothing. -/
theorem systemRegisterWrites_each : Spec.SystemRegisterWrites := by
  intro f s l hl g y x w same
  refine ⟨fun h => ⟨fun hw => ?jwd, fun hw => ?lostrc, fun hw => ?fpflags, fun hw => ?fpctl, fun hw => ?clsflags, fun hw => ?srstate,
    xvalWrites hl h, fun e he hwide hw hne => ?uniform, fun hw => ?others⟩,
    fun h => ⟨fun hw => ?xpc, fun hw => ?utvec, fun hw hsup => ?stvec, fun hw => ?cycle, fun c hw => ?cbind⟩⟩
  case jwd =>
    exact mts_value (n := 0x012) (acc := .rw) hl hw rfl nofun h fun hi hx => by rw [s.sysSet_ctl, sysWrite, hi, hx]; rfl
  case lostrc =>
    exact mts_value (n := 0x013) (acc := .rw) hl hw rfl nofun h fun hi hx => by rw [s.sysSet_ctl, sysWrite, hi, hx]; rfl
  case fpflags =>
    refine mts_value (n := 0x020) (acc := .rw) hl hw rfl nofun h fun hi hx => ?_
    rw [s.sysSet_flags, sysWrite, hi, hx]
    exact s.onSp_congr (by rw [extractLsb'_low])
  case fpctl =>
    exact mts_value (n := 0x021) (acc := .rw) hl hw rfl nofun h fun hi hx => by rw [s.sysSet_ctl, sysWrite, hi, hx]; rfl
  case clsflags =>
    exact mts_value (n := 0x022) (acc := .rw) hl hw rfl nofun h fun hi hx => by rw [s.sysSet_flags, sysWrite, hi, hx]; rfl
  case srstate =>
    exact mts_value (n := 0x023) (acc := .rw) hl hw rfl nofun h fun hi hx => by rw [s.sysSet_ctl, sysWrite, hi, hx]; rfl
  case uniform =>
    obtain ⟨-, acc, hacc, hreg⟩ := uniformRegs_sysReg (e.1, e.2.1) (List.mem_map_of_mem he)
    rw [hwide] at hreg
    exact mts_ignored hw hreg (by rintro rfl; simp at hacc) (uniformRegs_ignored (e.1, e.2.1) (List.mem_map_of_mem he) hwide hne) h
  case others =>
    obtain hw | hw | hw := hw
    · exact mts_ignored (acc := .ro) hw rfl nofun (by decide) h
    · exact mts_ignored (acc := .ro) hw rfl nofun (by decide) h
    · exact mts_ignored (acc := .ro) hw rfl nofun (by decide) h
  case xpc =>
    exact mts_value (n := 0x030) (acc := .rw) hl hw rfl nofun h fun hi hx => by
      rw [s.sysSet_traps, sysWrite, hi, hx]
      exact congrArg (fun c => { s with cur := c }) (onTrapView_eq g fun r => { r with pc := x.extractLsb' 0 56 })
  case utvec =>
    exact mts_value (n := 0x038) (acc := .rw) hl hw rfl nofun h fun hi hx => by rw [s.sysSet_ctl, sysWrite, hi, hx]; rfl
  case stvec =>
    exact mts_value (n := 0x039) hl hw rfl (fun _ => hsup) h fun hi hx => by rw [s.sysSet_stvec, sysWrite, hi, hx]; rfl
  case cycle => exact mts_ignored (acc := .ro) hw rfl nofun (by decide) h
  case cbind =>
    obtain ⟨-, hreg⟩ := sysReg_cbind c
    exact mts_ignored (acc := .ro) hw hreg nofun (cbind_ignored c) h

/-- R76: the lanes of a split are the same before and after a move between its mask and the parked ones. -/
theorem execWrites : ExecWrites := by
  intro f s l hl hw h hpart x own
  have hi : sysIdx f = 0x010 := sysIdx_of_w2 hw
  have hreg : sysReg (sysIdx f) = some ⟨.rw, false, false⟩ := hi ▸ rfl
  have hval : (mtsVal f s).extractLsb' 0 32 = x := by rw [mtsVal_eq hreg hl]
  have hu : (s.onSp (Split.moved x)).partition = 0 := partitioned_onSp hpart rfl (Split.moved_lanes ..)
  have hbody : (fun t : State => if t.partition = 0 then Res.done t else .stay (State.checkPartition s t))
      (s.onSp (Split.moved ((mtsVal f s).extractLsb' 0 32))) = .done (s.onSp (Split.moved x)) := by
    rw [hval]
    exact if_pos hu
  have husp := State.onSp_cur_sp s (Split.moved x)
  obtain ⟨ht, hsp, hentry⟩ := finish_passes (s := s) (u := s.onSp (Split.moved x)) (.mtsExec f) (by rw [husp]; exact ⟨rfl, rfl, rfl⟩)
    (fun n hn => State.onSp_cur_entry s (Split.moved x) hn) rfl rfl
  rw [husp, Split.moved_eq] at hsp
  exact ⟨_, congrArg Host.Outcome.next ((mts_issue hreg nofun h).trans (congrArg _ hbody)), ht, hsp, hentry⟩

/-- Settles O15, from its two parts. -/
theorem systemRegisterWrites : Obligations.SystemRegisterWrites := ⟨systemRegisterWrites_each, execWrites⟩

end Sys2Proof.Proofs
end

section
/-! PROOF. BRC (R77), and O8. -/

namespace Sys2Proof.Machine
open Spec

/-- A cause whose values are the same in every lane of exec enters the handler. -/
theorem trapped_all {i : Instr} {s : State} {cause : Nat} {x0 x1 x2 x3 : Word} {val : Fin 4 → Fin 32 → Word} (hs : Handles s)
    (hc : cause ≠ Cause.pageFault) (hval : ∀ k l, val k l = if k = 0 then x0 else if k = 1 then x1 else if k = 2 then x2 else x3) :
    let t := finish i (.trap s (.all cause s.cur.exec x0 x1 x2 x3))
    Trapped s t cause s.cur.exec val ∧ SameRegs s t ∧ t.cur.ctl = s.cur.ctl := by
  intro t
  have ht : t = s.takeTrap (.all cause s.cur.exec x0 x1 x2 x3) := finish_trap hc
  obtain ⟨htrap, hregs, -⟩ := State.trapped_takeTrap (t := .all cause s.cur.exec x0 x1 x2 x3) hs hc
    fun k l => (TrapInfo.all_val ..).trans (hval k l).symm
  obtain ⟨bs, hbs⟩ := State.takeTrap_eq (t := .all cause s.cur.exec x0 x1 x2 x3) hs hc
  rw [ht]
  exact ⟨htrap, hregs, hbs ▸ rfl⟩

/-! ## The divided split (R77) -/

/-- The lanes of exec that take a BRC, and those that do not. -/
def brcTaken (f : Fields) (s : State) : Word := s.cur.regs.getK f.a &&& s.cur.exec
def brcRest (f : Fields) (s : State) : Word := s.cur.exec &&& ~~~s.cur.regs.getK f.a

/-- The entry of the lanes that take the branch. -/
def brcChild (f : Fields) (s : State) : Split :=
  { v := true, st := .ready, pc := target f s, mask := brcTaken f s, fpf := s.cur.sp.fpf, clsf := s.cur.sp.clsf, sig := sigAfter (.brc f) s }

/-- The entry of the lanes that run on. -/
def brcParent (f : Fields) (s : State) : Split := { foldedEntry (.brc f) s with mask := brcRest f s, pc := s.cur.sp.pc + 12 }

/-- The state with the split divided into entry `n`. -/
def State.divided (s : State) (f : Fields) (n : BitVec 3) : State :=
  { s with cur := (s.cur.setSp (brcParent f s)).setEntry n (brcChild f s) }

/-- A second change of the running split's entry takes the place of the first. -/
theorem State.setSp_onSp (s : State) (g : Split → Split) (e : Split) : (s.onSp g).cur.setSp e = s.cur.setSp e := by
  simp [State.onSp, Group.setSp, Group.setEntry]

theorem brcEffect_none {f : Fields} {s : State} (h : brcTaken f s = 0) : brcEffect f s = .done s := if_pos h

theorem brcEffect_all {f : Fields} {s : State} (h : brcTaken f s ≠ 0) (hrest : brcRest f s = 0) : brcEffect f s = .jump s (target f s) :=
  (if_neg h).trans (if_pos hrest)

theorem brcEffect_free {f : Fields} {s : State} {n : BitVec 3} (h : brcTaken f s ≠ 0) (hrest : brcRest f s ≠ 0) (hn : s.cur.freeNum = some n) :
    brcEffect f s = .stay (State.checkPartition s (s.divided f n)) := by
  have hfold : s.foldSp (.brc f) = s.onSp fun e => { e with sig := sigAfter (.brc f) s } := by rw [State.foldSp_eq, State.sigFolded_eq]
  refine (if_neg h).trans ((if_neg hrest).trans ?_)
  rw [hfold]
  dsimp only
  rw [hn, State.setSp_onSp, State.onSp_cur_sp]
  rfl

theorem brcEffect_full {f : Fields} {s : State} (h : brcTaken f s ≠ 0) (hrest : brcRest f s ≠ 0) (hn : s.cur.freeNum = none)
    (hovf : 16 ≤ s.cur.ovf) : brcEffect f s = .trap s (.all Cause.splitOverflow s.cur.exec (brcTaken f s) 16 0 0) := by
  refine (if_neg h).trans ((if_neg hrest).trans ?_)
  rw [hn]
  exact if_neg (Nat.not_lt.2 hovf)

/-- A free number names an entry that is not valid. -/
theorem Group.v_of_freeNum {g : Group} {n : BitVec 3} (h : g.freeNum = some n) : (g.entry n).v = false := by
  simpa using List.find?_some h

/-- The division gives each lane of the split to one of the two entries. -/
theorem brc_holds {f : Fields} {s : State} (hv : s.cur.sp.v = true) (hdisj : s.cur.sp.mask &&& s.cur.sp.park = 0) (l : Fin 32) :
    (s.cur.sp.holds l).toNat = ((brcParent f s).holds l).toNat + ((brcChild f s).holds l).toNat := by
  have hboth := word_ext_iff.1 hdisj l
  rw [maskBit_and, maskBit_zero] at hboth
  simp only [Split.holds, Split.lanes, brcParent, brcChild, foldedEntry, hv, brcTaken, brcRest, Group.exec, maskBit_or, maskBit_and,
    maskBit_not, Bool.true_and, maskBit_zero]
  revert hboth
  generalize maskBit s.cur.sp.mask l = m, maskBit s.cur.sp.park l = p, maskBit (s.cur.regs.getK f.a) l = k
  revert m p k
  decide

theorem partitioned_divided {f : Fields} {s : State} {n : BitVec 3} (hv : s.cur.sp.v = true) (h : Partitioned s)
    (hdisj : s.cur.sp.mask &&& s.cur.sp.park = 0) (hn : (s.cur.entry n).v = false) (hne : n ≠ s.cur.running) : Partitioned (s.divided f n) := by
  refine partitioned_iff.2 fun l => ?_
  have hfree : ((s.cur.setSp (brcParent f s)).entry n).holds l = false := by
    rw [Group.setSp, Group.setEntry_entry_other _ _ hne, Split.holds, hn, Bool.false_and]
  have hchild : (s.divided f n).cur.holders l = (s.cur.setSp (brcParent f s)).holders l + ((brcChild f s).holds l).toNat := by
    have h := (s.cur.setSp (brcParent f s)).holders_setEntry n (brcChild f s) l
    rwa [hfree] at h
  have hparent : (s.cur.setSp (brcParent f s)).holders l + (s.cur.sp.holds l).toNat = s.cur.holders l + ((brcParent f s).holds l).toNat :=
    s.cur.holders_setEntry s.cur.running (brcParent f s) l
  have hlanes := brc_holds (f := f) hv hdisj l
  have hcur : (s.divided f n).cur.holders l = s.cur.holders l := by omega
  exact (congrArg (· + _) hcur).trans (partitioned_iff.1 h l)

end Sys2Proof.Machine

namespace Sys2Proof.Proofs
open Machine Spec

/-- R77: the branches of BRC, one after another. -/
theorem brcDivides : BrcDivides := by
  intro f s h i taken rest
  refine ⟨fun ht => ?none, fun ht hr => ?all, fun ht hr hv hpart hdisj n hn => ?divides, fun ht hr hn hovf hs => ?overflows⟩
  case none => exact ⟨_, congrArg Host.Outcome.next ((issue_always h).trans (congrArg _ (brcEffect_none ht))), done_same ..⟩
  case all => exact ⟨_, congrArg Host.Outcome.next ((issue_always h).trans (congrArg _ (brcEffect_all ht hr))), jump_same ..⟩
  case divides =>
    have hfree := Group.v_of_freeNum hn
    have hne : n ≠ s.cur.running := fun e => by
      rw [e] at hfree
      exact absurd (hfree.symm.trans hv) nofun
    have hbody := brcEffect_free ht hr hn
    rw [checkPartition_eq (partitioned_divided hv hpart hdisj hfree hne)] at hbody
    refine ⟨_, congrArg Host.Outcome.next ((issue_always h).trans (congrArg _ hbody)), ⟨rfl, rfl⟩, ?_, Group.setEntry_entry_same ..,
      fun m hm hmr => ?_, rfl, rfl⟩
    · exact (Group.setEntry_entry_other _ _ hne.symm).trans (Group.setEntry_entry_same ..)
    · exact (Group.setEntry_entry_other _ _ hm).trans (Group.setEntry_entry_other _ _ hmr)
  case overflows =>
    obtain ⟨htrap, hregs, -⟩ := trapped_all (i := i) (x0 := taken) (x1 := 16) (x2 := 0) (x3 := 0)
      (val := fun k _ => if k = 0 then taken else if k = 1 then 16 else 0) hs (by decide : Cause.splitOverflow ≠ _) fun k _ => by simp
    exact ⟨_, congrArg Host.Outcome.next ((issue_always h).trans (congrArg _ (brcEffect_full ht hr hn hovf))), htrap, hregs⟩

/-- Settles O8, from its two parts. -/
theorem branchesAndCalls : Obligations.BranchesAndCalls := ⟨branchesAndCalls_moves, brcDivides⟩

end Sys2Proof.Proofs
end

section
/-! PROOF. TRAP, BKPT and TRET (R93 to R96), and O11. -/

namespace Sys2Proof.Machine
open Spec

/-! ## A fetch leaves the machine as it stands (R32, R155) -/

/-- Reading words draws free choices and changes nothing else. -/
theorem State.readWords_fresh {g : Group} {n : Nat} : ∀ {s s1 : State} {a : Nat} {held : Option (Nat × List Byte)} {acc ws : List Word},
    s.readWords g n a held acc = .words ws s1 → ∃ k, s1 = { s with fresh := k } := by
  induction n with
  | zero =>
    intro s s1 a held acc ws h
    cases h
    exact ⟨s.fresh, rfl⟩
  | succ n ih =>
    intro s s1 a held acc ws h
    unfold State.readWords at h
    split at h
    · cases h
      exact ⟨s.fresh, rfl⟩
    next i _ _ =>
      have hfetch : ∀ {k hs acc}, (s.fetchSector g ((i * 65536 + a % 65536) / 32)).2.readWords g n k hs acc = .words ws s1 →
          ∃ k, s1 = { s with fresh := k } := fun h => (ih h :)
      dsimp only at h
      split at h
      · cases h
      · cases held with
        | none => exact hfetch h
        | some p =>
          dsimp only at h
          split at h
          · exact ih h
          · exact hfetch h

theorem State.fetchWord_fresh {s s1 : State} {g : Group} {exec : Word} {pc : Pc} {ws : List Word} (h : s.fetchWord g exec pc = .words ws s1) :
    ∃ k, s1 = { s with fresh := k } := by
  unfold State.fetchWord State.fetchWords at h
  split at h
  · cases h
  · exact State.readWords_fresh h

/-! ## Returns (R96) -/

/-- A split that returns from the user handler. -/
def Split.returned (pc : Pc) (e : Split) : Split := { e with pc := alignPc pc, inh := false }

theorem State.trapReturn_user {s : State} (h : s.cur.sup = none) (pc : Pc) : s.trapReturn pc =
    { s with cur := { (s.onSp (Split.returned pc)).cur with trap := { s.cur.trap with cause := s.cur.trap.cause &&& ~~~0x1000#32 } } } := by
  have hsup : s.cur.supervisor = false := by simp [Group.supervisor, h]
  rw [State.trapReturn]
  dsimp only
  rw [hsup]
  rfl

/-- What a return from the user handler leaves. -/
theorem trapReturn_leaves {s : State} (h : s.cur.sup = none) (pc : Pc) : let t := s.trapReturn pc
    t.cur.sp = { s.cur.sp with pc := alignPc pc, inh := false } ∧ SameRegs s t ∧ t.cur.ctl = s.cur.ctl ∧
    t.cur.trap = { s.cur.trap with cause := s.cur.trap.cause &&& ~~~0x1000#32 } ∧
    (∀ n, n ≠ s.cur.running → t.cur.entry n = s.cur.entry n) ∧ t.mem = s.mem ∧ t.blocks = s.blocks := by
  rw [State.trapReturn_user h]
  exact ⟨State.onSp_cur_sp s (Split.returned pc), rfl, rfl, rfl, fun n hn => State.onSp_cur_entry s (Split.returned pc) hn, rfl, rfl⟩

theorem trapView_user {g : Group} (h : g.sup = none) : g.trapView = g.trap := by simp [Group.trapView, h]

/-- TRET is for a handler's split alone (R96). -/
theorem tretAllowed_user {s : State} (h : s.cur.sup = none) : tretAllowed s = s.cur.sp.inh := by
  simp [tretAllowed, Group.supervisor, h]

end Sys2Proof.Machine

namespace Sys2Proof.Proofs
open Machine Spec

/-- R93 to R96: the handler is entered with the instruction's code, and left to the instruction at `$xpc` or the next one. -/
theorem trapsAndReturns_user : Spec.TrapsAndReturns := by
  refine ⟨fun f s hs h => ?trap, fun s hs => ?bkpt, fun f s h hsup hinh => ?tret, fun f s s1 w h hsup hinh hfetch => ?tretNext⟩
  case trap =>
    exact ⟨_, congrArg Host.Outcome.next (issue_always h), trapped_all hs (by decide) fun k _ => by simp⟩
  case bkpt =>
    exact ⟨_, congrArg Host.Outcome.next (issue_always (ready_bare rfl)), trapped_all hs (by decide) fun k _ => by simp⟩
  case tret =>
    have hbody : (if tretAllowed s then Res.stay (s.trapReturn s.cur.trapView.pc) else tretTrap s) = .stay (s.trapReturn s.cur.trap.pc) := by
      rw [tretAllowed_user hsup, hinh, trapView_user hsup]
      rfl
    exact ⟨_, congrArg Host.Outcome.next ((issue_always h).trans (congrArg _ hbody)), trapReturn_leaves hsup _⟩
  case tretNext =>
    obtain ⟨k, rfl⟩ := State.fetchWord_fresh hfetch
    have hbody : tretNextEffect s = .stay (({ s with fresh := k } : State).trapReturn (s.cur.trap.pc + BitVec.ofNat 56 (formOf w).bytes)) := by
      rw [tretNextEffect, tretAllowed_user hsup, hinh, trapView_user hsup, hfetch]
      rfl
    obtain ⟨hsp, hregs, hctl, htrap, hleft⟩ := trapReturn_leaves (s := { s with fresh := k }) hsup
      (s.cur.trap.pc + BitVec.ofNat 56 (formOf w).bytes)
    exact ⟨_, congrArg Host.Outcome.next ((issue_always h).trans (congrArg _ hbody)), htrap, hsp, hregs, hctl, hleft⟩

/-- R95, R96: outside a handler both forms of TRET raise their cause. -/
theorem tretOutsideHandler : TretOutsideHandler := by
  intro f s hs hsup h
  have hout : tretAllowed s = false := (tretAllowed_user hsup).trans hs.2.1
  have htret : (if tretAllowed s then Res.stay (s.trapReturn s.cur.trapView.pc) else tretTrap s) = tretTrap s := by
    rw [hout]
    rfl
  have hnext : tretNextEffect s = tretTrap s := by
    rw [tretNextEffect, hout]
    rfl
  have htrap := fun i => (trapped_all (i := i) (x0 := 0) (x1 := 0) (x2 := 0) (x3 := 0) (val := fun _ _ => 0) hs
    (by decide : Cause.convergence ≠ Cause.pageFault) fun k _ => by simp).1
  exact ⟨⟨_, congrArg Host.Outcome.next ((issue_always h).trans (congrArg _ htret)), htrap _⟩,
    ⟨_, congrArg Host.Outcome.next ((issue_always h).trans (congrArg _ hnext)), htrap _⟩⟩

/-- Settles O11, from its two parts. -/
theorem trapsAndReturns : Obligations.TrapsAndReturns := ⟨trapsAndReturns_user, tretOutsideHandler⟩

end Sys2Proof.Proofs
end

section
/-! PROOF. The merge of a join (R80) in a group without an overflow area: the entries, the slots and the lanes that it leaves. -/

namespace Sys2Proof.Machine
open Spec

/-! ## Join slots -/

@[simp] theorem Group.setJoin_join_same (g : Group) (j : BitVec 3) (x : Join) : (g.setJoin j x).join j = x := by
  simp [Group.setJoin, Group.join]

theorem Group.setJoin_join_other (g : Group) {j k : BitVec 3} (x : Join) (h : k ≠ j) : (g.setJoin j x).join k = g.join k := by
  have : j.toNat ≠ k.toNat := fun e => h (BitVec.eq_of_toNat_eq e.symm)
  simp [Group.setJoin, Group.join, Vector.getElem_set_ne _ _ this]

/-! ## Freed entries -/

theorem foldl_freeEntry_splits (l : List (BitVec 3)) (g : Group) :
    l.foldl Group.freeEntry g = { g with splits := (l.foldl Group.freeEntry g).splits } := by
  induction l generalizing g with
  | nil => rfl
  | cons n l ih => exact (ih (g.freeEntry n)).trans rfl

theorem foldl_freeEntry_entry_other {l : List (BitVec 3)} {n : BitVec 3} (h : n ∉ l) (g : Group) :
    (l.foldl Group.freeEntry g).entry n = g.entry n := by
  induction l generalizing g with
  | nil => rfl
  | cons m l ih =>
    obtain ⟨hm, hl⟩ := List.ne_and_not_mem_of_not_mem_cons h
    exact (ih hl (g.freeEntry m)).trans (Group.setEntry_entry_other _ _ hm)

/-- A freed entry stays free. -/
theorem foldl_freeEntry_keeps_free (l : List (BitVec 3)) {g : Group} {n : BitVec 3} (h : (g.entry n).v = false) :
    ((l.foldl Group.freeEntry g).entry n).v = false := by
  induction l generalizing g with
  | nil => exact h
  | cons m l ih =>
    refine ih ?_
    by_cases hm : n = m
    · subst hm
      rw [Group.freeEntry, Group.setEntry_entry_same]
    · rwa [Group.freeEntry, Group.setEntry_entry_other _ _ hm]

theorem foldl_freeEntry_entry_mem {l : List (BitVec 3)} {n : BitVec 3} (h : n ∈ l) (g : Group) :
    ((l.foldl Group.freeEntry g).entry n).v = false := by
  induction l generalizing g with
  | nil => cases h
  | cons m l ih =>
    obtain rfl | h := List.mem_cons.1 h
    · refine foldl_freeEntry_keeps_free l ?_
      rw [Group.freeEntry, Group.setEntry_entry_same]
    · exact ih h _

/-! ## The splits that wait on a slot -/

/-- The splits of the table that wait on a join slot, in ascending number. -/
def Group.waiters (g : Group) (j : BitVec 3) : List (BitVec 3) :=
  g.validNums.filter fun n => (g.entry n).st = .waiting ∧ (g.entry n).jslot = j

theorem mem_waiters {g : Group} {j n : BitVec 3} :
    n ∈ g.waiters j ↔ (g.entry n).v = true ∧ (g.entry n).st = .waiting ∧ (g.entry n).jslot = j := by
  simp [Group.waiters, mem_validNums]

/-- The first of the splits that wait has the lowest number. -/
theorem waiters_head_le {g : Group} {j m n : BitVec 3} {l : List (BitVec 3)} (h : g.waiters j = m :: l) (hn : n ∈ g.waiters j) :
    m.toNat ≤ n.toNat := by
  have hasc : (g.waiters j).Pairwise fun a b => a.toNat < b.toNat := (validNums_ascends g).filter _
  rw [h] at hn hasc
  obtain rfl | hn := List.mem_cons.1 hn
  · exact Nat.le_refl _
  · exact Nat.le_of_lt ((List.pairwise_cons.1 hasc).1 n hn)

theorem ovfEntries_nil {s : State} {g : Group} (h : g.ovf = 0) : s.ovfEntries g = [] := by
  rw [State.ovfEntries, h]
  rfl

/-- Without an overflow area, a slot is waited on when a split of the table waits there. -/
theorem waitsOn_eq {s : State} (h : s.cur.ovf = 0) (j : BitVec 3) : s.waitsOn j = !(s.cur.waiters j).isEmpty := by
  rw [State.waitsOn, ovfEntries_nil h, List.any_nil, Bool.or_false, Bool.eq_iff_iff]
  simp [Group.waiters]

/-! ## The merged group -/

/-- The entry of the merged split: what its members hold together, at the program counter of the join. -/
def Group.mergedEntry (g : Group) (j m : BitVec 3) : Split :=
  let members := (g.waiters j).map g.entry
  { v := true, st := .ready, jslot := (g.entry m).jslot, inh := members.any (·.inh), pc := (g.join j).pc
    mask := members.foldl (fun x e => x ||| e.mask) 0, park := members.foldl (fun x e => x ||| e.park) 0
    fpf := members.foldl (fun x e => x ||| e.fpf) 0, clsf := members.foldl (fun x e => x ||| e.clsf) 0
    sig := if (g.entry m).inh then (g.entry m).sig else foldSig (g.entry m).sig jarvFold }

/-- The group after a merge under entry `m`, before a debugger looks at it. -/
def Group.joined (g : Group) (j m : BitVec 3) : Group :=
  let g1 := ((g.waiters j).foldl Group.freeEntry g).setJoin j { g.join j with armed := false, arrived := 0 }
  { (({ g1 with ovf := 0, ovfWait := [] } : Group).setEntry m (g.mergedEntry j m)).relabel (mergeOwner (g.waiters j) [] (.entry m)) with
    shadow := [] }

/-- The group after a merge under entry `m`. -/
def Group.mergeTo (g : Group) (j m : BitVec 3) : Group := (g.joined j m).stopAt m

theorem Group.stopAt_leaves (g : Group) (m : BitVec 3) :
    g.stopAt m = { g with fydb := (g.stopAt m).fydb, fydbFocus := (g.stopAt m).fydbFocus } := by
  unfold Group.stopAt
  cases g.fydb <;> rfl

/-- A debugger that steps stops with the merged split as its focus. -/
theorem Group.stopAt_stepping {g : Group} {l : List (BitVec 3)} (h : g.fydb = .stepping l) (m : BitVec 3) :
    (g.stopAt m).fydb = .stopped ∧ (g.stopAt m).fydbFocus = some m := by
  simp [Group.stopAt, h]

theorem Group.stopAt_of_not_stepping {g : Group} (h : ∀ l, g.fydb ≠ .stepping l) (m : BitVec 3) : g.stopAt m = g := by
  unfold Group.stopAt
  split
  · exact absurd ‹_› (h _)
  · rfl

/-- An empty overflow area stays empty. -/
theorem State.setOvfs_nil {u : State} (hovf : u.cur.ovf = 0) (hwait : u.cur.ovfWait = []) : u.setOvfs [] = u := by
  have hcur : ({ u.cur with ovf := 0, ovfWait := [] } : Group) = u.cur := by rw [← hovf, ← hwait]
  exact congrArg (fun c => { u with cur := c }) hcur

theorem State.pops_of_ovf_eq_zero {u : State} (h : u.cur.ovf = 0) : State.pops 8 u = u := if_pos (.inl h)

/-- R80 in a group without an overflow area. -/
theorem State.merge_eq {s : State} {j m : BitVec 3} {l : List (BitVec 3)} (hovf : s.cur.ovf = 0) (h : s.cur.waiters j = m :: l) :
    s.merge j = { s with cur := s.cur.mergeTo j m } := by
  have hw : (s.cur.validNums.filter fun n => (s.cur.entry n).st = .waiting ∧ (s.cur.entry n).jslot = j) = m :: l := h
  simp only [State.merge, ovfEntries_nil hovf, hw, List.filter_nil, List.append_nil, List.map_cons]
  have hempty : (s.cur.mergeTo j m).ovf = 0 ∧ (s.cur.mergeTo j m).ovfWait = [] := by
    rw [Group.mergeTo, Group.stopAt_leaves]
    exact ⟨rfl, rfl⟩
  rw [State.pops_of_ovf_eq_zero rfl]
  refine Eq.trans ?_ (State.setOvfs_nil (u := { s with cur := s.cur.mergeTo j m }) hempty.1 hempty.2)
  simp only [Group.mergeTo, Group.joined, Group.mergedEntry, h]
  rfl

/-- The steps of a merge, written as one update. -/
theorem Group.join_entry_relabel (h : Group) (j m : BitVec 3) (x : Join) (e : Split) (f : Owner → Owner) :
    { (({ h.setJoin j x with ovf := 0, ovfWait := [] } : Group).setEntry m e).relabel f with shadow := [] } =
    { h with splits := h.splits.set m.toNat e m.isLt, joins := h.joins.set j.toNat x j.isLt, pend := h.pend.relabel f, ovf := 0,
             ovfWait := [], shadow := [] } := rfl

theorem Group.joined_leaves (g : Group) (j m : BitVec 3) : ∃ splits joins pend,
    g.joined j m = { g with splits := splits, joins := joins, pend := pend, ovf := 0, ovfWait := [], shadow := [] } := by
  rw [Group.joined, Group.join_entry_relabel, foldl_freeEntry_splits]
  exact ⟨_, _, _, rfl⟩

/-- What a merge leaves of the group. -/
theorem Group.mergeTo_leaves (g : Group) (j m : BitVec 3) : ∃ splits joins pend fydb focus, g.mergeTo j m =
    { g with splits := splits, joins := joins, pend := pend, ovf := 0, ovfWait := [], shadow := [], fydb := fydb, fydbFocus := focus } := by
  obtain ⟨splits, joins, pend, h⟩ := g.joined_leaves j m
  rw [Group.mergeTo, Group.stopAt_leaves, h]
  exact ⟨splits, joins, pend, _, _, rfl⟩

/-- A merge under a debugger's step stops with the merged split as focus. -/
theorem Group.mergeTo_stepping {g : Group} {l : List (BitVec 3)} (h : g.fydb = .stepping l) (j m : BitVec 3) :
    (g.mergeTo j m).fydb = .stopped ∧ (g.mergeTo j m).fydbFocus = some m := by
  obtain ⟨splits, joins, pend, hleft⟩ := g.joined_leaves j m
  exact Group.stopAt_stepping (by rw [hleft]; exact h) m

theorem Group.mergeTo_of_not_stepping {g : Group} (h : ∀ l, g.fydb ≠ .stepping l) (j m : BitVec 3) :
    (g.mergeTo j m).fydb = g.fydb ∧ (g.mergeTo j m).fydbFocus = g.fydbFocus := by
  obtain ⟨splits, joins, pend, hleft⟩ := g.joined_leaves j m
  rw [Group.mergeTo, Group.stopAt_of_not_stepping (by rw [hleft]; exact h), hleft]
  exact ⟨rfl, rfl⟩

theorem Group.mergeTo_entry (g : Group) (j m n : BitVec 3) :
    (g.mergeTo j m).entry n = (((g.waiters j).foldl Group.freeEntry g).setEntry m (g.mergedEntry j m)).entry n := by
  rw [Group.mergeTo, Group.stopAt_leaves, Group.joined, Group.join_entry_relabel]
  rfl

theorem Group.mergeTo_entry_lead (g : Group) (j m : BitVec 3) : (g.mergeTo j m).entry m = g.mergedEntry j m := by
  rw [Group.mergeTo_entry, Group.setEntry_entry_same]

/-- A member gives up its entry. -/
theorem Group.mergeTo_entry_member {g : Group} {j m n : BitVec 3} (hn : n ∈ g.waiters j) (hne : n ≠ m) : ((g.mergeTo j m).entry n).v = false := by
  rw [Group.mergeTo_entry, Group.setEntry_entry_other _ _ hne]
  exact foldl_freeEntry_entry_mem hn g

theorem Group.mergeTo_entry_other {g : Group} {j m n : BitVec 3} (hm : m ∈ g.waiters j) (hn : n ∉ g.waiters j) :
    (g.mergeTo j m).entry n = g.entry n := by
  rw [Group.mergeTo_entry, Group.setEntry_entry_other _ _ fun e : n = m => hn (e.symm ▸ hm)]
  exact foldl_freeEntry_entry_other hn g

theorem Group.mergeTo_join (g : Group) (j m k : BitVec 3) :
    (g.mergeTo j m).join k = (g.setJoin j { g.join j with armed := false, arrived := 0 }).join k := by
  rw [Group.mergeTo, Group.stopAt_leaves, Group.joined, Group.join_entry_relabel, foldl_freeEntry_splits]
  rfl

/-! ## The lanes of the merged split -/

/-- A lane of masks laid together is a lane of one of them. -/
theorem maskBit_foldl_or {α : Type} (f : α → Word) (L : List α) (x : Word) (l : Fin 32) :
    maskBit (L.foldl (fun x e => x ||| f e) x) l = (maskBit x l || L.any fun e => maskBit (f e) l) := by
  induction L generalizing x with
  | nil => simp
  | cons e L ih => rw [List.foldl_cons, ih, maskBit_or, List.any_cons, Bool.or_assoc]

theorem mergedEntry_mask {g : Group} {j m : BitVec 3} (l : Fin 32) :
    maskBit (g.mergedEntry j m).mask l = (g.waiters j).any fun n => maskBit (g.entry n).mask l := by
  rw [Group.mergedEntry, maskBit_foldl_or, maskBit_zero, Bool.false_or, List.any_map]
  rfl

theorem mergedEntry_holds {g : Group} {j m : BitVec 3} (l : Fin 32) :
    (g.mergedEntry j m).holds l = (g.waiters j).any fun n => (g.entry n).holds l := by
  rw [Bool.eq_iff_iff]
  simp only [Split.holds, Split.lanes, Group.mergedEntry, maskBit_or, maskBit_foldl_or, maskBit_zero, List.any_map, Bool.true_and, Bool.false_or,
    Bool.or_eq_true, Bool.and_eq_true, List.any_eq_true, Function.comp]
  constructor
  · rintro (⟨n, hn, h⟩ | ⟨n, hn, h⟩)
    · exact ⟨n, hn, (mem_waiters.1 hn).1, .inl h⟩
    · exact ⟨n, hn, (mem_waiters.1 hn).1, .inr h⟩
  · rintro ⟨n, hn, -, h | h⟩
    · exact .inl ⟨n, hn, h⟩
    · exact .inr ⟨n, hn, h⟩

/-- Of a list without repeats, a test that accepts one element at most accepts no second. -/
theorem eq_of_countP_le_one {α : Type} {L : List α} (hL : L.Nodup) {a b : α} (ha : a ∈ L) (hb : b ∈ L) {p : α → Bool} (hpa : p a = true)
    (hpb : p b = true) (hone : L.countP p ≤ 1) : b = a := by
  classical
  have hrest := countP_update (p := p) (q := fun c => p c && decide (c ≠ a)) hL ha fun c hc => by simp [hc]
  have hnone : L.countP (fun c => p c && decide (c ≠ a)) = 0 := by
    simp only [hpa, ne_self_iff_false, decide_false, Bool.and_false, Bool.toNat_false, Bool.toNat_true] at hrest
    omega
  simpa [hpb] using List.countP_eq_zero.1 hnone b hb

/-- The splits of the table are eight, each once. -/
theorem splitNums_nodup : splitNums.Nodup := by decide

/-- A merge keeps the lanes of a group of which no two entries have a lane in common. -/
theorem holders_mergeTo {g : Group} {j m : BitVec 3} (hm : m ∈ g.waiters j) {l : Fin 32} (hone : g.holders l ≤ 1) :
    (g.mergeTo j m).holders l = g.holders l := by
  have hlead : ((g.mergeTo j m).entry m).holds l = (g.waiters j).any fun n => (g.entry n).holds l := by
    rw [Group.mergeTo_entry_lead, mergedEntry_holds]
  have hmember : ∀ n, n ∈ g.waiters j → n ≠ m → ((g.mergeTo j m).entry n).holds l = false := fun n hn hne => by
    rw [Split.holds, Group.mergeTo_entry_member hn hne, Bool.false_and]
  have hother : ∀ n, n ∉ g.waiters j → ((g.mergeTo j m).entry n).holds l = (g.entry n).holds l := fun n hn => by
    rw [Group.mergeTo_entry_other hm hn]
  cases hany : (g.waiters j).any fun n => (g.entry n).holds l with
  | false =>
    refine congrArg (List.countP · splitNums) (funext fun n => ?_)
    by_cases hn : n ∈ g.waiters j
    · rw [Bool.eq_false_iff.2 (List.any_eq_false.1 hany n hn)]
      by_cases hne : n = m
      · rw [hne, hlead, hany]
      · exact hmember n hn hne
    · exact hother n hn
  | true =>
    obtain ⟨a, ha, hold⟩ := List.any_eq_true.1 hany
    have hone' : g.holders l = 1 := Nat.le_antisymm hone (List.countP_pos_iff.2 ⟨a, mem_splitNums a, hold⟩)
    have honly : (fun n => ((g.mergeTo j m).entry n).holds l) = (· == m) := funext fun n => by
      by_cases hne : n = m
      · rw [hne, hlead, hany, beq_self_eq_true]
      · rw [beq_false_of_ne hne]
        by_cases hn : n ∈ g.waiters j
        · exact hmember n hn hne
        · rw [hother n hn]
          exact Bool.eq_false_iff.2 fun h => hn ((eq_of_countP_le_one splitNums_nodup (mem_splitNums a) (mem_splitNums n) hold h hone) ▸ ha)
    rw [hone', Group.holders, honly]
    exact List.count_eq_one_of_mem splitNums_nodup (mem_splitNums m)

/-- A merge keeps the partition. -/
theorem partitioned_mergeTo {s : State} {j m : BitVec 3} (h : Partitioned s) (hovf : s.cur.ovf = 0) (hm : m ∈ s.cur.waiters j) :
    Partitioned { s with cur := s.cur.mergeTo j m } := by
  obtain ⟨splits, joins, pend, fydb, focus, hcur⟩ := s.cur.mergeTo_leaves j m
  have hnone : ({ s with cur := s.cur.mergeTo j m } : State).ovfEntries (s.cur.mergeTo j m) = [] := ovfEntries_nil (by rw [hcur])
  have hlive : (s.cur.mergeTo j m).ctl.live = s.cur.ctl.live := by rw [hcur]
  refine partitioned_iff.2 fun l => ?_
  have hold : s.cur.holders l = (maskBit s.cur.ctl.live l).toNat := by
    have := partitioned_iff.1 h l
    rwa [State.holders, ovfEntries_nil hovf] at this
  rw [State.holders, hnone, hlive, ← hold]
  exact holders_mergeTo hm (hold ▸ Bool.toNat_le _)

/-- The merged group: the merged split, its members, the other entries and the slots. -/
theorem mergeTo_result {g : Group} {j m : BitVec 3} (hm : m ∈ g.waiters j) : let u := g.mergeTo j m
    (u.entry m).v = true ∧ (u.entry m).st = .ready ∧ (u.entry m).pc = (g.join j).pc ∧
    (∀ l : Fin 32, (u.entry m).mask.getLsbD l.val = true ↔ ∃ n, n ∈ g.waiters j ∧ (g.entry n).mask.getLsbD l.val = true) ∧
    (∀ n, n ∈ g.waiters j → n ≠ m → (u.entry n).v = false) ∧ (∀ n, n ∉ g.waiters j → u.entry n = g.entry n) ∧
    (u.join j).armed = false ∧ (u.join j).arrived = 0 ∧ (∀ k, k ≠ j → u.join k = g.join k) := by
  intro u
  have hlead : u.entry m = g.mergedEntry j m := g.mergeTo_entry_lead j m
  have hslot : u.join j = { g.join j with armed := false, arrived := 0 } := (g.mergeTo_join j m j).trans (Group.setJoin_join_same ..)
  rw [hlead, hslot]
  refine ⟨rfl, rfl, rfl, fun l => ?_, fun n => Group.mergeTo_entry_member, fun n hn => Group.mergeTo_entry_other hm hn, rfl, rfl,
    fun k hk => (g.mergeTo_join j m k).trans (Group.setJoin_join_other _ _ hk)⟩
  exact (Bool.eq_iff_iff.1 (mergedEntry_mask l)).trans List.any_eq_true

end Sys2Proof.Machine
end

section
/-! PROOF. JSET, JARV, JQRY and SPLQ (R79 to R82), the arrival that completes a join (R80), and O9. -/

namespace Sys2Proof.Machine
open Spec

/-! ## Arrivals (R80) -/

/-- The group after its running split has arrived at slot `j`. -/
def Group.arrived (g : Group) (j : BitVec 3) : Group :=
  (g.setSp { g.sp with st := .waiting, jslot := j, wait := 0 }).setJoin j
    { g.join j with arrived := (g.join j).arrived ||| g.sp.lanes }

theorem Group.arrived_sp (g : Group) (j : BitVec 3) : (g.arrived j).entry g.running = { g.sp with st := .waiting, jslot := j, wait := 0 } :=
  Group.setEntry_entry_same g _ _

theorem Group.arrived_entry_other (g : Group) (j : BitVec 3) {n : BitVec 3} (h : n ≠ g.running) : (g.arrived j).entry n = g.entry n :=
  Group.setEntry_entry_other g _ h

theorem Group.arrived_join_same (g : Group) (j : BitVec 3) :
    (g.arrived j).join j = { g.join j with arrived := (g.join j).arrived ||| g.sp.lanes } := Group.setJoin_join_same ..

theorem Group.arrived_join_other (g : Group) {j k : BitVec 3} (h : k ≠ j) : (g.arrived j).join k = g.join k :=
  Group.setJoin_join_other _ _ h

/-- An arrival keeps the lanes of the split. -/
theorem partitioned_arrived {s : State} (h : Partitioned s) (j : BitVec 3) : Partitioned { s with cur := s.cur.arrived j } :=
  partitioned_of_same_lanes h (Group.holders_setEntry_of_eq (g := s.cur) (n := s.cur.running)
    (e := { s.cur.sp with st := .waiting, jslot := j, wait := 0 }) rfl rfl) rfl rfl

/-- The splits that wait on the slot after the arrival: the one that arrived, and those before it. -/
theorem mem_waiters_arrived {g : Group} (hv : g.sp.v = true) {j n : BitVec 3} : n ∈ (g.arrived j).waiters j ↔
    n = g.running ∨ ((g.entry n).v = true ∧ (g.entry n).st = .waiting ∧ (g.entry n).jslot = j) := by
  rw [mem_waiters]
  by_cases hn : n = g.running
  · subst hn
    rw [Group.arrived_sp]
    simpa using hv
  · rw [Group.arrived_entry_other _ _ hn, or_iff_right hn]

/-- An arrival changes no mask. -/
theorem Group.arrived_mask (g : Group) (j n : BitVec 3) : ((g.arrived j).entry n).mask = (g.entry n).mask := by
  by_cases hn : n = g.running
  · subst hn
    rw [Group.arrived_sp]
    rfl
  · rw [Group.arrived_entry_other _ _ hn]

theorem jarvEffect_unarmed {f : Fields} {s : State} (h : (s.cur.join (slotOf f.d)).armed = false) :
    jarvEffect f s = .jump s (s.cur.join (slotOf f.d)).pc := if_pos (by rw [h]; rfl)

theorem jarvEffect_armed {f : Fields} {s : State} (h : (s.cur.join (slotOf f.d)).armed = true)
    (hin : s.cur.sp.lanes &&& ~~~(s.cur.join (slotOf f.d)).rejoin = 0) : jarvEffect f s =
      .stay (State.checkPartition s (({ s with cur := s.cur.arrived (slotOf f.d) } : State).checkMerge (slotOf f.d))) :=
  (if_neg (by simp [h])).trans (if_neg (not_not.2 hin))

/-- An arrival that does not complete the join waits. -/
theorem checkMerge_arrived_waits {s : State} {j : BitVec 3}
    (h : (s.cur.join j).arrived ||| s.cur.sp.lanes ≠ (s.cur.join j).rejoin &&& s.cur.ctl.live) :
    ({ s with cur := s.cur.arrived j } : State).checkMerge j = { s with cur := s.cur.arrived j } := by
  refine if_neg fun hall => ?_
  simp only [Bool.and_eq_true, decide_eq_true_eq, Group.arrived_join_same] at hall
  exact h hall.2

/-- An arrival that completes the join merges. -/
theorem checkMerge_arrived_completes {s : State} {j : BitVec 3} (hovf : s.cur.ovf = 0) (harmed : (s.cur.join j).armed = true)
    (hwait : (s.cur.arrived j).waiters j ≠ []) (h : (s.cur.join j).arrived ||| s.cur.sp.lanes = (s.cur.join j).rejoin &&& s.cur.ctl.live) :
    ({ s with cur := s.cur.arrived j } : State).checkMerge j = ({ s with cur := s.cur.arrived j } : State).merge j := by
  refine if_pos ?_
  rw [waitsOn_eq (s := { s with cur := s.cur.arrived j }) hovf]
  simp only [Bool.and_eq_true, decide_eq_true_eq, Group.arrived_join_same]
  exact ⟨⟨harmed, by simpa using hwait⟩, h⟩

theorem jarvEffect_waits {f : Fields} {s : State} (hpart : Partitioned s) (h : (s.cur.join (slotOf f.d)).armed = true)
    (hin : s.cur.sp.lanes &&& ~~~(s.cur.join (slotOf f.d)).rejoin = 0)
    (hmore : (s.cur.join (slotOf f.d)).arrived ||| s.cur.sp.lanes ≠ (s.cur.join (slotOf f.d)).rejoin &&& s.cur.ctl.live) :
    jarvEffect f s = .stay { s with cur := s.cur.arrived (slotOf f.d) } := by
  rw [jarvEffect_armed h hin, checkMerge_arrived_waits hmore, checkPartition_eq (partitioned_arrived hpart _)]

theorem jarvEffect_merges {f : Fields} {s : State} {m : BitVec 3} {l : List (BitVec 3)} (hpart : Partitioned s) (hovf : s.cur.ovf = 0)
    (h : (s.cur.join (slotOf f.d)).armed = true) (hin : s.cur.sp.lanes &&& ~~~(s.cur.join (slotOf f.d)).rejoin = 0)
    (hdone : (s.cur.join (slotOf f.d)).arrived ||| s.cur.sp.lanes = (s.cur.join (slotOf f.d)).rejoin &&& s.cur.ctl.live)
    (hw : (s.cur.arrived (slotOf f.d)).waiters (slotOf f.d) = m :: l) :
    jarvEffect f s = .stay { s with cur := (s.cur.arrived (slotOf f.d)).mergeTo (slotOf f.d) m } := by
  have hsome : (s.cur.arrived (slotOf f.d)).waiters (slotOf f.d) ≠ [] := hw ▸ List.cons_ne_nil m l
  have hpart' := partitioned_mergeTo (partitioned_arrived hpart (slotOf f.d)) hovf (hw ▸ List.mem_cons_self : m ∈ _)
  rw [jarvEffect_armed h hin, checkMerge_arrived_completes hovf h hsome hdone,
    State.merge_eq (s := { s with cur := s.cur.arrived (slotOf f.d) }) hovf hw]
  exact congrArg Res.stay (checkPartition_eq hpart')

/-! ## Loading a slot (R79) -/

/-- The state with the slot of a JSET loaded. -/
def State.jset (s : State) (f : Fields) : State :=
  { s with cur := s.cur.setJoin (slotOf f.d) { rejoin := s.cur.regs.getK f.a, arrived := 0, pc := target f s, armed := true } }

theorem jset_body {f : Fields} {s : State} (h : s.waitsOn (slotOf f.d) = false) :
    (if s.waitsOn (slotOf f.d) then Res.trap s (.all Cause.convergence s.cur.exec ((0 : BitVec 24) ++ f.d) 0 0 0)
      else .done (s.jset f)) = .done (s.jset f) := if_neg (Bool.eq_false_iff.1 h)

/-! ## What SPLQ shows (R82, R98, R230) -/

/-- A debugger that steps holds every split but the one in turn, and one that has stopped the group holds all. -/
theorem shown_eq_asRead (g : Group) (n : BitVec 3) : g.shown n = asRead g n := by
  unfold Group.shown asRead Group.halts
  cases g.fydb <;> simp [and_assoc]

theorem splitWord_eq (g : Group) (n w : BitVec 3) : splitWord g n w =
    if w = 6 then (g.entry n).park else if w = 7 then g.ctl.live else (asRead g n).words.getD w.toNat 0 := by
  rw [splitWord, shown_eq_asRead]

end Sys2Proof.Machine

namespace Sys2Proof.Proofs
open Machine Spec

/-- R79 to R82: JSET and the queries complete; JARV passes an unarmed slot and waits on an armed one. -/
theorem joinsAndQueries : JoinsAndQueries := by
  intro f s
  refine ⟨fun h hwait => ?jset, fun h harmed => ?passes, fun h hpart => ?waits, fun h => ?jqry, fun h hw => ?splq⟩
  case jset =>
    obtain ⟨ht, hsp, -⟩ := finish_passes (s := s) (u := s.jset f) (.jset f) ⟨rfl, rfl, rfl⟩ (fun _ _ => rfl) rfl rfl
    have hbody := jset_body (f := f) hwait
    refine ⟨_, congrArg Host.Outcome.next ((issue_always h).trans (congrArg _ hbody)), ?_, ?_, ?_, ?_, hsp⟩
    · rw [ht]
      exact ⟨rfl, rfl⟩
    · rw [ht]
      rfl
    · rw [ht]
      exact Group.setJoin_join_same ..
    · rw [ht]
      exact fun k hk => Group.setJoin_join_other s.cur _ hk
  case passes => exact ⟨_, congrArg Host.Outcome.next ((issue_always h).trans (congrArg _ (jarvEffect_unarmed harmed))), jump_same ..⟩
  case waits =>
    intro j x harmed hv hin hmore
    have hbody := jarvEffect_waits (f := f) hpart harmed hin hmore
    exact ⟨_, congrArg Host.Outcome.next ((issue_always h).trans (congrArg _ hbody)), ⟨rfl, rfl⟩, rfl, s.cur.arrived_sp j,
      s.cur.arrived_join_same j, fun n hn => s.cur.arrived_entry_other j hn⟩
  case jqry => exact ⟨_, rfl, sWrite_result h rfl _ (issue_always h)⟩
  case splq =>
    have hissue := issue_ready (i := .splq f) (body := fun s => .done (s.onRegs fun r => r.writeS f.d
      (splitWord s.cur (f.w2.extractLsb' 0 3) (f.w2.extractLsb' 4 3))))
      (p := { planAlways 0x0B f with more := fun _ => if f.w2 &&& ~~~0x77#32 = 0 then none else some ⟨6, f.w2⟩ })
      h ⟨rfl, rfl, rfl, rfl, rfl⟩ (if_pos hw) (by exact nofun)
    obtain ⟨hplain, hres⟩ := sWrite_result h rfl _ rfl (i := .splq f)
    refine ⟨_, congrArg Host.Outcome.next hissue, hplain, ?_⟩
    exact Eq.mp (congrArg (SResult _ _ _) (splitWord_eq ..)) hres

/-- R80, R98: the splits that wait after the arrival merge under the lowest of their numbers. -/
theorem joinMerges : JoinMerges := by
  intro f s h hpart hovf j x harmed hv hin hdone member
  have hrunning : s.cur.running ∈ (s.cur.arrived j).waiters j := (mem_waiters_arrived hv).2 (.inl rfl)
  obtain ⟨m, l, hw⟩ := List.exists_cons_of_ne_nil (List.ne_nil_of_mem hrunning)
  have hmem : ∀ n, n ∈ (s.cur.arrived j).waiters j ↔ member n := fun n => mem_waiters_arrived hv
  have hm : m ∈ (s.cur.arrived j).waiters j := hw ▸ List.mem_cons_self
  have hbody := jarvEffect_merges (f := f) hpart hovf harmed hin hdone hw
  obtain ⟨hlv, hlst, hlpc, hlmask, hfreed, hothers, hoff, hnone, hslots⟩ := mergeTo_result hm
  obtain ⟨splits, joins, pend, fydb, focus, hleft⟩ := (s.cur.arrived j).mergeTo_leaves j m
  refine ⟨_, m, congrArg Host.Outcome.next ((issue_always h).trans (congrArg _ hbody)), ⟨rfl, ?_⟩, ?_, (hmem m).1 hm,
    fun n hn => waiters_head_le hw ((hmem n).2 hn), hlv, hlst, ?_, fun l => ?_, fun n hn => hfreed n ((hmem n).2 hn), fun n hn => ?_, hoff, hnone,
    fun k hk => (hslots k hk).trans (s.cur.arrived_join_other hk),
    fun l hstep => Group.mergeTo_stepping (g := s.cur.arrived j) hstep j m,
    fun hstep => Group.mergeTo_of_not_stepping (g := s.cur.arrived j) hstep j m⟩
  · exact hleft ▸ rfl
  · exact hleft ▸ rfl
  · exact hlpc.trans (congrArg Join.pc (s.cur.arrived_join_same j) :)
  · exact (hlmask l).trans (exists_congr fun n => and_congr (hmem n) (by rw [s.cur.arrived_mask j]))
  · exact (hothers n fun h => hn ((hmem n).1 h)).trans (s.cur.arrived_entry_other j fun h => hn (.inl h))

/-- Settles O9, from its two parts. -/
theorem joins : Obligations.Joins := ⟨joinsAndQueries, joinMerges⟩

end Sys2Proof.Proofs
end

section
/-! PROOF. EXIT (R83): the lanes that leave, what the barriers that they complete change, and O10. -/

namespace Sys2Proof.Machine
open Spec

/-! ## Barriers that complete (R159) -/

/-- Of the package, a barrier's round changes only the groups' ARR and issue state, the other groups and the launches. -/
def OnlyRounds (s t : State) : Prop :=
  ∃ arr iss others launches, t = { s with cur := { s.cur with arr := arr, iss := iss }, others := others, launches := launches }

theorem OnlyRounds.refl (s : State) : OnlyRounds s s := ⟨_, _, _, _, rfl⟩

theorem OnlyRounds.trans {s t u : State} (h : OnlyRounds s t) (h' : OnlyRounds t u) : OnlyRounds s u := by
  obtain ⟨_, _, _, _, rfl⟩ := h
  obtain ⟨_, _, _, _, rfl⟩ := h'
  exact ⟨_, _, _, _, rfl⟩

theorem onlyRounds_onLaunch (s : State) (id : Nat) (f : Launch → Launch) : OnlyRounds s (s.onLaunch id f) := ⟨_, _, _, _, rfl⟩

theorem onlyRounds_mapGroups (s : State) (p : Group → Bool) (lvl : Level) (n : Nat) :
    OnlyRounds s (s.mapGroups p fun h => h.endRound lvl n) := by
  unfold State.mapGroups
  dsimp only
  split
  · exact ⟨_, _, _, _, rfl⟩
  · exact ⟨_, _, _, _, rfl⟩

theorem onlyRounds_checkBar (s : State) (lvl : Level) (n : Nat) : OnlyRounds s (s.checkBar lvl n) := by
  unfold State.checkBar
  dsimp only
  split
  · cases lvl with
    | grid => exact (onlyRounds_mapGroups ..).trans (onlyRounds_onLaunch ..)
    | _ => exact onlyRounds_mapGroups ..
  · exact OnlyRounds.refl s

/-- Steps that change only rounds do so together. -/
theorem onlyRounds_foldl {α : Type} {f : State → α → State} (hf : ∀ s a, OnlyRounds s (f s a)) (l : List α) (s : State) :
    OnlyRounds s (l.foldl f s) := by
  induction l generalizing s with
  | nil => exact OnlyRounds.refl s
  | cons a l ih => exact (hf s a).trans (ih _)

theorem onlyRounds_checkBars (s : State) : OnlyRounds s s.checkBars :=
  onlyRounds_foldl (fun s lvl => onlyRounds_foldl (fun s n => onlyRounds_checkBar s lvl n) _ s) _ s

theorem onlyRounds_noteGangEnd (s : State) : OnlyRounds s s.noteGangEnd := by
  unfold State.noteGangEnd
  dsimp only
  split
  · exact onlyRounds_onLaunch ..
  · exact OnlyRounds.refl s

/-! ## The lanes that leave (R83) -/

/-- The entry of a split that has left. -/
def leftEntry (s : State) : Split := { foldedEntry .exit s with v := false, park := 0 }

/-- The state after the running split has left, before pops and merges. -/
def State.exited (s : State) : State :=
  { s with cur := { s.cur.setSp (leftEntry s) with ctl := { s.cur.ctl with live := s.cur.ctl.live &&& ~~~s.cur.sp.lanes } } }

theorem exited_sp (s : State) : s.exited.cur.sp = leftEntry s := Group.setEntry_entry_same s.cur s.cur.running _

theorem exited_entry_other (s : State) {n : BitVec 3} (h : n ≠ s.cur.running) : s.exited.cur.entry n = s.cur.entry n :=
  Group.setEntry_entry_other s.cur _ h

/-- The lanes that leave are live no more, and no other lane moves. -/
theorem partitioned_exited {s : State} (h : Partitioned s) (hv : s.cur.sp.v = true) : Partitioned s.exited := by
  refine partitioned_iff.2 fun l => ?_
  have hold : s.cur.holders l + (s.ovfEntries s.cur).countP (fun e => maskBit e.lanes l) = (maskBit s.cur.ctl.live l).toNat :=
    partitioned_iff.1 h l
  have hleft : s.exited.cur.holders l + (s.cur.sp.holds l).toNat = s.cur.holders l + ((leftEntry s).holds l).toNat :=
    s.cur.holders_setEntry s.cur.running (leftEntry s) l
  have hnone : (leftEntry s).holds l = false := rfl
  have hholds : s.cur.sp.holds l = maskBit s.cur.sp.lanes l := by rw [Split.holds, hv, Bool.true_and]
  rw [hnone, hholds, Bool.toNat_false, Nat.add_zero] at hleft
  change s.exited.cur.holders l + (s.ovfEntries s.cur).countP (fun e => maskBit e.lanes l) =
    (maskBit (s.cur.ctl.live &&& ~~~s.cur.sp.lanes) l).toNat
  have hminus : ∀ a b : Bool, (a && !b).toNat = a.toNat - b.toNat := by decide
  rw [maskBit_and, maskBit_not, hminus]
  omega

/-- Without an armed slot no join completes. -/
theorem checkMerges_unarmed {s : State} (h : ∀ j, (s.cur.join j).armed = false) : s.checkMerges = s := by
  have hone : ∀ j, s.checkMerge j = s := fun j => if_neg (by simp [h j])
  have hall : ∀ l : List (BitVec 3), l.foldl (fun s j => s.checkMerge j) s = s := fun l => by
    induction l with
    | nil => rfl
    | cons j l ih => rw [List.foldl_cons, hone, ih]
  exact hall splitNums

theorem State.pop_of_ovf_eq_zero {s : State} (h : s.cur.ovf = 0) : s.pop = s := if_pos h

theorem freeEntry_onSp (s : State) (g : Split → Split) :
    (s.onSp g).cur.freeEntry s.cur.running = s.cur.setSp { g s.cur.sp with v := false, park := 0 } := by
  have hsp : (s.onSp g).cur.entry s.cur.running = g s.cur.sp := State.onSp_cur_sp s g
  rw [Group.freeEntry, hsp]
  exact State.setSp_onSp s g _

/-- The step of EXIT that takes the lanes out of LIVE and frees the entry. -/
def exitStep (s : State) : State :=
  let g := (s.foldSp .exit).cur
  { s.foldSp .exit with cur := { g.freeEntry g.running with ctl := { g.ctl with live := g.ctl.live &&& ~~~g.sp.lanes } } }

theorem exitStep_eq (s : State) : exitStep s = s.exited := by
  have hfold : s.foldSp .exit = s.onSp fun e => { e with sig := sigAfter .exit s } := by rw [State.foldSp_eq, State.sigFolded_eq]
  have hfree : (s.onSp fun e => { e with sig := sigAfter .exit s }).cur.freeEntry (s.onSp fun e => { e with sig := sigAfter .exit s }).cur.running =
      s.cur.setSp (leftEntry s) := freeEntry_onSp s _
  rw [exitStep, hfold]
  dsimp only
  rw [hfree, State.onSp_cur_sp]
  rfl

/-- The end of EXIT: the group `r` has ended with its last entry. -/
def exitEnd (s2 : State) (r : GRef) : Res :=
  if s2.cur.validNums.isEmpty && s2.cur.ovf = 0 && s2.cur.isRef r then
    .stay ({ s2 with cur := { s2.cur with ended := true } } : State).checkBars.noteGangEnd
  else if s2.cur.isRef r then .stay s2.checkBars
  else .stay s2

theorem exitEffect_steps (s : State) :
    exitEffect s = exitEnd (State.checkPartition s (exitStep s).pop.checkMerges) (s.foldSp .exit).cur.ref := by
  unfold exitEffect exitEnd exitStep
  with_reducible rfl

/-- EXIT in a group without an overflow area and without an armed join. -/
theorem exitEffect_eq {s : State} (hpart : Partitioned s) (hovf : s.cur.ovf = 0) (hjoins : ∀ j, (s.cur.join j).armed = false)
    (hv : s.cur.sp.v = true) : exitEffect s = exitEnd s.exited s.cur.ref := by
  have href : (s.foldSp .exit).cur.ref = s.cur.ref := by
    rw [State.foldSp_eq]
    rfl
  rw [exitEffect_steps, href, exitStep_eq, State.pop_of_ovf_eq_zero (s := s.exited) hovf, checkMerges_unarmed (s := s.exited) hjoins,
    checkPartition_eq (partitioned_exited hpart hv)]

theorem exitEnd_last {s : State} {r : GRef} (h : s.cur.validNums = []) (hovf : s.cur.ovf = 0) (hr : s.cur.isRef r = true) :
    exitEnd s r = .stay ({ s with cur := { s.cur with ended := true } } : State).checkBars.noteGangEnd := if_pos (by simp [h, hovf, hr])

theorem exitEnd_more {s : State} {r : GRef} (h : s.cur.validNums ≠ []) (hr : s.cur.isRef r = true) : exitEnd s r = .stay s.checkBars :=
  (if_neg (by simp [h])).trans (if_pos hr)

end Sys2Proof.Machine

namespace Sys2Proof.Proofs
open Machine Spec

/-- R83: the other entries go on. -/
theorem exitFreesTheSplit : ExitFreesTheSplit := by
  intro s hpart hres hovf hjoins hv ⟨n, hn, hnv⟩
  have hmore : s.exited.cur.validNums ≠ [] := List.ne_nil_of_mem (mem_validNums.2 ((congrArg Split.v (exited_entry_other s hn)).trans hnv))
  have hbody := (exitEffect_eq hpart hovf hjoins hv).trans (exitEnd_more hmore (Group.isRef_self (g := s.exited.cur) hres))
  obtain ⟨arr, iss, others, launches, hbars⟩ := onlyRounds_checkBars s.exited
  rw [hbars] at hbody
  exact ⟨_, congrArg Host.Outcome.next ((issue_always (ready_bare rfl)).trans (congrArg _ hbody)), rfl, congrArg Split.v (exited_sp s),
    fun n hn => exited_entry_other s hn, rfl, rfl, rfl, rfl, rfl⟩

/-- R83: no entry is left, so no lane is live. -/
theorem exitEndsTheGroup : ExitEndsTheGroup := by
  intro s hpart hres hovf hjoins hv halone
  have hfree : ∀ n, (s.exited.cur.entry n).v = false := fun n => by
    by_cases hn : n = s.cur.running
    · rw [hn]
      exact congrArg Split.v (exited_sp s)
    · exact (congrArg Split.v (exited_entry_other s hn)).trans (halone n hn)
  have hnone : s.exited.cur.validNums = [] := List.eq_nil_iff_forall_not_mem.2 fun n hn => by
    rw [mem_validNums, hfree n] at hn
    cases hn
  have hlive : s.exited.cur.ctl.live = 0 := word_ext fun l => by
    have h := partitioned_iff.1 (partitioned_exited hpart hv) l
    have hzero : s.exited.holders l = 0 := by
      rw [State.holders_eq, hnone, ovfEntries_nil (s := s.exited) (g := s.exited.cur) hovf]
      rfl
    rw [maskBit_zero]
    exact Bool.toNat_eq_zero.1 (h.symm.trans hzero)
  have hbody := (exitEffect_eq hpart hovf hjoins hv).trans (exitEnd_last hnone hovf (Group.isRef_self (g := s.exited.cur) hres))
  obtain ⟨arr, iss, others, launches, hbars⟩ :=
    (onlyRounds_checkBars { s.exited with cur := { s.exited.cur with ended := true } }).trans (onlyRounds_noteGangEnd _)
  rw [hbars] at hbody
  exact ⟨_, congrArg Host.Outcome.next ((issue_always (ready_bare rfl)).trans (congrArg _ hbody)), rfl, hlive, hnone, rfl, rfl, rfl⟩

/-- Settles O10, from its two parts. -/
theorem exits : Obligations.Exits := ⟨exitFreesTheSplit, exitEndsTheGroup⟩

end Sys2Proof.Proofs
end

section
/-! PROOF. The swap of R78: the choice of the split and of the slot, the bytes of the overflow area, the lanes that change places. -/

namespace Sys2Proof.Machine
open Spec

/-! ## The split that has waited longest -/

/-- The step of the search for the longest wait. -/
def Group.longer (g : Group) (r : Option (BitVec 3)) (n : BitVec 3) : Option (BitVec 3) :=
  match r with
  | none => some n
  | some m => if (g.entry m).wait < (g.entry n).wait then some n else some m

/-- A split that has waited as long as any that follow stays the choice. -/
theorem foldl_longer_stays {g : Group} {n : BitVec 3} {L : List (BitVec 3)} (h : ∀ m ∈ L, (g.entry m).wait ≤ (g.entry n).wait) :
    L.foldl g.longer (some n) = some n := by
  induction L with
  | nil => rfl
  | cons m L ih =>
    have hkeep : g.longer (some n) m = some n := if_neg (Nat.not_lt.2 (h m List.mem_cons_self))
    rw [List.foldl_cons, hkeep]
    exact ih fun k hk => h k (List.mem_cons_of_mem _ hk)

/-- The first of those that have waited longest takes the place of a choice that has waited less. -/
theorem foldl_longer_finds {g : Group} {n : BitVec 3} {L : List (BitVec 3)} {r : Option (BitVec 3)} (hasc : L.Pairwise fun a b => a.toNat < b.toNat)
    (hn : n ∈ L) (hr : ∀ m, r = some m → (g.entry m).wait < (g.entry n).wait)
    (h : ∀ m ∈ L, (g.entry m).wait ≤ (g.entry n).wait ∧ ((g.entry m).wait = (g.entry n).wait → n.toNat ≤ m.toNat)) :
    L.foldl g.longer r = some n := by
  induction L generalizing r with
  | nil => cases hn
  | cons x L ih =>
    obtain ⟨hx, hasc⟩ := List.pairwise_cons.1 hasc
    rw [List.foldl_cons]
    obtain rfl | hn := List.mem_cons.1 hn
    · have htake : g.longer r n = some n := by
        cases r with
        | none => rfl
        | some m => exact if_pos (hr m rfl)
      rw [htake]
      exact foldl_longer_stays fun m hm => (h m (List.mem_cons_of_mem _ hm)).1
    · obtain ⟨hle, htie⟩ := h x List.mem_cons_self
      have hless : (g.entry x).wait < (g.entry n).wait :=
        Nat.lt_of_le_of_ne hle fun e => absurd (htie e) (Nat.not_le.2 (hx n hn))
      refine ih hasc hn (fun m hm => ?_) fun m hm => h m (List.mem_cons_of_mem _ hm)
      cases r with
      | none =>
        cases hm
        exact hless
      | some k =>
        unfold Group.longer at hm
        dsimp only at hm
        split at hm
        · cases hm
          exact hless
        · cases hm
          exact hr _ rfl

theorem longest_eq {g : Group} {n : BitVec 3} (hv : (g.entry n).v = true)
    (h : ∀ m, (g.entry m).v = true → (g.entry m).wait ≤ (g.entry n).wait ∧ ((g.entry m).wait = (g.entry n).wait → n.toNat ≤ m.toNat)) :
    g.longest = some n :=
  foldl_longer_finds (validNums_ascends g) (mem_validNums.2 hv) nofun fun m hm => h m (mem_validNums.1 hm)

/-! ## The topmost dormant slot -/

theorem topDormant_eq {es : List Split} {i : Nat} (hi : (es[i]?).map (·.st) = some .dormant)
    (h : ∀ k, i < k → k < es.length → (es[k]?).map (·.st) ≠ some .dormant) : topDormant es = some i := by
  have hlt : i < es.length := by
    by_contra hout
    rw [List.getElem?_eq_none (Nat.not_lt.1 hout)] at hi
    cases hi
  have hdesc : (List.range es.length).reverse.Pairwise fun a b => es.length - a < es.length - b := by
    rw [List.pairwise_reverse]
    refine List.pairwise_lt_range.imp_of_mem fun _ hb hab => ?_
    have hb := List.mem_range.1 hb
    omega
  rw [topDormant, List.getLast?_eq_head?_reverse, ← List.filter_reverse, List.head?_filter]
  refine find?_least (fun k => es.length - k) hdesc (by simpa using hlt) (by simpa using hi) fun k hk hp => ?_
  have hk' : ¬ i < k := fun hik => h k hik (by simpa using hk) (by simpa using hp)
  omega

/-! ## The bytes of an overflow entry -/

/-- Words written as bytes read back. -/
theorem wordsOfBytes_flatMap (ws : List Word) : wordsOfBytes (ws.flatMap bytesOfWord) = ws := by
  induction ws with
  | nil => rfl
  | cons w ws ih =>
    have hw : wordOfBytes (w.extractLsb' 0 8) (w.extractLsb' 8 8) (w.extractLsb' 16 8) (w.extractLsb' 24 8) = w := by
      rw [wordOfBytes]
      ext k hk
      simp only [← BitVec.getLsbD_eq_getElem, BitVec.getLsbD_append, BitVec.getLsbD_extractLsb']
      grind
    rw [List.flatMap_cons, bytesOfWord, List.cons_append, List.cons_append, List.cons_append, List.cons_append, List.nil_append, wordsOfBytes, hw, ih]

/-- A state reads back from its code (R12). -/
theorem SplitSt.ofCode_code (st : SplitSt) : SplitSt.ofCode st.code = st := by cases st <;> rfl

/-- Word 0 of an entry, bit by bit. -/
theorem Split.getLsbD_word0 (e : Split) (k : Nat) : e.word0.getLsbD k =
    if k < 20 then false else if k < 25 then e.fpf.getLsbD (k - 20) else if k < 26 then e.inh else if k < 29 then e.jslot.getLsbD (k - 26)
    else if k < 31 then e.st.code.getLsbD (k - 29) else k - 31 = 0 && e.v := by
  simp only [Split.word0, BitVec.getLsbD_append, BitVec.getLsbD_ofBool]
  grind

/-- The fields of word 0 read back (R12). -/
theorem Split.word0_fields (e : Split) : e.word0.getLsbD 31 = e.v ∧ e.word0.extractLsb' 29 2 = e.st.code ∧ e.word0.extractLsb' 26 3 = e.jslot ∧
    e.word0.getLsbD 25 = e.inh ∧ e.word0.extractLsb' 20 5 = e.fpf := by
  refine ⟨e.getLsbD_word0 31, ?_, ?_, e.getLsbD_word0 25, ?_⟩
  all_goals
    ext k hk
    simp only [BitVec.getElem_extractLsb', Split.getLsbD_word0]
    grind

theorem getLsbD_three (k : Nat) : (3#56).getLsbD k = decide (k < 2) := by
  by_cases h : k < 56
  · revert k
    decide
  · rw [BitVec.getLsbD_of_ge _ _ (Nat.not_lt.1 h), decide_eq_false (by omega)]

/-- The program counter that words 1 and 2 hold is aligned (R12). -/
theorem Split.pc_words (pc : Pc) : ((0 : BitVec 8) ++ pc.extractLsb' 32 24).extractLsb' 0 24 ++ (pc.extractLsb' 0 32).extractLsb' 2 30 ++ (0 : BitVec 2) =
    alignPc pc := by
  ext k hk
  simp only [alignPc, ← BitVec.getLsbD_eq_getElem, BitVec.getLsbD_append, BitVec.getLsbD_extractLsb', BitVec.getLsbD_and, BitVec.getLsbD_not, getLsbD_three]
  grind

/-- The entry that an overflow slot keeps of a split: its program counter aligned, its wait count in 32 bits (R15). -/
theorem Split.ofWords_words (e : Split) : Split.ofWords (e.words ++ [e.park, BitVec.ofNat 32 e.wait]) =
    { e with pc := alignPc e.pc, wait := e.wait % 2 ^ 32, half := false, stall := false } := by
  obtain ⟨hv, hst, hslot, hinh, hfpf⟩ := e.word0_fields
  simp only [Split.ofWords, Split.words, List.cons_append, List.nil_append, List.getD_cons_zero, List.getD_cons_succ, hv, hst, hslot, hinh, hfpf,
    SplitSt.ofCode_code, Split.pc_words, BitVec.toNat_ofNat]

theorem Split.ofWords_bytes (e : Split) : Split.ofWords (wordsOfBytes e.bytes) =
    { e with pc := alignPc e.pc, wait := e.wait % 2 ^ 32, half := false, stall := false } := by
  rw [Split.bytes, wordsOfBytes_flatMap, Split.ofWords_words]

/-! ## Runs of bytes -/

/-- The writes of a run of bytes from an address. -/
def runAt (o : Nat) (bs : List Byte) : List (Nat × Byte) := ((List.range bs.length).zip bs).map fun p => (o + p.1, p.2)

theorem runAt_addresses (o : Nat) (bs : List Byte) : (runAt o bs).map (·.1) = (List.range bs.length).map (o + ·) := by
  have h : ((List.range bs.length).zip bs).map (·.1) = List.range bs.length := List.map_fst_zip (by simp)
  rw [runAt, List.map_map]
  conv_rhs => rw [← h, List.map_map]
  rfl

theorem readN_writeList_runAt (m : Memory) (o : Nat) (bs : List Byte) : (m.writeList (runAt o bs)).readN o bs.length = bs := by
  have hnodup : ((runAt o bs).map (·.1)).Nodup := by
    rw [runAt_addresses]
    exact List.nodup_range.map fun a b h => Nat.add_left_cancel h
  refine List.ext_getElem (by simp [Memory.readN]) fun k hk hk' => ?_
  have hmem : (o + k, bs[k]) ∈ runAt o bs := List.mem_map.2 ⟨(k, bs[k]), List.mem_iff_getElem.2 ⟨k, by simpa using hk', by simp⟩, rfl⟩
  simpa [Memory.readN] using Memory.read_writeList_at m _ _ hmem hnodup

/-- Bytes apart from the run are the same. -/
theorem readN_writeList_runAt_other (m : Memory) {o a n : Nat} {bs : List Byte} (h : a + n ≤ o ∨ o + bs.length ≤ a) :
    (m.writeList (runAt o bs)).readN a n = m.readN a n := by
  refine List.map_congr_left fun k hk => Memory.read_writeList_other m _ fun p hp => ?_
  have hk := List.mem_range.1 hk
  have haddr : p.1 ∈ (List.range bs.length).map (o + ·) := runAt_addresses o bs ▸ List.mem_map_of_mem hp
  obtain ⟨x, hx, hxp⟩ := List.mem_map.1 haddr
  have hx := List.mem_range.1 hx
  omega

/-! ## A slot of the overflow area (R15) -/

theorem Split.bytes_length (e : Split) : e.bytes.length = 32 := rfl

/-- The entry that the bytes of a slot hold. -/
def State.slot (s : State) (g : Group) (k : Nat) : Split := Split.ofWords (wordsOfBytes ((s.blockOf g).scratch.readN (s.ovfOff g k) 32))

theorem State.ovfEntry_eq (s : State) (g : Group) (k : Nat) :
    s.ovfEntry g k = if (s.slot g k).st = .waiting then { s.slot g k with wait := g.ovfWait.getD k 0 } else s.slot g k := rfl

theorem State.scratch_setOvf {s : State} (h : (s.block? s.cur.launch s.cur.run s.cur.block).isSome = true) (i : Nat) (e : Split) :
    ((s.setOvf i e).blockOf s.cur).scratch = (s.blockOf s.cur).scratch.writeList (runAt (s.ovfOff s.cur i) e.bytes) := by
  have hblock := State.blockOf_onBlock h (fun b => b.putScratch (runAt (s.ovfOff s.cur i) e.bytes) false) fun _ => ⟨rfl, rfl, rfl⟩
  exact congrArg Block.scratch hblock

theorem State.slot_setOvf_same {s : State} (h : (s.block? s.cur.launch s.cur.run s.cur.block).isSome = true) (i : Nat) (e : Split) :
    (s.setOvf i e).slot s.cur i = { e with pc := alignPc e.pc, wait := e.wait % 2 ^ 32, half := false, stall := false } := by
  have hoff : (s.setOvf i e).ovfOff s.cur i = s.ovfOff s.cur i := rfl
  have hread : ((s.blockOf s.cur).scratch.writeList (runAt (s.ovfOff s.cur i) e.bytes)).readN (s.ovfOff s.cur i) 32 = e.bytes :=
    readN_writeList_runAt _ _ e.bytes
  rw [State.slot, State.scratch_setOvf h, hoff, hread, Split.ofWords_bytes]

theorem State.slot_setOvf_other {s : State} (h : (s.block? s.cur.launch s.cur.run s.cur.block).isSome = true) {i k : Nat} (hk : k ≠ i) (e : Split) :
    (s.setOvf i e).slot s.cur k = s.slot s.cur k := by
  have hoff : (s.setOvf i e).ovfOff s.cur k = s.ovfOff s.cur k := rfl
  have hapart : s.ovfOff s.cur k + 32 ≤ s.ovfOff s.cur i ∨ s.ovfOff s.cur i + e.bytes.length ≤ s.ovfOff s.cur k := by
    simp only [State.ovfOff, Split.bytes_length]
    omega
  rw [State.slot, State.scratch_setOvf h, hoff, readN_writeList_runAt_other _ hapart, State.slot]

/-! ## The area after a swap (R78) -/

/-- The entries of the area with one of them replaced. -/
def State.ovfReplaced (s : State) (i : Nat) (o : Split) (k : Nat) : Split := if k = i then o else s.ovfEntry s.cur k

theorem ovfEntries_set (s : State) (i : Nat) (o : Split) :
    (s.ovfEntries s.cur).set i o = (List.range s.cur.ovf).map (s.ovfReplaced i o) := by
  refine List.ext_getElem (by simp [State.ovfEntries]) fun k hk hk' => ?_
  simp only [State.ovfEntries, List.getElem_set, List.getElem_map, List.getElem_range, State.ovfReplaced, eq_comm (a := i)]

/-- An entry without its wait count. -/
def Split.uncounted (e : Split) : Split := { e with wait := 0 }

/-- The entries of a list that do not stand in their slots already. -/
def State.displaced (s : State) (es : List Split) : List (Nat × Split) :=
  ((List.range es.length).zip es).filter fun p => !decide ((s.ovfEntry s.cur p.1).uncounted = p.2.uncounted)

theorem setOvfs_eq (s : State) (es : List Split) : s.setOvfs es =
    let s1 := (s.displaced es).foldl (fun s p => s.setOvf p.1 p.2) s
    { s1 with cur := { s1.cur with ovf := es.length, ovfWait := es.map (·.wait) } } := rfl

/-- Only the entry that is replaced does not stand in its slot. -/
theorem displaced_set {s : State} {i : Nat} {o : Split} (hi : i < s.cur.ovf) (hst : (s.ovfEntry s.cur i).st ≠ o.st) :
    s.displaced ((s.ovfEntries s.cur).set i o) = [(i, o)] := by
  have hzip : (List.range s.cur.ovf).zip ((List.range s.cur.ovf).map (s.ovfReplaced i o)) =
      (List.range s.cur.ovf).map fun k => (k, s.ovfReplaced i o k) := List.ext_getElem (by simp) fun k _ _ => by simp
  have hone : ∀ k, (!decide ((s.ovfEntry s.cur k).uncounted = (s.ovfReplaced i o k).uncounted)) = (k == i) := fun k => by
    by_cases hk : k = i
    · have hne : (s.ovfEntry s.cur i).uncounted ≠ o.uncounted := fun h => hst (congrArg Split.st h :)
      rw [hk, State.ovfReplaced, if_pos rfl, decide_eq_false hne, beq_self_eq_true]
      rfl
    · rw [State.ovfReplaced, if_neg hk, beq_false_of_ne hk, decide_eq_true rfl]
      rfl
  rw [State.displaced, ovfEntries_set, List.length_map, List.length_range, hzip, List.filter_map]
  refine (congrArg _ (List.filter_congr fun k _ => hone k)).trans ?_
  rw [List.filter_beq, List.count_eq_one_of_mem List.nodup_range (List.mem_range.2 hi), List.replicate_one, List.map_cons, State.ovfReplaced,
    if_pos rfl]
  rfl

/-- A swap writes one slot of the area. -/
theorem setOvfs_set {s : State} {i : Nat} {o : Split} (hi : i < s.cur.ovf) (hst : (s.ovfEntry s.cur i).st ≠ o.st) :
    s.setOvfs ((s.ovfEntries s.cur).set i o) =
      { s.setOvf i o with cur := { s.cur with ovfWait := (List.range s.cur.ovf).map fun k => (s.ovfReplaced i o k).wait } } := by
  rw [setOvfs_eq, displaced_set hi hst, ovfEntries_set, List.length_map, List.length_range, List.map_map]
  rfl

/-! ## The swap (R78) -/

theorem ovfEntry_keeps (s : State) (g : Group) (k : Nat) : (s.ovfEntry g k).st = (s.slot g k).st ∧ (s.ovfEntry g k).mask = (s.slot g k).mask ∧
    (s.ovfEntry g k).lanes = (s.slot g k).lanes := by
  rw [State.ovfEntry_eq]
  split
  · exact ⟨rfl, rfl, rfl⟩
  · exact ⟨rfl, rfl, rfl⟩

/-- The state after entry `n` and slot `i` have changed places. -/
def State.swapped (s : State) (n : BitVec 3) (i : Nat) : State :=
  { s.setOvf i (s.cur.entry n) with
    cur := (({ s.cur with ovfWait := (List.range s.cur.ovf).map fun k => (s.ovfReplaced i (s.cur.entry n) k).wait } : Group).setEntry n
      { s.ovfEntry s.cur i with v := true, st := .ready }).relabel (swapOwner n i) }

theorem swapped_entry_same (s : State) (n : BitVec 3) (i : Nat) :
    (s.swapped n i).cur.entry n = { s.ovfEntry s.cur i with v := true, st := .ready } := Group.setEntry_entry_same s.cur n _

theorem swapped_entry_other (s : State) {n m : BitVec 3} (i : Nat) (h : m ≠ n) : (s.swapped n i).cur.entry m = s.cur.entry m :=
  Group.setEntry_entry_other s.cur _ h

section
variable {s : State} {n : BitVec 3} {i : Nat} (hblock : (s.block? s.cur.launch s.cur.run s.cur.block).isSome = true)
include hblock

theorem swapped_slot_same : (s.swapped n i).slot (s.swapped n i).cur i =
    { s.cur.entry n with pc := alignPc (s.cur.entry n).pc, wait := (s.cur.entry n).wait % 2 ^ 32, half := false, stall := false } :=
  State.slot_setOvf_same hblock i (s.cur.entry n)

theorem swapped_slot_other {k : Nat} (hk : k ≠ i) : (s.swapped n i).slot (s.swapped n i).cur k = s.slot s.cur k :=
  State.slot_setOvf_other hblock hk (s.cur.entry n)

/-- The slot holds the split that waited, with its count. -/
theorem swapped_ovfEntry_same (hi : i < s.cur.ovf) (hst : (s.cur.entry n).st = .waiting) : (s.swapped n i).ovfEntry (s.swapped n i).cur i =
    { s.cur.entry n with pc := alignPc (s.cur.entry n).pc, half := false, stall := false } := by
  have hwait : (s.swapped n i).cur.ovfWait.getD i 0 = (s.cur.entry n).wait := by
    change ((List.range s.cur.ovf).map fun k => (s.ovfReplaced i (s.cur.entry n) k).wait).getD i 0 = _
    simp [State.ovfReplaced, hi]
  rw [State.ovfEntry_eq, swapped_slot_same hblock, if_pos hst, hwait]

theorem swapped_ovfEntry_other {k : Nat} (hk : k ≠ i) :
    ((s.swapped n i).ovfEntry (s.swapped n i).cur k).mask = (s.ovfEntry s.cur k).mask ∧
    ((s.swapped n i).ovfEntry (s.swapped n i).cur k).st = (s.ovfEntry s.cur k).st ∧
    ((s.swapped n i).ovfEntry (s.swapped n i).cur k).lanes = (s.ovfEntry s.cur k).lanes := by
  obtain ⟨hst, hmask, hlanes⟩ := ovfEntry_keeps (s.swapped n i) (s.swapped n i).cur k
  obtain ⟨hst', hmask', hlanes'⟩ := ovfEntry_keeps s s.cur k
  rw [hst, hmask, hlanes, hst', hmask', hlanes', swapped_slot_other hblock hk]
  exact ⟨rfl, rfl, rfl⟩

/-- The lanes that leave the table stand in the area, and those that leave the area stand in the table. -/
theorem partitioned_swapped (h : Partitioned s) (hi : i < s.cur.ovf) (hv : (s.cur.entry n).v = true) : Partitioned (s.swapped n i) := by
  refine partitioned_iff.2 fun l => ?_
  have htable : (s.swapped n i).cur.holders l + ((s.cur.entry n).holds l).toNat =
      s.cur.holders l + (({ s.ovfEntry s.cur i with v := true, st := .ready } : Split).holds l).toNat :=
    s.cur.holders_setEntry n { s.ovfEntry s.cur i with v := true, st := .ready } l
  have harea := countP_update (p := fun k => maskBit ((s.swapped n i).ovfEntry (s.swapped n i).cur k).lanes l)
    (q := fun k => maskBit (s.ovfEntry s.cur k).lanes l) List.nodup_range (List.mem_range.2 hi) fun k hk => by
      rw [(swapped_ovfEntry_other hblock hk).2.2]
  have hin : ((s.swapped n i).ovfEntry (s.swapped n i).cur i).lanes = (s.cur.entry n).lanes := by
    rw [(ovfEntry_keeps _ _ _).2.2, swapped_slot_same hblock]
    rfl
  have hout : (s.cur.entry n).holds l = maskBit (s.cur.entry n).lanes l := by rw [Split.holds, hv, Bool.true_and]
  have hnew : ({ s.ovfEntry s.cur i with v := true, st := .ready } : Split).holds l = maskBit (s.ovfEntry s.cur i).lanes l := Bool.true_and _
  have hold : s.cur.holders l + (List.range s.cur.ovf).countP (fun k => maskBit (s.ovfEntry s.cur k).lanes l) = (maskBit s.cur.ctl.live l).toNat := by
    rw [← partitioned_iff.1 h l, State.holders, State.ovfEntries, List.countP_map]
    rfl
  have htotal : (s.swapped n i).holders l = (s.swapped n i).cur.holders l +
      (List.range s.cur.ovf).countP fun k => maskBit ((s.swapped n i).ovfEntry (s.swapped n i).cur k).lanes l := by
    rw [State.holders, State.ovfEntries, List.countP_map]
    rfl
  change (s.swapped n i).holders l = (maskBit s.cur.ctl.live l).toNat
  rw [hin] at harea
  rw [hout, hnew] at htable
  omega

end

/-- A swap of a group that only waits takes the split that has waited longest and the topmost dormant entry. -/
theorem swap_eq {s : State} {n : BitVec 3} {i : Nat} (hall : ∀ m, (s.cur.entry m).v = true → (s.cur.entry m).st = .waiting)
    (hn : (s.cur.entry n).v = true) (hlong : s.cur.longest = some n) (hi : i < s.cur.ovf) (hdorm : (s.ovfEntry s.cur i).st = .dormant)
    (htop : topDormant (s.ovfEntries s.cur) = some i) : s.swap = State.checkPartition s (s.swapped n i) := by
  have hwaits : (s.cur.validNums.all fun n => decide ((s.cur.entry n).st = .waiting)) = true :=
    List.all_eq_true.2 fun m hm => decide_eq_true (hall m (mem_validNums.1 hm))
  have hat : (s.ovfEntries s.cur)[i]? = some (s.ovfEntry s.cur i) := by simp [State.ovfEntries, hi]
  have hset := setOvfs_set (o := s.cur.entry n) hi (by rw [hdorm, hall n hn]; exact nofun)
  unfold State.swap
  dsimp only
  rw [if_pos hwaits, hlong, htop]
  dsimp only
  rw [hat]
  dsimp only
  rw [hset]
  rfl

end Sys2Proof.Machine
end

section
/-! PROOF. Promotion and the debugger (R98, R268); the join watchdogs (R85 to R87). -/

namespace Sys2Proof.Machine
open Spec

/-! ## Events of the running group -/

/-- An event of the running group applies to the state as it stands. -/
theorem State.inGroup_cur {s : State} (h : s.cur.resident = true) (f : State → State) : s.inGroup s.cur.ref f = f s := by
  have hself : s.cur.isRef s.cur.ref = true := Group.isRef_self h
  rw [State.inGroup, State.group?_cur hself, State.focus, if_pos hself]

theorem State.syncWaits_of_ovf_eq_zero {s : State} (h : s.cur.ovf = 0) : s.syncWaits = s := by
  rw [State.syncWaits, h]
  rfl

/-! ## The debugger (R98) -/

theorem mem_steppable {g : Group} {n : BitVec 3} :
    n ∈ g.steppable ↔ (g.entry n).v = true ∧ (g.entry n).st = .ready ∧ g.unfrozen n = true := by
  simp [Group.steppable, mem_validNums]

theorem steppable_ascends (g : Group) : g.steppable.Pairwise fun a b => a.toNat < b.toNat := (validNums_ascends g).filter _

/-- The lowest-numbered split that may be stepped comes first. -/
theorem steppable_head {g : Group} {n : BitVec 3} (hn : n ∈ g.steppable) (hmin : ∀ m, m ∈ g.steppable → n.toNat ≤ m.toNat) :
    g.steppable.head? = some n := by
  obtain ⟨hnv, hnp⟩ := List.mem_filter.1 hn
  rw [Group.steppable, List.head?_filter]
  exact find?_least BitVec.toNat (validNums_ascends g) hnv hnp fun m hm hp => hmin m (List.mem_filter.2 ⟨hm, hp⟩)

theorem focusSplit_of_focus {g : Group} {n : BitVec 3} (hf : g.fydbFocus = some n) (hn : n ∈ g.steppable) : g.focusSplit = some n := by
  simp [Group.focusSplit, hf, hn]

theorem focusSplit_of_lowest {g : Group} {n : BitVec 3} (hf : ∀ m, g.fydbFocus = some m → m ∉ g.steppable) (hn : n ∈ g.steppable)
    (hmin : ∀ m, m ∈ g.steppable → n.toNat ≤ m.toNat) : g.focusSplit = some n := by
  unfold Group.focusSplit
  rw [steppable_head hn hmin]
  split
  · rw [if_neg (by simpa using hf _ ‹_›)]
  · rfl

/-- A step of the debugger, in a group without an overflow area. -/
theorem execFydbStep_eq {s : State} (hres : s.cur.resident = true) (hovf : s.cur.ovf = 0) (all : Bool) :
    exec (.fydbStep s.cur.ref all) s = .next { s with cur := { s.cur with
      fydb := if (if all then s.cur.steppable else s.cur.focusSplit.toList).isEmpty then .stopped
        else .stepping (if all then s.cur.steppable else s.cur.focusSplit.toList)
      fydbFocus := if all then s.cur.fydbFocus else s.cur.focusSplit } } := by
  refine congrArg Host.Outcome.next ((State.inGroup_cur hres _).trans ?_)
  exact State.syncWaits_of_ovf_eq_zero hovf

/-- The debugger steps one split. -/
theorem execFydbStep_one {s : State} {n : BitVec 3} (hres : s.cur.resident = true) (hovf : s.cur.ovf = 0) (h : s.cur.focusSplit = some n) :
    exec (.fydbStep s.cur.ref false) s = .next { s with cur := { s.cur with fydb := .stepping [n], fydbFocus := some n } } := by
  rw [execFydbStep_eq hres hovf, h]
  rfl

/-! ## The join watchdog (R85 to R87) -/

theorem jwdLimit_eq (g : Group) : g.jwdLimit = g.ctl.jwd.toNat % 2 ^ 26 := by
  simp [Group.jwdLimit, bitsOf]

/-- A group in which no handler runs, that awaits no record and that no debugger holds, counts on. -/
theorem frozen_eq_false {g : Group} (hinh : ∀ m, (g.entry m).v = true → (g.entry m).inh = false) (hpark : g.parked = none)
    (hdbg : g.fydb = .off) : g.frozen = false := by
  have hhandler : g.handler = none := List.find?_eq_none.2 fun n _ h => by
    obtain ⟨hv, hi⟩ := Bool.and_eq_true_iff.1 h
    rw [hinh n hv] at hi
    cases hi
  simp [Group.frozen, hhandler, hpark, hdbg, Fydb.holds]

/-- A split is due on a slot: it waits there, and its count has reached LIMIT. -/
def Group.due (g : Group) (j m : BitVec 3) : Prop :=
  (g.entry m).v = true ∧ (g.entry m).st = .waiting ∧ (g.entry m).jslot = j ∧ g.jwdLimit ≤ (g.entry m).wait

theorem due_iff {g : Group} {j m : BitVec 3} :
    ((g.entry m).waitsOn j && decide (g.jwdLimit ≤ (g.entry m).wait)) = true ↔ g.due j m := by
  simp [Split.waitsOn, Group.due, and_assoc]

theorem limitReached_of_due {s : State} {j m : BitVec 3} (hlimit : s.cur.jwdLimit ≠ 0) (hrun : s.cur.frozen = false) (h : s.cur.due j m) :
    s.limitReached j = true := by
  have hany : (s.cur.validNums.any fun n => (s.cur.entry n).waitsOn j && decide (s.cur.jwdLimit ≤ (s.cur.entry n).wait)) = true :=
    List.any_eq_true.2 ⟨m, mem_validNums.2 h.1, due_iff.2 h⟩
  rw [State.limitReached]
  dsimp only
  rw [hany, hrun]
  simpa using hlimit

theorem firstDue_eq {g : Group} {j m : BitVec 3} (h : g.due j m) (hmin : ∀ n, g.due j n → m.toNat ≤ n.toNat) : g.firstDue j = some m :=
  find?_least BitVec.toNat (validNums_ascends g) (mem_validNums.2 h.1) (due_iff.2 h) fun n _ hn => hmin n (due_iff.1 hn)

/-- `$lostrc` rises by one, up to all ones (R86). -/
theorem lose_eq (c : GroupRegs) : c.lose = { c with lostrc := BitVec.ofNat 32 (min 0xFFFFFFFF (c.lostrc.toNat + 1)) } := by
  have hcount : (if c.lostrc = 0xFFFFFFFF then c.lostrc else c.lostrc + 1) = BitVec.ofNat 32 (min 0xFFFFFFFF (c.lostrc.toNat + 1)) := by
    split
    · next h => rw [h]; rfl
    · next h =>
      have hlt : c.lostrc.toNat ≠ 0xFFFFFFFF := fun e => h (BitVec.eq_of_toNat_eq e)
      rw [Nat.min_eq_right (by have := c.lostrc.isLt; omega)]
      apply BitVec.eq_of_toNat_eq
      simp
  rw [GroupRegs.lose, hcount]

/-- The release merges without the missing lanes. -/
theorem execJoinWatchdogRelease_eq {s : State} {j : Fin 8} {m : BitVec 3} {l : List (BitVec 3)} (hres : s.cur.resident = true)
    (hpart : Partitioned s) (hovf : s.cur.ovf = 0) (hpol : s.cur.ctl.jwd.getLsbD 31 = false)
    (hreach : s.limitReached (BitVec.ofNat 3 j.val) = true) (hw : s.cur.waiters (BitVec.ofNat 3 j.val) = m :: l) :
    exec (.joinWatchdogRelease s.cur.ref j) s =
      .next { s with cur := (s.onCtl GroupRegs.lose).cur.mergeTo (BitVec.ofNat 3 j.val) m } := by
  have hlost : Partitioned (s.onCtl GroupRegs.lose) := partitioned_of_same_lanes hpart (fun _ => rfl) rfl rfl
  have hmerge : (s.onCtl GroupRegs.lose).merge (BitVec.ofNat 3 j.val) = { s with cur := (s.onCtl GroupRegs.lose).cur.mergeTo (BitVec.ofNat 3 j.val) m } :=
    State.merge_eq (s := s.onCtl GroupRegs.lose) hovf hw
  refine congrArg Host.Outcome.next ((State.inGroup_cur hres _).trans ((if_pos ?_).trans ?_))
  · rw [Group.jwdTrap, hpol, hreach]
    rfl
  · rw [hmerge]
    exact checkPartition_eq (partitioned_mergeTo (s := s.onCtl GroupRegs.lose) hlost hovf (hw ▸ List.mem_cons_self : m ∈ s.cur.waiters _))

/-- The state of a group whose split `m` has waited too long on slot `k`: it stands ready at its `JARV`, its lanes out of ARRIVED. -/
def State.timedOut (s : State) (k m : BitVec 3) : State :=
  let e := s.cur.entry m
  { s with cur := { (s.cur.setEntry m { e with st := .ready, wait := 0 }).setJoin k
    { s.cur.join k with arrived := (s.cur.join k).arrived &&& ~~~e.lanes } with running := m } }

/-- The trap of the watchdog goes to the lowest-numbered split that is due. -/
theorem execJoinWatchdogTrap_eq {s : State} {j : Fin 8} {m : BitVec 3} (hres : s.cur.resident = true)
    (hpol : s.cur.ctl.jwd.getLsbD 31 = true) (hreach : s.limitReached (BitVec.ofNat 3 j.val) = true)
    (hdue : s.cur.firstDue (BitVec.ofNat 3 j.val) = some m) : let x := s.cur.join (BitVec.ofNat 3 j.val)
    exec (.joinWatchdogTrap s.cur.ref j) s = .next ((s.timedOut (BitVec.ofNat 3 j.val) m).takeTrap (.all Cause.joinTimeout (s.cur.entry m).mask
      (x.rejoin &&& s.cur.ctl.live &&& ~~~x.arrived) (BitVec.ofNat 32 j.val) 0 0)) := by
  refine congrArg Host.Outcome.next ((State.inGroup_cur hres _).trans ((if_pos ?_).trans ?_))
  · rw [Group.jwdTrap, hpol, hreach]
    rfl
  · rw [hdue]
    rfl

end Sys2Proof.Machine

namespace Sys2Proof.Proofs
open Machine Spec

/-- R98, R268: promotion, and the three commands of a debugger. -/
theorem groupEvents : GroupEvents := by
  intro s hres hovf
  have hself : s.cur.isRef s.cur.ref = true := Group.isRef_self hres
  refine ⟨fun h => ?promote, ⟨fun n hn hf => ?focus, fun n hn hf hmin => ?lowest, fun ⟨n, hn⟩ => ?all, fun hnone => ?nothing⟩, fun h => ?goOn⟩
  case promote => exact ⟨_, congrArg Host.Outcome.next ((State.onGroup_cur hself _).trans (congrArg (fun c => { s with cur := c }) (if_pos h))), rfl⟩
  case focus =>
    refine ⟨_, execFydbStep_one hres hovf (focusSplit_of_focus hf (mem_steppable.2 hn)), ?_⟩
    rw [← hf]
  case lowest =>
    exact ⟨_, execFydbStep_one hres hovf (focusSplit_of_lowest (fun m hm h => hf m hm (mem_steppable.1 h)) (mem_steppable.2 hn)
      fun m hm => hmin m (mem_steppable.1 hm)), rfl⟩
  case all =>
    have hsome : s.cur.steppable.isEmpty = false := by simpa using List.ne_nil_of_mem (mem_steppable.2 hn)
    refine ⟨_, s.cur.steppable, execFydbStep_eq hres hovf true, ?_, fun _ => mem_steppable, steppable_ascends s.cur⟩
    simp only [if_true, hsome, Bool.false_eq_true, if_false]
  case nothing =>
    have hnil : s.cur.steppable = [] := List.eq_nil_iff_forall_not_mem.2 fun n hn => hnone n (mem_steppable.1 hn)
    refine ⟨_, execFydbStep_eq hres hovf true, ?_⟩
    simp only [if_true, hnil, List.isEmpty_nil]
  case goOn => exact ⟨_, congrArg Host.Outcome.next ((State.onGroup_cur hself _).trans (congrArg (fun c => { s with cur := c }) (if_pos h))), rfl⟩

/-- R78, R85 to R87: the swap, and what the watchdog does on each slot. -/
theorem splitEvents : SplitEvents := by
  intro s hres hpart
  refine ⟨fun n i hall hn hlong _ hi hdorm htop _ hblock _ => ?swap, fun j hovf hdbg hpark hinh => ?watchdog⟩
  case swap =>
    have htop' : topDormant (s.ovfEntries s.cur) = some i :=
      topDormant_eq (by simp [State.ovfEntries, hi, hdorm]) fun k hik hk => by
        have hk : k < s.cur.ovf := by simpa [State.ovfEntries] using hk
        simpa [State.ovfEntries, hk] using htop k hik hk
    have hswap := swap_eq hall hn (longest_eq hn hlong) hi hdorm htop'
    rw [checkPartition_eq (partitioned_swapped hblock hpart hi hn)] at hswap
    have hin := swapped_ovfEntry_same hblock hi (hall n hn)
    refine ⟨_, congrArg Host.Outcome.next ((State.inGroup_cur hres _).trans hswap), swapped_entry_same s n i,
      fun m hm => swapped_entry_other s i hm, rfl, ?_,
      fun k _ hk => ⟨(swapped_ovfEntry_other hblock hk).1, (swapped_ovfEntry_other hblock hk).2.1⟩, rfl, rfl, rfl⟩
    dsimp only
    rw [hin]
    exact ⟨hall n hn, rfl, rfl, rfl, rfl, rfl, rfl, rfl, rfl⟩
  intro k limit due member x hlimit
  refine ⟨fun hpol ⟨m₀, hm₀⟩ => ?release, fun m hpol hm hmin hvec => ?trap⟩
  case release =>
    have hmem : ∀ n, n ∈ s.cur.waiters k ↔ member n := fun n => mem_waiters
    have hdue : s.cur.due k m₀ := by rwa [Group.due, jwdLimit_eq]
    have hreach := limitReached_of_due (jwdLimit_eq s.cur ▸ hlimit) (frozen_eq_false hinh hpark hdbg) hdue
    obtain ⟨m, l, hw⟩ := List.exists_cons_of_ne_nil (List.ne_nil_of_mem ((hmem m₀).2 ⟨hm₀.1, hm₀.2.1, hm₀.2.2.1⟩))
    have hm : m ∈ s.cur.waiters k := hw ▸ List.mem_cons_self
    obtain ⟨hlv, hlst, hlpc, hlmask, hfreed, hothers, hoff, hnone, hslots⟩ := mergeTo_result (g := (s.onCtl GroupRegs.lose).cur) hm
    obtain ⟨splits, joins, pend, fydb, focus, hleft⟩ := (s.onCtl GroupRegs.lose).cur.mergeTo_leaves k m
    refine ⟨_, m, execJoinWatchdogRelease_eq hres hpart hovf hpol hreach hw, (hmem m).1 hm, fun n hn => waiters_head_le hw ((hmem n).2 hn), ?_, hlv,
      hlst, hlpc, fun l => (hlmask l).trans (exists_congr fun n => and_congr (hmem n) Iff.rfl), fun n hn => hfreed n ((hmem n).2 hn),
      fun n hn => hothers n fun h => hn ((hmem n).1 h), hoff, hnone, hslots, ?_, rfl⟩
    · exact hleft ▸ lose_eq _
    · exact hleft ▸ rfl
  case trap =>
    have hdues : ∀ n, s.cur.due k n ↔ due n := fun n => by rw [Group.due, jwdLimit_eq]
    have hreach := limitReached_of_due (jwdLimit_eq s.cur ▸ hlimit) (frozen_eq_false hinh hpark hdbg) ((hdues m).2 hm)
    have hfirst := firstDue_eq ((hdues m).2 hm) fun n hn => hmin n ((hdues n).1 hn)
    have hentry : (s.timedOut k m).cur.sp = { s.cur.entry m with st := .ready, wait := 0 } := Group.setEntry_entry_same s.cur m _
    have hhandles : Handles (s.timedOut k m) := ⟨hdbg, (congrArg Split.inh hentry).trans (hinh m hm.1), hvec⟩
    obtain ⟨bs, htake⟩ := State.takeTrap_eq (t := .all Cause.joinTimeout (s.cur.entry m).mask (x.rejoin &&& s.cur.ctl.live &&& ~~~x.arrived)
      (BitVec.ofNat 32 j.val) 0 0) hhandles (by decide : Cause.joinTimeout ≠ Cause.pageFault)
    have hval := fun (i : Fin 4) l => TrapInfo.all_val Cause.joinTimeout (s.cur.entry m).mask (x.rejoin &&& s.cur.ctl.live &&& ~~~x.arrived)
      (BitVec.ofNat 32 j.val) 0 0 i l
    refine ⟨_, (execJoinWatchdogTrap_eq hres hpol hreach hfirst).trans (congrArg Host.Outcome.next htake), rfl, ?_, fun n hn => ?_,
      Group.setJoin_join_same .., (congrArg Split.pc hentry :), rfl, rfl, fun l => ⟨hval 0 l, hval 1 l, hval 2 l, hval 3 l⟩, rfl, rfl, rfl⟩
    · exact (State.onSp_cur_sp (s.timedOut k m) _).trans (congrArg (s.timedOut k m).inHandler hentry)
    · exact (State.onSp_cur_entry (s.timedOut k m) _ hn).trans (Group.setEntry_entry_other s.cur _ hn)

/-- Settles O37, from its two parts. -/
theorem splitAndGroupEvents : Obligations.SplitAndGroupEvents := ⟨splitEvents, groupEvents⟩

end Sys2Proof.Proofs
end

section
/-! PROOF. Instructions that write D by lanes (R99 to R112, R135): O1 and O2. -/

namespace Sys2Proof.Machine
open Spec

/-! ## Fields of a well-formed instruction -/

theorem selected_of_wellFormed {i : Instr} {op : BitVec 7} {f : Fields} (hparts : i.parts = some (op, f)) (hw : i.wellFormed = true) :
    i.selected = true := by
  rw [wellFormed_of_parts hparts, Bool.and_eq_true] at hw
  exact hw.2

/-- Where the map leaves no choice of U, it is 0 (R41). -/
theorem u_of_wellFormed {i : Instr} {op : BitVec 7} {f : Fields} {r : Row} (hparts : i.parts = some (op, f)) (hw : i.wellFormed = true)
    (hrow : rowOf op f = some r) (hu : r.u = .zero) : f.u = false := by
  rw [wellFormed_of_parts hparts, Bool.and_eq_true, Bool.and_eq_true] at hw
  obtain ⟨r', hr', hcheck⟩ := legalFields_iff.1 hw.1.2
  obtain ⟨-, hchk, -⟩ := formCheck_eq_none.1 hcheck
  obtain rfl : r = r' := Option.some.inj (hrow.symm.trans hr')
  simpa [chkU, hu] using hchk

/-! ## Issue -/

/-- A form that is issued by its row alone has its effect where its operands are in order and it has lanes to act for. -/
theorem issue_planOf {i : Instr} {op : BitVec 7} {f : Fields} {body : State → Res} {s : State} (h : Ready op f s) (hacts : Acts f s) :
    issue i (planOf op f) body s = finish i (body s) :=
  issue_ready h ⟨rfl, rfl, rfl, rfl, rfl⟩ rfl fun hv => hacts ((Bool.not_eq_true' _).mp hv)

/-! ## Writing D by lanes (R101) -/

/-- The s register or pair that a row's D names ends below 64 (R37). -/
theorem dest_lt {op : BitVec 7} {f : Fields} {s : State} {n : Nat} (h : Ready op f s) (hrow : f.u = true → (rowFor op f).d = .r n)
    (hu : f.u = true) : f.d.toNat + n ≤ 64 := kindOk_r_lt (hrow hu ▸ kind_d_of_ready h) hu

/-- An instruction that has written its results to D is complete. -/
theorem finish_writeD (i : Instr) (f : Fields) (s : State) (wide : Bool) (x : Fin 32 → DWord)
    (hd : f.u = true → f.d.toNat + (if wide then 2 else 1) ≤ 64) :
    Plain i s (finish i (writeD f s wide x)) ∧
      Result s.cur.regs (finish i (writeD f s wide x)).cur.regs f.u wide f.d s.cur.exec x := by
  obtain ⟨hplain, hregs⟩ := finish_done s i fun r => r.writeRes f.u wide f.d s.cur.exec x
  exact ⟨hplain, hregs ▸ RegFile.result_writeRes _ _ _ _ _ _ hd⟩

/-- The instruction is issued by its row alone and writes the values of the lanes to D. -/
def Lanewise (i : Instr) (x : LaneOp) : Prop :=
  ∀ s, exec i s = .next (issue i (planOf x.op x.f) (fun s => writeD x.f s x.wide (x.val s)) s)

/-- D of the row is the register, or the pair, that the values fill. -/
def FitsRow (x : LaneOp) : Prop := x.f.u = true → (rowFor x.op x.f).d = .r (if x.wide then 2 else 1)

/-- The instructions of a table complete whose values are those that the model writes, to the D that their row names. -/
theorem laneOpHolds_of {tbl : Instr → Option LaneOp} (hexec : ∀ i x, tbl i = some x → Lanewise i x)
    (hrow : ∀ i x, tbl i = some x → i.wellFormed = true → FitsRow x) : LaneOpHolds tbl := by
  intro i x s hx hw hacts h
  exact ⟨_, (hexec i x hx s).trans (congrArg Host.Outcome.next (issue_planOf h hacts)), finish_writeD _ _ _ _ _ (dest_lt h (hrow i x hx hw))⟩

/-! ## The arithmetic instructions (R102, R103) -/

theorem arith_lanewise (i : Instr) (x : LaneOp) (h : arith i = some x) : Lanewise i x := by
  cases i <;> cases h
  case iadd | iaddExt | isub | isubExt | imul | imulExt | imulh | imulhExt | imin | iminExt | imax | imaxExt | iadd3 | imad =>
    exact fun s => rfl
  case iabs | ineg | popc | clz | ctz | brev => exact fun s => rfl

/-- The counts name one register whatever the type (R103). -/
theorem row_single_d {f : Fields} : (rowFor 0x27 f).d =
    if f.sub.toNat = 2 ∨ f.sub.toNat = 3 ∨ f.sub.toNat = 4 then .r 1 else .r (typeRegs f) := rfl

theorem arith_fitsRow (i : Instr) (x : LaneOp) (h : arith i = some x) (hw : i.wellFormed = true) : FitsRow x := by
  cases i <;> cases h
  case iadd | iaddExt | isub | isubExt | imul | imulExt | imulh | imulhExt | imin | iminExt | imax | imaxExt | iadd3 | imad =>
    exact fun _ => rfl
  case iabs | ineg | popc | clz | ctz | brev =>
    have hsub := of_decide_eq_true (selected_of_wellFormed rfl hw)
    intro _
    simp only [int1, cnt1, row_single_d, hsub]
    rfl

/-! ## The bitwise instructions, shifts and bit fields (R102, R104, R105) -/

theorem logic_lanewise (i : Instr) (x : LaneOp) (h : logic i = some x) : Lanewise i x := by
  cases i <;> cases h
  case and | andExt | or | orExt | xor | xorExt | andn | andnExt | not | notExt => exact fun s => rfl
  case shl | shlExt | shr | shrExt | sar | sarExt | rotl | rotlExt => exact fun s => rfl
  case bfx | bfi => exact fun s => rfl

theorem logic_fitsRow (i : Instr) (x : LaneOp) (h : logic i = some x) : FitsRow x := by
  cases i <;> cases h
  case and | andExt | or | orExt | xor | xorExt | andn | andnExt | not | notExt => exact fun _ => rfl
  case shl | shlExt | shr | shrExt | sar | sarExt | rotl | rotlExt => exact fun _ => rfl
  case bfx | bfi => exact fun _ => rfl

/-! ## Moves, selections, addresses, movement between lanes (R106 to R112, R135) -/

/-- What SHFL and BCAST read of another lane, as the statement puts it (R110). -/
theorem neighbourA_eq (f : Fields) (s : State) (l : Fin 32) : neighbourA f s l = neighbour f s l := by
  unfold neighbourA neighbour
  cases s.turn.before with
  | none => rfl
  | some v =>
    exact if_congr (by rw [Bool.or_eq_true]) rfl rfl

/-- A running sum from zero is the sum of the values. -/
theorem foldl_add_eq_sum {α : Type} (g : α → Int) (l : List α) : l.foldl (fun y m => y + g m) 0 = (l.map g).sum := by
  rw [List.sum_eq_foldl, List.foldl_map]

theorem moves_lanewise (i : Instr) (x : LaneOp) (h : moves i = some x) : Lanewise i x := by
  cases i <;> cases h
  case isel | mov | movExt | movi | movl | lea | clea => exact fun s => rfl
  case shfl | bcast =>
    intro s
    simp only [← neighbourA_eq]
    rfl
  case ipsum =>
    intro s
    simp only [← foldl_add_eq_sum]
    rfl

/-- MOV writes one register, whichever source its row names (R107). -/
theorem row_mov_d {f : Fields} : (rowFor 0x2A f).d = .r 1 := by
  show Row.d (Option.getD (some (ite _ _ _)) _) = _
  split <;> rfl

theorem moves_fitsRow (i : Instr) (x : LaneOp) (h : moves i = some x) (hw : i.wellFormed = true) : FitsRow x := by
  cases i <;> cases h
  case isel | movi | movl | lea | clea => exact fun _ => rfl
  case mov | movExt => exact fun _ => row_mov_d
  case shfl | bcast | ipsum =>
    have hu := u_of_wellFormed rfl hw rfl rfl
    exact fun h => absurd h (by rw [hu]; decide)

end Sys2Proof.Machine

namespace Sys2Proof.Proofs
open Machine Spec

/-- Settles O1: every instruction of both tables writes the table's values to the D of its row. -/
theorem integerOperations : Obligations.IntegerOperations :=
  ⟨laneOpHolds_of arith_lanewise arith_fitsRow, laneOpHolds_of logic_lanewise fun i x h _ => logic_fitsRow i x h⟩

/-- Settles O2: so does every instruction of the table of moves; a lane of another split is read as the statement reads it, and the running
sum of IPSUM is the sum of its lanes. -/
theorem movesAndLanes : Obligations.MovesAndLanes := laneOpHolds_of moves_lanewise moves_fitsRow

end Sys2Proof.Proofs
end

section
/-! PROOF. Comparisons (R89, R106, R119, R134), and O4. -/

namespace Sys2Proof.Machine
open Spec

/-! ## Results of comparisons (R106) -/

/-- The bit, or the mask, that a comparison writes to a register of its side is its result. -/
theorem RegFile.cmpResult_write (r : RegFile) (u : Bool) {d : BitVec 8} (exec : Word) (p : Fin 32 → Bool)
    (hs : u = true → d.toNat < 64) (hk : u = false → d.toNat < 16) :
    CmpResult r (if u then r.writeS d (if p 0 then 1 else 0) else r.setK d (exec &&& maskOf p)) u d exec p := by
  cases u
  · obtain ⟨hv, hs, hget, hother⟩ := r.kResult_setK (hk rfl) (exec &&& maskOf p)
    exact ⟨hv, hget, hother, hs⟩
  · obtain ⟨hv, hkk, hholds, hother⟩ := r.sResult_writeS (hs rfl) (if p 0 then 1 else 0)
    exact ⟨hv, hholds, hother, hkk⟩

/-- The destination of a comparison is an s register, or a mask (R37). -/
theorem cmp_dest {op : BitVec 7} {f : Fields} {s : State} (h : Ready op f s) (hrow : (rowFor op f).d = .ks) :
    (f.u = true → f.d.toNat < 64) ∧ (f.u = false → f.d.toNat < 16) := by
  have hk := kind_d_of_ready h
  rw [hrow] at hk
  constructor
  · intro hu
    simp only [kindOk, hu, if_true, regRange, Bool.and_eq_true, decide_eq_true_eq] at hk
    omega
  · intro hu
    simpa [kindOk, hu] using hk

/-- An instruction that has written a comparison alone is complete. -/
theorem finish_writeCmp (i : Instr) {op : BitVec 7} {f : Fields} {s : State} (h : Ready op f s) (hrow : (rowFor op f).d = .ks)
    (p : Fin 32 → Bool) : Plain i s (finish i (.done (writeCmp f s p))) ∧
      CmpResult s.cur.regs (finish i (.done (writeCmp f s p))).cur.regs f.u f.d s.cur.exec p := by
  obtain ⟨hs, hk⟩ := cmp_dest h hrow
  obtain ⟨hplain, hregs⟩ := finish_done s i fun r => if f.u then r.writeS f.d (if p 0 then 1 else 0) else r.setK f.d (s.cur.exec &&& maskOf p)
  exact ⟨hplain, hregs ▸ RegFile.cmpResult_write _ _ _ _ hs hk⟩

/-! ## Flags (R116) -/

@[simp] theorem State.orFp_cur_exec (s : State) (x : BitVec 5) : (s.orFp x).cur.exec = s.cur.exec := by
  rw [State.orFp, Group.exec, State.onSp_cur_sp]
  rfl

/-- An instruction that has raised flags and written registers is complete. -/
theorem finish_raised (s : State) (i : Instr) (x : BitVec 5) (g : RegFile → RegFile) : let t := finish i (.done ((s.orFp x).onRegs g))
    Completed i s t (past i s) x 0 s.cur.ctl.srstate ∧ t.cur.regs = g s.cur.regs := by
  have hsp : ((s.orFp x).onRegs g).cur.sp = { s.cur.sp with fpf := s.cur.sp.fpf ||| x } :=
    State.onSp_cur_sp s fun e => { e with fpf := e.fpf ||| x }
  have hsig : ((s.orFp x).onRegs g).sigFolded i = sigAfter i s := by
    rw [State.sigFolded_eq]
    unfold sigAfter
    rw [hsp]
    rfl
  rw [finish, State.retire_eq, hsig, hsp]
  refine ⟨⟨⟨rfl, rfl, rfl, fun n hn => ?_, fun _ => rfl, fun _ _ => rfl, fun _ _ => rfl⟩, rfl, ?_⟩, rfl⟩
  · exact (State.onSp_cur_entry ((s.orFp x).onRegs g) _ hn).trans (State.onSp_cur_entry s (fun e => { e with fpf := e.fpf ||| x }) hn)
  · rw [State.onSp_cur_sp, hsp]
    simp [past]

/-- Where every lane raises one flag or none, the flags of all are that flag if some lane raises it. -/
theorem orFlags_one (ls : List (Fin 32)) (o : Fin 32 → FpOut) (c : BitVec 5) (h : ∀ l, (o l).flags = 0 ∨ (o l).flags = c) :
    orFlags (ls.map fun l => (l, o l)) = if ls.any fun l => (o l).flags ≠ 0 then c else 0 := by
  suffices ∀ x, (ls.map fun l => (l, o l)).foldl (fun x p => x ||| p.2.flags) x = x ||| if ls.any fun l => (o l).flags ≠ 0 then c else 0 from
    (this 0).trans (BitVec.zero_or ..)
  induction ls with
  | nil => simp
  | cons l ls ih =>
    intro x
    rw [List.map_cons, List.foldl_cons, ih, List.any_cons]
    obtain hl | hl := h l
    · simp [hl]
    · by_cases hc : c = 0
      · simp [hl, hc]
      · simp only [hl, ne_eq, hc, not_false_eq_true, decide_true, Bool.true_or, if_true, BitVec.or_assoc]
        split
        · rw [BitVec.or_self]
        · exact congrArg _ (BitVec.or_zero ..)

/-- No lane traps that raises no enabled flag. -/
theorem fpBad_eq_nil {ctl : BitVec 5} {ls : List (Fin 32)} {o : Fin 32 → FpOut} (h : ∀ l, (o l).flags &&& ctl = 0) :
    fpBad ctl (ls.map fun l => (l, o l)) = [] := by
  rw [fpBad, List.filter_eq_nil_iff]
  intro p hp
  obtain ⟨l, -, rfl⟩ := List.mem_map.1 hp
  simp [h l]

/-- A comparison of which no lane traps raises the flags of its lanes and writes its result. -/
theorem fpDeliverCmp_of_none {f : Fields} {s : State} {p : Fin 32 → Bool} {o : Fin 32 → FpOut} (h : ∀ l, (o l).flags &&& s.fpEnables = 0) :
    fpDeliverCmp f s p o = .done (writeCmp f (s.orFp (orFlags ((activeLanes f.u s.cur.exec).map fun l => (l, o l)))) p) := by
  unfold fpDeliverCmp
  simp only [fpBad_eq_nil h]

/-- A comparison raises NV or nothing (R119). -/
theorem condNv_cases (c : BitVec 3) (a b : Val) : condNv c a b = 0 ∨ condNv c a b = flNV := by
  unfold condNv nvOf
  split_ifs <;> simp

theorem nv_and_of_disabled : ∀ e : BitVec 5, e.getLsbD 4 = false → flNV &&& e = 0 := by decide

/-- FCMP of which no lane traps is complete: NV is raised if some lane raises it, and the result is written (R119). -/
theorem finish_fcmp {f : Fields} {s : State} (h : Ready 0x3A f s) (p : Fin 32 → Bool) {nv : Fin 32 → BitVec 5} {o : Fin 32 → FpOut}
    (ho : ∀ l, (o l).flags = nv l) (hnv : ∀ l, nv l = 0 ∨ nv l = flNV) (hen : s.fpEnables.getLsbD 4 = false) :
    Completed (.fcmp f) s (finish (.fcmp f) (fpDeliverCmp f s p o)) (past (.fcmp f) s)
      (if (activeLanes f.u s.cur.exec).any fun l => nv l ≠ 0 then 16 else 0) 0 s.cur.ctl.srstate ∧
      CmpResult s.cur.regs (finish (.fcmp f) (fpDeliverCmp f s p o)).cur.regs f.u f.d s.cur.exec p := by
  have hnone : ∀ l, (o l).flags &&& s.fpEnables = 0 := fun l => by
    obtain hl | hl := hnv l
    · rw [ho, hl]
      exact BitVec.zero_and
    · rw [ho, hl, nv_and_of_disabled _ hen]
  have hflags := orFlags_one (activeLanes f.u s.cur.exec) o flNV fun l => ho l ▸ hnv l
  simp only [ho] at hflags
  obtain ⟨hs, hk⟩ := cmp_dest h rfl
  obtain ⟨hdone, hregs⟩ := finish_raised s (.fcmp f) (orFlags ((activeLanes f.u s.cur.exec).map fun l => (l, o l)))
    fun r => if f.u then r.writeS f.d (if p 0 then 1 else 0) else r.setK f.d (s.cur.exec &&& maskOf p)
  rw [fpDeliverCmp_of_none hnone, writeCmp, State.orFp_cur_exec, hregs]
  exact ⟨hflags ▸ hdone, RegFile.cmpResult_write _ _ _ _ hs hk⟩

end Sys2Proof.Machine

namespace Sys2Proof.Proofs
open Machine Spec

/-- Settles O4: ICMP and CCHK write their result alone; FCMP, its flag not enabled, raises NV beside. -/
theorem comparisons : Obligations.Comparisons := by
  intro f s hacts
  refine ⟨fun h => ?icmp, fun h hen => ?fcmp, fun h => ?cchk⟩
  case icmp => exact ⟨_, congrArg Host.Outcome.next (issue_planOf h hacts), finish_writeCmp _ h rfl _⟩
  case cchk => exact ⟨_, congrArg Host.Outcome.next (issue_planOf h hacts), finish_writeCmp _ h rfl _⟩
  case fcmp =>
    exact ⟨_, congrArg Host.Outcome.next (issue_planOf h hacts), finish_fcmp h _ (fun l => BitVec.or_zero ..) (fun l => condNv_cases ..) hen⟩

end Sys2Proof.Proofs
end

section
/-! PROOF. Values of integer types (R100), and the fold of IRED (R112): what characterises a reduction. -/

namespace Sys2Proof.Machine
open Spec

/-! ## Types (R100) -/

theorem typeOf_width_le (f : Fields) : (typeOf f).width ≤ 64 := by
  have : ∀ c, (IntType.ofCode c).width ≤ 64 := by decide
  exact this f.mod3

/-- Reading by signedness changes a number by a multiple of 2^w. -/
theorem signT_modEq (t : IntType) (n : Nat) : signT t n ≡ n [ZMOD 2 ^ t.width] := by
  unfold signT
  split
  · exact Int.modEq_iff_dvd.2 ⟨1, by ring⟩
  · rfl

/-- put wraps modulo 2^w. -/
theorem putT_congr {t : IntType} {y z : Int} (h : y ≡ z [ZMOD 2 ^ t.width]) : putT t y = putT t z := by
  unfold putT
  rw [show y % 2 ^ t.width = z % 2 ^ t.width from h]

/-- The low bits of a number of 32 bits, put in a raw operand, are those of the number. -/
theorem raw32_ofInt_mod (z : Int) {w : Nat} (hw : w ≤ 32) : (((0 : Word) ++ BitVec.ofInt 32 z).toNat % 2 ^ w : Int) = z % 2 ^ w := by
  have hnat : ((0 : Word) ++ BitVec.ofInt 32 z).toNat = (BitVec.ofInt 32 z).toNat := by
    rw [BitVec.toNat_append, show (0 : Word).toNat = 0 from rfl, Nat.zero_shiftLeft, Nat.zero_or]
  rw [hnat, BitVec.toNat_ofInt, Int.toNat_of_nonneg (Int.emod_nonneg _ (by decide))]
  exact Int.emod_emod_of_dvd z (by exact_mod_cast Nat.pow_dvd_pow 2 hw)

/-- The low w bits of what put gives are the number modulo 2^w. -/
theorem bitsT_putT {t : IntType} (ht : t.width ≤ 64) (n : Nat) : bitsT t (putT t n) = n % 2 ^ t.width := by
  have hn : ((n : Int) % 2 ^ t.width).toNat = n % 2 ^ t.width := by exact_mod_cast Int.toNat_natCast (n % 2 ^ t.width)
  unfold putT bitsT
  rw [hn]
  split
  case isTrue hw =>
    have hz : signT t (n % 2 ^ t.width) % 2 ^ t.width = ((n % 2 ^ t.width : Nat) : Int) % 2 ^ t.width := signT_modEq ..
    zify
    rw [raw32_ofInt_mod _ (by omega), hz]
    simp
  case isFalse =>
    rw [BitVec.toNat_ofNat, Nat.mod_mod_of_dvd _ (Nat.pow_dvd_pow 2 ht), Nat.mod_mod]

theorem bitsT_lt (t : IntType) (x : DWord) : bitsT t x < 2 ^ t.width := Nat.mod_lt _ (Nat.two_pow_pos _)

/-- get takes back what put gives of w bits. -/
theorem getT_putT {t : IntType} (ht : t.width ≤ 64) {n : Nat} (hn : n < 2 ^ t.width) : getT t (putT t n) = signT t n := by
  rw [getT, bitsT_putT ht, Nat.mod_eq_of_lt hn]

/-- The w bits of a result are those of the number. -/
theorem getLsbD_putT {t : IntType} (ht : t.width ≤ 64) (n : Nat) {b : Nat} (hb : b < t.width) : (putT t n).getLsbD b = n.testBit b := by
  have h : (bitsT t (putT t n)).testBit b = (n % 2 ^ t.width).testBit b := by rw [bitsT_putT ht]
  simpa [bitsT, Nat.testBit_mod_two_pow, hb, BitVec.getLsbD] using h

/-! ## Folds of a list by one operation -/

/-- A fold that picks one of two at each step ends with one of the list, related to each. -/
theorem foldl_picks {α : Type} {op : α → α → α} {r : α → α → Prop} (htrans : ∀ {a b c}, r a b → r b c → r a c)
    (hop : ∀ a b, (op a b = a ∨ op a b = b) ∧ r (op a b) a ∧ r (op a b) b) (x : α) (l : List α) :
    l.foldl op x ∈ x :: l ∧ ∀ y ∈ x :: l, r (l.foldl op x) y := by
  induction l generalizing x with
  | nil =>
    obtain ⟨h, hr, -⟩ := hop x x
    exact ⟨List.mem_cons_self, by simpa [or_self_iff.1 h] using hr⟩
  | cons z l ih =>
    obtain ⟨hmem, hrel⟩ := ih (op x z)
    obtain ⟨hpick, hx, hz⟩ := hop x z
    have hhead := hrel _ List.mem_cons_self
    refine ⟨?_, fun y hy => ?_⟩
    · obtain h | h := List.mem_cons.1 hmem
      · rw [List.foldl_cons, h]
        obtain h | h := hpick <;> simp [h]
      · exact List.mem_cons_of_mem _ (List.mem_cons_of_mem _ h)
    · obtain rfl | rfl | hy : y = x ∨ y = z ∨ y ∈ l := by simpa using hy
      · exact htrans hhead hx
      · exact htrans hhead hz
      · exact hrel y (List.mem_cons_of_mem _ hy)

section
variable {op : Nat → Nat → Nat} {b : Nat}

theorem testBit_foldl_and (hop : ∀ x y, (op x y).testBit b = (x.testBit b && y.testBit b)) (x : Nat) (l : List Nat) :
    (l.foldl op x).testBit b = (x :: l).all (·.testBit b) := by
  induction l generalizing x with
  | nil => simp
  | cons y l ih => simp [ih, hop, Bool.and_assoc]

theorem testBit_foldl_or (hop : ∀ x y, (op x y).testBit b = (x.testBit b || y.testBit b)) (x : Nat) (l : List Nat) :
    (l.foldl op x).testBit b = (x :: l).any (·.testBit b) := by
  induction l generalizing x with
  | nil => simp
  | cons y l ih => simp [ih, hop, Bool.or_assoc]

/-- Exclusive or leaves the parity of the ones. -/
theorem testBit_foldl_xor (hop : ∀ x y, (op x y).testBit b = (x.testBit b ^^ y.testBit b)) (x : Nat) (l : List Nat) :
    (l.foldl op x).testBit b = decide (((x :: l).filter (·.testBit b)).length % 2 = 1) := by
  induction l generalizing x with
  | nil => cases h : x.testBit b <;> simp [h]
  | cons y l ih =>
    rw [List.foldl_cons, ih]
    cases hx : x.testBit b <;> cases hy : y.testBit b <;> simp [hop, hx, hy]
    omega

end

/-! ## IRED (R112) -/

theorem iredOp_add (t : IntType) (a b : Nat) : iredOp 0 t a b = (a + b) % 2 ^ t.width := rfl

/-- The running sum of IRED is the sum of the values modulo 2^w. -/
theorem iredFold_add_modEq (t : IntType) (ns : List Nat) : (iredFold 0 t ns : Int) ≡ (ns.map (signT t)).sum [ZMOD 2 ^ t.width] := by
  suffices h : ∀ (l : List Nat) (x : Nat), ((l.foldl (iredOp 0 t) x : Nat) : Int) ≡ signT t x + (l.map (signT t)).sum [ZMOD 2 ^ t.width] by
    cases ns with
    | nil => rfl
    | cons x l => exact h l x
  intro l
  induction l with
  | nil => exact fun x => by simpa using (signT_modEq t x).symm
  | cons y l ih =>
    intro x
    have hop : (iredOp 0 t x y : Int) ≡ x + y [ZMOD 2 ^ t.width] := by
      rw [iredOp_add]
      push_cast
      exact Int.mod_modEq ..
    calc ((l.foldl (iredOp 0 t) (iredOp 0 t x y) : Nat) : Int)
        ≡ signT t (iredOp 0 t x y) + (l.map (signT t)).sum [ZMOD 2 ^ t.width] := ih _
      _ ≡ (x + y) + (l.map (signT t)).sum [ZMOD 2 ^ t.width] := ((signT_modEq ..).trans hop).add_right _
      _ ≡ (signT t x + signT t y) + (l.map (signT t)).sum [ZMOD 2 ^ t.width] :=
        ((signT_modEq t x).symm.add (signT_modEq t y).symm).add_right _
      _ = signT t x + ((y :: l).map (signT t)).sum := by rw [List.map_cons, List.sum_cons, add_assoc]

/-- Where every operation keeps the smaller, or the larger, of two values, IRED gives one of the values that bounds all. -/
theorem iredFold_picks {sub : BitVec 4} {t : IntType} {r : Int → Int → Prop} (htrans : ∀ {a b c}, r a b → r b c → r a c)
    (hop : ∀ a b, (iredOp sub t a b = a ∨ iredOp sub t a b = b) ∧ r (signT t (iredOp sub t a b)) (signT t a) ∧
      r (signT t (iredOp sub t a b)) (signT t b)) {ns : List Nat} (hns : ns ≠ []) :
    iredFold sub t ns ∈ ns ∧ ∀ n ∈ ns, r (signT t (iredFold sub t ns)) (signT t n) := by
  obtain ⟨x, l, rfl⟩ := List.exists_cons_of_ne_nil hns
  exact foldl_picks (r := fun a b => r (signT t a) (signT t b)) htrans hop x l

theorem iredOp_min (t : IntType) (a b : Nat) : (iredOp 1 t a b = a ∨ iredOp 1 t a b = b) ∧
    signT t (iredOp 1 t a b) ≤ signT t a ∧ signT t (iredOp 1 t a b) ≤ signT t b := by
  have h : iredOp 1 t a b = if signT t a ≤ signT t b then a else b := rfl
  rw [h]
  split_ifs with hle
  · exact ⟨.inl rfl, le_rfl, hle⟩
  · exact ⟨.inr rfl, (not_le.1 hle).le, le_rfl⟩

theorem iredOp_max (t : IntType) (a b : Nat) : (iredOp 2 t a b = a ∨ iredOp 2 t a b = b) ∧
    signT t (iredOp 2 t a b) ≥ signT t a ∧ signT t (iredOp 2 t a b) ≥ signT t b := by
  have h : iredOp 2 t a b = if signT t a ≤ signT t b then b else a := rfl
  rw [h]
  split_ifs with hle
  · exact ⟨.inr rfl, hle, le_rfl⟩
  · exact ⟨.inl rfl, le_rfl, (not_le.1 hle).le⟩

theorem iredOp_xor {sub : BitVec 4} {t : IntType} (h : 5 ≤ sub.toNat) : iredOp sub t = Nat.xor := by
  funext a b
  unfold iredOp
  split
  case h_6 => rfl
  all_goals omega

/-- A bit of a reduction of bits: all of them, any of them, or their parity. -/
theorem testBit_iredFold {sub : BitVec 4} {t : IntType} {ns : List Nat} (hns : ns ≠ []) (hsub : 3 ≤ sub.toNat) (b : Nat) :
    (iredFold sub t ns).testBit b = if sub = 3 then ns.all (·.testBit b) else if sub = 4 then ns.any (·.testBit b)
      else decide ((ns.filter (·.testBit b)).length % 2 = 1) := by
  obtain ⟨x, l, rfl⟩ := List.exists_cons_of_ne_nil hns
  show (l.foldl (iredOp sub t) x).testBit b = _
  split_ifs with h3 h4
  · subst h3
    exact testBit_foldl_and (fun x y => Nat.testBit_and x y b) x l
  · subst h4
    exact testBit_foldl_or (fun x y => Nat.testBit_or x y b) x l
  · have hop : iredOp sub t = Nat.xor := iredOp_xor (by bv_omega)
    rw [hop]
    exact testBit_foldl_xor (fun x y => Nat.testBit_xor x y b) x l

/-- Lanes of exec exist where it is not empty. -/
theorem lanesOn_ne_nil {exec : Word} (h : exec ≠ 0) : laneList.filter (maskBit exec) ≠ [] := by
  intro hnil
  refine h (word_ext fun l => ?_)
  rw [maskBit_zero]
  simpa using List.filter_eq_nil_iff.1 hnil l (mem_laneList l)

/-- A value picked among those of some lanes is put back as it was, and its bound is one of the lanes' operands. -/
theorem picked_lane {t : IntType} (ht : t.width ≤ 64) {r : Int → Int → Prop} {on : List (Fin 32)} {x : Fin 32 → DWord} {n : Nat}
    (hmem : n ∈ on.map fun l => bitsT t (x l)) (hr : ∀ m ∈ on.map (fun l => bitsT t (x l)), r (signT t n) (signT t m)) :
    (∃ l ∈ on, putT t n = putT t (bitsT t (x l))) ∧ ∀ l ∈ on, r (getT t (putT t n)) (getT t (x l)) := by
  obtain ⟨k, hk, rfl⟩ := List.mem_map.1 hmem
  refine ⟨⟨k, hk, rfl⟩, fun l hl => ?_⟩
  rw [getT_putT ht (bitsT_lt t _)]
  exact hr _ (List.mem_map_of_mem hl)

/-- What IRED writes is the reduction of the lanes of exec (R112). -/
theorem reduced_iredFold {sub : BitVec 4} {t : IntType} (ht : t.width ≤ 64) {exec : Word} (hexec : exec ≠ 0) (x : Fin 32 → DWord) :
    Reduced sub t exec x (putT t (iredFold sub t ((laneList.filter (maskBit exec)).map fun l => bitsT t (x l)))) := by
  set on := laneList.filter (maskBit exec) with hon
  have hns : on.map (fun l => bitsT t (x l)) ≠ [] := List.map_eq_nil_iff.not.2 (lanesOn_ne_nil hexec)
  refine ⟨fun hsub => ?add, fun hsub => ?min, fun hsub => ?max, fun hsub b hb => ?bits⟩
  case add =>
    subst hsub
    have h := putT_congr (iredFold_add_modEq t (on.map fun l => bitsT t (x l)))
    rwa [List.map_map] at h
  case min =>
    subst hsub
    obtain ⟨hmem, hle⟩ := iredFold_picks (r := (· ≤ ·)) le_trans (iredOp_min t) hns
    exact picked_lane ht hmem hle
  case max =>
    subst hsub
    obtain ⟨hmem, hle⟩ := iredFold_picks (r := (· ≥ ·)) ge_trans (iredOp_max t) hns
    exact picked_lane ht hmem hle
  case bits =>
    rw [getLsbD_putT ht _ hb, testBit_iredFold hns hsub, List.all_map, List.any_map, List.filter_map, List.length_map]
    rfl

end Sys2Proof.Machine
end

section
/-! PROOF. BMIX (R109): its bytes, its codes, its reserved words; and O13. -/

namespace Sys2Proof.Machine
open Spec

/-! ## The pool and the codes of BMIX (R109) -/

/-- Byte `k` of the pool is byte `k` of B above A. -/
theorem pool_getD (a b : Word) {k : Nat} (hk : k ≤ 7) : (bytesOfWord a ++ bytesOfWord b).getD k 0 = (b ++ a).extractLsb' (8 * k) 8 := by
  by_cases h : k ≤ 3
  · rw [BitVec.extractLsb'_append_eq_of_add_le (by omega)]
    interval_cases k <;> rfl
  · rw [BitVec.extractLsb'_append_eq_of_le (by omega)]
    interval_cases k
    all_goals rfl

/-- A code is a field of four bits of word 2. -/
theorem bmixCode_eq (w : Word) (i : Nat) : bmixCode w i = (w.extractLsb' (4 * i) 4).toNat := by
  rw [bmixCode, BitVec.extractLsb'_toNat, Nat.shiftRight_eq_div_pow]

/-- The words of BMIX that are not reserved (R109). -/
theorem bmixOk_iff (w : Word) : bmixOk w = true ↔ mixCodes w := by
  have hhigh : w.extractLsb' 16 16 = 0 ↔ w.toNat < 65536 := by
    rw [← BitVec.toNat_inj, BitVec.extractLsb'_toNat, Nat.shiftRight_eq_div_pow]
    have := w.isLt
    show w.toNat / 2 ^ 16 % 2 ^ 16 = 0 ↔ _
    omega
  have hcode : ∀ i, bmixCode w i ≠ 15 ↔ w.extractLsb' (4 * i) 4 ≠ 15 := fun i => by
    rw [bmixCode_eq, ne_eq, ne_eq, ← BitVec.toNat_inj]
    rfl
  rw [bmixOk, mixCodes, hhigh, Bool.and_eq_true, decide_eq_true_eq, and_comm]
  refine and_congr_right fun _ => ?_
  simp only [List.all_eq_true, List.mem_range, decide_eq_true_eq, hcode]
  exact ⟨fun h i => h i.val i.isLt, fun h i hi => h ⟨i, hi⟩⟩

/-! ## The bytes of BMIX (R109) -/

/-- Each byte is that of its code, given the byte before. -/
theorem bmixBytes_succ (a b w : Word) {n : Nat} (hcode : bmixCode w n ≠ 15) :
    bmixBytes (bytesOfWord a ++ bytesOfWord b) w (n + 1) =
      mixByte a b ((bmixBytes (bytesOfWord a ++ bytesOfWord b) w n).headD 0) (bmixCode w n) :: bmixBytes (bytesOfWord a ++ bytesOfWord b) w n := by
  have hlt : bmixCode w n < 16 := Nat.mod_lt _ (by decide)
  rw [bmixBytes]
  refine congrArg (· :: _) ?_
  generalize bmixBytes (bytesOfWord a ++ bytesOfWord b) w n = done
  generalize bmixCode w n = c at hcode hlt
  split
  case h_1 | h_2 => rfl
  case h_3 | h_4 | h_5 | h_6 => exact congrArg spread (pool_getD a b (by decide))
  case h_7 => cases done <;> rfl
  case h_8 =>
    have hc : c ≤ 7 := by grind
    exact (pool_getD a b hc).trans (if_pos hc).symm

/-- The result of BMIX, written out. -/
theorem bmix_eq {a b w : Word} (h : mixCodes w) : bmix a b w = mixed a b w := by
  obtain ⟨-, hcodes⟩ := h
  have hcode : ∀ i : Fin 4, bmixCode w i.val ≠ 15 := fun i h => hcodes i (BitVec.eq_of_toNat_eq ((bmixCode_eq w i.val).symm.trans h))
  rw [bmix, bmixBytes_succ a b w (n := 3) (hcode 3), bmixBytes_succ a b w (n := 2) (hcode 2), bmixBytes_succ a b w (n := 1) (hcode 1),
    bmixBytes_succ a b w (n := 0) (hcode 0)]
  simp only [bmixCode_eq]
  exact (wordOfBytes_eq ..).symm

/-! ## The issue of an instruction whose own fields fail (R48, R49) -/

/-- A vector instruction with lanes to act for, of which a check of step 5 fails, raises ILLEGAL_OPERAND. -/
theorem issue_err {i : Instr} {p : Plan} {body : State → Res} {s : State} {e : FieldErr} (h1 : p.vector = true → s.cur.exec ≠ 0)
    (h2 : p.err s.limits = some e) : issue i p body s = finish i (.trap s (fieldTrap i Cause.illegalOperand s.cur.exec e)) := by
  unfold issue
  simp only [h2]
  split
  · next h => simp only [Bool.and_eq_true, decide_eq_true_eq] at h; exact absurd h.2 (h1 h.1)
  · rfl

/-! ## IRED -/

/-- The value that IRED writes: the fold of the lanes of exec (R112). -/
def iredValue (f : Fields) (s : State) : DWord :=
  putT (typeOf f) (iredFold f.sub (typeOf f) ((laneList.filter (maskBit s.cur.exec)).map fun l =>
    bitsT (typeOf f) (rawA f s.cur.regs (typeOf f).wide l)))

theorem reduced_iredValue (f : Fields) {s : State} (h : s.cur.exec ≠ 0) :
    Reduced f.sub (typeOf f) s.cur.exec (rawA f s.cur.regs (typeOf f).wide) (iredValue f s) :=
  reduced_iredFold (typeOf_width_le f) h _

/-- The s register, or the pair, that IRED writes ends below 64 (R37). -/
theorem ired_dest_lt {f : Fields} {s : State} (h : Ready 0x30 f s) : f.d.toNat + (if (typeOf f).wide then 2 else 1) ≤ 64 := by
  have hk : regRange 64 (typeRegs f) f.d = true := kind_d_of_ready h
  simp only [regRange, Bool.and_eq_true, decide_eq_true_eq] at hk
  exact hk.1

end Sys2Proof.Machine

namespace Sys2Proof.Proofs
open Machine Spec

/-- R109, R112, R168: BMIX and RNGC write their values by lanes; IRED writes one s register or pair. -/
theorem mixReduceDraw_completes : Spec.MixReduceDraw := by
  intro f s hacts
  refine ⟨fun _ h hcodes => ?bmix, fun hw h => ?ired, fun _ h => ?rngc⟩
  case bmix =>
    simp only [← bmix_eq hcodes]
    exact ⟨_, congrArg Host.Outcome.next (issue_ready h ⟨rfl, rfl, rfl, rfl, rfl⟩ (if_pos ((bmixOk_iff _).2 hcodes))
      fun hv => hacts ((Bool.not_eq_true' _).mp hv)),
      finish_writeD _ _ _ _ _ (dest_lt h fun _ => rfl)⟩
  case ired =>
    have hexec : s.cur.exec ≠ 0 := hacts (u_of_wellFormed rfl hw rfl rfl)
    obtain ⟨hplain, hregs⟩ := finish_done s (.ired f) fun r => r.writeRes true (typeOf f).wide f.d 0 fun _ => iredValue f s
    exact ⟨_, _, congrArg Host.Outcome.next (issue_planOf h hacts), hplain,
      hregs ▸ RegFile.result_writeRes _ _ _ _ _ _ fun _ => ired_dest_lt h, reduced_iredValue f hexec⟩
  case rngc =>
    simp only [← rngcMix_eq]
    exact ⟨_, congrArg Host.Outcome.next (issue_planOf h hacts), finish_writeD _ _ _ _ _ (dest_lt h fun _ => rfl)⟩

/-- R109: the word itself is what the handler finds. -/
theorem bmixReserved : Spec.BmixReserved := by
  intro f s _ hacts hs hfields hcodes
  have hmore : (if bmixOk f.w2 then none else some ⟨6, f.w2⟩ : Option FieldErr) = some ⟨6, f.w2⟩ := if_neg (mt (bmixOk_iff _).1 hcodes)
  obtain ⟨htrap, hregs, -⟩ := State.trapped_fieldTrap (i := .bmix f) (e := ⟨6, f.w2⟩) hs (by decide : Cause.illegalOperand ≠ Cause.pageFault)
  exact ⟨_, congrArg Host.Outcome.next (issue_err (fun hv => hacts ((Bool.not_eq_true' _).mp hv)) (congrArg₂ firstErr hfields hmore)),
    hregs, htrap⟩

/-- Settles O13, from its two parts. -/
theorem mixReduceDraw : Obligations.MixReduceDraw := ⟨mixReduceDraw_completes, bmixReserved⟩

end Sys2Proof.Proofs
end

section
/-! PROOF. Flags raised and traps of lanes (R93, R116, R127): what the delivery of lane results leaves when it completes and when it traps. -/

namespace Sys2Proof.Machine
open Spec

/-! ## Flags raised -/

/-- An entry with flags and class flags raised (R16). -/
def Split.raised (x : BitVec 5) (y : Word) (e : Split) : Split := { e with fpf := e.fpf ||| x, clsf := e.clsf ||| y }

theorem State.orFp_eq_raised (s : State) (x : BitVec 5) : s.orFp x = s.onSp (Split.raised x 0) :=
  State.onSp_congr s (by simp [Split.raised])

theorem State.orCls_eq_raised (s : State) (c : BitVec 4) (range under : Bool) :
    s.orCls c range under = s.onSp (Split.raised 0 (clsBits c range under)) :=
  (State.orCls_eq ..).trans (State.onSp_congr s (by simp [Split.raised, Split.flagged]))

/-- A converting instruction that has raised class flags and written registers is complete, and takes `$srstate` to the next draw (R59). -/
theorem finish_converted (s : State) (i : Instr) (c : BitVec 4) (range under : Bool) (w : RegFile → RegFile) :
    let t := finish i (.done (((s.orCls c range under).onRegs w).advanceSr (s.ent c)))
    Completed i s t (past i s) 0 (clsBits c range under) (srAfter s c) ∧ t.cur.regs = w s.cur.regs := by
  rw [State.advanceSr_eq (s := s) (u := (s.orCls c range under).onRegs w) c rfl (State.orCls_cur_exec ..), State.orCls_eq]
  set u := ((s.onSp (Split.flagged (clsBits c range under))).onRegs w).onCtl fun _ => { s.cur.ctl with srstate := srAfter s c }
  have hsp : u.cur.sp = Split.flagged (clsBits c range under) s.cur.sp := State.onSp_cur_sp s _
  have hsig : u.sigFolded i = sigAfter i s := by
    rw [State.sigFolded_eq]
    unfold sigAfter
    rw [hsp]
    rfl
  rw [finish, State.retire_eq, hsig, hsp]
  refine ⟨⟨⟨rfl, rfl, rfl, fun n hn => ?_, fun _ => rfl, fun _ _ => rfl, fun _ _ => rfl⟩, rfl, ?_⟩, rfl⟩
  · exact (State.onSp_cur_entry u _ hn).trans (State.onSp_cur_entry s _ hn)
  · rw [State.onSp_cur_sp, hsp]
    simp [past, Split.flagged]

/-! ## The trap of some lanes -/

/-- An instruction traps that has raised flags and written registers: the handler finds the values of the lanes that trap, and the flags and
the registers stand (R93, R116, R127). -/
theorem finish_trap_raised {s : State} {i : Instr} {t : TrapInfo} {val : Fin 4 → Fin 32 → Word} (x : BitVec 5) (y : Word)
    (w : RegFile → RegFile) (hs : Handles s) (hc : t.cause ≠ Cause.pageFault)
    (hval : ∀ (k : Fin 4) l, maskBit t.lanes l = true → (t.val[k.val]).get l = val k l) :
    let u := finish i (.trap ((s.onSp (Split.raised x y)).onRegs w) t)
    TrappedIn s u t.cause t.lanes val ∧ u.cur.sp.fpf = s.cur.sp.fpf ||| x ∧ u.cur.sp.clsf = s.cur.sp.clsf ||| y ∧ u.cur.ctl = s.cur.ctl ∧
      u.cur.regs = w s.cur.regs := by
  intro u
  set s1 := (s.onSp (Split.raised x y)).onRegs w
  have hsp1 : s1.cur.sp = Split.raised x y s.cur.sp := State.onSp_cur_sp s _
  have hhandles : Handles s1 := by
    obtain ⟨hdbg, hinh, hvec⟩ := hs
    exact ⟨hdbg, (congrArg Split.inh hsp1).trans hinh, hvec⟩
  obtain ⟨bs, h⟩ := State.takeTrap_eq hhandles hc
  have hu : u = s1.takeTrap t := finish_trap hc
  have hsp : (s1.onSp s1.inHandler).cur.sp = s1.inHandler (Split.raised x y s.cur.sp) := (State.onSp_cur_sp ..).trans (congrArg _ hsp1)
  rw [hu, h]
  exact ⟨⟨⟨(congrArg Split.pc hsp1 :), rfl, rfl, congrArg Split.pc hsp, congrArg Split.inh hsp, (congrArg Split.sig hsp :),
    fun n hn => (State.onSp_cur_entry s1 _ hn).trans (State.onSp_cur_entry s _ hn), rfl, rfl⟩, hval⟩,
    congrArg Split.fpf hsp, congrArg Split.clsf hsp, rfl, rfl⟩

/-! ## Lists of lanes with what they compute -/

section
variable {α : Type} (o : Fin 32 → α) (ls : List (Fin 32))

/-- Lanes paired with what each computes. -/
def lanePairs : List (Fin 32 × α) := ls.map fun l => (l, o l)

theorem lanesOf_lanePairs : lanesOf (lanePairs o ls) = maskOf fun l => decide (l ∈ ls) := by
  unfold lanesOf lanePairs
  refine congrArg maskOf (funext fun l => ?_)
  rw [List.any_map, Bool.eq_iff_iff]
  simp

/-- What a listed lane computes is found under its number. -/
theorem find_lanePairs {l : Fin 32} (h : l ∈ ls) : (lanePairs o ls).find? (fun p => p.1 = l) = some (l, o l) := by
  unfold lanePairs
  induction ls with
  | nil => cases h
  | cons m ls ih =>
    by_cases hm : m = l
    · subst hm
      simp
    · rw [List.map_cons, List.find?_cons_of_neg (by simpa using hm)]
      exact ih ((List.mem_cons.1 h).resolve_left (Ne.symm hm))

/-- The lanes among some whose pairs satisfy a condition. -/
theorem filter_lanePairs (p : Fin 32 × α → Bool) : (lanePairs o ls).filter p = lanePairs o (ls.filter fun l => p (l, o l)) := by
  unfold lanePairs
  rw [List.filter_map]
  rfl

end

/-! ## Writing D in the lanes that do not trap -/

/-- D of the lanes of `keep` is written by a vector form that has such lanes (R116, R127). -/
def RegFile.writeRest (r : RegFile) (u pair : Bool) (d : BitVec 8) (keep : Word) (x : Fin 32 → DWord) : RegFile :=
  if u || keep = 0 then r else r.writeRes false pair d keep x

theorem State.ite_onRegs (s : State) (c : Bool) (g : RegFile → RegFile) :
    (if c then s else s.onRegs g) = s.onRegs fun r => if c then r else g r := by
  cases c <;> rfl

theorem maskBit_restLanes (exec : Word) (bad : List (Fin 32)) (l : Fin 32) :
    maskBit (restLanes exec (maskOf fun l => decide (l ∈ bad))) l = true ↔ maskBit exec l = true ∧ l ∉ bad := by
  rw [restLanes, maskBit_and, maskBit_not, maskBit_maskOf]
  simp

/-- The lanes outside the trapping ones have their results; every other lane and register is the same. -/
theorem RegFile.writeRest_holds (r : RegFile) (u pair : Bool) (d : BitVec 8) (exec : Word) (bad : List (Fin 32)) (x : Fin 32 → DWord) :
    let r' := r.writeRest u pair d (restLanes exec (maskOf fun l => decide (l ∈ bad))) x
    (u = false → ∀ l, (r'.getV d).get l = if maskBit exec l ∧ l ∉ bad then (x l).extractLsb' 0 32 else (r.getV d).get l) ∧
    (u = false → pair = true → ∀ l, (r'.getV (d + 1)).get l =
      if maskBit exec l ∧ l ∉ bad then (x l).extractLsb' 32 32 else (r.getV (d + 1)).get l) ∧
    VSame r r' (if u then [] else if pair then [d, d + 1] else [d]) ∧ SSame r r' [] ∧ KSame r r' [] := by
  set keep := restLanes exec (maskOf fun l => decide (l ∈ bad))
  have hlane : ∀ l (a b : Word), (if maskBit keep l then a else b) = if maskBit exec l ∧ l ∉ bad then a else b :=
    fun l a b => if_congr (maskBit_restLanes exec bad l) rfl rfl
  intro r'
  by_cases hnone : (u || keep = 0) = true
  · have hr : r' = r := if_pos hnone
    have hold : u = false → ∀ l (a b : Word), b = if maskBit exec l ∧ l ∉ bad then a else b := fun hu l a b => by
      have hzero : keep = 0 := by simpa [hu] using hnone
      rw [← hlane, hzero, maskBit_zero]
      rfl
    rw [hr]
    exact ⟨fun hu l => hold hu l _ _, fun hu _ l => hold hu l _ _, fun _ _ => ⟨rfl, rfl⟩, fun _ _ _ => ⟨rfl, rfl⟩, fun _ _ _ => rfl⟩
  · have hr : r' = r.writeRes false pair d keep x := if_neg hnone
    obtain rfl : u = false := by
      cases u
      · rfl
      · exact absurd (Bool.true_or _) hnone
    obtain ⟨hk, ⟨hlo, -⟩, hhi, hv, hs⟩ := r.result_writeRes_v pair d keep x
    rw [hr]
    exact ⟨fun _ l => (hlo l).trans (hlane ..), fun _ hp l => ((hhi hp).1 l).trans (hlane ..), hv, hs, hk⟩

end Sys2Proof.Machine
end

section
/-! PROOF. Floating point (R113 to R124): the completion of an instruction, the trap of its lanes, and O3. -/

namespace Sys2Proof.Machine
open Spec

/-! ## Delivery (R116) -/

/-- No active lane raises an enabled flag: the results of all are delivered. -/
theorem fpDeliver_of_none {f : Fields} {s : State} (pair : Bool) {o : Fin 32 → FpOut}
    (h : ∀ l ∈ activeLanes f.u s.cur.exec, (o l).flags &&& s.fpEnables = 0) :
    fpDeliver f s pair o = .done ((s.orFp (orFlags (lanePairs o (activeLanes f.u s.cur.exec)))).onRegs fun r =>
      r.writeRes f.u pair f.d s.cur.exec fun l => (o l).hi ++ (o l).lo) := by
  have hnone : fpBad s.fpEnables (lanePairs o (activeLanes f.u s.cur.exec)) = [] := by
    rw [fpBad, filter_lanePairs, List.filter_eq_nil_iff.2 fun l hl => by simp [h l hl]]
    rfl
  unfold lanePairs at hnone
  unfold fpDeliver
  simp only [hnone]
  rfl

/-- The lanes that trap are those that raise an enabled flag. -/
theorem fpBad_lanePairs (u : Bool) (s : State) (o : Fin 32 → FpOut) :
    fpBad s.fpEnables (lanePairs o (activeLanes u s.cur.exec)) = lanePairs o (fpBadLanes u s fun l => (o l).flags) :=
  filter_lanePairs ..

/-- Some active lanes raise an enabled flag: these trap, and the results of the others are delivered. -/
theorem fpDeliver_of_bad {f : Fields} {s : State} (pair : Bool) {o : Fin 32 → FpOut} {bad : List (Fin 32)}
    (hbad : fpBadLanes f.u s (fun l => (o l).flags) = bad) (h : bad ≠ []) :
    fpDeliver f s pair o = .trap ((s.onSp (Split.raised (orFlags (lanePairs o (activeLanes f.u s.cur.exec))) 0)).onRegs fun r =>
      r.writeRest f.u pair f.d (restLanes s.cur.exec (maskOf fun l => decide (l ∈ bad))) fun l => (o l).hi ++ (o l).lo)
      (fpTrap f s.fpEnables (lanePairs o bad)) := by
  have hpairs := fpBad_lanePairs f.u s o
  rw [hbad] at hpairs
  have hne : lanePairs o bad ≠ [] := List.map_eq_nil_iff.not.2 h
  rw [← State.orFp_eq_raised, ← lanesOf_lanePairs o bad]
  unfold RegFile.writeRest
  rw [← State.ite_onRegs, fpDeliver]
  change (match fpBad s.fpEnables (lanePairs o (activeLanes f.u s.cur.exec)) with | [] => _ | bad => _) = _
  rw [hpairs]
  split
  · contradiction
  · rfl

/-! ## The trap registers (R116) -/

/-- The flags of the lanes that trap. -/
theorem orFlags_lanePairs (o : Fin 32 → FpOut) (ls : List (Fin 32)) :
    orFlags (lanePairs o ls) = ls.foldl (fun y l => y ||| (o l).flags) 0 := List.foldl_map

theorem fpTrap_cause (f : Fields) (ctl : BitVec 5) (o : Fin 32 → FpOut) (bad : List (Fin 32)) :
    (fpTrap f ctl (lanePairs o bad)).cause = fpCause (bad.foldl (fun y l => y ||| (o l).flags) 0 &&& ctl) := by
  rw [← orFlags_lanePairs]
  rfl

theorem fpTrap_lanes (f : Fields) (ctl : BitVec 5) (o : Fin 32 → FpOut) (bad : List (Fin 32)) :
    (fpTrap f ctl (lanePairs o bad)).lanes = maskOf fun l => decide (l ∈ bad) := lanesOf_lanePairs o bad

/-- What the handler finds of a lane that traps: D, the flags, the result. -/
def fpTrapVal (d : BitVec 8) (o : Fin 32 → FpOut) (k : Fin 4) (l : Fin 32) : Word :=
  if k = 0 then (0 : BitVec 24) ++ d else if k = 1 then (0 : BitVec 19) ++ (o l).f1 ++ (0 : BitVec 3) ++ (o l).f0
  else if k = 2 then (o l).lo else (o l).hi

theorem fpTrap_val (f : Fields) (ctl : BitVec 5) (o : Fin 32 → FpOut) {bad : List (Fin 32)} (k : Fin 4) {l : Fin 32} (h : l ∈ bad) :
    ((fpTrap f ctl (lanePairs o bad)).val[k.val]).get l = fpTrapVal f.d o k l := by
  simp only [fpTrap, Vector.getElem_ofFn, Lanes.get_mk, find_lanePairs o bad h, Option.map_some]
  rw [fpTrapVal]

/-- A flag raises no page fault. -/
theorem fpCause_ne_pageFault : ∀ x, fpCause x ≠ Cause.pageFault := by decide

/-! ## The instructions of a table -/

/-- The instruction is issued by its row alone and delivers what its lanes compute. -/
def FpLanewise (i : Instr) (x : FpOp) : Prop :=
  ∀ s, exec i s = .next (issue i (planOf x.op x.f) (fun s => fpDeliver x.f s x.wide (x.out s)) s)

/-- D of the row is the register, or the pair, that the results fill. -/
def FpFitsRow (x : FpOp) : Prop := (rowFor x.op x.f).d = .r (if x.wide then 2 else 1)

theorem fpArith_lanewise (i : Instr) (x : FpOp) (h : fpArith i = some x) : FpLanewise i x := by
  cases i <;> cases h
  case fadd | faddExt | fsub | fsubExt | fmul | fmulExt | ffma => exact fun s => rfl
  case fmin | fminExt | fmax | fmaxExt => exact fun s => rfl

theorem fpArith_fitsRow (i : Instr) (x : FpOp) (h : fpArith i = some x) : FpFitsRow x := by
  cases i <;> cases h
  all_goals rfl

theorem fpUnary_lanewise (i : Instr) (x : FpOp) (h : fpUnary i = some x) : FpLanewise i x := by
  cases i <;> cases h
  case frcp | frcpExt | frsq | frsqExt | fsqrt | fsqrtExt => exact fun s => rfl
  case fexp2 | fexp2Ext | flog2 | flog2Ext | fsinp | fsinpExt | fcosp | fcospExt => exact fun s => rfl
  case frint | frintExt | fclass | fclassExt | fcvt | fpack | funpk => exact fun s => rfl

theorem fpUnary_fitsRow (i : Instr) (x : FpOp) (h : fpUnary i = some x) : FpFitsRow x := by
  cases i <;> cases h
  all_goals rfl

/-- The instructions of a table complete where no lane raises an enabled flag. -/
theorem fpOpHolds_of {tbl : Instr → Option FpOp} (hexec : ∀ i x, tbl i = some x → FpLanewise i x)
    (hrow : ∀ i x, tbl i = some x → FpFitsRow x) : FpOpHolds tbl := by
  intro i x s hx _ hacts h hnone
  obtain ⟨hdone, hregs⟩ := finish_raised s i (fpFlags x s) fun r =>
    r.writeRes x.f.u x.wide x.f.d s.cur.exec fun l => (x.out s l).hi ++ (x.out s l).lo
  have hend := (issue_planOf (i := i) (body := fun s => fpDeliver x.f s x.wide (x.out s)) h hacts).trans
    (congrArg (finish i) (fpDeliver_of_none x.wide hnone))
  exact ⟨_, (hexec i x hx s).trans (congrArg Host.Outcome.next hend), hdone,
    hregs ▸ RegFile.result_writeRes _ _ _ _ _ _ (dest_lt h fun _ => hrow i x hx)⟩

/-- Flags and registers of an instruction of which some lanes trap under the enables of `$fpctl` (R116): the handler finds these lanes. -/
theorem finish_fpTrap {i : Instr} {f : Fields} {s : State} (x : BitVec 5) (w : RegFile → RegFile) (o : Fin 32 → FpOut)
    (bad : List (Fin 32)) (hs : Handles s) :
    let t := finish i (.trap ((s.onSp (Split.raised x 0)).onRegs w) (fpTrap f s.fpEnables (lanePairs o bad)))
    TrappedIn s t (fpCause (bad.foldl (fun y l => y ||| (o l).flags) 0 &&& s.fpEnables)) (maskOf fun l => decide (l ∈ bad))
      (fpTrapVal f.d o) ∧ t.cur.sp.fpf = s.cur.sp.fpf ||| x ∧ t.cur.sp.clsf = s.cur.sp.clsf ∧ t.cur.ctl = s.cur.ctl ∧
      t.cur.regs = w s.cur.regs := by
  have hval : ∀ (k : Fin 4) l, maskBit (fpTrap f s.fpEnables (lanePairs o bad)).lanes l = true →
      ((fpTrap f s.fpEnables (lanePairs o bad)).val[k.val]).get l = fpTrapVal f.d o k l := by
    intro k l hl
    rw [fpTrap_lanes, maskBit_maskOf, decide_eq_true_eq] at hl
    exact fpTrap_val _ _ _ k hl
  obtain ⟨htrap, hfpf, hclsf, hctl, hregs⟩ := finish_trap_raised (i := i) x 0 w hs (fpCause_ne_pageFault _) hval
  rw [fpTrap_cause, fpTrap_lanes] at htrap
  exact ⟨htrap, hfpf, hclsf.trans (BitVec.or_zero ..), hctl, hregs⟩

/-- The instructions of a table trap where some lanes do. -/
theorem fpOpTraps_of {tbl : Instr → Option FpOp} (hexec : ∀ i x, tbl i = some x → FpLanewise i x) : FpOpTraps tbl := by
  intro i x s hx _ hacts h hs bad hbad
  have hend := (issue_planOf (i := i) (body := fun s => fpDeliver x.f s x.wide (x.out s)) h hacts).trans
    (congrArg (finish i) (fpDeliver_of_bad x.wide rfl hbad))
  obtain ⟨htrap, hfpf, hclsf, hctl, hregs⟩ := finish_fpTrap (i := i) (f := x.f) (fpFlags x s)
    (fun r => r.writeRest x.f.u x.wide x.f.d (restLanes s.cur.exec (maskOf fun l => decide (l ∈ bad)))
      fun l => (x.out s l).hi ++ (x.out s l).lo) (x.out s) bad hs
  obtain ⟨hlo, hhi, hrest⟩ := s.cur.regs.writeRest_holds x.f.u x.wide x.f.d s.cur.exec bad fun l => (x.out s l).hi ++ (x.out s l).lo
  rw [← hregs] at hlo hhi hrest
  refine ⟨_, (hexec i x hx s).trans (congrArg Host.Outcome.next hend), htrap, hfpf, hclsf, hctl, fun hu l => ?_, fun hu hp l => ?_, hrest⟩
  · exact (hlo hu l).trans (by rw [BitVec.extractLsb'_append_eq_right])
  · exact (hhi hu hp l).trans (by rw [BitVec.extractLsb'_append_eq_left])

end Sys2Proof.Machine
end

section
/-! PROOF. FCMP that traps (R116, R119), and O3. -/

namespace Sys2Proof.Machine
open Spec

/-! ## Writing D in the lanes that do not trap (R119) -/

/-- The bits of k[D] after lanes of a comparison trapped. -/
theorem cmpRest_eq (exec old : Word) (p : Fin 32 → Bool) (bad : List (Fin 32)) :
    (exec &&& maskOf p &&& ~~~(maskOf fun l => decide (l ∈ bad))) ||| (old &&& maskOf fun l => decide (l ∈ bad)) =
      (exec &&& maskOf fun l => p l && decide (l ∉ bad)) ||| (old &&& maskOf fun l => decide (l ∈ bad)) := by
  refine congrArg (· ||| _) (word_ext fun l => ?_)
  simp [maskBit_and, maskBit_not, maskBit_maskOf, Bool.and_assoc]

/-- The bits of k[D], or s[D], that a comparison leaves of which some lanes trap. -/
def RegFile.cmpRest (r : RegFile) (u : Bool) (d : BitVec 8) (exec : Word) (p : Fin 32 → Bool) (bad : List (Fin 32)) : RegFile :=
  if u then r else r.setK d ((exec &&& maskOf p &&& ~~~(maskOf fun l => decide (l ∈ bad))) ||| (r.getK d &&& maskOf fun l => decide (l ∈ bad)))

theorem RegFile.cmpRest_holds (r : RegFile) {u : Bool} {d : BitVec 8} (hd : u = false → d.toNat < 16) (exec : Word) (p : Fin 32 → Bool)
    (bad : List (Fin 32)) : let r' := r.cmpRest u d exec p bad
    (u = false → d ≠ 0 → r'.getK d =
      (exec &&& maskOf (fun l => p l && decide (l ∉ bad))) ||| (r.getK d &&& maskOf fun l => decide (l ∈ bad))) ∧
    VSame r r' [] ∧ SSame r r' [] ∧ KSame r r' (if u ∨ d = 0 then [] else [d]) := by
  cases u
  · obtain ⟨hv, hs, hget, hother⟩ := r.kResult_setK (hd rfl)
      ((exec &&& maskOf p &&& ~~~(maskOf fun l => decide (l ∈ bad))) ||| (r.getK d &&& maskOf fun l => decide (l ∈ bad)))
    exact ⟨fun _ h0 => (hget h0).trans (cmpRest_eq ..), hv, hs, fun n h16 hn => hother n h16 (by simpa using hn)⟩
  · exact ⟨nofun, fun _ _ => ⟨rfl, rfl⟩, fun _ _ _ => ⟨rfl, rfl⟩, fun _ _ _ => rfl⟩

/-! ## The trap of FCMP -/

/-- Lanes of a comparison trap: they keep their bits of k[D], the others have theirs (R119). -/
theorem fpDeliverCmp_of_bad {f : Fields} {s : State} {p : Fin 32 → Bool} {o : Fin 32 → FpOut} {bad : List (Fin 32)}
    (hbad : fpBadLanes f.u s (fun l => (o l).flags) = bad) (h : bad ≠ []) :
    fpDeliverCmp f s p o = .trap ((s.onSp (Split.raised (orFlags (lanePairs o (activeLanes f.u s.cur.exec))) 0)).onRegs fun r =>
      r.cmpRest f.u f.d s.cur.exec p bad) (fpTrap f s.fpEnables (lanePairs o bad)) := by
  have hpairs := fpBad_lanePairs f.u s o
  rw [hbad] at hpairs
  have hne : lanePairs o bad ≠ [] := List.map_eq_nil_iff.not.2 h
  rw [← State.orFp_eq_raised]
  unfold RegFile.cmpRest
  rw [← lanesOf_lanePairs o bad, ← State.ite_onRegs, fpDeliverCmp]
  change (match fpBad s.fpEnables (lanePairs o (activeLanes f.u s.cur.exec)) with | [] => _ | bad => _) = _
  rw [hpairs]
  split
  · contradiction
  · rfl

/-- A lane that traps raises NV, which is enabled. -/
theorem fpBadLanes_nv {u : Bool} {s : State} {nv : Fin 32 → BitVec 5} (hnv : ∀ l, nv l = 0 ∨ nv l = flNV) {l : Fin 32}
    (hl : l ∈ fpBadLanes u s nv) : l ∈ activeLanes u s.cur.exec ∧ nv l = flNV ∧ flNV &&& s.fpEnables ≠ 0 := by
  obtain ⟨hact, hne⟩ := List.mem_filter.1 hl
  have hne := of_decide_eq_true hne
  obtain h | h := hnv l
  · rw [h] at hne
    exact absurd BitVec.zero_and hne
  · exact ⟨hact, h, h ▸ hne⟩

/-- NV has the lowest code (R116). -/
theorem fpCause_nv : ∀ e : BitVec 5, flNV &&& e ≠ 0 → fpCause (flNV &&& e) = 0x10 := by decide

/-- NV, raised by every lane of some lanes and no other flag, is the flags of all. -/
theorem orFlags_nv {o : Fin 32 → FpOut} {ls : List (Fin 32)} (hnv : ∀ l, (o l).flags = 0 ∨ (o l).flags = flNV) {l : Fin 32}
    (hl : l ∈ ls) (h : (o l).flags = flNV) : orFlags (lanePairs o ls) = flNV := by
  refine (orFlags_one ls o flNV hnv).trans (if_pos (List.any_eq_true.2 ⟨l, hl, ?_⟩))
  rw [h]
  rfl

/-- What a lane of a comparison computes: its bit, and its flag. -/
def cmpOut (p : Fin 32 → Bool) (nv : Fin 32 → BitVec 5) (l : Fin 32) : FpOut := { lo := if p l then 1 else 0, f0 := nv l }

theorem cmpOut_flags (p : Fin 32 → Bool) (nv : Fin 32 → BitVec 5) (l : Fin 32) : (cmpOut p nv l).flags = nv l := BitVec.or_zero ..

/-- What the handler finds of a lane that raised NV (R116, R119). -/
theorem fpTrapVal_cmpOut (d : BitVec 8) (p : Fin 32 → Bool) {nv : Fin 32 → BitVec 5} (k : Fin 4) {l : Fin 32} (h : nv l = flNV) :
    fpTrapVal d (cmpOut p nv) k l =
      if k = 0 then (0 : BitVec 24) ++ d else if k = 1 then 16 else if k = 2 then (if p l then 1 else 0) else 0 := by
  have hword : (0 : BitVec 19) ++ (0 : BitVec 5) ++ (0 : BitVec 3) ++ flNV = 16 := by decide
  simp only [fpTrapVal, cmpOut, h, hword]

/-- FCMP of which some lanes trap: NV is raised, and these lanes keep their bits of k[D] (R116, R119). -/
theorem finish_fcmpTrap {f : Fields} {s : State} (h : Ready 0x3A f s) (hs : Handles s) (p : Fin 32 → Bool) {nv : Fin 32 → BitVec 5}
    (hnv : ∀ l, nv l = 0 ∨ nv l = flNV) {bad : List (Fin 32)} (hbad : fpBadLanes f.u s nv = bad) (hne : bad ≠ []) :
    let t := finish (.fcmp f) (fpDeliverCmp f s p (cmpOut p nv))
    TrappedIn s t 0x10 (maskOf fun l => decide (l ∈ bad)) (fun k l => if k = 0 then (0 : BitVec 24) ++ f.d else if k = 1 then 16
      else if k = 2 then (if p l then 1 else 0) else 0) ∧
    t.cur.sp.fpf = s.cur.sp.fpf ||| 16 ∧ t.cur.ctl = s.cur.ctl ∧
    (f.u = false → f.d ≠ 0 → t.cur.regs.getK f.d =
      (s.cur.exec &&& maskOf (fun l => p l && decide (l ∉ bad))) ||| (s.cur.regs.getK f.d &&& maskOf fun l => decide (l ∈ bad))) ∧
    VSame s.cur.regs t.cur.regs [] ∧ SSame s.cur.regs t.cur.regs [] ∧ KSame s.cur.regs t.cur.regs (if f.u ∨ f.d = 0 then [] else [f.d]) := by
  have hbadF : fpBadLanes f.u s (fun l => (cmpOut p nv l).flags) = bad := by simpa only [cmpOut_flags] using hbad
  have hflags : ∀ l, (cmpOut p nv l).flags = 0 ∨ (cmpOut p nv l).flags = flNV := fun l => by simpa only [cmpOut_flags] using hnv l
  have hall : ∀ l ∈ bad, l ∈ activeLanes f.u s.cur.exec ∧ nv l = flNV ∧ flNV &&& s.fpEnables ≠ 0 :=
    fun l hl => fpBadLanes_nv hnv (hbad ▸ hl)
  obtain ⟨b, hb⟩ := List.exists_mem_of_ne_nil bad hne
  obtain ⟨hact, hbnv, hen⟩ := hall b hb
  have hbnv : (cmpOut p nv b).flags = flNV := (cmpOut_flags ..).trans hbnv
  obtain ⟨⟨henters, hval⟩, hfpf, -, hctl, hregs⟩ := finish_fpTrap (i := .fcmp f) (f := f) flNV
    (fun r => r.cmpRest f.u f.d s.cur.exec p bad) (cmpOut p nv) bad hs
  rw [← orFlags_lanePairs, orFlags_nv hflags hb hbnv, fpCause_nv _ hen] at henters
  rw [fpDeliverCmp_of_bad hbadF hne, orFlags_nv hflags hact hbnv]
  refine ⟨⟨henters, fun k l hl => (hval k l hl).trans ?_⟩, hfpf, hctl, hregs ▸ RegFile.cmpRest_holds _ (cmp_dest h rfl).2 ..⟩
  rw [maskBit_maskOf, decide_eq_true_eq] at hl
  exact fpTrapVal_cmpOut _ _ _ (hall l hl).2.1

end Sys2Proof.Machine

namespace Sys2Proof.Proofs
open Machine Spec

/-- R116, R119: a comparison raises NV or nothing. -/
theorem fcmpTraps : Spec.FcmpTraps := by
  intro f s hacts h hs p nv bad hbad
  exact ⟨_, congrArg Host.Outcome.next (issue_planOf h hacts), finish_fcmpTrap h hs p (fun l => condNv_cases ..) rfl hbad⟩

/-- Settles O3: every instruction of both tables delivers what its lanes compute, to the D of its row; FCMP traps on NV alone. -/
theorem floatOperations : Obligations.FloatOperations :=
  ⟨fpOpHolds_of fpArith_lanewise fpArith_fitsRow, fpOpHolds_of fpUnary_lanewise fpUnary_fitsRow,
    fpOpTraps_of fpArith_lanewise, fpOpTraps_of fpUnary_lanewise, fcmpTraps⟩

end Sys2Proof.Proofs
end

section
/-! PROOF. Value classes (R125 to R130): the completion of an instruction of lanes, the trap of its lanes, and O7. -/

namespace Sys2Proof.Machine
open Spec

/-! ## Delivery (R127) -/

/-- The active lanes that trap. -/
def clsBadLanes (u : Bool) (exec : Word) (o : Fin 32 → ClsOut) : List (Fin 32) := (activeLanes u exec).filter fun l => (o l).trapping

theorem State.clsFlags_lanePairs (s : State) (c : BitVec 4) (o : Fin 32 → ClsOut) (ls : List (Fin 32)) :
    s.clsFlags c (lanePairs o ls) = s.orCls c (ls.any fun l => (o l).range) (ls.any fun l => (o l).under) := by
  simp only [State.clsFlags, lanePairs, List.any_map]
  rfl

/-- No active lane traps: the results of all are delivered. -/
theorem clsDeliver_of_none {f : Fields} (c : BitVec 4) {s : State} {o : Fin 32 → ClsOut}
    (h : ∀ l ∈ activeLanes f.u s.cur.exec, (o l).trapping = false) :
    clsDeliver f c s o = .done (((s.orCls c ((activeLanes f.u s.cur.exec).any fun l => (o l).range)
      ((activeLanes f.u s.cur.exec).any fun l => (o l).under)).onRegs fun r =>
        r.writeRes f.u false f.d s.cur.exec fun l => raw32 (o l).bits).advanceSr (s.ent c)) := by
  have hnone : (lanePairs o (activeLanes f.u s.cur.exec)).filter (·.2.trapping) = [] := by
    rw [filter_lanePairs, List.filter_eq_nil_iff.2 fun l hl => by simp [h l hl]]
    rfl
  rw [← State.clsFlags_lanePairs, clsDeliver, clsDeliverIn]
  change (match (lanePairs o (activeLanes f.u s.cur.exec)).filter (·.2.trapping) with | [] => _ | bad => _) = _
  rw [hnone]
  rfl

/-- Some active lanes trap; the results of the others are delivered. -/
theorem clsDeliver_of_bad {f : Fields} (c : BitVec 4) {s : State} {o : Fin 32 → ClsOut} {bad : List (Fin 32)}
    (hbad : clsBadLanes f.u s.cur.exec o = bad) (h : bad ≠ []) :
    clsDeliver f c s o = .trap ((s.orCls c ((activeLanes f.u s.cur.exec).any fun l => (o l).range)
      ((activeLanes f.u s.cur.exec).any fun l => (o l).under)).onRegs fun r =>
        r.writeRest f.u false f.d (restLanes s.cur.exec (maskOf fun l => decide (l ∈ bad))) fun l => raw32 (o l).bits)
      (clsTrap ((0 : BitVec 24) ++ f.d) (lanePairs o bad)) := by
  have hpairs : (lanePairs o (activeLanes f.u s.cur.exec)).filter (·.2.trapping) = lanePairs o bad := hbad ▸ filter_lanePairs ..
  have hne : lanePairs o bad ≠ [] := List.map_eq_nil_iff.not.2 h
  rw [← State.clsFlags_lanePairs, ← lanesOf_lanePairs o bad]
  unfold RegFile.writeRest
  rw [← State.ite_onRegs, clsDeliver, clsDeliverIn]
  change (match (lanePairs o (activeLanes f.u s.cur.exec)).filter (·.2.trapping) with | [] => _ | bad => _) = _
  rw [hpairs]
  split
  · contradiction
  · rfl

/-! ## The trap registers (R127) -/

theorem clsTrap_cause (x : Word) (o : Fin 32 → ClsOut) (bad : List (Fin 32)) :
    (clsTrap x (lanePairs o bad)).cause = clsCause (bad.flatMap fun l => [(o l).r0, (o l).r1]) :=
  congrArg clsCause (List.flatMap_map ..)

theorem clsTrap_lanes (x : Word) (o : Fin 32 → ClsOut) (bad : List (Fin 32)) :
    (clsTrap x (lanePairs o bad)).lanes = maskOf fun l => decide (l ∈ bad) := lanesOf_lanePairs o bad

/-- What the handler finds of a lane that traps: D, the reasons, the bits. -/
def clsTrapVal (d : BitVec 8) (o : Fin 32 → ClsOut) (k : Fin 4) (l : Fin 32) : Word :=
  if k = 0 then (0 : BitVec 24) ++ d else if k = 1 then BitVec.ofNat 32 ((o l).r0 + 256 * (o l).r1) else if k = 2 then (o l).bits else 0

theorem clsTrap_val (d : BitVec 8) (o : Fin 32 → ClsOut) {bad : List (Fin 32)} (k : Fin 4) {l : Fin 32} (h : l ∈ bad) :
    ((clsTrap ((0 : BitVec 24) ++ d) (lanePairs o bad)).val[k.val]).get l = clsTrapVal d o k l := by
  simp only [clsTrap, Vector.getElem_ofFn, Lanes.get_mk, find_lanePairs o bad h, Option.map_some]
  rfl

theorem clsCause_ne_pageFault (rs : List Nat) : clsCause rs ≠ Cause.pageFault := by
  unfold clsCause
  split <;> decide

/-! ## The instructions of the table (R129, R130) -/

/-- The instruction is issued by its row alone and delivers what its lanes compute. -/
def ClsLanewise (i : Instr) (x : ClsOp) : Prop :=
  ∀ s, exec i s = .next (issue i (planOf x.op x.f) (fun s => clsDeliver x.f x.f.cls s (x.out s)) s)

/-- Elements in pairs, as the statement takes them. -/
theorem zipElems_eq (g : Val → Val → Val) (a b : List Val) : zipElems g a b = List.zipWith g a b := List.map_zip_eq_zipWith

/-- A class instruction of two sources computes by lanes what the table gives. -/
theorem clsOp2_eq (i : Instr) (op : BitVec 7) (f : Fields) (g : Val → Val → Val) (s : State) :
    clsOp2 i op f g s = issue i (planOf op f) (fun s => clsDeliver f f.cls s ((cls2 op f g).out s)) s := by
  simp only [clsOp2, zipElems_eq]
  rfl

theorem clsArith_lanewise (i : Instr) (x : ClsOp) (h : clsArith i = some x) : ClsLanewise i x := by
  cases i <;> cases h
  case cadd | csub | cmul | cmin | cmax => exact fun s => congrArg Host.Outcome.next (clsOp2_eq ..)
  case cfma | ccvt => exact fun s => rfl

theorem clsArith_row (i : Instr) (x : ClsOp) (h : clsArith i = some x) : (rowFor x.op x.f).d = .r 1 := by
  cases i <;> cases h
  all_goals rfl

/-- Results of which no lane traps are delivered: the flags are raised, and `$srstate` advances for a stochastic class (R59, R127). -/
theorem finish_clsDeliver (i : Instr) (f : Fields) {s : State} {o : Fin 32 → ClsOut} (hd : f.u = true → f.d.toNat + 1 ≤ 64)
    (h : ∀ l ∈ activeLanes f.u s.cur.exec, (o l).trapping = false) :
    let t := finish i (clsDeliver f f.cls s o)
    Completed i s t (past i s) 0 (clsBits f.cls ((activeLanes f.u s.cur.exec).any fun l => (o l).range)
      ((activeLanes f.u s.cur.exec).any fun l => (o l).under)) (srAfter s f.cls) ∧
    Result s.cur.regs t.cur.regs f.u false f.d s.cur.exec fun l => (0 : Word) ++ (o l).bits := by
  obtain ⟨hdone, hregs⟩ := finish_converted s i f.cls ((activeLanes f.u s.cur.exec).any fun l => (o l).range)
    ((activeLanes f.u s.cur.exec).any fun l => (o l).under) fun r => r.writeRes f.u false f.d s.cur.exec fun l => raw32 (o l).bits
  rw [clsDeliver_of_none f.cls h]
  exact ⟨hdone, hregs ▸ RegFile.result_writeRes _ _ _ _ _ _ hd⟩

/-- Some lanes trap: the handler finds them, and `$srstate` does not advance (R127). -/
theorem finish_clsTrap (i : Instr) (f : Fields) {s : State} {o : Fin 32 → ClsOut} (hs : Handles s) {bad : List (Fin 32)}
    (hbad : clsBadLanes f.u s.cur.exec o = bad) (hne : bad ≠ []) :
    let t := finish i (clsDeliver f f.cls s o)
    TrappedIn s t (clsCause (bad.flatMap fun l => [(o l).r0, (o l).r1])) (maskOf fun l => decide (l ∈ bad)) (clsTrapVal f.d o) ∧
    t.cur.ctl = s.cur.ctl := by
  have hval : ∀ (k : Fin 4) l, maskBit (clsTrap ((0 : BitVec 24) ++ f.d) (lanePairs o bad)).lanes l = true →
      ((clsTrap ((0 : BitVec 24) ++ f.d) (lanePairs o bad)).val[k.val]).get l = clsTrapVal f.d o k l := by
    intro k l hl
    rw [clsTrap_lanes, maskBit_maskOf, decide_eq_true_eq] at hl
    exact clsTrap_val _ _ k hl
  rw [clsDeliver_of_bad f.cls hbad hne, State.orCls_eq_raised]
  obtain ⟨htrap, -, -, hctl, -⟩ := finish_trap_raised (i := i) 0
    (clsBits f.cls ((activeLanes f.u s.cur.exec).any fun l => (o l).range) ((activeLanes f.u s.cur.exec).any fun l => (o l).under))
    (fun r => r.writeRest f.u false f.d (restLanes s.cur.exec (maskOf fun l => decide (l ∈ bad))) fun l => raw32 (o l).bits) hs
    (clsCause_ne_pageFault _) hval
  rw [clsTrap_cause, clsTrap_lanes] at htrap
  exact ⟨htrap, hctl⟩

end Sys2Proof.Machine

namespace Sys2Proof.Proofs
open Machine Spec

/-- R126 to R130: the class instructions of lanes complete where no lane traps. -/
theorem classArithmetic : Spec.ClassArithmetic := by
  intro i x s hx _ hacts h hnone
  have hend := issue_planOf (i := i) (body := fun s => clsDeliver x.f x.f.cls s (x.out s)) h hacts
  exact ⟨_, (clsArith_lanewise i x hx s).trans (congrArg Host.Outcome.next hend),
    finish_clsDeliver i x.f (dest_lt h fun _ => clsArith_row i x hx) hnone⟩

/-- Settles O7: the lanes that trap are those of the table that have a reason. -/
theorem classTraps : Obligations.ClassTraps := by
  intro i x s hx _ hacts h hs bad hbad
  have hend := issue_planOf (i := i) (body := fun s => clsDeliver x.f x.f.cls s (x.out s)) h hacts
  exact ⟨_, (clsArith_lanewise i x hx s).trans (congrArg Host.Outcome.next hend), finish_clsTrap i x.f hs rfl hbad⟩

end Sys2Proof.Proofs
end

section
/-! PROOF. CRED, CQNT and CDQ (R72, R131 to R133). -/

namespace Sys2Proof.Machine
open Spec

/-! ## CRED (R131) -/

/-- What CRED computes: the reduction of element 0, and of element 1 of a packed format. -/
def credOut (f : Fields) (s : State) : ClsOut :=
  ⟨BitVec.ofNat 32 ((credElem f s 0).bits + (credHigh f s).bits * 65536), (credElem f s 0).reason, (credHigh f s).reason,
    (credElem f s 0).range || (credHigh f s).range, (credElem f s 0).under || (credHigh f s).under⟩

/-- The effect of CRED: a trap of the lanes of exec, or its result in s[D]. -/
def credEffect (f : Fields) (s : State) : Res :=
  let o := credOut f s
  let s1 := s.orCls f.cls o.range o.under
  if o.trapping then .trap s1 (.all (clsCause [o.r0, o.r1]) s.cur.exec ((0 : BitVec 24) ++ f.d) o.reasons o.bits 0)
  else .done ((s1.onRegs fun r => r.writeS f.d o.bits).advanceSr (s.ent f.cls))

theorem exec_cred (f : Fields) (s : State) : exec (.cred f) s = .next (issue (.cred f) (planOf 0x4F f) (credEffect f) s) := rfl

/-! ## Runs of s registers (R132, R133) -/

/-- The words of a run in the s registers from `d` on. -/
def RegFile.writeRun (r : RegFile) (d : BitVec 8) (ws : List Word) : RegFile :=
  ((List.range ws.length).zip ws).foldl (fun (r : RegFile) p => r.writeS (d + BitVec.ofNat 8 p.1) p.2) r

theorem RegFile.writeRun_snoc (r : RegFile) (d : BitVec 8) (ws : List Word) (w : Word) :
    r.writeRun d (ws ++ [w]) = (r.writeRun d ws).writeS (d + BitVec.ofNat 8 ws.length) w := by
  unfold RegFile.writeRun
  rw [List.length_append, List.length_singleton, List.range_succ, List.zip_append (by simp), List.foldl_append]
  rfl

/-- Registers of a run below 64 are different ones. -/
theorem sIdx_run_ne {d : BitVec 8} {n m : Nat} (hn : d.toNat + n < 64) (hm : d.toNat + m < 64) (h : n ≠ m) :
    sIdx (d + BitVec.ofNat 8 n) ≠ sIdx (d + BitVec.ofNat 8 m) :=
  sIdx_ne (by bv_omega) (by bv_omega) (by bv_omega)

/-- The registers of a run hold its words; every other register is the same. -/
theorem RegFile.writeRun_holds (r : RegFile) {d : BitVec 8} {ws : List Word} (h : d.toNat + ws.length ≤ 64) :
    (∀ n < ws.length, SHolds (r.writeRun d ws) (d + BitVec.ofNat 8 n) (ws.getD n 0)) ∧
    SSame r (r.writeRun d ws) ((List.range ws.length).map fun i => d + BitVec.ofNat 8 i) ∧
    VSame r (r.writeRun d ws) [] ∧ KSame r (r.writeRun d ws) [] := by
  induction ws using List.reverseRecOn with
  | nil => exact ⟨nofun, fun _ _ _ => ⟨rfl, rfl⟩, fun _ _ => ⟨rfl, rfl⟩, fun _ _ _ => rfl⟩
  | append_singleton ws w ih =>
    rw [List.length_append, List.length_singleton] at h ⊢
    obtain ⟨hholds, hs, hv, hk⟩ := ih (by omega)
    rw [RegFile.writeRun_snoc]
    refine ⟨fun n hn => ?_, fun n h64 hn => ?_, hv, hk⟩
    · obtain hlt | rfl : n < ws.length ∨ n = ws.length := by omega
      · have hne := sIdx_run_ne (d := d) (n := n) (m := ws.length) (by omega) (by omega) (by omega)
        rw [List.getD_append _ _ _ _ hlt]
        obtain ⟨hget, hst⟩ := hholds n hlt
        exact ⟨(RegFile.getS_writeS_other _ _ hne).trans hget, (RegFile.stOf_writeS_other _ _ hne).trans hst⟩
      · rw [List.getD_append_right _ _ _ _ le_rfl, Nat.sub_self]
        exact ⟨RegFile.getS_writeS_same .., RegFile.stOf_writeS_same ..⟩
    · rw [List.range_succ, List.map_append, List.mem_append, not_or] at hn
      obtain ⟨hn, hlast⟩ := hn
      have hne : sIdx n ≠ sIdx (d + BitVec.ofNat 8 ws.length) := sIdx_ne (by bv_omega) h64 (by simpa using hlast)
      obtain ⟨hget, hst⟩ := hs n h64 hn
      exact ⟨(RegFile.getS_writeS_other _ _ hne).trans hget, (RegFile.stOf_writeS_other _ _ hne).trans hst⟩

/-! ## The issue of CQNT and CDQ -/

theorem planeErr_eq_none {e : DWord} {first : BitVec 8} (f : Fields) (field : Nat) (hplanes : entPlanes e = true)
    (hrun : first.toNat + planeRun e ≤ 64) : planeErr e f field first = none := by
  unfold planeErr
  rw [if_pos hplanes, if_neg (by simp [hplanes, hrun])]
  rfl

/-- The registers of a run after its first belong to it. -/
theorem mem_runRegs_of_mem_planeRegs {e : DWord} {first n : BitVec 8} (h : n ∈ planeRegs e first) : n ∈ runRegs e first := by
  obtain ⟨i, hi, rfl⟩ := List.mem_map.1 h
  rw [List.mem_range] at hi
  exact List.mem_map.2 ⟨i + 1, List.mem_range.2 (by omega), rfl⟩

/-- A source of a plan that the row names is of a field that the plan does not skip. -/
theorem Plan.mem_srcs_unskipped {p : Plan} {x : Src} (h : x ∈ p.srcs) : (x ∈ sources p.row p.f ∧ x.field ∉ p.skip) ∨ x ∈ p.xsrc := by
  simp only [Plan.srcs, List.mem_flatMap, List.mem_filter, List.mem_append] at h
  obtain ⟨_, _, h, _⟩ := h
  exact h.imp (fun ⟨hx, hskip⟩ => ⟨hx, by simpa using hskip⟩) id

/-- The checks of CQNT and CDQ beside those of their row. -/
def planePlan (op : BitVec 7) (f : Fields) (e : DWord) (field : Nat) (first : BitVec 8) (xsrc : List Src) (xdst : List Reg) : Plan :=
  { planOf op f with
    more := fun _ => planeErr e f field first
    xsrc := xsrc
    xdst := xdst
    skip := if entMKIND e = 3 then [2] else [] }

/-- CQNT or CDQ of a class with planes, its run below 64 and its operands in order, has its effect; B is read under MKIND 4 alone. -/
theorem issue_planePlan {i : Instr} {op : BitVec 7} {f : Fields} {e : DWord} {field : Nat} {first : BitVec 8} {xsrc : List Src}
    {xdst : List Reg} {body : State → Res} {s : State} (hacts : Acts f s) (hplanes : entPlanes e = true)
    (hrun : first.toNat + planeRun e ≤ 64) (hfields : fieldErr s.limits (rowFor op f) f = none)
    (hsrc : ∀ x ∈ sources (rowFor op f) f, x.field ≠ 2 ∨ entMKIND e = 4 →
      s.cur.regs.stOf x.reg = .full ∧ s.cur.regs.poisoned x.reg = false)
    (hxsrc : Readable s xsrc) (hdst : Free s (dests (rowFor op f) f)) (hxdst : Free s xdst) :
    issue i (planePlan op f e field first xsrc xdst) body s = finish i (body s) := by
  refine issue_passes (fun hv => hacts ((Bool.not_eq_true' _).mp hv)) ?err rfl (fun x hx => ?src) fun r hr => ?dst
  case err => exact congrArg₂ firstErr hfields (planeErr_eq_none f field hplanes hrun)
  case src =>
    obtain ⟨hrow, hskip⟩ | hextra := Plan.mem_srcs_unskipped hx
    · refine hsrc x hrow ?_
      obtain h3 | h4 : entMKIND e = 3 ∨ entMKIND e = 4 := by simpa [entPlanes] using hplanes
      · exact .inl (by simpa [planePlan, h3] using hskip)
      · exact .inr h4
    · exact hxsrc x hextra
  case dst => exact (List.mem_append.1 hr).elim (hdst r) (hxdst r)

/-- What `ReadyWith` asks of the sources of a row beside some others. -/
theorem readable_filter {s : State} {l : List Src} {e : DWord} (h : Readable s (l.filter fun x => x.field ≠ 2 ∨ entMKIND e = 4)) :
    ∀ x ∈ l, x.field ≠ 2 ∨ entMKIND e = 4 → s.cur.regs.stOf x.reg = .full ∧ s.cur.regs.poisoned x.reg = false :=
  fun x hx hf => h x (List.mem_filter.2 ⟨hx, decide_eq_true hf⟩)

/-! ## CQNT (R132) -/

/-- The effect of CQNT: a trap of the lanes of exec, or its run of planes. -/
def cqntEffect (f : Fields) (s : State) : Res :=
  let q := quantOf f s
  let s1 := s.orCls f.cls q.range q.under
  if q.reason ≠ 0 then
    .trap s1 (.all (clsCause [q.reason]) s.cur.exec ((0 : BitVec 24) ++ f.d) (BitVec.ofNat 32 q.reason) (BitVec.ofNat 32 q.code) 0)
  else .done ((s1.onRegs fun r => r.writeRun f.d (runWords f s)).advanceSr (s.ent f.cls))

theorem exec_cqnt (f : Fields) (s : State) : ∃ body : State → Res, exec (.cqnt f) s =
    .next (issue (.cqnt f) (planePlan 0x50 f (s.ent f.cls) 0 f.d [] ((planeRegs (s.ent f.cls) f.d).map Reg.s)) body s) ∧
      body s = cqntEffect f s := ⟨_, rfl, rfl⟩

/-- The words that CQNT writes fill its run. -/
theorem runWords_length (f : Fields) (s : State) : (runWords f s).length = planeRun (s.ent f.cls) := by
  unfold runWords planeRun planesOf
  dsimp only
  split <;> simp

/-! ## CDQ (R133) -/

/-- What CDQ computes: the element of the lane of the run, rounded to the class. -/
def cdqOut (f : Fields) (s : State) (l : Fin 32) : ClsOut :=
  let e := s.ent f.cls
  let n := entMPL e
  let w := (List.range n).map fun i => s.cur.regs.getS (f.a + BitVec.ofNat 8 i)
  let code := (if entMKIND e = 3 then s.cur.regs.getS (f.a + BitVec.ofNat 8 n) else s.cur.regs.getS f.b).toNat % 256
  clsOut e s.cur.ctl.srstate l.val [planeElem w code n l.val]

theorem exec_cdq (f : Fields) (s : State) : ∃ body : State → Res, exec (.cdq f) s =
    .next (issue (.cdq f) (planePlan 0x51 f (s.ent f.cls) 1 f.a
      ((planeRegs (s.ent f.cls) f.a).map fun n => Src.mk (.s n) 1 (f.fe.getLsbD 0)) []) body s) ∧
      body s = clsDeliver f f.cls s (cdqOut f s) := ⟨_, rfl, rfl⟩

end Sys2Proof.Machine

namespace Sys2Proof.Proofs
open Machine Spec

/-- R131: CRED completes where no element's reduction traps. -/
theorem cred_completes (f : Fields) (s : State) (hacts : Acts f s) (h : Ready 0x4F f s) (h0 : (credElem f s 0).reason = 0)
    (h1 : (credHigh f s).reason = 0) : ∃ t, exec (.cred f) s = .next t ∧
      Completed (.cred f) s t (past (.cred f) s) 0
        (clsBits f.cls ((credElem f s 0).range || (credHigh f s).range) ((credElem f s 0).under || (credHigh f s).under)) (srAfter s f.cls) ∧
      SResult s.cur.regs t.cur.regs f.d (BitVec.ofNat 32 ((credElem f s 0).bits + (credHigh f s).bits * 65536)) := by
  have htrap : (credOut f s).trapping = false := by simp [ClsOut.trapping, credOut, h0, h1]
  have heffect : credEffect f s = .done (((s.orCls f.cls (credOut f s).range (credOut f s).under).onRegs
      fun r => r.writeS f.d (credOut f s).bits).advanceSr (s.ent f.cls)) := if_neg (by simp [htrap])
  have hd : f.d.toNat < 64 := by
    have hk : regRange 64 1 f.d = true := kind_d_of_ready h
    simp only [regRange, Bool.and_eq_true, decide_eq_true_eq] at hk
    omega
  obtain ⟨hdone, hregs⟩ := finish_converted s (.cred f) f.cls (credOut f s).range (credOut f s).under fun r => r.writeS f.d (credOut f s).bits
  exact ⟨_, (exec_cred f s).trans (congrArg Host.Outcome.next ((issue_planOf h hacts).trans (congrArg _ heffect))), hdone,
    hregs ▸ RegFile.sResult_writeS _ hd _⟩

/-- R132: CQNT of a class with planes completes where the block does not trap. -/
theorem cqnt_completes (f : Fields) (s : State) (hacts : Acts f s) (hplanes : entPlanes (s.ent f.cls) = true)
    (hrun : f.d.toNat + planeRun (s.ent f.cls) ≤ 64)
    (h : ReadyWith 0x50 f s ((sources (rowFor 0x50 f) f).filter fun x => x.field ≠ 2 ∨ entMKIND (s.ent f.cls) = 4)
      (dests (rowFor 0x50 f) f ++ (runRegs (s.ent f.cls) f.d).map Reg.s))
    (hreason : (quantOf f s).reason = 0) : ∃ t, exec (.cqnt f) s = .next t ∧
      Completed (.cqnt f) s t (past (.cqnt f) s) 0 (clsBits f.cls (quantOf f s).range (quantOf f s).under) (srAfter s f.cls) ∧
      (∀ n < (runWords f s).length, SHolds t.cur.regs (f.d + BitVec.ofNat 8 n) ((runWords f s).getD n 0)) ∧
      SSame s.cur.regs t.cur.regs (runRegs (s.ent f.cls) f.d) ∧ VSame s.cur.regs t.cur.regs [] ∧ KSame s.cur.regs t.cur.regs [] := by
  obtain ⟨hfields, hsrc, hdst⟩ := h
  obtain ⟨body, hexec, hbody⟩ := exec_cqnt f s
  have hfree : Free s ((planeRegs (s.ent f.cls) f.d).map Reg.s) := fun r hr => by
    obtain ⟨n, hn, rfl⟩ := List.mem_map.1 hr
    exact hdst _ (List.mem_append_right _ (List.mem_map_of_mem (mem_runRegs_of_mem_planeRegs hn)))
  have heffect : cqntEffect f s = .done (((s.orCls f.cls (quantOf f s).range (quantOf f s).under).onRegs
      fun r => r.writeRun f.d (runWords f s)).advanceSr (s.ent f.cls)) := if_neg (not_not_intro hreason)
  have hissue := issue_planePlan (i := .cqnt f) (field := 0) (body := body) hacts hplanes hrun hfields (readable_filter hsrc)
    (List.forall_mem_nil _) (fun r hr => hdst r (List.mem_append_left _ hr)) hfree
  obtain ⟨hdone, hregs⟩ := finish_converted s (.cqnt f) f.cls (quantOf f s).range (quantOf f s).under fun r => r.writeRun f.d (runWords f s)
  refine ⟨_, hexec.trans (congrArg Host.Outcome.next (hissue.trans (congrArg _ (hbody.trans heffect)))), hdone, ?_⟩
  rw [hregs, show runRegs (s.ent f.cls) f.d = (List.range (runWords f s).length).map fun i => f.d + BitVec.ofNat 8 i by
    rw [runWords_length, runRegs]]
  exact RegFile.writeRun_holds _ (by rwa [runWords_length])

/-- R133: CDQ of a class with planes completes where no lane traps, as a legal instruction, which has U = 0 (O6 does not ask for one). -/
theorem cdq_completes (f : Fields) (s : State) (hw : (Instr.cdq f).wellFormed = true) (hacts : Acts f s) (hplanes : entPlanes (s.ent f.cls) = true)
    (hrun : f.a.toNat + planeRun (s.ent f.cls) ≤ 64)
    (h : ReadyWith 0x51 f s (((sources (rowFor 0x51 f) f).filter fun x => x.field ≠ 2 ∨ entMKIND (s.ent f.cls) = 4) ++
      (runRegs (s.ent f.cls) f.a).map fun n => Src.mk (.s n) 1 (f.fe.getLsbD 0)) (dests (rowFor 0x51 f) f))
    (hnone : ∀ l ∈ activeLanes f.u s.cur.exec, (cdqOut f s l).trapping = false) : ∃ t, exec (.cdq f) s = .next t ∧
      Completed (.cdq f) s t (past (.cdq f) s) 0 (clsBits f.cls ((activeLanes f.u s.cur.exec).any fun l => (cdqOut f s l).range)
        ((activeLanes f.u s.cur.exec).any fun l => (cdqOut f s l).under)) (srAfter s f.cls) ∧
      Result s.cur.regs t.cur.regs f.u false f.d s.cur.exec fun l => (0 : Word) ++ (cdqOut f s l).bits := by
  obtain ⟨hfields, hsrc, hdst⟩ := h
  obtain ⟨body, hexec, hbody⟩ := exec_cdq f s
  have hu : f.u = false := u_of_wellFormed rfl hw rfl rfl
  have hxsrc : Readable s ((planeRegs (s.ent f.cls) f.a).map fun n => Src.mk (.s n) 1 (f.fe.getLsbD 0)) := fun x hx => by
    obtain ⟨n, hn, rfl⟩ := List.mem_map.1 hx
    exact hsrc _ (List.mem_append_right _ (List.mem_map.2 ⟨n, mem_runRegs_of_mem_planeRegs hn, rfl⟩))
  have hissue := issue_planePlan (i := .cdq f) (field := 1) (body := body) hacts hplanes hrun hfields
    (readable_filter fun x hx => hsrc x (List.mem_append_left _ hx)) hxsrc hdst
    (List.forall_mem_nil _)
  exact ⟨_, hexec.trans (congrArg Host.Outcome.next (hissue.trans (congrArg _ hbody))),
    finish_clsDeliver (.cdq f) f (fun h => absurd (hu.symm.trans h) (by decide)) hnone⟩

end Sys2Proof.Proofs
end

section
/-! PROOF. CDQ in a form with U = 1 (R101, R133), and the refutation of O6. -/

namespace Sys2Proof.Proofs
open Machine Spec

/-- CDQ as the counterexample issues it: U = 1, D = 64. No legal words stand for it, since its row leaves no choice of U (R41); the statement
does not ask for a well-formed instruction. -/
def cdqScalar : Fields := { form := .e, u := true, a := 59, d := 64 }

/-- A part that has come up, with one resident group of a fresh launch: every class names block-scaled planes, four a block, the launch has
256 v registers, and s0 is EMPTY. -/
def cdqScalarState : State :=
  let s := State.reset.withFetchWord 32 0
  { s with
    launches := s.launches.map fun l => { l with cbind := Vector.ofFn fun _ => 0x801A20003F800000, img := { l.img with nv := 256 } }
    cur := { s.cur with regs := s.cur.regs.setSt .empty (.s 0) } }

/-- s64 is s0 under another number, so the state that CDQ leaves there is not the one that s0 had. -/
theorem not_result_s64 {r r' : RegFile} {exec : Word} {x : Fin 32 → DWord} (h0 : r.stOf (.s 0) = .empty) :
    ¬ Result r r' true false 64 exec x := by
  rintro ⟨-, ⟨-, hfull⟩, -, hs, -⟩
  obtain ⟨-, hsame⟩ := hs 0 (by decide) (by decide)
  have hfull0 : r'.stOf (.s 0) = .full := hfull
  rw [hfull0, h0] at hsame
  cases hsame

theorem cdqScalar_ready : Acts cdqScalar cdqScalarState ∧ entPlanes (cdqScalarState.ent cdqScalar.cls) = true ∧
    cdqScalar.a.toNat + planeRun (cdqScalarState.ent cdqScalar.cls) ≤ 64 ∧
    ReadyWith 0x51 cdqScalar cdqScalarState (((sources (rowFor 0x51 cdqScalar) cdqScalar).filter fun x =>
        x.field ≠ 2 ∨ entMKIND (cdqScalarState.ent cdqScalar.cls) = 4) ++
      (runRegs (cdqScalarState.ent cdqScalar.cls) cdqScalar.a).map fun n => Src.mk (.s n) 1 (cdqScalar.fe.getLsbD 0))
      (dests (rowFor 0x51 cdqScalar) cdqScalar) := by
  unfold Acts ReadyWith Readable Free
  decide

theorem cdqScalar_passes : let n := entMPL (cdqScalarState.ent cdqScalar.cls)
    let w := (List.range n).map fun i => cdqScalarState.cur.regs.getS (cdqScalar.a + BitVec.ofNat 8 i)
    let code := (if entMKIND (cdqScalarState.ent cdqScalar.cls) = 3 then cdqScalarState.cur.regs.getS (cdqScalar.a + BitVec.ofNat 8 n)
      else cdqScalarState.cur.regs.getS cdqScalar.b).toNat % 256
    ∀ l ∈ activeLanes cdqScalar.u cdqScalarState.cur.exec,
      (clsOut (cdqScalarState.ent cdqScalar.cls) cdqScalarState.cur.ctl.srstate l.val [planeElem w code n l.val]).trapping = false := by
  decide

/-- Refutes O6, by the clause of CDQ: it does not ask for U = 0 as a legal CDQ has. With U = 1 the number of D, checked as a v register, may
be 64; the result goes to s64, which is s0, and the statement has s0 unchanged. The other clauses hold (`classArithmetic`, `cred_completes`,
`cqnt_completes`), and so does that of CDQ for a well-formed instruction (`cdq_completes`). -/
theorem not_classOperations : ¬ Obligations.ClassOperations := by
  intro h
  obtain ⟨-, -, -, hcdq⟩ := h
  obtain ⟨hacts, hplanes, hrun, hready⟩ := cdqScalar_ready
  obtain ⟨t, -, -, hresult⟩ := hcdq cdqScalar cdqScalarState hacts hplanes hrun hready cdqScalar_passes
  exact not_result_s64 (by decide) hresult

end Sys2Proof.Proofs
end
